-- ==== Sys2Proof/Word.lean ====
section
/-!
DEFINITION. The words of the JR-9600 (spec/00 R2, spec/03 R57): bytes, the 32-bit word of a `g` register,
the 64-bit word of an `s` register, addresses, and the 96-bit instruction.
-/

namespace Sys2Proof

/-- A byte of memory. -/
abbrev Byte := BitVec 8

/-- The contents of one `g` register. -/
abbrev Word := BitVec 32

/-- The contents of one `s` register, and a virtual address. -/
abbrev DWord := BitVec 64

/-- One instruction (R57). -/
abbrev IWord := BitVec 96

/-- A fetch line of 64 bytes, the byte at the lowest address lowest (R51). -/
abbrev Line := BitVec 512

end Sys2Proof
end

