-- ==== Sys2Proof/Config.lean ====
section
/-!
DEFINITION. What is fixed for the part (spec/01 R12 to R19) and the values the spec leaves open. A free value is an
opaque function: nothing in Lean evaluates it, so a statement about it holds whatever the value is (log 4).
-/

namespace Sys2Proof.Config

/-- Compute dies (R11). -/
abbrev dies : Nat := 40
/-- Cores of a die (R12). -/
abbrev coresPerDie : Nat := 16
/-- Cores of the module (R19). -/
abbrev cores : Nat := 640
/-- Edge dies (R11). -/
abbrev edges : Nat := 4
/-- Task threads of a core (R14). -/
abbrev taskThreads : Nat := 4088
/-- The first thread slot of the supervisor octet, octet slot 511 (R12, R369). -/
abbrev supSlot : Nat := 4088
/-- Bytes of an A-store (R14). -/
abbrev astoreBytes : Nat := 1048576
/-- Bytes of a C-store (R14, R127). -/
abbrev cstoreBytes : Nat := 262144
/-- Bytes of a W-store (R14, R307). -/
abbrev wstoreBytes : Nat := 8388608
/-- Bytes of a core's register file (R14). -/
abbrev regFileBytes : Nat := 1048576
/-- Registers of a supervisor thread (R370). -/
abbrev supRegs : Nat := 128
/-- Lines of an instruction cache of 128 KiB, and sectors of an L1 of 256 KiB (R14). -/
abbrev icacheLines : Nat := 2048
abbrev l1Sectors : Nat := 8192
/-- Sectors of L1 that `.keep` may hold against others: 64 KiB (R114). -/
abbrev keptSectors : Nat := 2048
/-- Core TLB entries (R14). -/
abbrev tlbEntries : Nat := 1024
/-- Walk-ahead TLB entries of a copy engine (R14). -/
abbrev walkEntries : Nat := 256
/-- Coordinate look-aside buffer entries (R14, R269). -/
abbrev clbEntries : Nat := 256
/-- Commands a copy engine queues, and works on at once (R283). -/
abbrev copyQueue : Nat := 64
abbrev copyAtWork : Nat := 8
/-- Operations of a core's sequencer (R326). -/
abbrev seqOps : Nat := 32
/-- Ordered drains waiting at a die's homes (R321). -/
abbrev waitingDrains : Nat := 64
/-- Mailbox slots of a core (R373, R374). -/
abbrev mailSlots : Nat := 64
/-- Live circles of a partition, members of a circle, circles of one thread (R247). -/
abbrev circlesPerPart : Nat := 4096
abbrev circleMembers : Nat := 65535
abbrev circlesPerAgent : Nat := 8
/-- Requests of one queue, open streams of an edge die (R356). -/
abbrev requestsPerQueue : Nat := 1024
abbrev streamsPerEdge : Nat := 16384
/-- Ready clocks after which a thread is aged (R163). -/
abbrev agedClocks : Nat := 1024
/-- Clocks of 8 microseconds, the copy drain (R304). -/
abbrev copyDrainClocks : Nat := 21600

/-- A byte the spec calls undefined: the n-th such byte of a run (log 4; R128, R217, R295, R315, R316, R324). -/
opaque freeByte : Nat → Byte

/-- The bytes other than 0, by offset, that a store holds for a workgroup that comes to it new (R183), for the n-th such store
of a run (log 5). -/
opaque freeStore : Nat → List (Nat × Byte)

/-- The clocks that the n-th run of a clearing sequencer takes (R390, log 4). -/
opaque clearClocks : Nat → Nat

/-- What a thread of the supervisor octet or the monitor pair reads from `s` register `n`: the spec gives it no lead and no
launch, and no value (log 4). -/
opaque noLeadS : Nat → DWord

/-- Measurement `k` (1 to 6) of what it measures (R410): the spec gives no value, and for 1 to 5 not the bytes that are
measured either (log 14). -/
opaque measurement : Nat → List Byte → BitVec 512

/-- Bytes of an SPDM answer of kind `k` to message number `n` whose contents the spec does not give (R410, log 14). -/
opaque spdmBytes : Nat → Nat → List Byte

/-- The crash image that the management island sends (R409): the spec gives no contents (log 15). -/
opaque crashImage : Nat → List Byte

/-- How many datagrams the crash image takes (R409, log 15). -/
opaque crashCount : Nat

end Sys2Proof.Config
end

