-- ==== Sys2Proof/Syntax.lean ====
section
/-!
DEFINITION. The instructions of the JR-9600 (spec/03 R57 to R69) and the operations of its units and of the world outside
(spec/95): one constructor of `Instr` for each row of spec/opcode_table.json. The 172 instructions carry the fields of
their format; the 80 operations carry what the operation names.
-/

namespace Sys2Proof

/-- An operand field (R58): its kind, and its 9-bit index. -/
inductive Opnd where
  /-- kind 00: a `g` register, or the number of a predicate, handle or convergence register -/
  | g (i : BitVec 9)
  /-- kind 01: an `s` register -/
  | s (i : BitVec 9)
  /-- kind 10: `zr` (index 0) or an `sr.` register -/
  | lit (i : BitVec 9)
  /-- kind 11: the modifier's immediate -/
  | imm (i : BitVec 9)
deriving DecidableEq, Repr

/-- The fields that every instruction has beside major, minor and modifier (R57). -/
structure Common where
  /-- bit 3 negates; bits 2 to 0 name predicate 0 to 6, or 7 for `pt` -/
  guard  : BitVec 4
  /-- 00 none, 01 operand A, 10 operand B, 11 operand C (R62) -/
  retain : BitVec 2
  d : Opnd
  a : Opnd
  b : Opnd
  c : Opnd
deriving DecidableEq, Repr

/-- R (register) format (R64). -/
structure RForm where
  cm    : Common
  /-- type code of R63 -/
  ty    : BitVec 4
  round : BitVec 2
  sat   : BitVec 1
  /-- negate A, absolute A, negate B, absolute B, negate C, absolute C, bit 5 down to bit 0 -/
  mods  : BitVec 6
  /-- second predicate: bit 3 negates -/
  pred2 : BitVec 4
  func  : BitVec 17
deriving DecidableEq, Repr

/-- I (immediate) format (R65). -/
structure IForm where
  cm  : Common
  ity : BitVec 2
  imm : BitVec 32
deriving DecidableEq, Repr

/-- M (memory) format (R66). -/
structure MForm where
  cm     : Common
  size   : BitVec 4
  order  : BitVec 3
  scope  : BitVec 3
  cache  : BitVec 2
  space  : BitVec 2
  offset : BitVec 20
deriving DecidableEq, Repr

/-- B (branch) format (R67). -/
structure BForm where
  cm     : Common
  slot   : BitVec 3
  resv   : BitVec 3
  offset : BitVec 28
deriving DecidableEq, Repr

/-- X (engine) format (R68). -/
structure XForm where
  cm    : Common
  fslot : BitVec 3
  rslot : BitVec 5
  cv    : BitVec 4
  flags : BitVec 22
deriving DecidableEq, Repr

/-- Who an agent of a core is: the thread of a slot (octet × 8 + index in the octet, R12, R13) or the lead of a
workgroup place. -/
inductive Who where
  | thread (slot : Nat)
  | lead (wg : Nat)
deriving DecidableEq, Repr

/-- A thread or a lead. Cores 0 to 639 are the module's cores (R12); number 640 + d stands for the monitor pair of die d
(R369, log 9). -/
structure Agent where
  core : Nat
  who  : Who
deriving DecidableEq, Repr

/-- Registers whose write has no behaviour of its own beyond R4's access codes (R194, R357, R393, R397, R400). A register
wider than 8 bytes is named by its 8-byte word, 0 the lowest. -/
inductive RegName where
  | lqBase (part vf queue : Nat)
  | lqSize (part vf queue : Nat)
  | lqCtl (part vf queue : Nat)
  | txCtl (part vf edge : Nat)
  | txNote (part vf edge : Nat)
  | vfPtRoot (part vf : Nat)
  | mdId
  | mdSpdm (edge : Nat)
  | mdCollect (word : Nat)
  | mdCport
  | fwCtl (die k : Nat)
  | ptStat (part : Nat)
  | ptRstNote (part : Nat)
  | ptServe (part : Nat)
  | ptServeVf (part : Nat)
  | stageTwoLow (part vf index : Nat)
  | vfConf (part vf : Nat)
  | admits (part j word : Nat)
  | txAddr (part vf edge word : Nat)
  | txPort (part vf edge : Nat)
  | txPeer (part vf edge k word : Nat)
deriving DecidableEq, Repr

/-- A packet that arrives at an edge die's Ultra Ethernet port (R353, R357). -/
structure Packet where
  /-- IPv6 over UDP, reliable ordered delivery, and no part that R353 does not support -/
  supported : Bool
  dstAddr : BitVec 128
  dstPort : BitVec 16
  srcAddr : BitVec 128
  /-- the packet delivery context it travels on -/
  context : Nat
  /-- the last packet of its message -/
  last : Bool
  payload : List Byte
deriving DecidableEq, Repr

/-- What a peer module asks of this one (R406). -/
inductive PeerKind where
  | read (n : Nat)
  | write (data : List Byte)
  | atomic (op ty : BitVec 4) (b : DWord)
  | cas (ty : BitVec 4) (b c : DWord)
  | ticket (count : BitVec 32) (limit : DWord)
  /-- a drain with `.add`: the accumulator's type, the element type, the rounding mode, whether it saturates, and each row's offset
  with the tile's values; under `.ord` the offset of the order word and the sequence number (R319 to R321) -/
  | drain (acc ty : BitVec 4) (round : BitVec 2) (sat : Bool) (rows : List (Nat × List (BitVec 32)))
      (ord : Option (Nat × DWord))
deriving DecidableEq, Repr

/-- What an SPDM requester offers in `NEGOTIATE_ALGORITHMS` (R410). -/
structure AlgOffer where
  mlDsa65 : Bool
  mlKem768 : Bool
  shake256 : Bool
deriving DecidableEq, Repr

/-- The key exchange an SPDM requester asks for (R410). -/
inductive Kem where
  | mlKem768
  | other
deriving DecidableEq, Repr

/-- One constructor for each row of spec/opcode_table.json. -/
inductive Instr where
  /-- IADD: Register-form integer add, wrapping or saturating at the type width. (R96) -/
  | iadd (f : RForm)
  /-- IADD_IMM: Immediate-form integer add (minor 0x20). (R96) -/
  | iaddImm (f : IForm)
  /-- ISUB: Integer subtract. (R96) -/
  | isub (f : RForm)
  /-- IMUL: Register-form integer multiply, low bits. (R96) -/
  | imul (f : RForm)
  /-- IMUL_IMM: Immediate-form integer multiply (minor 0x22). (R96) -/
  | imulImm (f : IForm)
  /-- IMULH: High half of the exact integer product. (R97) -/
  | imulh (f : RForm)
  /-- IMAD: Integer multiply-add with one wrap or saturation. (R96) -/
  | imad (f : RForm)
  /-- IMADW: 32x32 multiply plus 64-bit addend into a 64-bit result. (R97) -/
  | imadw (f : RForm)
  /-- IDIV: Integer divide truncating toward zero, never trapping. (R98) -/
  | idiv (f : RForm)
  /-- IREM: Integer remainder with the dividend's sign. (R98) -/
  | irem (f : RForm)
  /-- IABS: Integer absolute value. (R96) -/
  | iabs (f : RForm)
  /-- INEG: Integer negate. (R96) -/
  | ineg (f : RForm)
  /-- IMIN: Register-form integer minimum. (R96) -/
  | imin (f : RForm)
  /-- IMIN_IMM: Immediate-form integer minimum. (R96) -/
  | iminImm (f : IForm)
  /-- IMAX: Register-form integer maximum. (R96) -/
  | imax (f : RForm)
  /-- IMAX_IMM: Immediate-form integer maximum. (R96) -/
  | imaxImm (f : IForm)
  /-- AND: Register-form bitwise and. (R99) -/
  | and (f : RForm)
  /-- AND_IMM: Immediate-form bitwise and. (R99) -/
  | andImm (f : IForm)
  /-- OR: Register-form bitwise or. (R99) -/
  | or (f : RForm)
  /-- OR_IMM: Immediate-form bitwise or. (R99) -/
  | orImm (f : IForm)
  /-- XOR: Register-form bitwise exclusive or. (R99) -/
  | xor (f : RForm)
  /-- XOR_IMM: Immediate-form bitwise exclusive or. (R99) -/
  | xorImm (f : IForm)
  /-- ANDN: Register-form and with complement. (R99) -/
  | andn (f : RForm)
  /-- ANDN_IMM: Immediate-form and with complement. (R99) -/
  | andnImm (f : IForm)
  /-- SHL: Register-form shift left. (R99) -/
  | shl (f : RForm)
  /-- SHL_IMM: Immediate-form shift left. (R99) -/
  | shlImm (f : IForm)
  /-- SHR: Register-form logical shift right. (R99) -/
  | shr (f : RForm)
  /-- SHR_IMM: Immediate-form logical shift right. (R99) -/
  | shrImm (f : IForm)
  /-- SRA: Register-form arithmetic shift right. (R99) -/
  | sra (f : RForm)
  /-- SRA_IMM: Immediate-form arithmetic shift right. (R99) -/
  | sraImm (f : IForm)
  /-- ROT: Register-form rotate left. (R99) -/
  | rot (f : RForm)
  /-- ROT_IMM: Immediate-form rotate left. (R99) -/
  | rotImm (f : IForm)
  /-- BFX: Bit-field extract. (R100) -/
  | bfx (f : RForm)
  /-- BFI: Bit-field insert. (R100) -/
  | bfi (f : RForm)
  /-- POPC: Population count. (R101) -/
  | popc (f : RForm)
  /-- CLZ: Count leading zeros. (R101) -/
  | clz (f : RForm)
  /-- BREV: Bit reverse. (R101) -/
  | brev (f : RForm)
  /-- ISETP: Integer compare combined with a second predicate into a predicate. (R102) -/
  | isetp (f : RForm)
  /-- SEL: Select one of two operands by a predicate. (R103) -/
  | sel (f : RForm)
  /-- PLOG: Three-input predicate truth-table logic. (R104) -/
  | plog (f : RForm)
  /-- MOV: Register move. (R105) -/
  | mov (f : RForm)
  /-- MOVI: Move an extended immediate. (R105) -/
  | movi (f : IForm)
  /-- MOVH: Write 32 immediate bits into the high half. (R105) -/
  | movh (f : IForm)
  /-- LEA: Register-form address formation with shift and canonical check. (R106) -/
  | lea (f : RForm)
  /-- LEA_IMM: Immediate-form address formation with canonical check. (R106) -/
  | leaImm (f : IForm)
  /-- NOP: No operation. (R109) -/
  | nop (f : RForm)
  /-- SREAD: Read a special register. (R108) -/
  | sread (f : RForm)
  /-- LD: Per-lane global load. (R126) -/
  | ld (f : MForm)
  /-- ST: Per-lane global store. (R126) -/
  | st (f : MForm)
  /-- LDA: Per-lane A-store or team-address load. (R126) -/
  | lda (f : MForm)
  /-- STA: Per-lane A-store or team-address store. (R126) -/
  | sta (f : MForm)
  /-- LDCS: Load from the C-store. (R127) -/
  | ldcs (f : MForm)
  /-- STCS: Store to the C-store. (R127) -/
  | stcs (f : MForm)
  /-- LDX: Gather load with uniform base and per-lane index. (R130) -/
  | ldx (f : MForm)
  /-- STX: Scatter store with uniform base and per-lane index. (R130) -/
  | stx (f : MForm)
  /-- LDGA: Issue a global-to-A-store copy per lane that credits a barrier object. (R131) -/
  | ldga (f : MForm)
  /-- PREF_L1: Prefetch a 128-byte block into L1 and L2. (R134) -/
  | prefL1 (f : MForm)
  /-- PREF_L2: Prefetch a 128-byte block into the home L2 only. (R134) -/
  | prefL2 (f : MForm)
  /-- CCTL_IC: Invalidate the core's instruction cache. (R135) -/
  | cctlIc (f : MForm)
  /-- CCTL_DL: Discard the L1 copy of one sector. (R135) -/
  | cctlDl (f : MForm)
  /-- CCTL_DA: Discard every L1 data copy of the core. (R135) -/
  | cctlDa (f : MForm)
  /-- FADD: Register-form floating add. (R141) -/
  | fadd (f : RForm)
  /-- FADD_IMM: Immediate-form floating add. (R141) -/
  | faddImm (f : IForm)
  /-- FSUB: Floating subtract. (R141) -/
  | fsub (f : RForm)
  /-- FMUL: Register-form floating multiply. (R141) -/
  | fmul (f : RForm)
  /-- FMUL_IMM: Immediate-form floating multiply. (R141) -/
  | fmulImm (f : IForm)
  /-- FFMA: Register-form fused multiply-add with one rounding. (R141) -/
  | ffma (f : RForm)
  /-- FFMA_IMM: Immediate-form fused multiply-add. (R141) -/
  | ffmaImm (f : IForm)
  /-- FMIN: Floating minimum. (R142) -/
  | fmin (f : RForm)
  /-- FMAX: Floating maximum. (R142) -/
  | fmax (f : RForm)
  /-- FSETP: Floating compare into a predicate. (R143) -/
  | fsetp (f : RForm)
  /-- FCLASS: Classify a floating value into a one-hot mask. (R144) -/
  | fclass (f : RForm)
  /-- FDIV: Correctly rounded floating divide on the divider. (R145) -/
  | fdiv (f : RForm)
  /-- FSQRT: Correctly rounded square root on the divider. (R145) -/
  | fsqrt (f : RForm)
  /-- RCPS: Bit-exact reciprocal seed. (R146) -/
  | rcps (f : RForm)
  /-- RSQS: Bit-exact reciprocal square-root seed. (R146) -/
  | rsqs (f : RForm)
  /-- FEXP2: Base-2 exponential by the defined algorithm. (R149) -/
  | fexp2 (f : RForm)
  /-- FLOG2: Base-2 logarithm by the defined algorithm. (R150) -/
  | flog2 (f : RForm)
  /-- FRND: Round to an integral floating value. (R152) -/
  | frnd (f : RForm)
  /-- FSCALE: Multiply by a power of two with one rounding. (R153) -/
  | fscale (f : RForm)
  /-- FEXPO: Extract floor(log2|a|) as an integer. (R154) -/
  | fexpo (f : RForm)
  /-- F2I: Convert floating to integer. (R155) -/
  | f2i (f : RForm)
  /-- I2F: Convert integer to floating. (R156) -/
  | i2f (f : RForm)
  /-- FCVT: Convert between floating formats, optionally scaled. (R157) -/
  | fcvt (f : RForm)
  /-- BRA: Relative branch to a line and slot. (R168) -/
  | bra (f : BForm)
  /-- CALL: Relative call writing the return PC. (R168) -/
  | call (f : BForm)
  /-- BRX: Branch to a per-thread register target. (R168) -/
  | brx (f : RForm)
  /-- CALLX: Call to a register target writing the return PC. (R168) -/
  | callx (f : RForm)
  /-- RET: Return to a register-held PC. (R168) -/
  | ret (f : RForm)
  /-- EXIT: End the issuing thread. (R170) -/
  | exit (f : RForm)
  /-- VOTE: Group vote all, any, uniform or ballot. (R175) -/
  | vote (f : RForm)
  /-- SHFL: Group shuffle by index, up, down or xor. (R176) -/
  | shfl (f : RForm)
  /-- MATCH: Mask of group positions holding an equal value. (R177) -/
  | matchv (f : RForm)
  /-- GRED: Fixed-tree group reduction. (R178) -/
  | gred (f : RForm)
  /-- SCAN: Fixed-tree group prefix scan. (R179) -/
  | scan (f : RForm)
  /-- SEGRED: Fixed-tree segmented group reduction or scan. (R180) -/
  | segred (f : RForm)
  /-- REBAL: Load-balancing search mapping items to owners. (R181) -/
  | rebal (f : RForm)
  /-- LDS: Lead load from global memory or the own A-store. (R185) -/
  | lds (f : MForm)
  /-- DQPUSH: Lead pushes an entry onto the decision queue, waiting while full. (R187) -/
  | dqpush (f : RForm)
  /-- DQPOP: Group collective pop of the next decision-queue entry. (R188) -/
  | dqpop (f : RForm)
  /-- LNCH: Lead appends a launch to one of its VF's queues. (R202) -/
  | lnch (f : XForm)
  /-- FWORK: Lead asks the distributor for an unplaced workgroup. (R203) -/
  | fwork (f : XForm)
  /-- WGDONE: End the lead stream. (R204) -/
  | wgdone (f : XForm)
  /-- ATOM: Atomic read-modify-write returning the old value. (R223) -/
  | atom (f : MForm)
  /-- CAS: Atomic compare-and-swap. (R224) -/
  | cas (f : MForm)
  /-- ATOMA: Atomic read-modify-write returning nothing. (R223) -/
  | atoma (f : MForm)
  /-- TICKET: Hand out a bounded range of a 64-bit counter. (R225) -/
  | ticket (f : MForm)
  /-- FENCE: Acquire and/or release fence at a scope. (R226) -/
  | fence (f : MForm)
  /-- BINIT: Write a fresh barrier object. (R237) -/
  | binit (f : MForm)
  /-- BARV: Arrive on a barrier object with a count. (R239) -/
  | barv (f : MForm)
  /-- BEXP: Raise a barrier object's expected byte count. (R240) -/
  | bexp (f : MForm)
  /-- BWAIT: Wait for a barrier object's phase to leave a token. (R242) -/
  | bwait (f : MForm)
  /-- BTEST: Read a barrier object and test its phase without waiting. (R243) -/
  | btest (f : MForm)
  /-- BEXIT: Depart later phases and arrive for the current one. (R241) -/
  | bexit (f : MForm)
  /-- BINVAL: Invalidate a barrier object with no waiters. (R238) -/
  | binval (f : MForm)
  /-- CMAKE: Create or find a circle by key. (R253) -/
  | cmake (f : RForm)
  /-- CJOIN: Record a join of a circle for the next boundary. (R253) -/
  | cjoin (f : RForm)
  /-- CLEAVE: Arrive and record leaving a circle. (R254) -/
  | cleave (f : RForm)
  /-- CFREE: Free a circle whose only member is the issuer. (R254) -/
  | cfree (f : RForm)
  /-- CQUERY: Query a circle's state. (R255) -/
  | cquery (f : RForm)
  /-- CBAR: Arrive on a circle phase and wait for it. (R256) -/
  | cbar (f : RForm)
  /-- CVOTE: Circle-wide vote at phase completion. (R257) -/
  | cvote (f : RForm)
  /-- CRED: Circle-wide fixed-tree reduction by rank. (R257) -/
  | cred (f : RForm)
  /-- VLD: Load a coordinate-volume element. (R274) -/
  | vld (f : XForm)
  /-- VST: Store a coordinate-volume element, allocating or appending as needed. (R274) -/
  | vst (f : XForm)
  /-- VRED: Reduce into a coordinate-volume element. (R275) -/
  | vred (f : XForm)
  /-- VPROBE: Read a tile's tree entry without allocating. (R276) -/
  | vprobe (f : XForm)
  /-- VTOUCH: Allocate a tile if absent and return its entry. (R276) -/
  | vtouch (f : XForm)
  /-- VFREE: Free one tile with CLB shoot-down. (R277) -/
  | vfree (f : XForm)
  /-- VFREE_ALL: Free every tile and node of a volume. (R277) -/
  | vfreeAll (f : XForm)
  /-- VPOOL: Give a volume pool a new region. (R279) -/
  | vpool (f : XForm)
  /-- VINV: Shoot down a volume's CLB entries. (R278) -/
  | vinv (f : XForm)
  /-- CPY: Copy one tile from global memory to a local store. (R292) -/
  | cpy (f : XForm)
  /-- CPYM: Multicast one tile into several team A-stores. (R293) -/
  | cpym (f : XForm)
  /-- CPYS: Copy one tile from a local store to global memory. (R294) -/
  | cpys (f : XForm)
  /-- CPYR: Copy a raw byte range. (R295) -/
  | cpyr (f : XForm)
  /-- OWAIT: Wait until outstanding-operation counters fall to given counts. (R300) -/
  | owait (f : RForm)
  /-- OFENCE: Make earlier stores visible to the core's engines. (R301) -/
  | ofence (f : RForm)
  /-- MSET: Arm a convergence register with a set count. (R314) -/
  | mset (f : XForm)
  /-- MZERO: Zero C-tiles. (R318) -/
  | mzero (f : XForm)
  /-- MMA: Sign a dense matrix multiply-accumulate; the last signature issues it. (R310) -/
  | mma (f : XForm)
  /-- MMAS: Sign an N:M sparse matrix multiply-accumulate. (R316) -/
  | mmas (f : XForm)
  /-- MDRAIN: Convert and store a C-tile. (R319) -/
  | mdrain (f : XForm)
  /-- MDRAIN_ADD: Drain a C-tile as one indivisible add. (R320) -/
  | mdrainAdd (f : XForm)
  /-- MDRAIN_ADD_ORD: Drain a C-tile as an add ordered by an order word. (R321) -/
  | mdrainAddOrd (f : XForm)
  /-- MCHK: Read and clear mstat, optionally injecting a checksum mismatch. (R323) -/
  | mchk (f : XForm)
  /-- QDUAL: Quantise a tile by rows and by columns. (R324) -/
  | qdual (f : XForm)
  /-- QSCAN: Quantise a C-tile row by row into the A-store. (R325) -/
  | qscan (f : XForm)
  /-- CAST: Apply a cast rule to one slot of a block. (R339) -/
  | cast (f : XForm)
  /-- SLOTLD_RD: Read a slot record. (R344) -/
  | slotldRd (f : XForm)
  /-- SLOTLD_MARK: Mark a final slot cached. (R344) -/
  | slotldMark (f : XForm)
  /-- SLOTLD_HDR: Read a block's state word. (R344) -/
  | slotldHdr (f : XForm)
  /-- FRONT_OPEN: Open a block and reset its slots. (R341) -/
  | frontOpen (f : XForm)
  /-- FRONT_PASS: End a pass, casting off up to kmin tentative slots. (R342) -/
  | frontPass (f : XForm)
  /-- SMERGE: Merge two softmax partials. (R348) -/
  | smerge (f : RForm)
  /-- RNGK: Keyed counter random-number generator. (R350) -/
  | rngk (f : RForm)
  /-- TXTAKE: Take the oldest tokenised request from an edge die's queue. (R364) -/
  | txtake (f : RForm)
  /-- TXEMIT: Detokenise and send a block's slots below its frontier. (R362) -/
  | txemit (f : RForm)
  /-- TXCLOSE: Flush held bytes and send a stream's close frame. (R363) -/
  | txclose (f : RForm)
  /-- TXSTAT: Read a stream's status. (R363) -/
  | txstat (f : RForm)
  /-- VOCLOAD: Validate and bind a vocabulary image to a VF slot. (R361) -/
  | vocload (f : XForm)
  /-- TRAP: Post a service request to the mailbox and wait for the reply. (R380) -/
  | trap (f : RForm)
  /-- SRET_RESUME: Answer a mailbox slot resuming at its resume PC with a reply. (R381) -/
  | sretResume (f : RForm)
  /-- SRET_REISSUE: Answer a mailbox slot reissuing the trapped instruction. (R381) -/
  | sretReissue (f : RForm)
  /-- SRET_REISSUE_NOMATCH: Answer a slot reissuing while ignoring match registers once. (R381) -/
  | sretReissueNomatch (f : RForm)
  /-- SRET_END_GRID: Answer a slot by ending the requester's grid with a code. (R381) -/
  | sretEndGrid (f : RForm)
  /-- YIELD: Ask the distributor to end the team's season. (R382) -/
  | yield (f : RForm)
  /-- BRK: Raise a breakpoint trap to the mailbox. (R380) -/
  | brk (f : RForm)
  /-- CRD: Read a control register. (R383) -/
  | crd (f : RForm)
  /-- CWR: Write a control register. (R383) -/
  | cwr (f : RForm)
  /-- PERF: Read a performance counter if permitted. (R384) -/
  | perf (f : RForm)
  /-- SCLEAR: Run the clearing sequencer on selected units of an idle core. (R390) -/
  | sclear (f : RForm)
  /-- LINE_FETCH_CHECK: A fetched line enters issue and its parity and line word are checked. (R52) -/
  | lineFetchCheck (core : Nat) (line : DWord)
  /-- LINE_REFETCH: A line refetched from L2 after a parity failure arrives and is rechecked or raises ECC_UE. (R52) -/
  | lineRefetch (core : Nat) (line : DWord)
  /-- ISSUE_BUNDLE: Each clock the issue unit forms and issues one thread bundle at the lowest PC. (R161) -/
  | issueBundle (core : Nat)
  /-- LEAD_ISSUE: Each clock one ready lead issues, round-robin. (R164) -/
  | leadIssue (core : Nat)
  /-- THREAD_AGED: A ready thread unissued for 1,024 clocks is marked aged. (R163) -/
  | threadAged (core slot : Nat)
  /-- LOAD_RETURN: A pending load's data arrives and is written to its destination. (R116) -/
  | loadReturn (core op : Nat)
  /-- STORE_PERFORMED: A store's bytes are written at their home and leave the st count. (R116) -/
  | storePerformed (core op : Nat)
  /-- ATOMIC_AT_HOME: An atomic executes indivisibly at its home and returns. (R211) -/
  | atomicAtHome (core op : Nat)
  /-- TLB_MISS_WALK: A hardware table walk completes, or meets a bad entry and ends the grid with PERM. (R121) -/
  | tlbMissWalk (core : Nat) (walkAhead : Bool) (va : DWord)
  /-- LDGA_LANDING: An LDGA's bytes land and its credit is applied. (R131) -/
  | ldgaLanding (core op : Nat)
  /-- WAIT_PHASE_TIMEOUT: A bounded phase wait's limit expires and returns false. (R10) -/
  | waitPhaseTimeout (a : Agent)
  /-- COLLECTIVE_WATCHDOG_TIMEOUT: A thread held at a collective reaches the watchdog limit and the grid ends. (R173) -/
  | collectiveWatchdogTimeout (a : Agent)
  /-- BARRIER_WAIT_WATCHDOG: An unbounded phase wait reaches bwdog and the grid ends with TIMEOUT. (R244) -/
  | barrierWaitWatchdog (a : Agent)
  /-- COPY_COMMAND_ACCEPT: The copy engine accepts a waiting command once its queue has room. (R283) -/
  | copyCommandAccept (core cmd : Nat)
  /-- COPY_CHUNK_LAND: A chunk of a copy is written and its credit piece applied. (R296) -/
  | copyChunkLand (core cmd chunk : Nat)
  /-- COPY_COMMAND_COMPLETE: A copy command's bytes and credits are all done and it leaves cp. (R299) -/
  | copyCommandComplete (core cmd : Nat)
  /-- MATRIX_OP_START: The sequencer starts an operation once earlier operations on its tile are done. (R326) -/
  | matrixOpStart (core op : Nat) (mismatches : Nat)
  /-- MATRIX_OP_COMPLETE: A matrix operation or drain completes and leaves mx. (R327) -/
  | matrixOpComplete (core op : Nat)
  /-- SET_WATCHDOG_TIMEOUT: A partly signed set reaches the watchdog limit and the grid ends. (R311) -/
  | setWatchdogTimeout (core wg cv : Nat)
  /-- ORDERED_DRAIN_APPLY: A waiting ordered drain finds its sequence in the order word and applies. (R321) -/
  | orderedDrainApply (core op : Nat)
  /-- ORDERED_DRAIN_TIMEOUT: An ordered drain waits past the limit and the grid ends. (R321) -/
  | orderedDrainTimeout (core op : Nat)
  /-- DOORBELL: A write to LQ_WIDX is checked and accepts entries or stops the queue in QERR. (R195) -/
  | doorbell (part vf queue : Nat) (x : Word)
  /-- LQ_RESET: The LQ_CTL reset bit clears QERR and the indices. (R194) -/
  | lqReset (part vf queue : Nat) (v : Word)
  /-- LQ_CANCEL: A write to LQ_CANCEL cancels the launch at that index. (R200) -/
  | lqCancel (part vf queue : Nat) (index : Word)
  /-- REGISTER_WRITE: A write to a register field with no behaviour of its own. (R4) -/
  | registerWrite (r : RegName) (v : DWord)
  /-- LAUNCH_VALIDATE: The distributor takes a queue entry and validates or refuses the launch. (R197) -/
  | launchValidate (part vf queue : Nat)
  /-- LAUNCH_START: A waiting launch's dependences and leases are ready and it enters running. (R198) -/
  | launchStart (grid : Nat)
  /-- TEAM_PLACE: The distributor places a team on a cluster. (R198) -/
  | teamPlace (grid team core : Nat)
  /-- SEASON_END: A cluster's season expires and its team may be swapped. (R199) -/
  | seasonEnd (grid team : Nat)
  /-- PREEMPT: A higher-priority waiting team pre-empts a resident team. (R199) -/
  | preempt (grid team : Nat)
  /-- RECONVERGENCE_TIMEOUT: rctmo expires and remaining threads are forced to a full save. (R389) -/
  | reconvergenceTimeout (grid team : Nat)
  /-- COPY_SUSPEND: The 8 µs copy drain expires and unfinished commands are suspended. (R304) -/
  | copySuspend (grid team : Nat)
  /-- TEAM_SAVE: Draining ends and the team is saved as a skein. (R389) -/
  | teamSave (grid team : Nat)
  /-- TEAM_RESTORE: A skein is restored on a cluster, reposting pending requests and resuming copies. (R389) -/
  | teamRestore (grid team core : Nat)
  /-- WSTORE_REGION_SAVE: A W-store region's old contents are lazily saved and cleared before use. (R201) -/
  | wstoreRegionSave (core region : Nat)
  /-- COOP_WAIT: A cooperative grid no longer fits and is saved into COOP_WAIT. (R200) -/
  | coopWait (grid : Nat)
  /-- COOP_RESUME: Capacity returns and a suspended cooperative grid resumes. (R200) -/
  | coopResume (grid : Nat)
  /-- FWORK_SERVE: The distributor hands out a workgroup into the mailbox and arrives. (R203) -/
  | fworkServe (grid : Nat)
  /-- GRID_END_TRAP: A non-resumable trap reaches the distributor and the grid stops in state 6. (R376) -/
  | gridEndTrap (report : Nat)
  /-- GRID_COMPLETE: Every workgroup is complete and the launch enters state 3. (R204) -/
  | gridComplete (grid : Nat)
  /-- RESUMABLE_TRAP_POST: A resumable trap takes a free mailbox slot, posts its record and notifies. (R377) -/
  | resumableTrapPost (a : Agent)
  /-- SUPERVISOR_TRAP: A supervisor thread traps, ends the served grid and posts to the monitor. (R373) -/
  | supervisorTrap (a : Agent)
  /-- UET_PACKET: A packet arrives at an edge die and is admitted, dropped or held unacknowledged. (R357) -/
  | uetPacket (edge : Nat) (p : Packet)
  /-- REQUEST_FRAME: A whole request frame is checked and queued or refused. (R354) -/
  | requestFrame (edge : Nat)
  /-- CANCEL_FRAME: A cancel frame closes the request's stream with status 5. (R354) -/
  | cancelFrame (edge : Nat)
  /-- TOKENISE: A request is tokenised and becomes takeable. (R359) -/
  | tokenise (edge : Nat)
  /-- REPLY_DATA_FRAME: Sendable reply bytes leave in a data frame. (R355) -/
  | replyDataFrame (edge stream : Nat)
  /-- VF_RESET: Writing VF_CTL reset runs the VF reset sequence. (R401) -/
  | vfReset (part vf : Nat)
  /-- TLBINV_ADDRESS: VF_TLBINV scope 00 removes translations covering one address. (R399) -/
  | tlbinvAddress (part vf : Nat) (page : BitVec 40)
  /-- TLBINV_VF: VF_TLBINV scope 01 removes all of the VF's translations. (R399) -/
  | tlbinvVf (part vf : Nat)
  /-- TLBINV_COMPLETE: A TLB invalidation finishes and VF_STAT busy clears. (R399) -/
  | tlbinvComplete (part vf : Nat)
  /-- PARTITION_FORM: A PT_DIES write forms the partition or is refused. (R392) -/
  | partitionForm (part : Nat) (dies : BitVec 40)
  /-- FIREWALL_DROP: A closed link end drops a non-edge transaction. (R393) -/
  | firewallDrop (die k : Nat) (request : Option Nat)
  /-- CHASKO_POSTED_WRITE: A host posted write is translated and performed. (R403) -/
  | chaskoPostedWrite (tray part vf : Nat) (ipa : Nat) (data : List Byte)
  /-- CHASKO_READ: A host non-posted read is performed and completed. (R403) -/
  | chaskoRead (tray part vf : Nat) (ipa n tag : Nat)
  /-- CHASKO_ATOMIC: A host non-posted atomic executes at the home. (R403) -/
  | chaskoAtomic (tray part vf : Nat) (ipa : Nat) (op ty : BitVec 4) (b : DWord) (tag : Nat)
  /-- CHASKO_FLIT_RETRY: A flit fails its CRC and is retried. (R403) -/
  | chaskoFlitRetry (edge : Nat)
  /-- CHASKO_LINK_DOWN: A link fails 8 retries and goes down, ending affected grids. (R404) -/
  | chaskoLinkDown (edge : Nat)
  /-- PEER_ACCESS: A peer module's access is checked against the admission table and performed. (R406) -/
  | peerAccess (m part : Nat) (offset : Nat) (target : Nat) (k : PeerKind)
  /-- MONITOR_LOCKSTEP_MISMATCH: The monitor pair mismatches, holding the die and ending its grids. (R408) -/
  | monitorLockstepMismatch (die : Nat)
  /-- GET_VERSION: SPDM GET_VERSION request answered by the Fjoloth root. (R410) -/
  | getVersion (edge : Nat)
  /-- GET_CAPABILITIES: SPDM GET_CAPABILITIES request. (R410) -/
  | getCapabilities (edge : Nat)
  /-- NEGOTIATE_ALGORITHMS: SPDM algorithm negotiation, refused without the required algorithms. (R410) -/
  | negotiateAlgorithms (edge : Nat) (o : AlgOffer)
  /-- GET_DIGESTS: SPDM GET_DIGESTS request. (R410) -/
  | getDigests (edge : Nat)
  /-- GET_CERTIFICATE: SPDM GET_CERTIFICATE request. (R410) -/
  | getCertificate (edge : Nat)
  /-- CHALLENGE: SPDM CHALLENGE request. (R410) -/
  | challenge (edge : Nat) (nonce : BitVec 256)
  /-- GET_MEASUREMENTS: SPDM GET_MEASUREMENTS request returning measurements 1 to 6. (R410) -/
  | getMeasurements (edge : Nat) (k part vf : Nat)
  /-- KEY_EXCHANGE: SPDM KEY_EXCHANGE with ML-KEM-768. (R410) -/
  | keyExchange (edge : Nat) (kem : Kem)
  /-- FINISH: SPDM FINISH request. (R410) -/
  | finish (edge : Nat)
  /-- END_SESSION: SPDM END_SESSION request. (R410) -/
  | endSession (edge : Nat)
  /-- STAGE_TWO_ENTRY_WRITE: The monitor's write of the highest 8 bytes of a stage-two range entry commits the entry, or the entry is refused when its range reaches a physical address outside the map. (R396) -/
  | stageTwoEntryWrite (part vf index : Nat) (hi : DWord)
  /-- CLOSE_FRAME_SENT: A stream's close frame leaves the edge die, moving the stream from closing to closed and freeing its stream number. (R356) -/
  | closeFrameSent (edge stream : Nat)
  /-- MONITOR_RELOAD: The monitor pair finishes reloading from the management island. (R408) -/
  | monitorReload
  /-- REFRESH_SCRUB: HBM4E refresh and scrub run, rewriting corrected errors. (R201) -/
  | refreshScrub
  /-- SERVING_KERNEL_RESTART: An uncorrectable error in the serving kernel's memory freezes queues and relaunches it. (R408) -/
  | servingKernelRestart
  /-- QUEUE_UNFREEZE: The new serving kernel's lead pushes and the queues unfreeze. (R408) -/
  | queueUnfreeze
  /-- OS_PANIC: The module OS panics, teams are saved and the crash image is sent. (R409) -/
  | osPanic
  /-- OS_RESTART: The OS restarts and re-adopts partitions and skeins. (R409) -/
  | osRestart
  /-- THERMAL_THROTTLE: A power cap or 105 °C die lowers every die's clock together. (R412) -/
  | thermalThrottle
  /-- BRING_UP: Power-on bring-up runs its ordered steps. (R413) -/
  | bringUp
deriving DecidableEq, Repr

end Sys2Proof
end

