-- ==== Sys2Proof/Machine/Forms.lean ====
section
/-!
DEFINITION. The form of every instruction (spec/03 R57 to R70, and the encoding table of each class chapter): its major and
minor, what each operand field may hold, which modifier values it allows, the streams and levels that may issue it, the
counter it counts in and the launch slots it names. `WellFormed` and `Decode` read this table, and so does the issue check
of `Machine/Operands.lean`.
-/

namespace Sys2Proof.Machine

/-- The kinds a source or destination field may hold (R58): `g`, `s`, `zr`, `sr.`. -/
structure Kinds where
  g  : Bool
  s  : Bool
  zr : Bool
  sr : Bool
deriving DecidableEq, Repr

/-- `g`, `s` or `zr` -/
def gsz : Kinds := ⟨true, true, true, false⟩
/-- `g` or `zr` -/
def gz : Kinds := ⟨true, false, true, false⟩
/-- `g` or `s`, by the stream -/
def gs : Kinds := ⟨true, true, false, false⟩
/-- `g` only -/
def gO : Kinds := ⟨true, false, false, false⟩
/-- `s` only -/
def sO : Kinds := ⟨false, true, false, false⟩
/-- `s` or `zr` -/
def sz : Kinds := ⟨false, true, true, false⟩
/-- any register kind, the `sr.` registers among them (R7, R90) -/
def anyK : Kinds := ⟨true, true, true, true⟩

/-- What an operand field of a form is (R58 to R60). Widths are in bits. -/
inductive Role where
  /-- the form does not use the field: it holds 0x000 (R60) -/
  | none
  | src (k : Kinds) (w : Nat)
  /-- a `g` register in the thread stream, an `s` register in the lead stream (R251) -/
  | srcReg (w : Nat)
  | dst (k : Kinds) (w : Nat)
  /-- the modifier's immediate (R58 kind 11) -/
  | imm
  | predDst
  | predSrc
  | handleDst
  | handleSrc
  /-- the `sr.` register of `SREAD` (R108) -/
  | sread
  /-- a volume element: its width is the bound descriptor's (R271, R272) -/
  | elemDst
  | elemSrc
  /-- coordinates: their width is the bound rank's (R271, R288) -/
  | coord
  /-- the address pair of `CPYR` (R288) -/
  | quad
  /-- `n` `s` registers in a row, or `zr` (R312) -/
  | runS (n : Nat)
  /-- `n` `g` registers in a row (`s` in a lead), or `zr` (R312) -/
  | runG (n : Nat)
deriving DecidableEq, Repr

/-- The launch slots that a form names (R68). -/
inductive Uses where
  | none
  | vol
  | tensor
  | fmt
  | rule
  | cv
  | fmtCv
deriving DecidableEq, Repr

/-- A check of a field that needs the running agent's launch or level. -/
inductive Need where
  | none
  /-- `VRED`: the type's width is the element size (R272) -/
  | elem (ty : Nat)
  /-- `MDRAIN`: the slot's accumulator allows the destination type (R313) -/
  | drain (ty : Nat)
  /-- `QDUAL`, `QSCAN`: the slot's element format, and for `QSCAN` its accumulator (R313) -/
  | quant
  | scan
  /-- `CRD`, `CWR`: the control register, and the width of a write (R383) -/
  | ctl (index : Nat) (write : Option Nat)
  /-- `MOVH`: in the thread stream D names an `.x` pair (R105) -/
  | pair
  /-- `MMA`, `MMAS`: a lead signs a set with scales by C = `zr` (R315; DEDUCED, log 20) -/
  | noScale
deriving DecidableEq, Repr

/-- A privilege level (R18, R369). -/
inductive Level where
  | t
  | s
  | m
deriving DecidableEq, Repr

/-- The levels at which a form may issue (R369, R365, R379). -/
inductive Levels where
  | all
  | t
  | s
  | ts
  | sm
deriving DecidableEq, Repr

/-- Does the set hold the level? -/
def Levels.has : Levels → Level → Bool
  | .all, _ => true
  | .t, .t => true
  | .s, .s => true
  | .ts, .t => true
  | .ts, .s => true
  | .sm, .s => true
  | .sm, .m => true
  | _, _ => false

/-- The operation counters (R116, R299, R327). -/
inductive Ctr where
  | ld
  | st
  | cp
  | mx
deriving DecidableEq, Repr

/-- The format of a form (R64 to R68). -/
inductive Fmt where
  | r
  | i
  | m
  | b
  | x
deriving DecidableEq, Repr

/-- One form: an instruction with its fields, as the class chapter of the instruction describes it. -/
structure Form where
  major : Nat
  minor : Nat
  fmt   : Fmt
  cm    : Common
  d : Role
  a : Role
  b : Role
  c : Role
  /-- the modifier holds only values that the format and the class chapter allow -/
  ok : Bool
  /-- the space fields name spaces that the instruction may use; `PERM` otherwise (R16, R66, R289) -/
  space : Bool := true
  lead   : Bool := true
  thread : Bool := true
  lvl : Levels := .all
  /-- the counter in which an issue of the form counts -/
  cls : Option Ctr := none
  /-- a group collective (R171, R188) -/
  coll : Bool := false
  /-- the form uses the C-store, the W-store or the matrix array, so the launch must be exclusive (R309) -/
  excl : Bool := false
  use : Uses := .none
  need : Need := .none
  /-- the second predicate that the form reads (R64) -/
  p2 : Option Nat := none
  fslot : Nat := 0
  rslot : Nat := 0
  cv    : Nat := 0
deriving DecidableEq, Repr

/-- Width in bits of a type code (R63); 128 for code 15. -/
def tyWn (t : Nat) : Nat :=
  match t with
  | 0 => 8 | 1 => 16 | 2 => 32 | 3 => 64 | 4 => 8 | 5 => 16 | 6 => 32 | 7 => 64
  | 8 => 64 | 9 => 32 | 10 => 16 | 11 => 16 | 12 => 8 | 13 => 8 | 14 => 8 | _ => 128

def tyW (t : BitVec 4) : Nat := tyWn t.toNat

/-- Is the type code signed (R63)? -/
def tySigned (t : BitVec 4) : Bool := decide (t.toNat < 4)

/-- Width of an integer immediate type (R65). -/
def ityW (t : BitVec 2) : Nat := if t.toNat < 2 then 32 else 64

/-- Width of a floating immediate type (R65). -/
def fityW (t : BitVec 2) : Nat :=
  match t.toNat with
  | 0 => 32 | 1 => 64 | _ => 16

/-- The `len` bits of `v` from bit `lo` up. -/
def fld {w : Nat} (v : BitVec w) (lo len : Nat) : Nat := v.toNat / 2 ^ lo % 2 ^ len

/-- No function bit at or above bit `n` is set (R60). -/
def fBits (f : BitVec 17) (n : Nat) : Bool := decide (f.toNat < 2 ^ n)

/-- A floating type code of R63. -/
def isFloat (t : BitVec 4) : Bool := decide (8 ≤ t.toNat ∧ t.toNat ≤ 14)

/-- The reduction ops of R171, for a type. -/
def redOpOk (t : BitVec 4) (op : Nat) : Bool := decide (op ≤ 5) && (!isFloat t || decide (op ≤ 2))

/-- The atomic ops of R223, for a type. -/
def atomOpOk (op ty : Nat) : Bool :=
  if op ≤ 2 ∨ op = 6 then [2, 3, 6, 7, 8, 9].contains ty
  else if op ≤ 5 then [2, 3, 6, 7].contains ty
  else if op ≤ 8 then [6, 7].contains ty
  else false

/-- A plain order (R66). -/
def plain (f : MForm) : Bool := f.order == 0

/-- The orders and scopes of a load (R125); `loc` for an A-store (DEDUCED, log 19). -/
def ldOrder (f : MForm) (loc : Bool) : Bool :=
  (f.order == 0 || f.order == 1 || f.order == 2
    || (f.order == 5 && !loc && decide (2 ≤ f.scope.toNat ∧ f.scope.toNat ≤ 4)))
  && (f.size != 15 || f.order == 0)
  && (!loc || decide (f.scope.toNat ≤ 1))

/-- The orders and scopes of a store (R125). -/
def stOrder (f : MForm) (loc : Bool) : Bool :=
  (f.order == 0 || f.order == 1 || f.order == 3)
  && (f.size != 15 || f.order == 0)
  && (!loc || decide (f.scope.toNat ≤ 1))

/-- The orders, scopes and cache policy of an atomic (R222). -/
def atomOrder (f : MForm) : Bool :=
  decide (1 ≤ f.order.toNat ∧ f.order.toNat ≤ 6)
  && (decide (f.order.toNat < 5) || (f.space == 0 && decide (2 ≤ f.scope.toNat ∧ f.scope.toNat ≤ 4)))
  && (f.space == 0 || decide (f.scope.toNat ≤ 1))
  && f.cache == 0

/-- The modifier of a barrier form (R234, R235). -/
def barOk (f : MForm) (order : BitVec 3) : Bool :=
  f.order == order && f.cache == 0
  && (f.space != 1 || f.scope == 0) && (f.space != 2 || f.scope == 1)

/-- The format, record and convergence fields of an X form are zero. -/
def noSlots (f : XForm) : Bool := f.fslot == 0 && f.rslot == 0 && f.cv == 0

/-- No flag bit at or above bit `n` is set. -/
def xBits (f : XForm) (n : Nat) : Bool := decide (f.flags.toNat < 2 ^ n)

/-- The fields of a volume form (R271, R272). -/
def volOk (f : XForm) : Bool := f.fslot == 0 && f.cv == 0 && decide (f.rslot.toNat < 16)

/-- Space codes of a copy form (R287). -/
def copySrc (f : XForm) : Nat := fld f.flags 3 3
def copyDst (f : XForm) : Nat := fld f.flags 0 3
def copyEach (f : XForm) : Bool := fld f.flags 7 1 == 1
def copyExp (f : XForm) : Bool := fld f.flags 6 1 == 1
/-- Barrier space of a copy form: 0 own A-store, 1 team address, 2 global (R287). -/
def copyBar (f : XForm) : Nat := fld f.flags 8 2

/-- The flags of a copy form (R287, R289). -/
def copyFlags (f : XForm) : Bool :=
  xBits f 10 && decide (copyBar f ≤ 2) && decide (copySrc f ≤ 4) && decide (copyDst f ≤ 4)
  && (!copyEach f || copyBar f == 0)
  && (f.cm.c != .lit 0 || (!copyExp f && copyBar f == 0))

/-- A copy that names the W-store or the C-store (R309). -/
def copyExcl (f : XForm) : Bool := decide (3 ≤ copySrc f ∨ 3 ≤ copyDst f)

/-- Destination types of `MDRAIN` (R313); the slot's accumulator narrows them at issue. -/
def drainType (t : Nat) : Bool := [2, 9, 10, 11, 12, 13, 14].contains t
def addType (t : Nat) : Bool := [2, 9, 10, 11].contains t

/-- Is `i` an index of an `sr.` register (R107)? -/
def srListed (i : Nat) : Bool :=
  decide ((1 ≤ i ∧ i ≤ 23) ∨ (32 ≤ i ∧ i ≤ 47))

/-- An R form (R64): types, round, `.sat`, source modifiers and second predicate as the class chapter allows them. -/
def rForm (f : RForm) (major minor : Nat) (d a b c : Role) (types : List Nat) (round sat : Bool) (mods : BitVec 6)
    (p2 func : Bool) : Form :=
  { major, minor, fmt := .r, cm := f.cm, d, a, b, c, p2 := if p2 then some (f.pred2.toNat % 8) else none,
    ok := types.contains f.ty.toNat && (round || f.round == 0) && (sat || f.sat == 0) && (f.mods &&& ~~~mods) == 0
      && (p2 || f.pred2 == 0) && func }

/-- An I form (R65). -/
def iForm (f : IForm) (major minor : Nat) (d a b c : Role) (itys : List Nat) (isF : Bool) : Form :=
  { major, minor, fmt := .i, cm := f.cm, d, a, b, c,
    ok := itys.contains f.ity.toNat && (!isF || decide (f.ity.toNat < 2) || decide (f.imm.toNat < 65536)) }

/-- An M form (R66). -/
def mForm (f : MForm) (major minor : Nat) (d a b c : Role) (sizes : List Nat) (ok space : Bool) : Form :=
  { major, minor, fmt := .m, cm := f.cm, d, a, b, c, space,
    ok := sizes.contains f.size.toNat && f.order != 7 && decide (f.scope.toNat ≤ 5) && f.space != 3
      && (f.order != 0 || f.scope == 0) && ok }

/-- A B form (R67). -/
def bForm (f : BForm) (major minor : Nat) (d : Role) : Form :=
  { major, minor, fmt := .b, cm := f.cm, d, a := .none, b := .none, c := .none, ok := f.resv == 0 }

/-- An X form (R68). -/
def xForm (f : XForm) (major minor : Nat) (d a b c : Role) (ok space : Bool) (use : Uses) : Form :=
  { major, minor, fmt := .x, cm := f.cm, d, a, b, c, ok, space, use,
    fslot := f.fslot.toNat, rslot := f.rslot.toNat, cv := f.cv.toNat }

/-- A register index that may start an operand of `w` bits (R58). -/
def aligned (i : BitVec 9) (w : Nat) : Bool :=
  i.toNat % (if w ≤ 32 then 1 else if w ≤ 64 then 2 else 4) == 0

/-- May the field hold the operand, whatever the stream (R58 to R60)? -/
def Role.ok : Role → Opnd → Bool
  | .none, o => o == .g 0
  | .src k w, .g i => k.g && aligned i w
  | .src k _, .s i => k.s && decide (i.toNat < 64)
  | .src k _, .lit i => if i == 0 then k.zr else k.sr && srListed i.toNat && i != 22 && i != 23
  | .src _ _, .imm _ => false
  | .srcReg w, .g i => aligned i w
  | .srcReg _, .s i => decide (i.toNat < 64)
  | .srcReg _, _ => false
  | .dst k w, .g i => k.g && aligned i w
  | .dst k _, .s i => k.s && decide (i.toNat < 64)
  | .dst k _, .lit i => k.zr && i == 0
  | .dst _ _, .imm _ => false
  | .imm, o => o == .imm 0
  | .predDst, .g i => decide (i.toNat < 8)
  | .predSrc, .g i => decide (i.toNat < 8)
  | .handleDst, .g i => decide (i.toNat < 8)
  | .handleSrc, .g i => decide (i.toNat < 8)
  | .predDst, _ => false
  | .predSrc, _ => false
  | .handleDst, _ => false
  | .handleSrc, _ => false
  | .sread, .lit i => srListed i.toNat
  | .sread, _ => false
  | .elemDst, .g _ => true
  | .elemDst, _ => false
  | .elemSrc, .g _ => true
  | .elemSrc, .s i => decide (i.toNat < 64)
  | .elemSrc, .lit i => i == 0
  | .elemSrc, .imm _ => false
  | .coord, .g _ => true
  | .coord, .s i => decide (i.toNat < 64)
  | .coord, _ => false
  | .quad, .g i => aligned i 128
  | .quad, .s i => aligned i 64 && decide (i.toNat < 63)
  | .quad, _ => false
  | .runS n, .s i => decide (i.toNat + n ≤ 64)
  | .runS _, .lit i => i == 0
  | .runS _, _ => false
  | .runG n, .g i => decide (i.toNat + n ≤ 512)
  | .runG n, .s i => decide (i.toNat + n ≤ 64)
  | .runG _, .lit i => i == 0
  | .runG _, .imm _ => false

/-- May retain name the field (R62)? -/
def Role.retainOk : Role → Opnd → Bool
  | .none, _ => false
  | _, .g _ => true
  | _, .s _ => true
  | _, _ => false

/-- The form of an instruction; `none` for an operation, which has no word. -/
def form : Instr → Option Form
  | .iadd f => some (rForm f 1 0 (.dst gsz (tyW f.ty)) (.src anyK (tyW f.ty)) (.src anyK (tyW f.ty)) (.none) [0,1,2,3,4,5,6,7] false true 0 false (f.func == 0))
  | .iaddImm f => some (iForm f 1 32 (.dst gsz (ityW f.ity)) (.src anyK (ityW f.ity)) (.imm) (.none) [0,1,2,3] false)
  | .isub f => some (rForm f 1 1 (.dst gsz (tyW f.ty)) (.src anyK (tyW f.ty)) (.src anyK (tyW f.ty)) (.none) [0,1,2,3,4,5,6,7] false true 0 false (f.func == 0))
  | .imul f => some (rForm f 1 2 (.dst gsz (tyW f.ty)) (.src anyK (tyW f.ty)) (.src anyK (tyW f.ty)) (.none) [0,1,2,3,4,5,6,7] false true 0 false (f.func == 0))
  | .imulImm f => some (iForm f 1 34 (.dst gsz (ityW f.ity)) (.src anyK (ityW f.ity)) (.imm) (.none) [0,1,2,3] false)
  | .imulh f => some (rForm f 1 3 (.dst gsz (tyW f.ty)) (.src anyK (tyW f.ty)) (.src anyK (tyW f.ty)) (.none) [2,3,6,7] false false 0 false (f.func == 0))
  | .imad f => some (rForm f 1 4 (.dst gsz (tyW f.ty)) (.src anyK (tyW f.ty)) (.src anyK (tyW f.ty)) (.src anyK (tyW f.ty)) [0,1,2,3,4,5,6,7] false true 0 false (f.func == 0))
  | .imadw f => some (rForm f 1 5 (.dst gsz 64) (.src anyK 32) (.src anyK 32) (.src anyK 64) [2,6] false true 0 false (f.func == 0))
  | .idiv f => some (rForm f 1 6 (.dst gsz (tyW f.ty)) (.src anyK (tyW f.ty)) (.src anyK (tyW f.ty)) (.none) [0,1,2,3,4,5,6,7] false false 0 false (f.func == 0))
  | .irem f => some (rForm f 1 7 (.dst gsz (tyW f.ty)) (.src anyK (tyW f.ty)) (.src anyK (tyW f.ty)) (.none) [0,1,2,3,4,5,6,7] false false 0 false (f.func == 0))
  | .iabs f => some (rForm f 1 8 (.dst gsz (tyW f.ty)) (.src anyK (tyW f.ty)) (.none) (.none) [0,1,2,3] false true 0 false (f.func == 0))
  | .ineg f => some (rForm f 1 9 (.dst gsz (tyW f.ty)) (.src anyK (tyW f.ty)) (.none) (.none) [0,1,2,3,4,5,6,7] false true 0 false (f.func == 0))
  | .imin f => some (rForm f 1 10 (.dst gsz (tyW f.ty)) (.src anyK (tyW f.ty)) (.src anyK (tyW f.ty)) (.none) [0,1,2,3,4,5,6,7] false false 0 false (f.func == 0))
  | .iminImm f => some (iForm f 1 42 (.dst gsz (ityW f.ity)) (.src anyK (ityW f.ity)) (.imm) (.none) [0,1,2,3] false)
  | .imax f => some (rForm f 1 11 (.dst gsz (tyW f.ty)) (.src anyK (tyW f.ty)) (.src anyK (tyW f.ty)) (.none) [0,1,2,3,4,5,6,7] false false 0 false (f.func == 0))
  | .imaxImm f => some (iForm f 1 43 (.dst gsz (ityW f.ity)) (.src anyK (ityW f.ity)) (.imm) (.none) [0,1,2,3] false)
  | .and f => some (rForm f 2 0 (.dst gsz (tyW f.ty)) (.src anyK (tyW f.ty)) (.src anyK (tyW f.ty)) (.none) [6,7] false false 0 false (f.func == 0))
  | .andImm f => some (iForm f 2 32 (.dst gsz (ityW f.ity)) (.src anyK (ityW f.ity)) (.imm) (.none) [0,1,2,3] false)
  | .or f => some (rForm f 2 1 (.dst gsz (tyW f.ty)) (.src anyK (tyW f.ty)) (.src anyK (tyW f.ty)) (.none) [6,7] false false 0 false (f.func == 0))
  | .orImm f => some (iForm f 2 33 (.dst gsz (ityW f.ity)) (.src anyK (ityW f.ity)) (.imm) (.none) [0,1,2,3] false)
  | .xor f => some (rForm f 2 2 (.dst gsz (tyW f.ty)) (.src anyK (tyW f.ty)) (.src anyK (tyW f.ty)) (.none) [6,7] false false 0 false (f.func == 0))
  | .xorImm f => some (iForm f 2 34 (.dst gsz (ityW f.ity)) (.src anyK (ityW f.ity)) (.imm) (.none) [0,1,2,3] false)
  | .andn f => some (rForm f 2 3 (.dst gsz (tyW f.ty)) (.src anyK (tyW f.ty)) (.src anyK (tyW f.ty)) (.none) [6,7] false false 0 false (f.func == 0))
  | .andnImm f => some (iForm f 2 35 (.dst gsz (ityW f.ity)) (.src anyK (ityW f.ity)) (.imm) (.none) [0,1,2,3] false)
  | .shl f => some (rForm f 2 4 (.dst gsz (tyW f.ty)) (.src anyK (tyW f.ty)) (.src anyK 32) (.none) [6,7] false false 0 false (f.func == 0))
  | .shlImm f => some (iForm f 2 36 (.dst gsz (ityW f.ity)) (.src anyK (ityW f.ity)) (.imm) (.none) [0,1,2,3] false)
  | .shr f => some (rForm f 2 5 (.dst gsz (tyW f.ty)) (.src anyK (tyW f.ty)) (.src anyK 32) (.none) [6,7] false false 0 false (f.func == 0))
  | .shrImm f => some (iForm f 2 37 (.dst gsz (ityW f.ity)) (.src anyK (ityW f.ity)) (.imm) (.none) [0,1,2,3] false)
  | .sra f => some (rForm f 2 6 (.dst gsz (tyW f.ty)) (.src anyK (tyW f.ty)) (.src anyK 32) (.none) [6,7] false false 0 false (f.func == 0))
  | .sraImm f => some (iForm f 2 38 (.dst gsz (ityW f.ity)) (.src anyK (ityW f.ity)) (.imm) (.none) [0,1,2,3] false)
  | .rot f => some (rForm f 2 7 (.dst gsz (tyW f.ty)) (.src anyK (tyW f.ty)) (.src anyK 32) (.none) [6,7] false false 0 false (f.func == 0))
  | .rotImm f => some (iForm f 2 39 (.dst gsz (ityW f.ity)) (.src anyK (ityW f.ity)) (.imm) (.none) [0,1,2,3] false)
  | .bfx f => some (rForm f 3 0 (.dst gsz (tyW f.ty)) (.src anyK (tyW f.ty)) (.src anyK 32) (.none) [2,3,6,7] false false 0 false (f.func == 0))
  | .bfi f => some (rForm f 3 1 (.dst gsz (tyW f.ty)) (.src anyK (tyW f.ty)) (.src anyK 32) (.src anyK (tyW f.ty)) [6,7] false false 0 false (f.func == 0))
  | .popc f => some (rForm f 3 2 (.dst gsz 32) (.src anyK (tyW f.ty)) (.none) (.none) [6,7] false false 0 false (f.func == 0))
  | .clz f => some (rForm f 3 3 (.dst gsz 32) (.src anyK (tyW f.ty)) (.none) (.none) [6,7] false false 0 false (f.func == 0))
  | .brev f => some (rForm f 3 4 (.dst gsz (tyW f.ty)) (.src anyK (tyW f.ty)) (.none) (.none) [6,7] false false 0 false (f.func == 0))
  | .isetp f => some (rForm f 4 0 (.predDst) (.src anyK (tyW f.ty)) (.src anyK (tyW f.ty)) (.none) [0,1,2,3,4,5,6,7] false false 0 true (fBits f.func 5 && fld f.func 3 2 != 3 && decide (fld f.func 0 3 ≤ 5)))
  | .sel f => some (rForm f 4 1 (.dst gsz (tyW f.ty)) (.src anyK (tyW f.ty)) (.src anyK (tyW f.ty)) (.none) [6,7] false false 0 true (f.func == 0))
  | .plog f => some (rForm f 4 2 (.predDst) (.predSrc) (.predSrc) (.predSrc) [15] false false 0 false (fBits f.func 8))
  | .mov f => some (rForm f 5 0 (.dst gsz (tyW f.ty)) (.src anyK (tyW f.ty)) (.none) (.none) [6,7] false false 0 false (f.func == 0))
  | .movi f => some (iForm f 5 32 (.dst gsz (ityW f.ity)) (.imm) (.none) (.none) [0,1,2,3] false)
  | .movh f => some { iForm f 5 33 (.dst gsz 64) (.imm) (.none) (.none) [0,1] false with need := .pair }
  | .lea f => some (rForm f 5 1 (.dst gsz 64) (.src anyK 64) (.src anyK (tyW f.ty)) (.none) [2,3,6,7] false false 0 false (fBits f.func 3))
  | .leaImm f => some (iForm f 5 34 (.dst gsz 64) (.src anyK 64) (.imm) (.none) [0,1,2,3] false)
  | .nop f => some (rForm f 6 0 (.none) (.none) (.none) (.none) [0] false false 0 false (f.func == 0))
  | .sread f => some (rForm f 6 1 (.dst gsz (tyW f.ty)) (.sread) (.none) (.none) [6,7] false false 0 false (f.func == 0))
  | .ld f => some { mForm f 8 0 (.dst gz (tyW f.size)) (.src gsz 64) (.none) (.none) [0,1,2,3,4,5,6,7,8,9,10,11,15] (ldOrder f (f.space != 0) && (f.space == 0 || f.cache == 0)) (f.space == 0) with lead := false, cls := some .ld }
  | .st f => some { mForm f 8 1 (.none) (.src gsz 64) (.src gsz (tyW f.size)) (.none) [0,1,2,3,4,5,6,7,8,9,10,11,15] (stOrder f (f.space != 0) && (f.space == 0 || f.cache == 0)) (f.space == 0) with lead := false, cls := some .st }
  | .lda f => some { mForm f 8 2 (.dst gz (tyW f.size)) (.src gsz 32) (.none) (.none) [0,1,2,3,4,5,6,7,8,9,10,11,15] (ldOrder f (f.space != 0) && (f.space == 0 || f.cache == 0)) (f.space != 0) with lead := false, cls := some .ld }
  | .sta f => some { mForm f 8 3 (.none) (.src gsz 32) (.src gsz (tyW f.size)) (.none) [0,1,2,3,4,5,6,7,8,9,10,11,15] (stOrder f (f.space != 0) && (f.space == 0 || f.cache == 0)) (f.space != 0) with lead := false, cls := some .st }
  | .ldcs f => some { mForm f 9 0 (.dst gz (tyW f.size)) (.src gsz 32) (.none) (.none) [2,6,9,15] (plain f && f.cache == 0) (f.space == 1) with lead := false, cls := some .ld, excl := true }
  | .stcs f => some { mForm f 9 1 (.none) (.src gsz 32) (.src gsz (tyW f.size)) (.none) [2,6,9,15] (plain f && f.cache == 0) (f.space == 1) with lead := false, cls := some .st, excl := true }
  | .ldx f => some { mForm f 10 0 (.dst gz (tyW f.size)) (.src sz (if f.space == 0 then 64 else 32)) (.src gsz 32) (.none) [0,1,2,3,4,5,6,7,8,9,10,11,15] (ldOrder f (f.space != 0) && (f.space == 0 || f.cache == 0)) (f.space != 2) with lead := false, cls := some .ld }
  | .stx f => some { mForm f 10 1 (.none) (.src sz (if f.space == 0 then 64 else 32)) (.src gsz 32) (.src gsz (tyW f.size)) [0,1,2,3,4,5,6,7,8,9,10,11,15] (stOrder f (f.space != 0) && (f.space == 0 || f.cache == 0)) (f.space != 2) with lead := false, cls := some .st }
  | .ldga f => some { mForm f 10 2 (.none) (.src gsz 64) (.src gsz 32) (.src gsz 32) [6,7,15] (plain f) (f.space != 0) with lead := false, cls := some .ld }
  | .prefL1 f => some (mForm f 11 0 (.none) (.src gsz 64) (.none) (.none) [15] (plain f && f.cache == 0) (f.space == 0))
  | .prefL2 f => some (mForm f 11 0 (.none) (.src gsz 64) (.none) (.none) [15] (plain f && f.cache == 3) (f.space == 0))
  | .cctlIc f => some (mForm f 11 1 (.none) (.none) (.none) (.none) [0] (plain f && f.cache == 0 && f.offset == 0) (f.space == 0))
  | .cctlDl f => some (mForm f 11 1 (.none) (.src gsz 64) (.none) (.none) [1] (plain f && f.cache == 0) (f.space == 0))
  | .cctlDa f => some (mForm f 11 1 (.none) (.none) (.none) (.none) [2] (plain f && f.cache == 0 && f.offset == 0) (f.space == 0))
  | .fadd f => some { rForm f 12 0 (.dst gsz (tyW f.ty)) (.src anyK (tyW f.ty)) (.src anyK (tyW f.ty)) (.none) [8,9,10,11] true true 0x3C false (f.func == 0) with lead := false }
  | .faddImm f => some { iForm f 12 32 (.dst gsz (fityW f.ity)) (.src anyK (fityW f.ity)) (.imm) (.none) [0,1,2,3] true with lead := false }
  | .fsub f => some { rForm f 12 1 (.dst gsz (tyW f.ty)) (.src anyK (tyW f.ty)) (.src anyK (tyW f.ty)) (.none) [8,9,10,11] true true 0x3C false (f.func == 0) with lead := false }
  | .fmul f => some { rForm f 12 2 (.dst gsz (tyW f.ty)) (.src anyK (tyW f.ty)) (.src anyK (tyW f.ty)) (.none) [8,9,10,11] true true 0x3C false (f.func == 0) with lead := false }
  | .fmulImm f => some { iForm f 12 34 (.dst gsz (fityW f.ity)) (.src anyK (fityW f.ity)) (.imm) (.none) [0,1,2,3] true with lead := false }
  | .ffma f => some { rForm f 12 3 (.dst gsz (tyW f.ty)) (.src anyK (tyW f.ty)) (.src anyK (tyW f.ty)) (.src anyK (tyW f.ty)) [8,9,10,11] true true 0x3F false (f.func == 0) with lead := false }
  | .ffmaImm f => some { iForm f 12 35 (.dst gsz (fityW f.ity)) (.src anyK (fityW f.ity)) (.src anyK (fityW f.ity)) (.imm) [0,1,2,3] true with lead := false }
  | .fmin f => some { rForm f 12 4 (.dst gsz (tyW f.ty)) (.src anyK (tyW f.ty)) (.src anyK (tyW f.ty)) (.none) [8,9,10,11] false false 0x3C false (f.func == 0) with lead := false }
  | .fmax f => some { rForm f 12 5 (.dst gsz (tyW f.ty)) (.src anyK (tyW f.ty)) (.src anyK (tyW f.ty)) (.none) [8,9,10,11] false false 0x3C false (f.func == 0) with lead := false }
  | .fsetp f => some { rForm f 13 0 (.predDst) (.src anyK (tyW f.ty)) (.src anyK (tyW f.ty)) (.none) [8,9,10,11] false false 0x3C true (fBits f.func 6 && fld f.func 4 2 != 3 && decide (fld f.func 0 4 ≤ 13)) with lead := false }
  | .fclass f => some { rForm f 13 1 (.dst gsz 32) (.src anyK (tyW f.ty)) (.none) (.none) [8,9,10,11] false false 0x30 false (f.func == 0) with lead := false }
  | .fdiv f => some { rForm f 14 0 (.dst gsz (tyW f.ty)) (.src anyK (tyW f.ty)) (.src anyK (tyW f.ty)) (.none) [8,9] true true 0x3C false (f.func == 0) with lead := false }
  | .fsqrt f => some { rForm f 14 1 (.dst gsz (tyW f.ty)) (.src anyK (tyW f.ty)) (.none) (.none) [8,9] true false 0x30 false (f.func == 0) with lead := false }
  | .rcps f => some { rForm f 14 2 (.dst gsz (tyW f.ty)) (.src anyK (tyW f.ty)) (.none) (.none) [8,9,10,11] false false 0x30 false (f.func == 0) with lead := false }
  | .rsqs f => some { rForm f 14 3 (.dst gsz (tyW f.ty)) (.src anyK (tyW f.ty)) (.none) (.none) [8,9,10,11] false false 0x30 false (f.func == 0) with lead := false }
  | .fexp2 f => some { rForm f 15 0 (.dst gsz (tyW f.ty)) (.src anyK (tyW f.ty)) (.none) (.none) [8,9,10,11] true true 0x30 false (f.func == 0) with lead := false }
  | .flog2 f => some { rForm f 15 1 (.dst gsz (tyW f.ty)) (.src anyK (tyW f.ty)) (.none) (.none) [8,9,10,11] true false 0x30 false (f.func == 0) with lead := false }
  | .frnd f => some { rForm f 16 0 (.dst gsz (tyW f.ty)) (.src anyK (tyW f.ty)) (.none) (.none) [8,9,10,11] true false 0x30 false (f.func == 0) with lead := false }
  | .fscale f => some { rForm f 16 1 (.dst gsz (tyW f.ty)) (.src anyK (tyW f.ty)) (.src anyK 32) (.none) [8,9,10,11] true true 0x30 false (f.func == 0) with lead := false }
  | .fexpo f => some { rForm f 16 2 (.dst gsz 32) (.src anyK (tyW f.ty)) (.none) (.none) [8,9,10,11] false false 0x30 false (f.func == 0) with lead := false }
  | .f2i f => some { rForm f 17 0 (.dst gsz (tyWn (fld f.func 0 4))) (.src anyK (tyW f.ty)) (.none) (.none) [8,9,10,11] true false 0x30 false (fBits f.func 4 && decide (fld f.func 0 4 ≤ 7)) with lead := false }
  | .i2f f => some { rForm f 17 1 (.dst gsz (tyWn (fld f.func 0 4))) (.src anyK (tyW f.ty)) (.none) (.none) [0,1,2,3,4,5,6,7] true true 0 false (fBits f.func 4 && decide (8 ≤ fld f.func 0 4 ∧ fld f.func 0 4 ≤ 11)) with lead := false }
  -- source modifiers of B only with `.scl` (DEDUCED, log 18)
  | .fcvt f => some { rForm f 17 2 (.dst gsz (tyWn (fld f.func 0 4))) (.src anyK (tyW f.ty)) (if fld f.func 4 1 == 1 then .src anyK 32 else .none) (.none) [8,9,10,11,12,13,14] true true (if fld f.func 4 1 == 1 then 0x3C else 0x30) false (fBits f.func 5 && decide (8 ≤ fld f.func 0 4 ∧ fld f.func 0 4 ≤ 14)) with lead := false }
  | .bra f => some (bForm f 20 0 (.none))
  | .call f => some (bForm f 20 1 (.dst gsz 64))
  | .brx f => some (rForm f 21 0 (.none) (.src gsz 64) (.none) (.none) [15] false false 0 false (f.func == 0))
  | .callx f => some (rForm f 21 1 (.dst gsz 64) (.src gsz 64) (.none) (.none) [15] false false 0 false (f.func == 0))
  | .ret f => some (rForm f 21 2 (.none) (.src gsz 64) (.none) (.none) [15] false false 0 false (f.func == 0))
  | .exit f => some { rForm f 22 0 (.none) (.none) (.none) (.none) [15] false false 0 false (f.func == 0) with lead := false }
  | .vote f => some { rForm f 24 0 (if fld f.func 0 2 == 3 then .dst gO 64 else .predDst) (.predSrc) (.none) (.none) [15] false false 0 false (fBits f.func 3) with lead := false, coll := true }
  | .shfl f => some { rForm f 24 1 (.dst gO (tyW f.ty)) (.src gO (tyW f.ty)) (.src gsz 32) (.none) [6,7] false false 0 false (fBits f.func 2) with lead := false, coll := true }
  | .matchv f => some { rForm f 24 2 (.dst gO 64) (.src gO (tyW f.ty)) (.none) (.none) [6,7] false false 0 false (f.func == 0) with lead := false, coll := true }
  | .gred f => some { rForm f 25 0 (.dst gO (tyW f.ty)) (.src gO (tyW f.ty)) (.none) (.none) [2,3,6,7,8,9,10,11] (isFloat f.ty) false 0 false (fBits f.func 3 && redOpOk f.ty (fld f.func 0 3)) with lead := false, coll := true }
  | .scan f => some { rForm f 25 1 (.dst gO (tyW f.ty)) (.src gO (tyW f.ty)) (.none) (.none) [2,3,6,7,8,9,10,11] (isFloat f.ty) false 0 false (fBits f.func 4 && redOpOk f.ty (fld f.func 0 3)) with lead := false, coll := true }
  | .segred f => some { rForm f 25 2 (.dst gO (tyW f.ty)) (.src gO (tyW f.ty)) (.none) (.none) [2,3,6,7,8,9,10,11] (isFloat f.ty) false 0 true (fBits f.func 4 && redOpOk f.ty (fld f.func 0 3)) with lead := false, coll := true }
  -- every operand kind of R58 (DEDUCED, log 55)
  | .rebal f => some { rForm f 26 0 (.dst gO 128) (.src anyK 32) (.src anyK 32) (.none) [6] false false 0 false (f.func == 0) with lead := false, coll := true }
  | .lds f => some { mForm f 28 0 (.dst sO 64) (.src sz (if f.space == 0 then 64 else 32)) (.none) (.none) [0,1,2,3,4,5,6,7,8,9,10,11] (f.space != 2 && ldOrder f (f.space == 1) && (f.space == 0 || f.cache == 0)) (true) with thread := false, cls := some .ld }
  | .dqpush f => some { rForm f 29 0 (.none) (.src sz 64) (.src sz 32) (.predDst) [15] false false 0 false (f.func == 0) with thread := false }
  | .dqpop f => some { rForm f 29 1 (.dst gz 64) (.none) (.src gsz 32) (.predDst) [15] false false 0 false (f.func == 0) with lead := false, coll := true }
  | .lnch f => some { xForm f 30 0 (.dst gsz 64) (.src sO 64) (.src sz 64) (.none) (noSlots f && xBits f 6) (true) (.none) with thread := false }
  | .fwork f => some { xForm f 30 1 (.none) (.src sz 32) (.none) (.none) (noSlots f && xBits f 0) (true) (.none) with thread := false }
  | .wgdone f => some { xForm f 30 2 (.none) (.none) (.none) (.none) (noSlots f && xBits f 0) (true) (.none) with thread := false }
  | .atom f => some { mForm f 32 0 (.dst gz (tyW f.size)) (.src gsz (if f.space == 0 then 64 else 32)) (.src gsz (tyW f.size)) (.none) [2,3,6,7,8,9] (atomOrder f && atomOpOk (fld f.offset 16 4) f.size.toNat) (true) with lead := false, cls := some .ld }
  | .cas f => some { mForm f 32 1 (.dst gz (tyW f.size)) (.src gsz (if f.space == 0 then 64 else 32)) (.src gsz (tyW f.size)) (.src gsz (tyW f.size)) [2,3,6,7] (atomOrder f && fld f.offset 16 4 == 0) (true) with lead := false, cls := some .ld }
  | .atoma f => some { mForm f 33 0 (.none) (.src gsz (if f.space == 0 then 64 else 32)) (.src gsz (tyW f.size)) (.none) [2,3,6,7,8,9] (atomOrder f && (f.order == 1 || f.order == 3) && atomOpOk (fld f.offset 16 4) f.size.toNat) (true) with lead := false, cls := some .st }
  | .ticket f => some { mForm f 34 0 (.dst gO 64) (.src gsz 64) (.src gsz 32) (.src gsz 64) [7] (atomOrder f && f.space == 0 && fld f.offset 16 4 == 0) (true) with lead := false, cls := some .ld }
  | .fence f => some { mForm f 35 0 (.none) (.none) (.none) (.none) [15] ((f.order == 2 || f.order == 3 || f.order == 4) && f.space == 0 && f.cache == 0 && f.offset == 0) (true) with lead := false }
  | .binit f => some { mForm f 36 0 (.none) (.src gsz (if f.space == 0 then 64 else 32)) (.src gsz 32) (.none) [15] (barOk f 3) (true) with cls := some .st }
  | .barv f => some { mForm f 36 1 (.dst gsz 32) (.src gsz (if f.space == 0 then 64 else 32)) (.src gsz 32) (.predDst) [15] (barOk f 3) (true) with cls := some .ld }
  | .bexp f => some { mForm f 36 2 (.none) (.src gsz (if f.space == 0 then 64 else 32)) (.src gsz 32) (.none) [15] (barOk f 1) (true) with cls := some .st }
  | .bwait f => some (mForm f 36 3 (.predDst) (.src gsz (if f.space == 0 then 64 else 32)) (.src gsz 32) (.src gsz 32) [15] (barOk f 2) (true))
  | .btest f => some { mForm f 36 4 (.dst gsz 32) (.src gsz (if f.space == 0 then 64 else 32)) (.src gsz 32) (.predDst) [15] (barOk f 2) (true) with cls := some .ld }
  | .bexit f => some { mForm f 36 5 (.none) (.src gsz (if f.space == 0 then 64 else 32)) (.none) (.predDst) [15] (barOk f 3) (true) with cls := some .ld }
  | .binval f => some { mForm f 36 6 (.none) (.src gsz (if f.space == 0 then 64 else 32)) (.none) (.predDst) [15] (barOk f 3) (true) with cls := some .ld }
  | .cmake f => some (rForm f 37 0 (.handleDst) (.src anyK 32) (.src anyK 32) (.predDst) [15] false false 0 false (f.func == 0))
  | .cjoin f => some (rForm f 37 1 (.handleDst) (.src anyK 32) (.src anyK 32) (.predDst) [15] false false 0 false (f.func == 0))
  | .cleave f => some (rForm f 37 2 (.handleDst) (.none) (.none) (.predDst) [15] false false 0 false (f.func == 0))
  | .cfree f => some (rForm f 37 3 (.handleDst) (.none) (.none) (.predDst) [15] false false 0 false (f.func == 0))
  | .cquery f => some (rForm f 37 4 (.dst gsz 64) (.handleSrc) (.none) (.predDst) [15] false false 0 false (f.func == 0))
  | .cbar f => some (rForm f 38 0 (.dst gsz 32) (.handleSrc) (.src anyK 32) (.predDst) [15] false false 0 false (f.func == 0))
  | .cvote f => some (rForm f 38 1 (.predDst) (.handleSrc) (.none) (.predDst) [15] false false 0 true (fBits f.func 2 && fld f.func 0 2 != 3))
  | .cred f => some (rForm f 38 2 (.dst gs (tyW f.ty)) (.handleSrc) (.srcReg (tyW f.ty)) (.predDst) [2,3,6,7,8,9,10,11] (isFloat f.ty) false 0 false (fBits f.func 3 && redOpOk f.ty (fld f.func 0 3)))
  | .vld f => some { xForm f 40 0 (.elemDst) (.coord) (.none) (.none) (volOk f && xBits f 0) (true) (.vol) with cls := some .ld, lead := false }
  | .vst f => some { xForm f 40 1 (.none) (.coord) (.elemSrc) (.none) (volOk f && xBits f 0) (true) (.vol) with cls := some .st, lead := false }
  | .vred f => some { xForm f 40 2 (.none) (.coord) (.elemSrc) (.none) (volOk f && xBits f 8 && atomOpOk (fld f.flags 4 4) (fld f.flags 0 4)) (true) (.vol) with cls := some .st, need := .elem (fld f.flags 0 4), lead := false }
  | .vprobe f => some { xForm f 41 0 (.dst gO 64) (.coord) (.none) (.none) (volOk f && xBits f 0) (true) (.vol) with cls := some .ld, lead := false }
  | .vtouch f => some { xForm f 41 1 (.dst gz 64) (.coord) (.none) (.none) (volOk f && xBits f 0) (true) (.vol) with cls := some .ld, lead := false }
  | .vfree f => some { xForm f 42 0 (.none) (.coord) (.none) (.none) (volOk f && xBits f 0) (true) (.vol) with lead := false }
  | .vfreeAll f => some { xForm f 42 0 (.none) (.none) (.none) (.none) (volOk f && f.flags == 0x200) (true) (.vol) with lead := false }
  | .vpool f => some (xForm f 42 1 (.predDst) (.src gsz 64) (.src gsz 64) (.src gsz 32) (noSlots f && xBits f 0) (true) (.none))
  | .vinv f => some { xForm f 42 2 (.none) (.none) (.none) (.none) (volOk f && xBits f 0) (true) (.vol) with lead := false }
  | .cpy f => some { xForm f 44 0 (.none) (.coord) (.src gsz 32) (.src gsz (if fld f.flags 8 2 == 2 then 64 else 32)) (copyFlags f && !copyEach f && f.fslot == 0 && f.cv == 0) (decide (copySrc f = 0 ∧ 1 ≤ copyDst f)) (.tensor) with cls := some .cp, excl := copyExcl f }
  | .cpym f => some { xForm f 44 1 (.none) (.coord) (.src gsz 32) (.src gsz (if fld f.flags 8 2 == 2 then 64 else 32)) (copyFlags f && f.fslot == 0 && f.cv == 0) (decide (copySrc f = 0 ∧ copyDst f = 2)) (.tensor) with cls := some .cp, excl := copyExcl f }
  | .cpys f => some { xForm f 44 2 (.none) (.coord) (.src gsz 32) (.src gsz (if fld f.flags 8 2 == 2 then 64 else 32)) (copyFlags f && !copyEach f && f.fslot == 0 && f.cv == 0) (decide ((copySrc f = 1 ∨ copySrc f = 2 ∨ copySrc f = 4) ∧ copyDst f = 0)) (.tensor) with cls := some .cp, excl := copyExcl f }
  | .cpyr f => some { xForm f 44 3 (.none) (.quad) (.src gsz 32) (.src gsz (if fld f.flags 8 2 == 2 then 64 else 32)) (copyFlags f && !copyEach f && noSlots f) (decide (copySrc f ≠ 3)) (.none) with cls := some .cp, excl := copyExcl f }
  | .owait f => some (rForm f 45 0 (.none) (.none) (.none) (.none) [15] false false 0 false (fBits f.func 16))
  | .ofence f => some (rForm f 45 1 (.none) (.none) (.none) (.none) [15] false false 0 false (f.func == 0))
  | .mset f => some { xForm f 48 0 (.predDst) (.src gsz 32) (.none) (.none) (f.fslot == 0 && f.rslot == 0 && xBits f 0) (true) (.cv) with excl := true }
  | .mzero f => some { xForm f 48 1 (.none) (.none) (.none) (.none) (noSlots f && xBits f 8 && f.flags != 0) (true) (.none) with cls := some .mx, excl := true }
  -- in a lead, C is `zr` where the operation has scales (DEDUCED, log 20)
  | .mma f => some { xForm f 49 0 (.none) (.src sz 64) (.runS ((fld f.flags 4 4 + 2) / 2)) (.runG (fld f.flags 4 4 + 1)) (f.rslot == 0 && xBits f 11) (true) (.fmtCv) with cls := some .mx, excl := true, need := .noScale }
  -- in a lead, C is `zr` where the operation has scales (DEDUCED, log 20)
  | .mmas f => some { xForm f 49 1 (.none) (.src sz 64) (.runS ((fld f.flags 4 4 + 2) / 2)) (.runG (fld f.flags 4 4 + 1)) (f.rslot == 0 && xBits f 11) (true) (.fmtCv) with cls := some .mx, excl := true, need := .noScale }
  | .mdrain f => some { xForm f 50 0 (.none) (.src gsz (if fld f.flags 9 2 == 0 then 64 else 32)) (.src gsz 64) (.none) (f.rslot == 0 && f.cv == 0 && xBits f 11 && fld f.flags 9 2 != 3 && fld f.flags 7 2 == 0 && drainType (fld f.flags 0 4)) (true) (.fmt) with cls := some .mx, excl := true, need := .drain (fld f.flags 0 4) }
  | .mdrainAdd f => some { xForm f 50 0 (.none) (.src gsz (if fld f.flags 9 2 == 0 then 64 else 32)) (.src gsz 64) (.none) (f.rslot == 0 && f.cv == 0 && xBits f 11 && fld f.flags 9 2 != 3 && fld f.flags 7 2 == 1 && addType (fld f.flags 0 4)) (true) (.fmt) with cls := some .mx, excl := true, need := .drain (fld f.flags 0 4) }
  | .mdrainAddOrd f => some { xForm f 50 0 (.none) (.src gsz (if fld f.flags 9 2 == 0 then 64 else 32)) (.src gsz 64) (.src gsz 64) (f.rslot == 0 && f.cv == 0 && xBits f 11 && fld f.flags 9 2 != 3 && fld f.flags 7 2 == 2 && fld f.flags 9 2 == 0 && addType (fld f.flags 0 4)) (true) (.fmt) with cls := some .mx, excl := true, need := .drain (fld f.flags 0 4) }
  | .mchk f => some { xForm f 50 1 (.dst gsz 32) (.none) (.none) (.none) (noSlots f && xBits f 1) (true) (.none) with excl := true }
  | .qdual f => some { xForm f 51 0 (.none) (.src gsz 32) (.src gsz 32) (.none) (f.rslot == 0 && f.cv == 0 && xBits f 4 && decide (9 ≤ fld f.flags 0 4 ∧ fld f.flags 0 4 ≤ 11)) (true) (.fmt) with cls := some .mx, need := .quant, excl := true }
  | .qscan f => some { xForm f 51 1 (.none) (.src gsz 32) (.none) (.none) (f.rslot == 0 && f.cv == 0 && xBits f 11 && fld f.flags 0 8 == 0) (true) (.fmt) with cls := some .mx, need := .scan, excl := true }
  | .cast f => some { xForm f 54 0 (.dst gz 64) (.src gsz 64) (.src gsz 32) (.src gO 64) (f.fslot == 0 && f.cv == 0 && decide (f.rslot.toNat ≤ 3) && xBits f 0) (true) (.rule) with cls := some .ld, lead := false }
  | .slotldRd f => some { xForm f 54 1 (.dst gsz 64) (.src gsz 64) (.src gsz 32) (.none) (noSlots f && f.flags == 0) (true) (.none) with cls := some .ld }
  | .slotldMark f => some { xForm f 54 1 (.dst gsz 64) (.src gsz 64) (.src gsz 32) (.none) (noSlots f && f.flags == 1) (true) (.none) with cls := some .ld }
  | .slotldHdr f => some { xForm f 54 1 (.dst gsz 64) (.src gsz 64) (.none) (.none) (noSlots f && f.flags == 2) (true) (.none) with cls := some .ld }
  | .frontOpen f => some { xForm f 54 2 (.dst gsz 64) (.src gsz 64) (.none) (.none) (noSlots f && f.flags == 0) (true) (.none) with cls := some .ld }
  | .frontPass f => some { xForm f 54 2 (.dst gsz 64) (.src gsz 64) (.none) (.none) (f.fslot == 0 && f.cv == 0 && decide (f.rslot.toNat ≤ 3) && f.flags == 1) (true) (.rule) with cls := some .ld }
  | .smerge f => some { rForm f 55 0 (.dst gO 64) (.src gO 64) (.src gO 64) (.none) [9] true false 0 false (f.func == 0) with lead := false }
  | .rngk f => some { rForm f 56 0 (.dst gs (if f.ty == 7 then 64 else 32)) (.src gsz 64) (.src gsz 64) (.src gsz 32) [7,9] false false 0 false (f.func == 0) with lead := (f.ty == 7) }
  | .txtake f => some { rForm f 58 0 (.dst gsz 64) (.src gsz 64) (.src gsz 32) (.none) [15] false false 0 false (fBits f.func 2) with cls := some .ld }
  | .txemit f => some { rForm f 58 1 (.dst gsz 64) (.src gsz 64) (.src gsz 32) (.none) [15] false false 0 false (f.func == 0) with cls := some .ld }
  | .txclose f => some { rForm f 58 2 (.dst gsz 64) (.src gsz 32) (.src gsz 32) (.none) [15] false false 0 false (f.func == 0) with cls := some .ld }
  | .txstat f => some { rForm f 58 3 (.dst gsz 64) (.src gsz 32) (.none) (.none) [15] false false 0 false (f.func == 0) with cls := some .ld }
  | .vocload f => some { xForm f 59 0 (.dst gsz 64) (.src gsz 64) (.none) (.none) (noSlots f && xBits f 4) (true) (.none) with lvl := .s }
  | .trap f => some { rForm f 60 0 (.dst gsz 64) (.src gsz 64) (.src gsz 64) (.none) [15] false false 0 false (fBits f.func 8) with lvl := .ts }
  | .sretResume f => some { rForm f 60 1 (.predDst) (.src gsz 32) (.src gsz 64) (.none) [15] false false 0 false (f.func == 0) with lead := false, lvl := .sm }
  | .sretReissue f => some { rForm f 60 1 (.predDst) (.src gsz 32) (.src gsz 64) (.none) [15] false false 0 false (f.func == 1) with lead := false, lvl := .sm }
  | .sretReissueNomatch f => some { rForm f 60 1 (.predDst) (.src gsz 32) (.src gsz 64) (.none) [15] false false 0 false (f.func == 2) with lead := false, lvl := .sm }
  | .sretEndGrid f => some { rForm f 60 1 (.predDst) (.src gsz 32) (.src gsz 64) (.none) [15] false false 0 false (f.func == 3) with lead := false, lvl := .sm }
  | .yield f => some { rForm f 60 2 (.none) (.none) (.none) (.none) [15] false false 0 false (f.func == 0) with lvl := .t }
  | .brk f => some { rForm f 60 3 (.none) (.none) (.none) (.none) [15] false false 0 false (fBits f.func 8) with lvl := .ts }
  | .crd f => some { rForm f 61 0 (.dst gsz (tyW f.ty)) (.none) (.none) (.none) [6,7] false false 0 false (fBits f.func 12) with need := .ctl f.func.toNat none }
  | .cwr f => some { rForm f 61 1 (.none) (.src gsz (tyW f.ty)) (.none) (.none) [6,7] false false 0 false (fBits f.func 12) with need := .ctl f.func.toNat (some (tyW f.ty)) }
  | .perf f => some { rForm f 61 2 (.dst gsz (tyW f.ty)) (.none) (.none) (.none) [6,7] false false 0 false (fBits f.func 3) with lvl := .ts }
  | .sclear f => some { rForm f 62 0 (.dst gz 32) (.src gsz 32) (.none) (.none) [15] false false 0 false (f.func == 0) with lead := false, lvl := .s }
  | .lineFetchCheck _ _ => none
  | .lineRefetch _ _ => none
  | .issueBundle _ => none
  | .leadIssue _ => none
  | .threadAged _ _ => none
  | .loadReturn _ _ => none
  | .storePerformed _ _ => none
  | .atomicAtHome _ _ => none
  | .tlbMissWalk _ _ _ => none
  | .ldgaLanding _ _ => none
  | .waitPhaseTimeout _ => none
  | .collectiveWatchdogTimeout _ => none
  | .barrierWaitWatchdog _ => none
  | .copyCommandAccept _ _ => none
  | .copyChunkLand _ _ _ => none
  | .copyCommandComplete _ _ => none
  | .matrixOpStart _ _ _ => none
  | .matrixOpComplete _ _ => none
  | .setWatchdogTimeout _ _ _ => none
  | .orderedDrainApply _ _ => none
  | .orderedDrainTimeout _ _ => none
  | .doorbell _ _ _ _ => none
  | .lqReset _ _ _ _ => none
  | .lqCancel _ _ _ _ => none
  | .registerWrite _ _ => none
  | .launchValidate _ _ _ => none
  | .launchStart _ => none
  | .teamPlace _ _ _ => none
  | .seasonEnd _ _ => none
  | .preempt _ _ => none
  | .reconvergenceTimeout _ _ => none
  | .copySuspend _ _ => none
  | .teamSave _ _ => none
  | .teamRestore _ _ _ => none
  | .wstoreRegionSave _ _ => none
  | .coopWait _ => none
  | .coopResume _ => none
  | .fworkServe _ => none
  | .gridEndTrap _ => none
  | .gridComplete _ => none
  | .resumableTrapPost _ => none
  | .supervisorTrap _ => none
  | .uetPacket _ _ => none
  | .requestFrame _ => none
  | .cancelFrame _ => none
  | .tokenise _ => none
  | .replyDataFrame _ _ => none
  | .vfReset _ _ => none
  | .tlbinvAddress _ _ _ => none
  | .tlbinvVf _ _ => none
  | .tlbinvComplete _ _ => none
  | .partitionForm _ _ => none
  | .firewallDrop _ _ _ => none
  | .chaskoPostedWrite _ _ _ _ _ => none
  | .chaskoRead _ _ _ _ _ _ => none
  | .chaskoAtomic _ _ _ _ _ _ _ _ => none
  | .chaskoFlitRetry _ => none
  | .chaskoLinkDown _ => none
  | .peerAccess _ _ _ _ _ => none
  | .refreshScrub => none
  | .monitorLockstepMismatch _ => none
  | .monitorReload => none
  | .servingKernelRestart => none
  | .queueUnfreeze => none
  | .osPanic => none
  | .osRestart => none
  | .thermalThrottle => none
  | .bringUp => none
  | .getVersion _ => none
  | .getCapabilities _ => none
  | .negotiateAlgorithms _ _ => none
  | .getDigests _ => none
  | .getCertificate _ => none
  | .challenge _ _ => none
  | .getMeasurements _ _ _ _ => none
  | .keyExchange _ _ => none
  | .finish _ => none
  | .endSession _ => none
  | .stageTwoEntryWrite _ _ _ _ => none
  | .closeFrameSent _ _ => none
/-- The checks of R58 to R68 that the word alone decides: guard, retain, operand fields and modifier. -/
def Form.wordOk (f : Form) : Bool :=
  f.ok && f.cm.guard != 15
  && f.d.ok f.cm.d && f.a.ok f.cm.a && f.b.ok f.cm.b && f.c.ok f.cm.c
  && (match f.cm.retain.toNat with
      | 0 => true
      | 1 => f.a.retainOk f.cm.a
      | 2 => f.b.retainOk f.cm.b
      | _ => f.c.retainOk f.cm.c)

end Sys2Proof.Machine
end

