-- ==== Sys2Proof/WellFormed.lean ====
section
/-!
DEFINITION. Well-formed instructions: the field, operand and format checks that an instruction's word alone decides
(spec/03 R58 to R68). Checks that need the running agent (its stream, level, register allocation and launch slots) stand in
`Machine/Operands.lean`.
-/

namespace Sys2Proof

/-- Every field holds a value that the form of the instruction allows. An operation has no word and is not well-formed. -/
def Instr.wellFormed (i : Instr) : Bool :=
  match Machine.form i with
  | some f => f.wordOk
  | none => false

end Sys2Proof
end

