-- ==== Sys2Proof/Decode.lean ====
section
/-!
DEFINITION. Decoding and encoding of the 96-bit instruction (spec/03 R57 to R70). Decoding is total: it gives an instruction
or says by name why the word is none. The encoder is written from the same tables.
-/

namespace Sys2Proof

open Machine (fld)

/-- Why a word is no instruction; the issue of either traps `ILL_ENC` (R58 to R60, R63 to R68, R70). -/
inductive Reject where
  /-- the major and minor are not assigned (R69, R70) -/
  | unassigned
  /-- a field holds a value that the form does not allow (R58 to R68 and the class chapters) -/
  | badField
  /-- fewer than 12 bytes stand there -/
  | short
deriving DecidableEq, Repr

/-- An operand field from its 11 bits (R58). -/
def Opnd.ofBits (w : BitVec 11) : Opnd :=
  match (w.extractLsb' 9 2).toNat with
  | 0 => .g (w.extractLsb' 0 9)
  | 1 => .s (w.extractLsb' 0 9)
  | 2 => .lit (w.extractLsb' 0 9)
  | _ => .imm (w.extractLsb' 0 9)

/-- The 11 bits of an operand field (R58). -/
def Opnd.bits : Opnd → BitVec 11
  | .g i => 0#2 ++ i
  | .s i => 1#2 ++ i
  | .lit i => 2#2 ++ i
  | .imm i => 3#2 ++ i

/-- Major and minor of a word (R57). -/
def majorOf (w : IWord) : Nat := (w.extractLsb' 90 6).toNat
def minorOf (w : IWord) : Nat := (w.extractLsb' 84 6).toNat

/-- The fields that every instruction has (R57). -/
def commonOf (w : IWord) : Common :=
  { guard := w.extractLsb' 80 4, retain := w.extractLsb' 78 2,
    d := .ofBits (w.extractLsb' 67 11), a := .ofBits (w.extractLsb' 56 11),
    b := .ofBits (w.extractLsb' 45 11), c := .ofBits (w.extractLsb' 34 11) }

/-- The fields of an R format word (R64). -/
def rOf (w : IWord) : RForm :=
  { cm := commonOf w, ty := w.extractLsb' 30 4, round := w.extractLsb' 28 2, sat := w.extractLsb' 27 1,
    mods := w.extractLsb' 21 6, pred2 := w.extractLsb' 17 4, func := w.extractLsb' 0 17 }

/-- The fields of an I format word (R65). -/
def iOf (w : IWord) : IForm :=
  { cm := commonOf w, ity := w.extractLsb' 32 2, imm := w.extractLsb' 0 32 }

/-- The fields of an M format word (R66). -/
def mOf (w : IWord) : MForm :=
  { cm := commonOf w, size := w.extractLsb' 30 4, order := w.extractLsb' 27 3, scope := w.extractLsb' 24 3,
    cache := w.extractLsb' 22 2, space := w.extractLsb' 20 2, offset := w.extractLsb' 0 20 }

/-- The fields of a B format word (R67). -/
def bOf (w : IWord) : BForm :=
  { cm := commonOf w, slot := w.extractLsb' 31 3, resv := w.extractLsb' 28 3, offset := w.extractLsb' 0 28 }

/-- The fields of an X format word (R68). -/
def xOf (w : IWord) : XForm :=
  { cm := commonOf w, fslot := w.extractLsb' 31 3, rslot := w.extractLsb' 26 5, cv := w.extractLsb' 22 4,
    flags := w.extractLsb' 0 22 }

/-- The word of a major, a minor, the common fields and a modifier (R57). -/
def packWord (major minor : Nat) (c : Common) (md : BitVec 34) : IWord :=
  BitVec.ofNat 6 major ++ BitVec.ofNat 6 minor ++ c.guard ++ c.retain ++ c.d.bits ++ c.a.bits ++ c.b.bits ++ c.c.bits ++ md

def packR (major minor : Nat) (f : RForm) : IWord :=
  packWord major minor f.cm (f.ty ++ f.round ++ f.sat ++ f.mods ++ f.pred2 ++ f.func)

def packI (major minor : Nat) (f : IForm) : IWord :=
  packWord major minor f.cm (f.ity ++ f.imm)

def packM (major minor : Nat) (f : MForm) : IWord :=
  packWord major minor f.cm (f.size ++ f.order ++ f.scope ++ f.cache ++ f.space ++ f.offset)

def packB (major minor : Nat) (f : BForm) : IWord :=
  packWord major minor f.cm (f.slot ++ f.resv ++ f.offset)

def packX (major minor : Nat) (f : XForm) : IWord :=
  packWord major minor f.cm (f.fslot ++ f.rslot ++ f.cv ++ f.flags)

/-! The opcode map of R69, one function for each major: the instruction of a minor, its fields not yet checked. -/

def decodeMajor1 (minor : Nat) (w : IWord) : Option Instr :=
  match minor with
  | 0 => some (.iadd (rOf w))
  | 1 => some (.isub (rOf w))
  | 2 => some (.imul (rOf w))
  | 3 => some (.imulh (rOf w))
  | 4 => some (.imad (rOf w))
  | 5 => some (.imadw (rOf w))
  | 6 => some (.idiv (rOf w))
  | 7 => some (.irem (rOf w))
  | 8 => some (.iabs (rOf w))
  | 9 => some (.ineg (rOf w))
  | 10 => some (.imin (rOf w))
  | 11 => some (.imax (rOf w))
  | 32 => some (.iaddImm (iOf w))
  | 34 => some (.imulImm (iOf w))
  | 42 => some (.iminImm (iOf w))
  | 43 => some (.imaxImm (iOf w))
  | _ => none

def decodeMajor2 (minor : Nat) (w : IWord) : Option Instr :=
  match minor with
  | 0 => some (.and (rOf w))
  | 1 => some (.or (rOf w))
  | 2 => some (.xor (rOf w))
  | 3 => some (.andn (rOf w))
  | 4 => some (.shl (rOf w))
  | 5 => some (.shr (rOf w))
  | 6 => some (.sra (rOf w))
  | 7 => some (.rot (rOf w))
  | 32 => some (.andImm (iOf w))
  | 33 => some (.orImm (iOf w))
  | 34 => some (.xorImm (iOf w))
  | 35 => some (.andnImm (iOf w))
  | 36 => some (.shlImm (iOf w))
  | 37 => some (.shrImm (iOf w))
  | 38 => some (.sraImm (iOf w))
  | 39 => some (.rotImm (iOf w))
  | _ => none

def decodeMajor3 (minor : Nat) (w : IWord) : Option Instr :=
  match minor with
  | 0 => some (.bfx (rOf w))
  | 1 => some (.bfi (rOf w))
  | 2 => some (.popc (rOf w))
  | 3 => some (.clz (rOf w))
  | 4 => some (.brev (rOf w))
  | _ => none

def decodeMajor4 (minor : Nat) (w : IWord) : Option Instr :=
  match minor with
  | 0 => some (.isetp (rOf w))
  | 1 => some (.sel (rOf w))
  | 2 => some (.plog (rOf w))
  | _ => none

def decodeMajor5 (minor : Nat) (w : IWord) : Option Instr :=
  match minor with
  | 0 => some (.mov (rOf w))
  | 1 => some (.lea (rOf w))
  | 32 => some (.movi (iOf w))
  | 33 => some (.movh (iOf w))
  | 34 => some (.leaImm (iOf w))
  | _ => none

def decodeMajor6 (minor : Nat) (w : IWord) : Option Instr :=
  match minor with
  | 0 => some (.nop (rOf w))
  | 1 => some (.sread (rOf w))
  | _ => none

def decodeMajor8 (minor : Nat) (w : IWord) : Option Instr :=
  match minor with
  | 0 => some (.ld (mOf w))
  | 1 => some (.st (mOf w))
  | 2 => some (.lda (mOf w))
  | 3 => some (.sta (mOf w))
  | _ => none

def decodeMajor9 (minor : Nat) (w : IWord) : Option Instr :=
  match minor with
  | 0 => some (.ldcs (mOf w))
  | 1 => some (.stcs (mOf w))
  | _ => none

def decodeMajor10 (minor : Nat) (w : IWord) : Option Instr :=
  match minor with
  | 0 => some (.ldx (mOf w))
  | 1 => some (.stx (mOf w))
  | 2 => some (.ldga (mOf w))
  | _ => none

def decodeMajor11 (minor : Nat) (w : IWord) : Option Instr :=
  match minor with
  | 0 => some (if (mOf w).cache == 3 then .prefL2 (mOf w) else .prefL1 (mOf w))
  | 1 => some (if (mOf w).size == 1 then .cctlDl (mOf w) else if (mOf w).size == 2 then .cctlDa (mOf w) else .cctlIc (mOf w))
  | _ => none

def decodeMajor12 (minor : Nat) (w : IWord) : Option Instr :=
  match minor with
  | 0 => some (.fadd (rOf w))
  | 1 => some (.fsub (rOf w))
  | 2 => some (.fmul (rOf w))
  | 3 => some (.ffma (rOf w))
  | 4 => some (.fmin (rOf w))
  | 5 => some (.fmax (rOf w))
  | 32 => some (.faddImm (iOf w))
  | 34 => some (.fmulImm (iOf w))
  | 35 => some (.ffmaImm (iOf w))
  | _ => none

def decodeMajor13 (minor : Nat) (w : IWord) : Option Instr :=
  match minor with
  | 0 => some (.fsetp (rOf w))
  | 1 => some (.fclass (rOf w))
  | _ => none

def decodeMajor14 (minor : Nat) (w : IWord) : Option Instr :=
  match minor with
  | 0 => some (.fdiv (rOf w))
  | 1 => some (.fsqrt (rOf w))
  | 2 => some (.rcps (rOf w))
  | 3 => some (.rsqs (rOf w))
  | _ => none

def decodeMajor15 (minor : Nat) (w : IWord) : Option Instr :=
  match minor with
  | 0 => some (.fexp2 (rOf w))
  | 1 => some (.flog2 (rOf w))
  | _ => none

def decodeMajor16 (minor : Nat) (w : IWord) : Option Instr :=
  match minor with
  | 0 => some (.frnd (rOf w))
  | 1 => some (.fscale (rOf w))
  | 2 => some (.fexpo (rOf w))
  | _ => none

def decodeMajor17 (minor : Nat) (w : IWord) : Option Instr :=
  match minor with
  | 0 => some (.f2i (rOf w))
  | 1 => some (.i2f (rOf w))
  | 2 => some (.fcvt (rOf w))
  | _ => none

def decodeMajor20 (minor : Nat) (w : IWord) : Option Instr :=
  match minor with
  | 0 => some (.bra (bOf w))
  | 1 => some (.call (bOf w))
  | _ => none

def decodeMajor21 (minor : Nat) (w : IWord) : Option Instr :=
  match minor with
  | 0 => some (.brx (rOf w))
  | 1 => some (.callx (rOf w))
  | 2 => some (.ret (rOf w))
  | _ => none

def decodeMajor22 (minor : Nat) (w : IWord) : Option Instr :=
  match minor with
  | 0 => some (.exit (rOf w))
  | _ => none

def decodeMajor24 (minor : Nat) (w : IWord) : Option Instr :=
  match minor with
  | 0 => some (.vote (rOf w))
  | 1 => some (.shfl (rOf w))
  | 2 => some (.matchv (rOf w))
  | _ => none

def decodeMajor25 (minor : Nat) (w : IWord) : Option Instr :=
  match minor with
  | 0 => some (.gred (rOf w))
  | 1 => some (.scan (rOf w))
  | 2 => some (.segred (rOf w))
  | _ => none

def decodeMajor26 (minor : Nat) (w : IWord) : Option Instr :=
  match minor with
  | 0 => some (.rebal (rOf w))
  | _ => none

def decodeMajor28 (minor : Nat) (w : IWord) : Option Instr :=
  match minor with
  | 0 => some (.lds (mOf w))
  | _ => none

def decodeMajor29 (minor : Nat) (w : IWord) : Option Instr :=
  match minor with
  | 0 => some (.dqpush (rOf w))
  | 1 => some (.dqpop (rOf w))
  | _ => none

def decodeMajor30 (minor : Nat) (w : IWord) : Option Instr :=
  match minor with
  | 0 => some (.lnch (xOf w))
  | 1 => some (.fwork (xOf w))
  | 2 => some (.wgdone (xOf w))
  | _ => none

def decodeMajor32 (minor : Nat) (w : IWord) : Option Instr :=
  match minor with
  | 0 => some (.atom (mOf w))
  | 1 => some (.cas (mOf w))
  | _ => none

def decodeMajor33 (minor : Nat) (w : IWord) : Option Instr :=
  match minor with
  | 0 => some (.atoma (mOf w))
  | _ => none

def decodeMajor34 (minor : Nat) (w : IWord) : Option Instr :=
  match minor with
  | 0 => some (.ticket (mOf w))
  | _ => none

def decodeMajor35 (minor : Nat) (w : IWord) : Option Instr :=
  match minor with
  | 0 => some (.fence (mOf w))
  | _ => none

def decodeMajor36 (minor : Nat) (w : IWord) : Option Instr :=
  match minor with
  | 0 => some (.binit (mOf w))
  | 1 => some (.barv (mOf w))
  | 2 => some (.bexp (mOf w))
  | 3 => some (.bwait (mOf w))
  | 4 => some (.btest (mOf w))
  | 5 => some (.bexit (mOf w))
  | 6 => some (.binval (mOf w))
  | _ => none

def decodeMajor37 (minor : Nat) (w : IWord) : Option Instr :=
  match minor with
  | 0 => some (.cmake (rOf w))
  | 1 => some (.cjoin (rOf w))
  | 2 => some (.cleave (rOf w))
  | 3 => some (.cfree (rOf w))
  | 4 => some (.cquery (rOf w))
  | _ => none

def decodeMajor38 (minor : Nat) (w : IWord) : Option Instr :=
  match minor with
  | 0 => some (.cbar (rOf w))
  | 1 => some (.cvote (rOf w))
  | 2 => some (.cred (rOf w))
  | _ => none

def decodeMajor40 (minor : Nat) (w : IWord) : Option Instr :=
  match minor with
  | 0 => some (.vld (xOf w))
  | 1 => some (.vst (xOf w))
  | 2 => some (.vred (xOf w))
  | _ => none

def decodeMajor41 (minor : Nat) (w : IWord) : Option Instr :=
  match minor with
  | 0 => some (.vprobe (xOf w))
  | 1 => some (.vtouch (xOf w))
  | _ => none

def decodeMajor42 (minor : Nat) (w : IWord) : Option Instr :=
  match minor with
  | 0 => some (if fld (xOf w).flags 9 1 == 1 then .vfreeAll (xOf w) else .vfree (xOf w))
  | 1 => some (.vpool (xOf w))
  | 2 => some (.vinv (xOf w))
  | _ => none

def decodeMajor44 (minor : Nat) (w : IWord) : Option Instr :=
  match minor with
  | 0 => some (.cpy (xOf w))
  | 1 => some (.cpym (xOf w))
  | 2 => some (.cpys (xOf w))
  | 3 => some (.cpyr (xOf w))
  | _ => none

def decodeMajor45 (minor : Nat) (w : IWord) : Option Instr :=
  match minor with
  | 0 => some (.owait (rOf w))
  | 1 => some (.ofence (rOf w))
  | _ => none

def decodeMajor48 (minor : Nat) (w : IWord) : Option Instr :=
  match minor with
  | 0 => some (.mset (xOf w))
  | 1 => some (.mzero (xOf w))
  | _ => none

def decodeMajor49 (minor : Nat) (w : IWord) : Option Instr :=
  match minor with
  | 0 => some (.mma (xOf w))
  | 1 => some (.mmas (xOf w))
  | _ => none

def decodeMajor50 (minor : Nat) (w : IWord) : Option Instr :=
  match minor with
  | 0 => some (if fld (xOf w).flags 7 2 == 1 then .mdrainAdd (xOf w)
      else if fld (xOf w).flags 7 2 == 2 then .mdrainAddOrd (xOf w) else .mdrain (xOf w))
  | 1 => some (.mchk (xOf w))
  | _ => none

def decodeMajor51 (minor : Nat) (w : IWord) : Option Instr :=
  match minor with
  | 0 => some (.qdual (xOf w))
  | 1 => some (.qscan (xOf w))
  | _ => none

def decodeMajor54 (minor : Nat) (w : IWord) : Option Instr :=
  match minor with
  | 0 => some (.cast (xOf w))
  | 1 => some (if (xOf w).flags == 1 then .slotldMark (xOf w) else if (xOf w).flags == 2 then .slotldHdr (xOf w) else .slotldRd (xOf w))
  | 2 => some (if (xOf w).flags == 1 then .frontPass (xOf w) else .frontOpen (xOf w))
  | _ => none

def decodeMajor55 (minor : Nat) (w : IWord) : Option Instr :=
  match minor with
  | 0 => some (.smerge (rOf w))
  | _ => none

def decodeMajor56 (minor : Nat) (w : IWord) : Option Instr :=
  match minor with
  | 0 => some (.rngk (rOf w))
  | _ => none

def decodeMajor58 (minor : Nat) (w : IWord) : Option Instr :=
  match minor with
  | 0 => some (.txtake (rOf w))
  | 1 => some (.txemit (rOf w))
  | 2 => some (.txclose (rOf w))
  | 3 => some (.txstat (rOf w))
  | _ => none

def decodeMajor59 (minor : Nat) (w : IWord) : Option Instr :=
  match minor with
  | 0 => some (.vocload (xOf w))
  | _ => none

def decodeMajor60 (minor : Nat) (w : IWord) : Option Instr :=
  match minor with
  | 0 => some (.trap (rOf w))
  | 1 => some (if (rOf w).func == 1 then .sretReissue (rOf w) else if (rOf w).func == 2 then .sretReissueNomatch (rOf w)
      else if (rOf w).func == 3 then .sretEndGrid (rOf w) else .sretResume (rOf w))
  | 2 => some (.yield (rOf w))
  | 3 => some (.brk (rOf w))
  | _ => none

def decodeMajor61 (minor : Nat) (w : IWord) : Option Instr :=
  match minor with
  | 0 => some (.crd (rOf w))
  | 1 => some (.cwr (rOf w))
  | 2 => some (.perf (rOf w))
  | _ => none

def decodeMajor62 (minor : Nat) (w : IWord) : Option Instr :=
  match minor with
  | 0 => some (.sclear (rOf w))
  | _ => none

/-- The instruction that the opcode map of R69 gives a major and minor, its fields not yet checked. -/
def decodeAt (major minor : Nat) (w : IWord) : Option Instr :=
  match major with
  | 1 => decodeMajor1 minor w
  | 2 => decodeMajor2 minor w
  | 3 => decodeMajor3 minor w
  | 4 => decodeMajor4 minor w
  | 5 => decodeMajor5 minor w
  | 6 => decodeMajor6 minor w
  | 8 => decodeMajor8 minor w
  | 9 => decodeMajor9 minor w
  | 10 => decodeMajor10 minor w
  | 11 => decodeMajor11 minor w
  | 12 => decodeMajor12 minor w
  | 13 => decodeMajor13 minor w
  | 14 => decodeMajor14 minor w
  | 15 => decodeMajor15 minor w
  | 16 => decodeMajor16 minor w
  | 17 => decodeMajor17 minor w
  | 20 => decodeMajor20 minor w
  | 21 => decodeMajor21 minor w
  | 22 => decodeMajor22 minor w
  | 24 => decodeMajor24 minor w
  | 25 => decodeMajor25 minor w
  | 26 => decodeMajor26 minor w
  | 28 => decodeMajor28 minor w
  | 29 => decodeMajor29 minor w
  | 30 => decodeMajor30 minor w
  | 32 => decodeMajor32 minor w
  | 33 => decodeMajor33 minor w
  | 34 => decodeMajor34 minor w
  | 35 => decodeMajor35 minor w
  | 36 => decodeMajor36 minor w
  | 37 => decodeMajor37 minor w
  | 38 => decodeMajor38 minor w
  | 40 => decodeMajor40 minor w
  | 41 => decodeMajor41 minor w
  | 42 => decodeMajor42 minor w
  | 44 => decodeMajor44 minor w
  | 45 => decodeMajor45 minor w
  | 48 => decodeMajor48 minor w
  | 49 => decodeMajor49 minor w
  | 50 => decodeMajor50 minor w
  | 51 => decodeMajor51 minor w
  | 54 => decodeMajor54 minor w
  | 55 => decodeMajor55 minor w
  | 56 => decodeMajor56 minor w
  | 58 => decodeMajor58 minor w
  | 59 => decodeMajor59 minor w
  | 60 => decodeMajor60 minor w
  | 61 => decodeMajor61 minor w
  | 62 => decodeMajor62 minor w
  | _ => none

/-- Decode one word: the opcode check of R70, then the field checks of R58 to R68. -/
def decode (w : IWord) : Except Reject Instr :=
  match decodeAt (majorOf w) (minorOf w) w with
  | none => .error .unassigned
  | some i => if i.wellFormed then .ok i else .error .badField

/-- The word of an instruction (R57 to R69, and the encoding table of its class chapter). An operation has no word. -/
def encode : Instr → IWord
  | .iadd f => packR 1 0 f
  | .iaddImm f => packI 1 32 f
  | .isub f => packR 1 1 f
  | .imul f => packR 1 2 f
  | .imulImm f => packI 1 34 f
  | .imulh f => packR 1 3 f
  | .imad f => packR 1 4 f
  | .imadw f => packR 1 5 f
  | .idiv f => packR 1 6 f
  | .irem f => packR 1 7 f
  | .iabs f => packR 1 8 f
  | .ineg f => packR 1 9 f
  | .imin f => packR 1 10 f
  | .iminImm f => packI 1 42 f
  | .imax f => packR 1 11 f
  | .imaxImm f => packI 1 43 f
  | .and f => packR 2 0 f
  | .andImm f => packI 2 32 f
  | .or f => packR 2 1 f
  | .orImm f => packI 2 33 f
  | .xor f => packR 2 2 f
  | .xorImm f => packI 2 34 f
  | .andn f => packR 2 3 f
  | .andnImm f => packI 2 35 f
  | .shl f => packR 2 4 f
  | .shlImm f => packI 2 36 f
  | .shr f => packR 2 5 f
  | .shrImm f => packI 2 37 f
  | .sra f => packR 2 6 f
  | .sraImm f => packI 2 38 f
  | .rot f => packR 2 7 f
  | .rotImm f => packI 2 39 f
  | .bfx f => packR 3 0 f
  | .bfi f => packR 3 1 f
  | .popc f => packR 3 2 f
  | .clz f => packR 3 3 f
  | .brev f => packR 3 4 f
  | .isetp f => packR 4 0 f
  | .sel f => packR 4 1 f
  | .plog f => packR 4 2 f
  | .mov f => packR 5 0 f
  | .movi f => packI 5 32 f
  | .movh f => packI 5 33 f
  | .lea f => packR 5 1 f
  | .leaImm f => packI 5 34 f
  | .nop f => packR 6 0 f
  | .sread f => packR 6 1 f
  | .ld f => packM 8 0 f
  | .st f => packM 8 1 f
  | .lda f => packM 8 2 f
  | .sta f => packM 8 3 f
  | .ldcs f => packM 9 0 f
  | .stcs f => packM 9 1 f
  | .ldx f => packM 10 0 f
  | .stx f => packM 10 1 f
  | .ldga f => packM 10 2 f
  | .prefL1 f => packM 11 0 f
  | .prefL2 f => packM 11 0 f
  | .cctlIc f => packM 11 1 f
  | .cctlDl f => packM 11 1 f
  | .cctlDa f => packM 11 1 f
  | .fadd f => packR 12 0 f
  | .faddImm f => packI 12 32 f
  | .fsub f => packR 12 1 f
  | .fmul f => packR 12 2 f
  | .fmulImm f => packI 12 34 f
  | .ffma f => packR 12 3 f
  | .ffmaImm f => packI 12 35 f
  | .fmin f => packR 12 4 f
  | .fmax f => packR 12 5 f
  | .fsetp f => packR 13 0 f
  | .fclass f => packR 13 1 f
  | .fdiv f => packR 14 0 f
  | .fsqrt f => packR 14 1 f
  | .rcps f => packR 14 2 f
  | .rsqs f => packR 14 3 f
  | .fexp2 f => packR 15 0 f
  | .flog2 f => packR 15 1 f
  | .frnd f => packR 16 0 f
  | .fscale f => packR 16 1 f
  | .fexpo f => packR 16 2 f
  | .f2i f => packR 17 0 f
  | .i2f f => packR 17 1 f
  | .fcvt f => packR 17 2 f
  | .bra f => packB 20 0 f
  | .call f => packB 20 1 f
  | .brx f => packR 21 0 f
  | .callx f => packR 21 1 f
  | .ret f => packR 21 2 f
  | .exit f => packR 22 0 f
  | .vote f => packR 24 0 f
  | .shfl f => packR 24 1 f
  | .matchv f => packR 24 2 f
  | .gred f => packR 25 0 f
  | .scan f => packR 25 1 f
  | .segred f => packR 25 2 f
  | .rebal f => packR 26 0 f
  | .lds f => packM 28 0 f
  | .dqpush f => packR 29 0 f
  | .dqpop f => packR 29 1 f
  | .lnch f => packX 30 0 f
  | .fwork f => packX 30 1 f
  | .wgdone f => packX 30 2 f
  | .atom f => packM 32 0 f
  | .cas f => packM 32 1 f
  | .atoma f => packM 33 0 f
  | .ticket f => packM 34 0 f
  | .fence f => packM 35 0 f
  | .binit f => packM 36 0 f
  | .barv f => packM 36 1 f
  | .bexp f => packM 36 2 f
  | .bwait f => packM 36 3 f
  | .btest f => packM 36 4 f
  | .bexit f => packM 36 5 f
  | .binval f => packM 36 6 f
  | .cmake f => packR 37 0 f
  | .cjoin f => packR 37 1 f
  | .cleave f => packR 37 2 f
  | .cfree f => packR 37 3 f
  | .cquery f => packR 37 4 f
  | .cbar f => packR 38 0 f
  | .cvote f => packR 38 1 f
  | .cred f => packR 38 2 f
  | .vld f => packX 40 0 f
  | .vst f => packX 40 1 f
  | .vred f => packX 40 2 f
  | .vprobe f => packX 41 0 f
  | .vtouch f => packX 41 1 f
  | .vfree f => packX 42 0 f
  | .vfreeAll f => packX 42 0 f
  | .vpool f => packX 42 1 f
  | .vinv f => packX 42 2 f
  | .cpy f => packX 44 0 f
  | .cpym f => packX 44 1 f
  | .cpys f => packX 44 2 f
  | .cpyr f => packX 44 3 f
  | .owait f => packR 45 0 f
  | .ofence f => packR 45 1 f
  | .mset f => packX 48 0 f
  | .mzero f => packX 48 1 f
  | .mma f => packX 49 0 f
  | .mmas f => packX 49 1 f
  | .mdrain f => packX 50 0 f
  | .mdrainAdd f => packX 50 0 f
  | .mdrainAddOrd f => packX 50 0 f
  | .mchk f => packX 50 1 f
  | .qdual f => packX 51 0 f
  | .qscan f => packX 51 1 f
  | .cast f => packX 54 0 f
  | .slotldRd f => packX 54 1 f
  | .slotldMark f => packX 54 1 f
  | .slotldHdr f => packX 54 1 f
  | .frontOpen f => packX 54 2 f
  | .frontPass f => packX 54 2 f
  | .smerge f => packR 55 0 f
  | .rngk f => packR 56 0 f
  | .txtake f => packR 58 0 f
  | .txemit f => packR 58 1 f
  | .txclose f => packR 58 2 f
  | .txstat f => packR 58 3 f
  | .vocload f => packX 59 0 f
  | .trap f => packR 60 0 f
  | .sretResume f => packR 60 1 f
  | .sretReissue f => packR 60 1 f
  | .sretReissueNomatch f => packR 60 1 f
  | .sretEndGrid f => packR 60 1 f
  | .yield f => packR 60 2 f
  | .brk f => packR 60 3 f
  | .crd f => packR 61 0 f
  | .cwr f => packR 61 1 f
  | .perf f => packR 61 2 f
  | .sclear f => packR 62 0 f
  | .lineFetchCheck _ _ => 0
  | .lineRefetch _ _ => 0
  | .issueBundle _ => 0
  | .leadIssue _ => 0
  | .threadAged _ _ => 0
  | .loadReturn _ _ => 0
  | .storePerformed _ _ => 0
  | .atomicAtHome _ _ => 0
  | .tlbMissWalk _ _ _ => 0
  | .ldgaLanding _ _ => 0
  | .waitPhaseTimeout _ => 0
  | .collectiveWatchdogTimeout _ => 0
  | .barrierWaitWatchdog _ => 0
  | .copyCommandAccept _ _ => 0
  | .copyChunkLand _ _ _ => 0
  | .copyCommandComplete _ _ => 0
  | .matrixOpStart _ _ _ => 0
  | .matrixOpComplete _ _ => 0
  | .setWatchdogTimeout _ _ _ => 0
  | .orderedDrainApply _ _ => 0
  | .orderedDrainTimeout _ _ => 0
  | .doorbell _ _ _ _ => 0
  | .lqReset _ _ _ _ => 0
  | .lqCancel _ _ _ _ => 0
  | .registerWrite _ _ => 0
  | .launchValidate _ _ _ => 0
  | .launchStart _ => 0
  | .teamPlace _ _ _ => 0
  | .seasonEnd _ _ => 0
  | .preempt _ _ => 0
  | .reconvergenceTimeout _ _ => 0
  | .copySuspend _ _ => 0
  | .teamSave _ _ => 0
  | .teamRestore _ _ _ => 0
  | .wstoreRegionSave _ _ => 0
  | .coopWait _ => 0
  | .coopResume _ => 0
  | .fworkServe _ => 0
  | .gridEndTrap _ => 0
  | .gridComplete _ => 0
  | .resumableTrapPost _ => 0
  | .supervisorTrap _ => 0
  | .uetPacket _ _ => 0
  | .requestFrame _ => 0
  | .cancelFrame _ => 0
  | .tokenise _ => 0
  | .replyDataFrame _ _ => 0
  | .vfReset _ _ => 0
  | .tlbinvAddress _ _ _ => 0
  | .tlbinvVf _ _ => 0
  | .tlbinvComplete _ _ => 0
  | .partitionForm _ _ => 0
  | .firewallDrop _ _ _ => 0
  | .chaskoPostedWrite _ _ _ _ _ => 0
  | .chaskoRead _ _ _ _ _ _ => 0
  | .chaskoAtomic _ _ _ _ _ _ _ _ => 0
  | .chaskoFlitRetry _ => 0
  | .chaskoLinkDown _ => 0
  | .peerAccess _ _ _ _ _ => 0
  | .refreshScrub => 0
  | .monitorLockstepMismatch _ => 0
  | .monitorReload => 0
  | .servingKernelRestart => 0
  | .queueUnfreeze => 0
  | .osPanic => 0
  | .osRestart => 0
  | .thermalThrottle => 0
  | .bringUp => 0
  | .getVersion _ => 0
  | .getCapabilities _ => 0
  | .negotiateAlgorithms _ _ => 0
  | .getDigests _ => 0
  | .getCertificate _ => 0
  | .challenge _ _ => 0
  | .getMeasurements _ _ _ _ => 0
  | .keyExchange _ _ => 0
  | .finish _ => 0
  | .endSession _ => 0
  | .stageTwoEntryWrite _ _ _ _ => 0
  | .closeFrameSent _ _ => 0

/-- Little-endian value of bytes (R2). -/
def leNat : List Byte → Nat
  | [] => 0
  | b :: bs => b.toNat + 256 * leNat bs

/-- `n` bytes of a value, the lowest first (R2). -/
def leBytes : Nat → Nat → List Byte
  | 0, _ => []
  | n + 1, v => BitVec.ofNat 8 v :: leBytes n (v / 256)

/-- Decode the instruction at the front of a list of bytes; the rest of the list stands beside it. -/
def decodeBytes (bs : List Byte) : Except Reject (Instr × List Byte) :=
  if bs.length < 12 then .error .short
  else
    match decode (BitVec.ofNat 96 (leNat (bs.take 12))) with
    | .ok i => .ok (i, bs.drop 12)
    | .error r => .error r

/-- The instruction that the decoder reads from a table row's bits: bit 0 is the least significant bit of the first word. -/
def decodeTableWord (nbits w : Nat) : Option Instr :=
  match decodeBytes (leBytes 12 (w % 2 ^ nbits)) with
  | .ok (i, _) => some i
  | .error _ => none

end Sys2Proof
end

