-- ==== Sys2Proof/Machine/Maps.lean ====
section
/-!
DEFINITION. Sparse storage: a list of (number, value) pairs with rising numbers. Byte stores and register files list no
zero, which is what an unlisted place reads as (spec/23 R413 step 4, spec/09 R183; log 5), so that equal stores are equal
lists.
-/

namespace Sys2Proof.Machine

/-- A map from numbers, sorted by number. -/
abbrev NMap (α : Type) := List (Nat × α)

/-- The value at a number. -/
def lookupN {α : Type} : NMap α → Nat → Option α
  | [], _ => none
  | (k, v) :: m, n => if k = n then some v else lookupN m n

/-- Put a value at a number. -/
def putN {α : Type} : NMap α → Nat → α → NMap α
  | [], n, v => [(n, v)]
  | (k, w) :: m, n, v =>
    if n < k then (n, v) :: (k, w) :: m
    else if k = n then (n, v) :: m
    else (k, w) :: putN m n v

/-- Remove a number. -/
def delN {α : Type} (m : NMap α) (n : Nat) : NMap α := m.filter (fun p => p.1 != n)

/-- Change the value at a number, where there is one. -/
def modN {α : Type} (m : NMap α) (n : Nat) (f : α → α) : NMap α := m.map (fun p => if p.1 = n then (p.1, f p.2) else p)

/-- The lowest number of `0 .. bound - 1` that is not in use. -/
def freeN {α : Type} (m : NMap α) (bound : Nat) : Option Nat :=
  (List.range bound).find? (fun n => (lookupN m n).isNone)

/-- Insert by a key, the least first. -/
def insertBy {α : Type} (key : α → Nat) (x : α) : List α → List α
  | [] => [x]
  | y :: ys => if key x ≤ key y then x :: y :: ys else y :: insertBy key x ys

/-- Sort by a key; equal keys keep their order. -/
def sortBy {α : Type} (key : α → Nat) : List α → List α
  | [] => []
  | x :: xs => insertBy key x (sortBy key xs)

/-- A file of bit vectors of one width; an unlisted place reads 0. -/
abbrev Regs (w : Nat) := NMap (BitVec w)

/-- Read one place. -/
def getR {w : Nat} (r : Regs w) (n : Nat) : BitVec w := (lookupN r n).getD 0

/-- Write one place; a place that holds 0 is not listed. -/
def setR {w : Nat} (r : Regs w) (n : Nat) (v : BitVec w) : Regs w := if v = 0 then delN r n else putN r n v

/-- Bytes by address. -/
abbrev Mem := List Host.Cell

/-- Addresses rise strictly, and no listed byte is 0. -/
def Mem.wf : Mem → Bool
  | [] => true
  | [(_, v)] => v != 0
  | (a, v) :: (b, w) :: m => v != 0 && decide (a < b) && Mem.wf ((b, w) :: m)

/-- One byte. -/
def Mem.byte (m : Mem) (a : Nat) : Byte := getR m a

/-- `n` bytes from an address up. -/
def Mem.read (m : Mem) (a n : Nat) : List Byte := (List.range n).map (fun i => m.byte (a + i))

/-- `n` bytes from an address up, in one pass over cells that rise from it. -/
def Mem.slabFrom : Nat → Nat → Mem → List Byte
  | 0, _, _ => []
  | n + 1, a, [] => 0 :: Mem.slabFrom n (a + 1) []
  | n + 1, a, (k, v) :: m => if k = a then v :: Mem.slabFrom n (a + 1) m else 0 :: Mem.slabFrom n (a + 1) ((k, v) :: m)

/-- `n` bytes from an address up, for long runs. -/
def Mem.slab (m : Mem) (a n : Nat) : List Byte := Mem.slabFrom n a (m.filter (fun p => decide (a ≤ p.1 ∧ p.1 < a + n)))

/-- The cells that bytes from an address up make: a 0 is not listed. -/
def Mem.cells : Nat → List Byte → Mem
  | _, [] => []
  | a, v :: vs => if v = 0 then Mem.cells (a + 1) vs else (a, v) :: Mem.cells (a + 1) vs

/-- Write bytes from an address up. -/
def Mem.write (m : Mem) (a : Nat) (vs : List Byte) : Mem :=
  m.filter (fun p => decide (p.1 < a)) ++ Mem.cells a vs ++ m.filter (fun p => decide (a + vs.length ≤ p.1))

/-- Set a range of bytes to 0. -/
def Mem.zero (m : Mem) (a n : Nat) : Mem := m.filter (fun p => decide (p.1 < a ∨ a + n ≤ p.1))

end Sys2Proof.Machine
end

