-- ==== Sys2Proof/Machine/State.lean ====
section
/-!
DEFINITION. Everything the spec gives the machine (INVENTORY.md, '## State'), as plain data, and the state after reset. A
part of the machine that nothing has touched is not listed in its map and stands at its reset value.
-/

namespace Sys2Proof.Machine

/-- Why a machine stops with a fault. No behaviour of this part stops the machine, so there is none. -/
inductive Fault where
deriving DecidableEq, Repr

/-- Why a step is refused. -/
inductive Refusal where
  /-- An instruction that has no meaning yet. Raised by an arm of `exec`. Safe: nothing follows from it. -/
  | notModelled (mnemonic : String)
  /-- An operation of a unit, named by the agenda, that cannot happen in this state (there is no such access pending, the
  queue is off, ...). Raised by the meanings of the 80 operations. Safe: no state follows from it. -/
  | notEnabled (mnemonic : String)
deriving DecidableEq, Repr

/-- The trap codes (R375). -/
inductive TrapCode where
  | illEnc
  | illPc
  | align
  | lease
  | noncanon
  | crossTop
  | perm
  | storeBound
  | volPool
  | volRank
  | barBad
  | circleBad
  | mxFault
  | eccUe
  | brk
  | trap
  | timeout
  | qerr
  | vfReset
  | coopWait
deriving DecidableEq, Repr

/-- The number of a trap code (R375). -/
def TrapCode.num : TrapCode → Nat
  | .illEnc => 0x01 | .illPc => 0x02 | .align => 0x03 | .lease => 0x04 | .noncanon => 0x05 | .crossTop => 0x06
  | .perm => 0x07 | .storeBound => 0x08 | .volPool => 0x09 | .volRank => 0x0A | .barBad => 0x0B | .circleBad => 0x0C
  | .mxFault => 0x0D | .eccUe => 0x0E | .brk => 0x0F | .trap => 0x10 | .timeout => 0x11 | .qerr => 0x12
  | .vfReset => 0x13 | .coopWait => 0x14

/-- A name of a thread or lead that a swap does not change: a thread (`tid`) or the lead of a workgroup of a grid, thread
`k` of the supervisor octet of a core, or the monitor pair of a die. -/
inductive AgentId where
  | thread (grid lin tid : Nat)
  | lead (grid lin : Nat)
  | sup (core k : Nat)
  | mon (die : Nat)
deriving DecidableEq, Repr

/-- Where a barrier object lives (R8): a physical address, or an offset of the A-store region of a workgroup place. -/
inductive ObjRef where
  | glob (pa : Nat)
  | store (core wg off : Nat)
deriving DecidableEq, Repr

/-- What a resumable trap posts (R374). -/
structure Request where
  code : TrapCode
  arg0 : DWord
  arg1 : DWord
  arg2 : DWord
  resume : DWord
  /-- `D` of `TRAP`, which takes the reply (R380) -/
  dst : Opnd := .lit 0
  /-- the sequence number that a reposted request keeps (R374, R389) -/
  seq : Option (BitVec 16) := none
  /-- the PC of the instruction that trapped, where it is not the agent's own any more (R373) -/
  at_ : Option DWord := none
deriving DecidableEq, Repr

/-- Why a thread or lead is not running. A limit is the clock at which it runs out. -/
inductive Wait where
  | run
  /-- `BWAIT`: the object, the token, the limit, the result predicate, the scope of its acquire (R219, R242) -/
  | barrier (o : ObjRef) (token : BitVec 4) (limit : Option Nat) (pred : Nat) (scope : Nat)
  /-- `DQPUSH`: the entry, the limit, the result predicate (R187) -/
  | push (v : DWord) (limit : Option Nat) (pred : Nat)
  /-- `DQPOP`: whether the position is present, the destination, the limit of the group, the result predicate (R188) -/
  | pop (present : Bool) (dst : Opnd) (limit : Option Nat) (pred : Nat)
  /-- `CBAR`, `CVOTE`, `CRED`: the circle, the phase arrived in, the limit, the destination and the predicate (R256, R257) -/
  | circle (handle : Word) (phase : BitVec 16) (limit : Option Nat) (dst : Opnd) (pred : Nat)
  /-- a resumable trap that waits for a mailbox slot (R377) -/
  | posting (r : Request)
  /-- `MCHK`: the operations it still waits for, the destination, whether it injects (R323) -/
  | mchk (ops : List Nat) (dst : Opnd) (inject : Bool)
  /-- a request is pending in a mailbox (R377) -/
  | reply (r : Request)
  /-- a supervisor thread's trap other than `BRK` and `TRAP`, not yet reported, with the PC that raised it (R373) -/
  | supTrap (code : TrapCode) (va : Nat) (pc : DWord)
  /-- stopped by a trap that ends the grid, or by the end of the grid (R376) -/
  | stopped
  /-- a thread that has issued `EXIT`, or a lead that has issued `WGDONE` (R170, R204) -/
  | exited
deriving DecidableEq, Repr

/-- Where an operand lives: the `g` and `s` registers, the predicates, or the handles. -/
inductive Bank where
  | reg
  | pred
  | handle
deriving DecidableEq, Repr

/-- The one-entry operand buffer (R62): which operand it keeps, at what width, and its value. -/
structure Retained where
  bank  : Bank := .reg
  opnd  : Opnd
  width : Nat
  value : Nat
deriving DecidableEq, Repr

/-- A place in one of the storage spaces (R16), of the core that acts where it names none. -/
inductive Place where
  /-- virtual address -/
  | glob (va : Nat)
  /-- offset of the A-store region of a workgroup place -/
  | store (core wg off : Nat)
  | cstore (off : Nat)
  | wstore (off : Nat)
deriving DecidableEq, Repr

/-- A matrix operation that a thread or lead has issued and not yet waited for with `OWAIT` on `mx`: its C-tiles and the bytes
it reads and writes (R128, R217). -/
structure MxMark where
  op : Nat
  tiles : List Nat
  spans : List (Place × Nat)
  /-- the A-scale registers that the signer supplies, the first and how many; one of them has been written since (R315) -/
  regs : Option (Nat × Nat) := none
  spoilt : Bool := false
deriving DecidableEq, Repr

/-- What a thread and a lead each have. -/
structure Ctx where
  pc : DWord := 0
  /-- the PC of the instruction that produced `pc` (R54) -/
  srcPc : DWord := 0
  /-- `pc` was set by a branch form (R54) -/
  byBranch : Bool := false
  /-- the exact next PC lies outside 0 to 2^64 - 1, so that the fetch traps `NONCANON` (R54) -/
  pcOver : Bool := false
  /-- `p6` to `p0` -/
  preds : BitVec 7 := 0
  /-- `h0` to `h7` (R246) -/
  handles : Regs 32 := []
  fstat : BitVec 5 := 0
  ld : Nat := 0
  st : Nat := 0
  cp : Nat := 0
  mx : Nat := 0
  marks : List MxMark := []
  opBuf : Option Retained := none
  wait : Wait := .run
  /-- the clock at which the wait began (R173, R187, R188, R244) -/
  waitFrom : Nat := 0
  /-- requests posted so far (R374) -/
  seq : BitVec 16 := 0
  /-- the phase of the reply object (R377) -/
  reply : BitVec 4 := 0
  /-- the next issue ignores the match registers (R381) -/
  noMatch : Bool := false
  /-- traps of a supervisor thread that came while it reported an earlier one, the oldest first: code, address, PC (R373) -/
  later : List (TrapCode × Nat × DWord) := []
deriving DecidableEq, Repr

/-- A thread in a slot of a core. -/
structure Thread where
  ctx : Ctx := {}
  /-- `g0` to `g511` -/
  g : Regs 32 := []
  level : Level := .t
  /-- the workgroup place, for a task thread -/
  wg : Nat := 0
  tid : Nat := 0
  arrival : Nat := 0
  aged : Bool := false
  /-- clocks in which it was ready and did not issue (R163) -/
  readyFor : Nat := 0
  /-- the clock since which it is held at a collective (R173) -/
  heldFrom : Option Nat := none
  /-- for each `s` register, how many of the lead's writes it has seen (R92) -/
  sSeen : NMap Nat := []
  /-- `g` registers whose parity has failed (R407) -/
  bad : List Nat := []
  /-- `stran` (R371, R385) -/
  stran : BitVec 7 := 0x40
  /-- it has entered `WaitPhase` since it started (R391) -/
  entered : Bool := false
deriving DecidableEq, Repr

/-- The lead of a workgroup. -/
structure Lead where
  ctx : Ctx := {}
  /-- `s0` to `s63` -/
  s : Regs 64 := []
  /-- the launch values of `s0` to `s63` (R182) -/
  s0 : Regs 64 := []
  /-- every write of an `s` register, the oldest first (R92) -/
  log : List (Nat × DWord) := []
deriving DecidableEq, Repr

/-- What the first signature of a set records (R310, R315). -/
structure Snapshot where
  /-- the instruction, with guard and C set to 0 -/
  form : XForm
  sparse : Bool
  aVal : DWord
  /-- the B-scale registers -/
  bScales : List DWord
  pc : DWord
  since : Nat
  /-- the number that the operation will have -/
  op : Nat
deriving DecidableEq, Repr

/-- A convergence register (R309, R310). -/
structure ConvReg where
  count  : Nat := 0
  signed : Nat := 0
  snap   : Option Snapshot := none
  /-- who signed, and its C operand -/
  signers : List (AgentId × Opnd) := []
  /-- recent writes that some signer had not fenced when it signed (R216) -/
  unfenced : List Nat := []
deriving DecidableEq, Repr

/-- A workgroup in a place of a core. -/
structure Wg where
  grid : Nat
  /-- linear index in the grid (R198) -/
  lin : Nat
  /-- the A-store region (R183) -/
  aBase : Nat
  aSize : Nat
  /-- the dies of the partition when it came to its core: what its die levels are counted by while it stays (R107, R415) -/
  dies : BitVec 40 := 0
  lead : Option Lead := none
  /-- pushes so far, and the pops of each group (R186) -/
  pushes : Nat := 0
  pops : NMap Nat := []
  /-- entry `i` mod 64 with the count of `s` writes that stood before its push (R92, R187) -/
  queue : NMap (DWord × Nat) := []
  pushPhase : BitVec 4 := 0
  popPhase : BitVec 4 := 0
  /-- for each group, the count of `s` writes before the last entry it has taken (R92) -/
  floor : NMap Nat := []
  cvs : NMap ConvReg := []
  mstat : BitVec 32 := 0
  /-- an injection is pending (R323) -/
  inject : Bool := false
deriving DecidableEq, Repr

/-- Which tables an access uses: both stages of a VF, the module operating system's, or none (R17, R371, R397). -/
inductive Via where
  | vf (part vf : Nat)
  | os
  | phys
deriving DecidableEq, Repr

/-- A barrier form that is under way (R237 to R243, R245). -/
inductive BarKind where
  | binit (n : Nat)
  | barv (n : Nat)
  | bexp (n : Nat)
  | btest (phase : BitVec 4)
  | bexit
  | binval
deriving DecidableEq, Repr

/-- A step of the cast-off unit on a block, with the operand values read at issue (R333, R339 to R344). -/
inductive StepOp where
  /-- `CAST`: the slot, the token and its confidence, the rule -/
  | cast (slot token conf : Nat) (rule : BitVec 128)
  /-- `SLOTLD.rd`, and `SLOTLD.mark` -/
  | slot (mark : Bool) (slot : Nat)
  /-- `SLOTLD.hdr` -/
  | header
  /-- `FRONT.open` -/
  | opening
  /-- `FRONT.pass`, by the least number of slots that its rule casts off -/
  | pass (kmin : Nat)
deriving DecidableEq, Repr

/-- A text form that is under way, with the operand values read at issue (R362 to R364). -/
inductive TextOp where
  /-- `TXTAKE`: the edge die, the capacity -/
  | take (edge cap : Nat)
  /-- `TXEMIT`: the slot limit -/
  | emit (lim : Nat)
  /-- `TXCLOSE`: the stream id, the code -/
  | close (sid code : Nat)
  /-- `TXSTAT`: the stream id -/
  | stat (sid : Nat)
deriving DecidableEq, Repr

/-- What a pending access does when it is performed. -/
inductive PendKind where
  /-- a load: destination, `n` bytes, sign extension -/
  | load (dst : Opnd) (sext : Bool)
  | store (data : List Byte)
  /-- an atomic: destination, op, type, operand (R223) -/
  | atom (dst : Opnd) (op ty : Nat) (b : DWord)
  | cas (dst : Opnd) (b c : DWord)
  | ticket (dst : Opnd) (count : Word) (limit : DWord)
  /-- `LDGA`: A-store destination and barrier object, each by core, place and offset (R131) -/
  | ldga (core wg dst : Nat) (barCore barWg bar : Nat)
  /-- a barrier form on an object: its destination and its result predicate (R245) -/
  | bar (k : BarKind) (o : ObjRef) (dst : Opnd) (pred : Nat)
  /-- a step on the block at a physical address, and its destination (R352) -/
  | step (op : StepOp) (block : Nat) (dst : Opnd)
  /-- a text form, and its destination (R366) -/
  | text (op : TextOp) (dst : Opnd)
deriving DecidableEq, Repr

/-- An access that a lane has issued and that has not been performed (R116). -/
structure Pending where
  id    : Nat
  agent : Agent
  pc    : DWord
  place : Place
  n     : Nat
  order : BitVec 3
  scope : BitVec 3
  cache : BitVec 2
  kind  : PendKind
  /-- the counter it counts in -/
  ctr   : Ctr
  via   : Via
  /-- it touches what a matrix operation of its thread still works on (R128, R217) -/
  undef : Bool
  /-- so does the barrier object that it credits -/
  undefObj : Bool := false
  /-- bytes that a matrix operation of its agent still worked on at its issue, for a step or a text form, which names its bytes
  when it is performed (R217) -/
  undefs : List (Place × Nat) := []
  /-- the clock of its issue: with the PC, it names the issue (R112, R223) -/
  issued : Nat
  /-- bytes that a load has obtained already, and bytes that a store has written already, by address (R120, R208) -/
  got : List (Nat × Byte) := []
deriving DecidableEq, Repr

/-- A command of the copy engine (R283), with the operand values read at issue (R304). -/
structure CopyCmd where
  id : Nat
  agent : Agent
  pc : DWord
  /-- the clock of its issue (R376) -/
  issued : Nat := 0
  form : XForm
  /-- minor: 0 `CPY`, 1 `CPYM`, 2 `CPYS`, 3 `CPYR` -/
  op : Nat
  via : Via
  /-- the tensor record, the origin -/
  rec_ : List Byte
  coords : List Int
  /-- the local source, or the source of `CPYR` -/
  src : Option Place
  /-- the local destinations, or the destination of `CPYR` -/
  dsts : List Place
  /-- bytes moved to each destination (R292 to R295) -/
  n : Nat
  /-- the barrier object, or one for each destination under `.each` -/
  bars : List Place
  /-- bytes that a matrix operation of its issuer still worked on at its issue (R217, R298) -/
  undefs : List (Place × Nat)
  accepted : Bool := false
  /-- 256-byte chunks written and credited (R296, R303) -/
  landed : List Nat := []
  /-- bytes of chunks under way that have landed, by offset (R214) -/
  part : List Nat := []
  /-- source bytes, by offset, that it keeps because a chunk of it has overwritten them (R295) -/
  kept : List (Nat × Byte) := []
  suspended : Bool := false
deriving DecidableEq, Repr

/-- What a sequencer operation does (R314 to R325). -/
inductive MxKind where
  /-- with the recent writes that some signer had not fenced (R216) -/
  | mma (snap : Snapshot) (signers : List (AgentId × Opnd)) (unfenced : List Nat)
  | mzero (mask : Nat)
  /-- mode 0 store, 1 `.add`, 2 `.add.ord`; where each row goes, sequence, address of the order word -/
  | drain (mode : Nat) (form : XForm) (rows : List Place) (seq order : Nat)
  | qdual (form : XForm) (src dst : Nat)
  | qscan (form : XForm) (dst : Nat)
deriving DecidableEq, Repr

/-- How far a sequencer operation is (R326). -/
inductive MxState where
  | waiting
  | running
  /-- an ordered drain at its order word since a clock (R321) -/
  | atWord (since : Nat)
deriving DecidableEq, Repr

/-- An operation of a core's sequencer (R326). -/
structure MxOp where
  id : Nat
  agent : AgentId
  wg : Nat
  via : Via
  grid : Nat
  pc : DWord
  kind : MxKind
  state : MxState := .waiting
  /-- the first comparison of the operation is forced to mismatch (R323) -/
  inject : Bool := false
  /-- the content of the tile of an ordered drain that a save withdrew (R328) -/
  held : Option (List Byte) := none
  /-- the clocks that a withdrawn ordered drain had waited while its team was resident (R321) -/
  waited : Nat := 0
deriving DecidableEq, Repr

/-- A filled mailbox slot (R374). -/
structure Mail where
  agent : Agent
  record : List DWord
  code : TrapCode
deriving DecidableEq, Repr

/-- A line of the instruction cache (R52, R56): its bytes, and whether its first check failed. -/
structure ICLine where
  data : Line
  failed : Bool
deriving DecidableEq, Repr

/-- A translation held in a TLB (R121, R302): the VF of its partition, the page, its physical address and rights. -/
structure TlbEntry where
  part : Nat
  vf   : Nat
  va   : Nat
  size : Nat
  pa   : Nat
  read  : Bool
  write : Bool
deriving DecidableEq, Repr

/-- An entry of the coordinate look-aside buffer (R269). -/
structure ClbEntry where
  vf : Nat
  desc : Nat
  tile : Nat
  leaf : Nat
deriving DecidableEq, Repr

/-- An L1 copy of a 32-byte sector (R114): the sector's number, its bytes, and how it leaves: 0 in its turn, 1 the first
(`.strm`), 2 kept (`.keep`). -/
structure L1Copy where
  sector : Nat
  data : List Byte
  how : Nat := 0
deriving DecidableEq, Repr

/-- What hands on to those who acquire it what those who released it had observed (R207, R216): a location or barrier object, a
phase of a circle, an entry of the decision queue of a workgroup place, a core's mailbox, the steps on a block. -/
inductive Chan where
  | at_ (o : ObjRef)
  | circle (part ix gen phase : Nat)
  | queue (core wg entry : Nat)
  | mail (core : Nat)
  /-- the steps on the block at a physical address (R333) -/
  | block (pa : Nat)
deriving DecidableEq, Repr

/-- A write into the A-store or the W-store of a core that a matrix operation may still read in its old value (R216): the bytes
that stood there, the access or command that wrote and the issuer of a copy, who has observed the new bytes since, and who has issued `OFENCE` after that.
Then who has observed them and made a release fence since, what hands them on, by a release of which core, to every core or to its
own only, and who has read that without an acquire. -/
structure FreshWrite where
  id : Nat
  place : Place
  old : List Byte
  by_ : Nat := 0
  copier : Option AgentId := none
  seen : List AgentId := []
  fenced : List AgentId := []
  rel : List AgentId := []
  chans : List (Chan × Nat × Bool) := []
  near : List AgentId := []
deriving DecidableEq, Repr

/-- A core (R12, R14). -/
structure Core where
  /-- the VF whose workgroups the core holds, or held last (R198, R390) -/
  vf : Option (Nat × Nat) := none
  threads : NMap Thread := []
  wgs : NMap Wg := []
  astore : Mem := []
  cstore : Mem := []
  wstore : Mem := []
  /-- W-store regions whose old contents are still to be saved or cleared, with the skein that owns them, or none (R201) -/
  wOld : NMap (Option (Nat × Nat)) := []
  /-- offsets of poisoned bytes of the three stores (R407) -/
  badA : List Nat := []
  badC : List Nat := []
  badW : List Nat := []
  /-- writes that matrix operations may read in either value, the newest first (R216) -/
  fresh : List FreshWrite := []
  /-- L1 copies, the newest first (R114) -/
  l1 : List L1Copy := []
  /-- instruction-cache lines by physical address, the newest first (R14) -/
  icache : List (Nat × ICLine) := []
  tlb : List TlbEntry := []
  walkAhead : List TlbEntry := []
  /-- the most recently used first -/
  clb : List ClbEntry := []
  pend : List Pending := []
  copies : List CopyCmd := []
  mxOps : List MxOp := []
  nextArrival : Nat := 0
  /-- the workgroup place whose lead the round-robin takes next (R164) -/
  leadTurn : Nat := 0
  /-- the last issue was a lead's, so that the thread bundle beside it is next (R164) -/
  leadLast : Bool := false
  mail : NMap Mail := []
  cwdog : Word := 0x04000000
  bwdog : Word := 0
  mbnote : DWord := 0
  noterr : Bool := false
  tsel : BitVec 6 := 0
  bpm : Regs 64 := []
  pcsel : Regs 32 := []
  pcnt : Regs 64 := []
  vfclk : Regs 64 := []
  /-- copy bytes landed that event 8 has not counted yet, below 16 (R388) -/
  copyRest : Nat := 0
deriving DecidableEq, Repr

/-- The state of a launch (R196). -/
inductive LaunchState where
  | waiting
  | running
  | complete
  | refused
  | cancelled
  | ended
  | coopWait
deriving DecidableEq, Repr

/-- A lease (R191). -/
structure Lease where
  base : Nat
  size : Nat
  rw : Bool
deriving DecidableEq, Repr

/-- A dependence (R192). -/
structure Dep where
  addr : Nat
  kind : Nat
  phase : Nat
deriving DecidableEq, Repr

/-- A launch record (R190), its slots by number. -/
structure Launch where
  text : Nat := 0
  textLen : Nat := 0
  leadEntry : Option Nat := none
  threadEntry : Nat := 0
  gx : Nat := 1
  gy : Nat := 1
  gz : Nat := 1
  /-- workgroups of a team -/
  team : Nat := 1
  /-- lanes of a group -/
  group : Nat := 8
  threads : Nat := 8
  /-- registers of a thread -/
  regs : Nat := 8
  cvregs : Nat := 0
  astore : Nat := 0
  /-- level domains, innermost first -/
  levels : List Nat := []
  priority : Nat := 0
  coop : Bool := false
  exclusive : Bool := false
  fmtAddr : NMap Nat := []
  ruleAddr : NMap Nat := []
  volAddr : NMap Nat := []
  recAddr : NMap Nat := []
  args : List DWord := []
  leases : List Lease := []
  deps : List Dep := []
deriving DecidableEq, Repr

/-- Where a placed team stands: the first core of its cluster and the place taken on each core (R198). -/
structure Placed where
  core : Nat
  places : List Nat
  since : Nat
  /-- the last season end of its cluster at which the team was let stay (R199) -/
  stayed : Nat := 0
  /-- it has issued `YIELD` (R382) -/
  yielded : Bool := false
  /-- the clock of the request to stop; the threads that were left have been stopped by force (R389) -/
  stopping : Option Nat := none
  forced : Bool := false
  /-- the clock at which its draining began (R304, R389) -/
  draining : Option Nat := none
deriving DecidableEq, Repr

/-- A thread as a skein holds it (R389): the member of the team that it belongs to, and the thread. -/
structure SavedThread where
  member : Nat
  thread : Thread
deriving DecidableEq, Repr

/-- A saved team (R389). In it, core 100000 + `m` stands for member `m`'s core, place 0 for its place, and a clock counts from
the save. -/
structure Skein where
  wgs : List Wg
  threads : List SavedThread
  /-- by member: the A-store region, and for an exclusive launch the C-store and the W-store regions saved so far -/
  stores : List Mem
  cstores : List Mem
  wstores : List Mem
  /-- by member: the poisoned bytes of the three (R407) -/
  badA : List (List Nat) := []
  badC : List (List Nat) := []
  badW : List (List Nat) := []
  /-- suspended copies, in acceptance order (R304), and withdrawn ordered drains by member (R328) -/
  copies : List (AgentId × CopyCmd)
  drains : List (Nat × MxOp)
  savedAt : Nat
  /-- the state passes its integrity check (R389) -/
  intact : Bool := true
deriving DecidableEq, Repr

/-- A launch that a doorbell or `LNCH` accepted and the distributor has taken (R196 to R204). -/
structure Grid where
  part : Nat
  vf : Nat
  queue : Nat
  /-- index and address of its ring entry -/
  index : Nat
  entry : Nat
  record : Nat
  launch : Launch := {}
  /-- acceptance order of its doorbell (R192) -/
  accepted : Nat := 0
  /-- the queue's priority at acceptance (R198) -/
  ceiling : Nat := 0
  lease : Nat := 0
  state : LaunchState := .waiting
  /-- copies made at the start (R193, R261, R285) -/
  fmts : NMap (BitVec 64) := []
  rules : NMap (BitVec 128) := []
  vols : NMap (List Byte) := []
  recs : NMap (List Byte) := []
  /-- the clock of its start -/
  started : Nat := 0
  /-- teams below are placed, saved, complete or handed out (R198, R203) -/
  nextTeam : Nat := 0
  /-- teams on cores, and saved teams -/
  placed : NMap Placed := []
  skeins : NMap Skein := []
  /-- workgroups handed out by `FWORK`, with the workgroup that runs each (R203) -/
  handed : List (Nat × Nat) := []
  /-- `FWORK` requests: the lead, the mailbox offset, the PC (R203) -/
  fwork : List (AgentId × Nat × DWord) := []
  /-- the trap first received, and how many others (R376, R402) -/
  endCode : Option TrapCode := none
  further : Nat := 0
  /-- the fault-log entry to raise, once written -/
  faultIx : Option Nat := none
deriving DecidableEq, Repr

/-- A trap on its way to the distributor (R376). -/
structure Report where
  grid : Nat
  code : TrapCode
  pc : DWord
  core : Nat
  va : Nat
  /-- the issue that raised it: its clock, its PC, and the home lane of a thread in it -/
  since : Nat
  at_ : DWord := 0
  lane : Option Nat := none
  /-- it was raised after another trap had begun to stop the grid (R402) -/
  late : Bool := false
deriving DecidableEq, Repr

/-- A member of a circle or a pending joiner (R247, R248). -/
structure Member where
  id : AgentId
  rank : Nat
  /-- a member from the start of the current phase on; otherwise its join is pending -/
  counted : Bool
  /-- leaves at the next boundary -/
  leaving : Bool := false
  departed : Bool := false
deriving DecidableEq, Repr

/-- How an arrival on a circle was made (R256 to R258). `quiet` is a leave or a departure. -/
inductive ArriveKind where
  | quiet
  | bar
  | vote (mode : Nat) (v : Bool)
  | red (op : Nat) (ty : BitVec 4) (round : BitVec 2) (v : DWord)
deriving DecidableEq, Repr

/-- A circle (R247). -/
structure Circle where
  gen : Nat
  key : Word
  /-- the VF, or none for the module's own space (R246) -/
  vf : Option Nat
  home : Nat
  phase : BitVec 16 := 0
  members : List Member
  now : List (AgentId × ArriveKind) := []
  next : List (AgentId × ArriveKind) := []
  fault : Bool := false
deriving DecidableEq, Repr

/-- An entry of a launch queue that the distributor has accepted and not taken: its place in the order of acceptance, the
queue's priority then, and whether it is cancelled (R192, R198, R200). -/
structure Queued where
  order : Nat
  ceiling : Nat
  cancelled : Bool := false
deriving DecidableEq, Repr

/-- A launch queue (R194). -/
structure Queue where
  base : BitVec 64 := 0
  log : BitVec 5 := 0
  priority : BitVec 3 := 0
  enable : Bool := false
  widx : Word := 0
  ridx : Word := 0
  cause : BitVec 8 := 0
  qerr : Bool := false
  /-- the entries accepted and not taken, the oldest first -/
  pending : List Queued := []
deriving DecidableEq, Repr

/-- A VF of a partition: the registers of R194, R397, R400 and the fault log of R402. -/
structure Vf where
  queues : NMap Queue := []
  ranges : NMap (BitVec 128) := []
  confidential : Bool := false
  /-- steps done of the reset in progress; 0 where none is (R401) -/
  resetAt : Nat := 0
  busy : Bool := false
  /-- the removal that `busy` stands for: one page, or all (R399) -/
  removing : Option (Option Nat) := none
  epoch : BitVec 16 := 0
  ptroot : BitVec 64 := 0
  faults : NMap (List Byte) := []
  flhead : Word := 0
  launched : Bool := false
deriving DecidableEq, Repr

/-- The cluster of a team that is to stop, and the waiting team that takes it (R199). -/
structure Owed where
  core : Nat
  n : Nat
  grid : Nat
  team : Nat
deriving DecidableEq, Repr

/-- A partition (R397). -/
structure Part where
  dies : BitVec 40 := 0
  formed : Bool := false
  refused : Bool := false
  rstnoterr : Bool := false
  rstnote : DWord := 0
  serve : DWord := 0
  serveVf : DWord := 0
  admits : NMap (BitVec 128) := []
  rctmo : Word := 0x0000D2F0
  season : Word := 0x005265C0
  circles : NMap Circle := []
  /-- the generation that the next circle at an index takes, where it is not 1 (R253) -/
  gens : NMap Nat := []
  /-- the (VF, queue) pair, VF × 64 + queue, whose turn it is (R198) -/
  turn : Nat := 0
  owed : List Owed := []
  /-- by cluster (its first core × 32 + its cores): the clock from which its seasons count (R199) -/
  seasons : NMap Nat := []
  /-- the queues are frozen: doorbells held, the relaunched serving grid (R408) -/
  frozen : Bool := false
  held : List (Nat × Nat × Word) := []
  serving : Option Nat := none
deriving DecidableEq, Repr

/-- A stream of an edge die (R355, R356, R362). -/
structure Stream where
  vf : Nat
  part : Nat
  request : DWord
  peer : BitVec 128
  context : Nat
  /-- the vocabulary slot of its request -/
  slot : Nat := 0
  /-- its close frame has been sent: the number is free again -/
  closed : Bool := false
  /-- the block it is bound to, and that block's slot count -/
  block : Option Nat := none
  n0 : Nat := 0
  sent : Nat := 0
  held : List Byte := []
  ready : List Byte := []
  bytes : Nat := 0
  frame : Nat := 0
  /-- status and kernel code of its close frame -/
  closing : Option (Nat × Word) := none
deriving DecidableEq, Repr

/-- A request accepted by the tokeniser (R354, R364). -/
structure TxRequest where
  request : DWord
  stream : Nat
  slot : Nat
  maxNew : Word
  tokens : List Word
deriving DecidableEq, Repr

/-- A frame that leaves an edge die (R354). -/
structure Frame where
  peer : BitVec 128
  context : Nat
  bytes : List Byte
deriving DecidableEq, Repr

/-- A whole message, with the partition and VF that it reached. -/
structure Message where
  part : Nat
  vf : Nat
  peer : BitVec 128
  context : Nat
  bytes : List Byte
  /-- the images bound to the VF's vocabulary slots when its last byte arrived (R359) -/
  vocab : NMap Nat := []
deriving DecidableEq, Repr

/-- A request frame accepted and not yet tokenised (R354, R359). -/
structure TextIn where
  part : Nat
  vf : Nat
  request : DWord
  stream : Nat
  slot : Nat
  /-- the image bound to the slot when the last byte arrived -/
  image : Nat
  maxNew : Word
  text : List Byte
deriving DecidableEq, Repr

/-- The text registers of a VF on an edge die (R357). -/
structure TxRegs where
  enable : Bool := false
  noterr : Bool := false
  note : DWord := 0
  drop : Word := 0
  addr : BitVec 128 := 0
  port : BitVec 16 := 0
  peers : NMap (BitVec 137) := []
  /-- vocabulary slots: the image address (R361) -/
  vocab : NMap Nat := []
  queue : List TxRequest := []
  /-- packets withheld because the queue is full (R353) -/
  withheld : Nat := 0
deriving DecidableEq, Repr

/-- An answer of a root of trust (R410). Bytes whose contents the spec does not give are free values (log 14). -/
inductive SpdmAnswer where
  | version
  | capabilities
  | algorithms
  | refused
  | digests (bytes : List Byte)
  | certificate (bytes : List Byte)
  | challengeAuth (nonce : BitVec 256) (bytes : List Byte)
  | measurement (k : Nat) (value : BitVec 512)
  | keyExchange (bytes : List Byte)
  | finish
  | endSession
deriving DecidableEq, Repr

/-- The SPDM session of an edge die (R410): what has been agreed, and the answers given. -/
structure Spdm where
  algorithms : Bool := false
  keyed : Bool := false
  session : Bool := false
  sent : List SpdmAnswer := []
deriving DecidableEq, Repr

/-- An edge die. -/
structure Edge where
  /-- text registers by partition × 64 + VF -/
  tx : NMap TxRegs := []
  /-- packets received of a message that is not whole, by context: its VF (partition × 64 + VF) and bytes -/
  partial_ : NMap (Nat × List Byte) := []
  /-- the packet delivery contexts on which packets have been taken, with the VF (partition × 64 + VF) of each (R353) -/
  contexts : NMap Nat := []
  /-- packet delivery contexts that a reset of their VF has closed (R368) -/
  closedCtx : List Nat := []
  inbox : List Message := []
  texts : List TextIn := []
  streams : NMap Stream := []
  frames : List Frame := []
  spdm : Spdm := {}
  spdmPort : BitVec 16 := 0
  linkUp : Bool := true
  retries : Nat := 0
  /-- Chasko completions: tag, status (0 ok, 1 abort, 2 retry), bytes -/
  completions : List (Nat × Nat × List Byte) := []
  /-- requests refused and logged (R403) -/
  aborts : Nat := 0
deriving DecidableEq, Repr

/-- One end of a die-to-die link (R393). -/
structure FwCtl where
  far : BitVec 6 := 0
  own : BitVec 6 := 0
  violation : Bool := false
  edge : Bool := true
  closed : Bool := true
deriving DecidableEq, Repr

/-- A compute die. -/
structure Die where
  fw : NMap FwCtl := []
  /-- the cores are held by a monitor mismatch (R408) -/
  held : Bool := false
deriving DecidableEq, Repr

/-- The bundle or lead instruction being issued (R161, R164): the core, the lanes in ascending home lane, the PC, and
whether the next slot issues with it (R162). -/
structure Issue where
  core : Nat
  agents : List Agent
  pc : DWord
  paired : Bool
  /-- it is the second slot of a pair -/
  second : Bool := false
deriving DecidableEq, Repr

/-- A peer access that this module has answered (R406): whether it was admitted, the trap that ends the issuer's grid otherwise,
and the bytes returned. -/
structure PeerReply where
  module : Nat
  admitted : Bool
  data : List Byte
  code : Option TrapCode := none
deriving DecidableEq, Repr

/-- A section of a supervisor image as the monitor places it (R391): where, whether it may be written, whether it is the text, and
its bytes. -/
structure SupSection where
  va : Nat
  pa : Nat
  writable : Bool
  text : Bool
  bytes : List Byte
deriving DecidableEq, Repr

/-- A relocation of an image (R47): the kind, 0 to 5 in the order of the table; the section and the offset of the word or
instruction that it fills, and the field's first bit and width there; the address that it fills in. -/
structure SupReloc where
  kind : Nat
  section_ : Nat
  at_ : Nat
  bit : Nat := 0
  n : Nat
  value : Nat
deriving DecidableEq, Repr

/-- A supervisor image (R391). -/
structure SupImage where
  sections : List SupSection := []
  relocs : List SupReloc := []
  entry : DWord := 0
deriving DecidableEq, Repr

/-- A datagram of the crash image (R409). -/
structure Datagram where
  number : Nat
  addr : BitVec 128
  port : BitVec 16
  bytes : List Byte
deriving DecidableEq, Repr

/-- A link write or a peer module's write of which some bytes have landed (R214): the operation, and the bytes left, by physical
address. -/
structure Landing where
  what : Instr
  rest : List (Nat × Byte)
deriving DecidableEq, Repr

/-- The whole machine. -/
structure State where
  /-- bring-up steps done (R413) -/
  stage : Nat
  /-- arithmetic clocks since reset (R107) -/
  clock : Nat
  /-- sixteenths taken off the clock (R412) -/
  throttle : Nat
  /-- physical memory by 52-bit address (R396) -/
  phys : Mem
  /-- addresses of poisoned bytes, and of bytes with a correctable error; corrected errors so far (R407) -/
  poison : List Nat
  soft : List Nat
  corrected : Nat
  cores : NMap Core
  parts : NMap Part
  /-- by partition × 64 + VF -/
  vfs : NMap Vf
  edges : NMap Edge
  dies : NMap Die
  grids : NMap Grid
  nextGrid : Nat
  nextLease : Nat
  nextAccept : Nat
  /-- the next number of an access, a copy command or a matrix operation -/
  nextOp : Nat
  reports : List Report
  /-- the supervisor image that the monitor has to load (R391), from outside (log 7) -/
  supImage : SupImage
  /-- the loaded supervisor image: its entry and its text, base and bytes (R372, R391) -/
  supEntry : DWord
  supText : Nat × Nat
  /-- the first PC of the monitor pairs (log 9) -/
  monEntry : DWord
  /-- pages of the module operating system's tables: virtual page base, size, physical base, writable (R371, R372) -/
  osPages : List (Nat × Nat × Nat × Bool)
  /-- the operating system has panicked; crash datagrams sent (R409) -/
  panicked : Bool
  crash : List Datagram
  /-- lower words written of monitor-window registers wider than 8 bytes, by window offset (R397) -/
  winLow : NMap DWord
  mdId : BitVec 10
  mdCollect : BitVec 128
  mdCport : BitVec 16
  /-- VFs (partition × 64 + VF) that each host tray may name (R403) -/
  trays : NMap (List Nat)
  peerReplies : List PeerReply
  /-- what the admission tables of other modules grant this one: module, partition of this module, first and last aperture offset,
  read, write (R406) -/
  peerRights : List (Nat × Nat × Nat × Nat × Bool × Bool)
  /-- link writes and peer writes that land byte by byte (R214) -/
  landing : List Landing
  /-- the issue in progress -/
  cur : Option Issue
  /-- THE MODEL'S OWN: who moves next, as data (log 1) -/
  agenda : List Instr
  /-- THE MODEL'S OWN: choices among allowed outcomes (log 2) -/
  oracle : List Nat
  /-- THE MODEL'S OWN: the number of the next undefined value (log 4) -/
  freeCount : Nat
deriving DecidableEq, Repr

/-- The machine right after power-on, before step 1 of bring-up (R413): every register at the value the spec gives, and at
the value log 6 names where the spec gives none. -/
def State.reset : State :=
  { stage := 0, clock := 0, throttle := 0, phys := [], poison := [], soft := [], corrected := 0, cores := [], parts := [],
    vfs := [], edges := [], dies := [], grids := [], nextGrid := 0, nextLease := 1, nextAccept := 0, nextOp := 0, reports := [],
    supImage := {}, supEntry := 0, supText := (0, 0), monEntry := 0, osPages := [], panicked := false, crash := [],
    winLow := [], mdId := 0, mdCollect := 0, mdCport := 0, trays := [],
    peerReplies := [], peerRights := [], landing := [], cur := none, agenda := [], oracle := [], freeCount := 0 }

end Sys2Proof.Machine
end

