-- ==== Sys2Proof/Machine/Ops.lean ====
section
/-!
DEFINITION. Named operations over the state: cores, threads, leads and their registers, the program counter, the clock, the
choices and free values, traps (spec/21 R373, R376, R377) and the return from one (R381).
-/

namespace Sys2Proof

/-- Is the agent a lead? -/
def Agent.isLead (a : Agent) : Bool :=
  match a.who with
  | .thread _ => false
  | .lead _ => true

/-- The number of a predicate, handle or convergence-register field (R58). -/
def Opnd.num : Opnd → Nat
  | .g i => i.toNat
  | .s i => i.toNat
  | .lit i => i.toNat
  | .imm i => i.toNat

end Sys2Proof

namespace Sys2Proof.Machine

/-! ### Parts of the machine -/

def State.core (s : State) (c : Nat) : Core := (lookupN s.cores c).getD {}
def State.setCore (s : State) (c : Nat) (k : Core) : State := { s with cores := putN s.cores c k }
def State.modCore (s : State) (c : Nat) (f : Core → Core) : State := s.setCore c (f (s.core c))

def State.part (s : State) (p : Nat) : Part := (lookupN s.parts p).getD {}
def State.modPart (s : State) (p : Nat) (f : Part → Part) : State := { s with parts := putN s.parts p (f (s.part p)) }

/-- The VF whose tables an access uses. -/
def Via.vf? : Via → Option Nat
  | .vf _ v => some v
  | _ => none

/-- The number of VF `v` of partition `p` in the maps of VFs. -/
def vfKey (p v : Nat) : Nat := p * 64 + v

def State.vf (s : State) (k : Nat) : Vf := (lookupN s.vfs k).getD {}
def State.modVf (s : State) (k : Nat) (f : Vf → Vf) : State := { s with vfs := putN s.vfs k (f (s.vf k)) }

def Vf.queue (v : Vf) (q : Nat) : Queue := (lookupN v.queues q).getD {}
def State.modQueue (s : State) (k q : Nat) (f : Queue → Queue) : State :=
  s.modVf k (fun v => { v with queues := putN v.queues q (f (v.queue q)) })

def State.edge (s : State) (e : Nat) : Edge := (lookupN s.edges e).getD {}
def State.modEdge (s : State) (e : Nat) (f : Edge → Edge) : State := { s with edges := putN s.edges e (f (s.edge e)) }
def Edge.txOf (e : Edge) (k : Nat) : TxRegs := (lookupN e.tx k).getD {}
def State.modTx (s : State) (e k : Nat) (f : TxRegs → TxRegs) : State :=
  s.modEdge e (fun d => { d with tx := putN d.tx k (f (d.txOf k)) })

def State.die (s : State) (d : Nat) : Die := (lookupN s.dies d).getD {}
def State.modDie (s : State) (d : Nat) (f : Die → Die) : State := { s with dies := putN s.dies d (f (s.die d)) }
def Die.fwOf (d : Die) (k : Nat) : FwCtl := (lookupN d.fw k).getD {}

def State.grid (s : State) (g : Nat) : Option Grid := lookupN s.grids g
def State.modGrid (s : State) (g : Nat) (f : Grid → Grid) : State := { s with grids := modN s.grids g f }

/-- The die of a core; the monitor pair of die d is core number 640 + d (log 9). -/
def dieOf (c : Nat) : Nat := if c < 640 then c / 16 else c - 640

/-- The partition that a die belongs to (R392). -/
def State.partOfDie (s : State) (d : Nat) : Option Nat :=
  (s.parts.find? (fun p => p.2.formed && p.2.dies.getLsbD d)).map (·.1)

/-! ### Choices, free values, clock -/

/-- One of `n` allowed outcomes: the oracle's next entry, 0 where it has none (log 2). -/
def State.pick (s : State) (n : Nat) : Nat × State :=
  if n ≤ 1 then (0, s)
  else
    match s.oracle with
    | [] => (0, s)
    | o :: os => (o % n, { s with oracle := os })

/-- `n` undefined bytes (log 4). -/
def State.freeBytes (s : State) (n : Nat) : List Byte × State :=
  ((List.range n).map (fun i => Config.freeByte (s.freeCount + i)), { s with freeCount := s.freeCount + n })

/-- Advance the clock. -/
def State.tick (s : State) (n : Nat) : State := { s with clock := s.clock + n }

/-! ### Threads, leads, contexts -/

def Core.thread (k : Core) (slot : Nat) : Option Thread := lookupN k.threads slot
def Core.wg (k : Core) (p : Nat) : Option Wg := lookupN k.wgs p
def Core.modThread (k : Core) (slot : Nat) (f : Thread → Thread) : Core := { k with threads := modN k.threads slot f }
def Core.modWg (k : Core) (p : Nat) (f : Wg → Wg) : Core := { k with wgs := modN k.wgs p f }
def Core.modLead (k : Core) (p : Nat) (f : Lead → Lead) : Core := k.modWg p (fun w => { w with lead := w.lead.map f })

def State.thread? (s : State) (a : Agent) : Option Thread :=
  match a.who with
  | .thread n => (s.core a.core).thread n
  | .lead _ => none

def State.lead? (s : State) (a : Agent) : Option Lead :=
  match a.who with
  | .thread _ => none
  | .lead p => ((s.core a.core).wg p).bind (·.lead)

/-- The context of a thread or lead. -/
def State.ctx (s : State) (a : Agent) : Ctx :=
  match a.who with
  | .thread _ => ((s.thread? a).map (·.ctx)).getD {}
  | .lead _ => ((s.lead? a).map (·.ctx)).getD {}

/-- Change every context of a core. -/
def Core.mapCtx (k : Core) (f : Ctx → Ctx) : Core :=
  { k with threads := k.threads.map (fun p => (p.1, { p.2 with ctx := f p.2.ctx })),
           wgs := k.wgs.map (fun p => (p.1, { p.2 with lead := p.2.lead.map (fun l => { l with ctx := f l.ctx }) })) }

/-- Change every context of a saved team. -/
def Skein.mapCtx (k : Skein) (f : Ctx → Ctx) : Skein :=
  { k with threads := k.threads.map (fun t => { t with thread := { t.thread with ctx := f t.thread.ctx } }),
           wgs := k.wgs.map (fun w => { w with lead := w.lead.map (fun l => { l with ctx := f l.ctx }) }) }

/-- Every context of a core. -/
def Core.ctxs (k : Core) : List Ctx :=
  k.threads.map (fun p => p.2.ctx) ++ k.wgs.filterMap (fun p => p.2.lead.map (·.ctx))

/-- Every context of a saved team. -/
def Skein.ctxs (k : Skein) : List Ctx :=
  k.threads.map (fun t => t.thread.ctx) ++ k.wgs.filterMap (fun w => w.lead.map (·.ctx))

def State.modCtx (s : State) (a : Agent) (f : Ctx → Ctx) : State :=
  match a.who with
  | .thread n => s.modCore a.core (fun k => k.modThread n (fun t => { t with ctx := f t.ctx }))
  | .lead p => s.modCore a.core (fun k => k.modLead p (fun l => { l with ctx := f l.ctx }))

/-- The home lane of a thread slot (R13). -/
def homeLane (slot : Nat) : Nat := slot % 64

/-- The home lane of a thread; a lead has none. -/
def homeLaneOf (a : Agent) : Option Nat :=
  match a.who with
  | .thread n => some (homeLane n)
  | .lead _ => none

/-- The level of an agent (R369): a lead runs at T. -/
def State.level (s : State) (a : Agent) : Level := ((s.thread? a).map (·.level)).getD .t

/-- A supervisor thread enters `WaitPhase` (R391). -/
def State.enterWait (s : State) (a : Agent) : State :=
  match a.who with
  | .thread n => if s.level a = .s then s.modCore a.core (fun k => k.modThread n (fun t => { t with entered := true })) else s
  | .lead _ => s

/-- The workgroup place of an agent. -/
def State.place (s : State) (a : Agent) : Nat :=
  match a.who with
  | .thread _ => ((s.thread? a).map (·.wg)).getD 0
  | .lead p => p

/-- The workgroup of a task thread or a lead. -/
def State.wg? (s : State) (a : Agent) : Option Wg :=
  if s.level a = .t then (s.core a.core).wg (s.place a) else none

def State.gridNo (s : State) (a : Agent) : Option Nat := (s.wg? a).map (·.grid)
def State.gridOf (s : State) (a : Agent) : Option Grid := (s.gridNo a).bind s.grid
/-- The launch record of an agent's grid; empty for a supervisor or monitor thread (DESIGN CHOICE, log 59). -/
def State.launchOf (s : State) (a : Agent) : Launch := ((s.gridOf a).map (·.launch)).getD {}

/-- Registers of an agent's file: the launch's `regs`, 128 for a supervisor or monitor thread (R14, R370, log 9). -/
def State.regsOf (s : State) (a : Agent) : Nat := if s.level a = .t then (s.launchOf a).regs else Config.supRegs

/-- The group width of an agent: the launch's, 8 at S (R370), and 8 for a monitor thread too (DESIGN CHOICE, log 59). -/
def State.groupW (s : State) (a : Agent) : Nat := if s.level a = .t then (s.launchOf a).group else 8

def State.tidOf (s : State) (a : Agent) : Nat := ((s.thread? a).map (·.tid)).getD 0
/-- The group of a thread in its workgroup, and its position in the group (R158). -/
def State.groupOf (s : State) (a : Agent) : Nat := s.tidOf a / s.groupW a
def State.posOf (s : State) (a : Agent) : Nat := s.tidOf a % s.groupW a

/-- The partition of an agent: its grid's, or its die's; 0 on a die of no partition (DESIGN CHOICE, log 59). -/
def State.partOf (s : State) (a : Agent) : Nat :=
  match s.gridOf a with
  | some g => g.part
  | none => (s.partOfDie (dieOf a.core)).getD 0

/-- The VF whose tables an agent's accesses use (R371); none: the module operating system's, or physical addresses at M. -/
def State.vfOf (s : State) (a : Agent) : Option Nat :=
  match s.level a with
  | .t => (s.gridOf a).map (·.vf)
  | .s =>
    match s.thread? a with
    | some t => if t.stran.getLsbD 6 then none else some (t.stran.toNat % 64)
    | none => none
  | .m => none

/-- The name of an agent that a swap does not change. -/
def State.idOf (s : State) (a : Agent) : AgentId :=
  match a.who with
  | .lead p => match (s.core a.core).wg p with
    | some w => .lead w.grid w.lin
    | none => .lead 0 0
  | .thread n =>
    match s.wg? a with
    | some w => .thread w.grid w.lin (s.tidOf a)
    | none => if a.core < 640 then .sup a.core (n - Config.supSlot) else .mon (a.core - 640)

/-- The core and place of a workgroup of a grid, where it is resident. -/
def State.findWg (s : State) (grid lin : Nat) : Option (Nat × Nat) :=
  s.cores.findSome? (fun k => (k.2.wgs.find? (fun w => w.2.grid = grid ∧ w.2.lin = lin)).map (fun w => (k.1, w.1)))

/-- Where an agent stands now. -/
def State.locate (s : State) : AgentId → Option Agent
  | .lead g l => (s.findWg g l).map (fun p => { core := p.1, who := .lead p.2 })
  | .thread g l t => (s.findWg g l).bind (fun p =>
      ((s.core p.1).threads.find? (fun h => h.2.wg = p.2 ∧ h.2.tid = t ∧ h.2.level = .t)).map
        (fun h => { core := p.1, who := .thread h.1 }))
  | .sup c k => some { core := c, who := .thread (Config.supSlot + k) }
  | .mon d => some { core := 640 + d, who := .thread 0 }

/-! ### Registers -/

/-- A register write overlaps the retained register (R62). -/
def Retained.hit (r : Retained) (o : Opnd) (w : Nat) : Bool :=
  r.bank == .reg && match r.opnd, o with
  | .g i, .g j => decide (i.toNat < j.toNat + max 1 (w / 32) ∧ j.toNat < i.toNat + max 1 (r.width / 32))
  | .s i, .s j => decide (i.toNat ≤ j.toNat ∧ j.toNat < i.toNat + max 1 ((r.width + 63) / 64))
  | _, _ => false

/-- A write of an A-scale register of an unfinished matrix operation spoils its row (R315; DEDUCED, log 45). -/
def MxMark.hit (m : MxMark) (o : Opnd) (w : Nat) : Bool :=
  match m.regs, o with
  | some (i, n), .g j => decide (i < j.toNat + max 1 (w / 32) ∧ j.toNat < i + n)
  | _, _ => false

/-- What the write of a register does to the operand buffer and to matrix operations under way. -/
def Ctx.dropBuf (c : Ctx) (o : Opnd) (w : Nat) : Ctx :=
  { c with opBuf := match c.opBuf with
             | some r => if r.hit o w then none else some r
             | none => none,
           marks := c.marks.map (fun m => if m.hit o w then { m with spoilt := true } else m) }

/-- A write of predicate or handle `i` empties a buffer that retains it (R62). -/
def Ctx.dropBit (c : Ctx) (b : Bank) (i : Nat) : Ctx :=
  match c.opBuf with
  | some r => if r.bank == b && r.opnd.num == i then { c with opBuf := none } else c
  | none => c

/-- Words of `g` registers from an index up. -/
def gWords (g : Regs 32) (i : Nat) : Nat → Nat
  | 0 => 0
  | n + 1 => (getR g i).toNat + 2 ^ 32 * gWords g (i + 1) n

/-- Write `n` words of a value. -/
def gPut (g : Regs 32) (i : Nat) : Nat → Nat → Regs 32
  | 0, _ => g
  | n + 1, v => gPut (setR g i (BitVec.ofNat 32 v)) (i + 1) n (v / 2 ^ 32)

/-- Words that an operand of `w` bits takes (R58). -/
def wordsOf (w : Nat) : Nat := if w ≤ 32 then 1 else if w ≤ 64 then 2 else 4

/-- `WriteG` (R7). -/
def State.writeG (s : State) (a : Agent) (i w v : Nat) : State :=
  match a.who with
  | .thread n => s.modCore a.core (fun k => k.modThread n (fun t =>
      { t with g := gPut t.g i (wordsOf w) v, bad := t.bad.filter (fun r => decide (r < i ∨ i + wordsOf w ≤ r)),
               ctx := t.ctx.dropBuf (.g (BitVec.ofNat 9 i)) w }))
  | .lead _ => s

/-- A write of an `s` register by the lead of a place empties the buffers of its threads that retain it (R62). -/
def Thread.dropS (place i : Nat) (t : Thread) : Thread :=
  if t.level == .t && t.wg == place then { t with ctx := t.ctx.dropBuf (.s (BitVec.ofNat 9 i)) 64 } else t

def Core.dropS (k : Core) (place i : Nat) : Core := { k with threads := k.threads.map (fun t => (t.1, t.2.dropS place i)) }

/-- `WriteS` (R7): the write joins the lead's writes in order (R92). -/
def State.writeS (s : State) (a : Agent) (i v : Nat) : State :=
  match a.who with
  | .thread _ => s
  | .lead p =>
    (s.modCore a.core (fun k => k.modLead p (fun l =>
      { l with s := setR l.s i (BitVec.ofNat 64 v), log := l.log ++ [(i, BitVec.ofNat 64 v)],
               ctx := l.ctx.dropBuf (.s (BitVec.ofNat 9 i)) 64 }))).modCore a.core (fun k => k.dropS p i)

/-- A predicate; number 7 is `pt` (R7). -/
def State.readP (s : State) (a : Agent) (p : Nat) : Bool := if p = 7 then true else (s.ctx a).preds.getLsbD p

/-- Set or clear one bit. -/
def setBit {w : Nat} (v : BitVec w) (i : Nat) (b : Bool) : BitVec w :=
  if b then v ||| (1#w <<< i) else v &&& ~~~(1#w <<< i)

/-- `WriteP` (R7): a write of `pt` is discarded. -/
def Ctx.writeP (c : Ctx) (p : Nat) (b : Bool) : Ctx := if p = 7 then c else { c.dropBit .pred p with preds := setBit c.preds p b }
def State.writeP (s : State) (a : Agent) (p : Nat) (b : Bool) : State := s.modCtx a (fun c => c.writeP p b)

/-- A handle register (R246). -/
def State.readH (s : State) (a : Agent) (i : Nat) : Word := getR (s.ctx a).handles i
def State.writeH (s : State) (a : Agent) (i : Nat) (v : Word) : State :=
  s.modCtx a (fun c => { c.dropBit .handle i with handles := setR c.handles i v })

/-- `Flag` (R7): OR flags into `fstat`. -/
def State.flag (s : State) (a : Agent) (f : BitVec 5) : State := s.modCtx a (fun c => { c with fstat := c.fstat ||| f })

/-- The value of `s` register `n` after the first `k` writes of a lead (R92). -/
def Lead.after (l : Lead) (n k : Nat) : DWord :=
  (l.log.take k).foldl (fun v w => if w.1 = n then w.2 else v) (getR l.s0 n)

/-- The counts of lead writes after which a thread may read `s` register `n`, the newest first: never older than what its
group's last pop passed on, never older than what it has read before (R92). -/
def Lead.choices (l : Lead) (n least : Nat) : List Nat :=
  ((List.range l.log.length).reverse.filter (fun i => decide (least ≤ i) && (l.log.getD i (64, 0)).1 == n)).map (· + 1)
    ++ [least]

/-- A thread settles which of its lead's writes a read of `s` register `n` obtains (R92, log 2). -/
def State.settleS (s : State) (a : Agent) (n : Nat) : State :=
  match a.who with
  | .lead _ => s
  | .thread slot =>
    match s.thread? a, (s.wg? a).bind (fun w => w.lead.map (fun l => (w, l))) with
    | some t, some (w, l) =>
      let least := max ((lookupN w.floor (s.groupOf a)).getD 0) ((lookupN t.sSeen n).getD 0)
      let cs := l.choices n least
      let (i, s) := s.pick cs.length
      s.modCore a.core (fun k => k.modThread slot (fun t => { t with sSeen := putN t.sSeen n (cs.getD i least) }))
    | _, _ => s

/-- `s` register `n` as an agent reads it: a lead its own, a thread its lead's at the write it has settled on. A workgroup
without a lead reads the launch values (R182). -/
def State.readS (s : State) (a : Agent) (n : Nat) : DWord :=
  match a.who with
  | .lead _ => ((s.lead? a).map (fun l => getR l.s n)).getD 0
  | .thread _ =>
    match s.thread? a, (s.wg? a).bind (·.lead) with
    | some t, some l => l.after n ((lookupN t.sSeen n).getD 0)
    | _, _ =>
      match s.gridOf a with
      | some g => g.launch.args.getD n 0
      | none => Config.noLeadS n

/-! ### The program counter -/

/-- `Canon` (R7, R17). -/
def canon (a : DWord) : Bool :=
  (a.extractLsb' 56 8 == 0 && !a.getLsbD 55) || (a.extractLsb' 56 8 == 255 && a.getLsbD 55)

def lineOf (pc : DWord) : DWord := pc &&& ~~~63#64
def slotOf (pc : DWord) : Nat := pc.toNat % 8

/-- The sequential successor of a PC, exact (R54). -/
def nextPcN (pc : DWord) : Nat := if slotOf pc < 4 then pc.toNat + 1 else (lineOf pc).toNat + 64
/-- `Next(PC)`. -/
def nextPc (pc : DWord) : DWord := BitVec.ofNat 64 (nextPcN pc)

/-- Go on to `Next(PC)`. -/
def Ctx.advance (c : Ctx) : Ctx :=
  { c with pc := nextPc c.pc, srcPc := c.pc, byBranch := false, pcOver := decide (2 ^ 64 ≤ nextPcN c.pc) }

/-- Go to a PC that a branch form names, an exact integer (R54, R168). -/
def Ctx.jumpTo (pc : Int) (c : Ctx) : Ctx :=
  { c with pc := BitVec.ofInt 64 pc, srcPc := c.pc, byBranch := true, pcOver := decide (pc < 0 ∨ 2 ^ 64 ≤ pc) }

def State.advance (s : State) (a : Agent) : State := s.modCtx a Ctx.advance
def State.jumpTo (s : State) (a : Agent) (pc : Int) : State := s.modCtx a (Ctx.jumpTo pc)

/-- Go back to a PC by `SRET`, which needs no target-mask bit, for an instruction that trapped at `at_` (R54, R381). A PC other than
its own was produced by that instruction; its own keeps what produced it. -/
def Ctx.goTo (c : Ctx) (at_ pc : DWord) : Ctx :=
  { c with pc := pc, srcPc := if pc = at_ then c.srcPc else at_, byBranch := false,
           pcOver := decide (pc = nextPc at_ ∧ 2 ^ 64 ≤ nextPcN at_) }

/-! ### Counters -/

def Ctx.count (c : Ctx) : Ctr → Nat
  | .ld => c.ld
  | .st => c.st
  | .cp => c.cp
  | .mx => c.mx

def Ctx.setCount (c : Ctx) (k : Ctr) (n : Nat) : Ctx :=
  match k with
  | .ld => { c with ld := n }
  | .st => { c with st := n }
  | .cp => { c with cp := n }
  | .mx => { c with mx := n }

/-- An operation counts in (R116). -/
def State.countIn (s : State) (a : Agent) (k : Ctr) : State := s.modCtx a (fun c => c.setCount k (c.count k + 1))
/-- An operation is counted out. -/
def State.countOut (s : State) (a : Agent) (k : Ctr) : State := s.modCtx a (fun c => c.setCount k (c.count k - 1))

/-- Performance event `ev` of VF `vf` happens `n` times on core `c` (R388). -/
def State.perfEvent (s : State) (c ev : Nat) (vf : Option Nat) (n : Nat) : State :=
  s.modCore c (fun k =>
    (List.range 8).foldl (fun k i =>
      let sel := (getR k.pcsel i).toNat
      if sel % 256 = ev ∧ ev ≠ 0 ∧ (sel / 2 ^ 22 % 2 = 0 ∨ vf = some (sel / 2 ^ 16 % 64))
      then { k with pcnt := setR k.pcnt i (getR k.pcnt i + BitVec.ofNat 64 n) } else k) k)

/-! ### Traps -/

/-- A trap that an instruction raises. -/
structure Trap where
  code : TrapCode
  /-- the faulting virtual address, 0 where there is none (R402) -/
  va : Nat := 0
deriving DecidableEq, Repr

/-- A trap of a grid has begun to stop it already (R402). -/
def State.stopBegun (s : State) (grid : Nat) : Bool := s.reports.any (fun r => r.grid == grid)

/-- A supervisor thread is reporting a trap, or a request of it is pending. -/
def Wait.reporting : Wait → Bool
  | .supTrap _ _ _ => true
  | .posting _ => true
  | .reply _ => true
  | _ => false

/-- A supervisor thread takes a trap: it waits for the trap to be reported, at `pc`, once those before it are (R373). -/
def Ctx.supTrap (now : Nat) (t : TrapCode × Nat × DWord) (c : Ctx) : Ctx :=
  if c.wait.reporting then { c with later := c.later ++ [t] }
  else { c with wait := .supTrap t.1 t.2.1 t.2.2, waitFrom := now, opBuf := none }

/-- A supervisor thread whose request is answered goes on, or reports the next of its traps (R373). -/
def Ctx.nextTrap (now : Nat) (c : Ctx) : Ctx :=
  match c.later with
  | [] => c
  | t :: ts => { c with wait := .supTrap t.1 t.2.1 t.2.2, waitFrom := now, later := ts }

/-- An issue: its PC, and its clock (R376). -/
abbrev IssueId := DWord × Nat

/-- A trap of an agent, or of an operation that a grid issued earlier, is on its way to the distributor, reported at a PC; which issue
raised it, and from which home lane (R376). -/
def State.report (s : State) (grid : Option Nat) (t : Trap) (pc : DWord) (core : Nat) (by_ : IssueId := (pc, s.clock))
    (lane : Option Nat := none) : State :=
  match grid with
  | some g => { s with reports := s.reports ++ [{ grid := g, code := t.code, pc := pc, core := core, va := t.va, since := by_.2,
                                                   at_ := by_.1, lane := lane, late := s.stopBegun g }] }
  | none => s

/-- The request that a supervisor thread's core has selected (R371). -/
def State.selected (s : State) (core : Nat) : Option Mail := lookupN (s.core core).mail (s.core core).tsel.toNat

/-- A supervisor thread's trap, as it is taken, ends the grid of the request that it serves: the entry of the fault log takes the
request's PC and the supervisor's faulting address (R373; DEDUCED, log 38). -/
def State.endServed (s : State) (a : Agent) (t : Trap) (by_ : IssueId) : State :=
  match s.vfOf a, s.selected a.core with
  | some _, some m => s.report (s.gridNo m.agent) t (m.record.getD 0 0) a.core by_ (homeLaneOf a)
  | _, _ => s

/-- TAKING A TRAP that is not resumable, reported at `pc`. A task thread or lead stops, and the trap is on its way to the
distributor (R376). A supervisor thread waits for its trap to be reported, at `pc` (R373). The spec gives a trap of the monitor pair
no effect: its thread stays stopped (log 9). -/
def State.raiseAt (s : State) (a : Agent) (t : Trap) (pc : DWord) (by_ : IssueId := ((s.ctx a).pc, s.clock)) : State :=
  match s.level a with
  | .t =>
    (s.modCtx a (fun c => { c with wait := if c.wait = .exited then .exited else .stopped, opBuf := none })).report
      (s.gridNo a) t pc a.core by_ (homeLaneOf a)
  | .s => (s.endServed a t by_).modCtx a (Ctx.supTrap s.clock (t.code, t.va, pc))
  | .m => s.modCtx a (fun c => { c with wait := .stopped, opBuf := none })

/-- The same at the agent's PC. -/
def State.raise (s : State) (a : Agent) (t : Trap) : State := s.raiseAt a t (s.ctx a).pc

/-- A context waits to post a request (R377). The operand buffer is empty after (R62). -/
def Ctx.ask (now : Nat) (r : Request) (c : Ctx) : Ctx := { c with wait := .posting r, waitFrom := now, opBuf := none }

/-- TAKING A RESUMABLE TRAP: the thread or lead waits to post its request (R377). One that a trap of an earlier operation has stopped
meanwhile makes no request. -/
def State.raiseResumable (s : State) (a : Agent) (r : Request) : State :=
  s.modCtx a (fun c => if c.wait = .run then c.ask s.clock r else c)

/-- The core whose mailbox takes an agent's requests: its own, or its die's monitor pair for a supervisor thread (R379). -/
def State.mailboxOf (s : State) (a : Agent) : Nat :=
  match s.level a with
  | .s => 640 + dieOf a.core
  | _ => a.core

/-- RETURNING FROM A RESUMABLE TRAP of the instruction at `at_`: a resume at `pc` (R381). The reply object completes a phase. -/
def State.resume (s : State) (a : Agent) (at_ pc : DWord) (noMatch : Bool) : State :=
  s.modCtx a (fun c =>
    ({ (c.goTo at_ pc) with wait := .run, noMatch := noMatch, reply := c.reply + 1, opBuf := none } : Ctx).nextTrap s.clock)

end Sys2Proof.Machine
end

