-- ==== Sys2Proof/Machine/Memory.lean ====
section
/-!
DEFINITION. Memory: translation (spec/23 R394 to R398), the checks of an address (spec/06 R119, R122, R123, spec/21 R371,
R372), reads and writes at the home, and the L1 copies of a core (spec/06 R114, spec/10 R215).
-/

namespace Sys2Proof.Machine

/-- The tables of an agent's accesses. -/
def State.viaOf (s : State) (a : Agent) : Via :=
  match s.level a with
  | .m => .phys
  | _ =>
    match s.vfOf a with
    | some v => .vf (s.partOf a) v
    | none => .os

/-! ### The physical address map (R396) -/

/-- HBM4E of a compute die. -/
def isHbm (pa : Nat) : Bool := decide (pa / 2 ^ 36 < 40) && decide (pa % 2 ^ 36 < 64000000000)
/-- The CXL tier. -/
def isCxl (pa : Nat) : Bool := decide (2 ^ 48 ≤ pa ∧ pa < 2 ^ 48 + 4 * 2 ^ 42)
/-- A peer aperture. -/
def isPeer (pa : Nat) : Bool := decide (0x8000000000000 ≤ pa ∧ pa < 0x8000000000000 + 1024 * 2 ^ 41)
/-- The monitor window. -/
def isWindow (pa : Nat) : Bool := decide (0xF00000000000 ≤ pa ∧ pa ≤ 0xFFFFFFFFFFFF)
/-- An address that a stage-two range may reach. -/
def mapped (pa : Nat) : Bool := isHbm pa || isCxl pa || isPeer pa

/-- The die whose L2 homes an address: the stack's die, or the corner die of the CXL port (R211, R405). -/
def homeDie (pa : Nat) : Nat :=
  if isCxl pa then
    match (pa - 2 ^ 48) / 2 ^ 42 with
    | 0 => 0
    | 1 => 7
    | 2 => 32
    | _ => 39
  else pa / 2 ^ 36

/-! ### The mesh and its firewalls (R11, R393) -/

/-- The die at the far end of end `k` of a die's links: 0 north, 1 east, 2 south, 3 west (R11, R397); north is the row before
(DEDUCED, log 62). -/
def farDie (d k : Nat) : Option Nat :=
  match k with
  | 0 => if 8 ≤ d then some (d - 8) else none
  | 1 => if d % 8 ≠ 7 then some (d + 1) else none
  | 2 => if d < 32 then some (d + 8) else none
  | 3 => if d % 8 ≠ 0 then some (d - 1) else none
  | _ => none

/-- The corner dies, in the order of the edge dies that attach to them (R11). -/
def corners : List Nat := [0, 7, 32, 39]

/-- A die has end `k`: a mesh link, or end 4 at a corner (R11, R397). -/
def hasEnd (d k : Nat) : Bool := decide (d < 40) && ((farDie d k).isSome || (k == 4 && corners.contains d))

/-- An end lets a transaction through, of the edge class or not (R393). -/
def FwCtl.passes (f : FwCtl) (edge : Bool) : Bool := !f.closed || (edge && f.edge)

/-- A transaction crosses the link at end `k` of a die: both ends let it through, and one that is not of the edge class stays in
its partition (R393). -/
def State.crosses (s : State) (edge : Bool) (d k : Nat) : Bool :=
  match farDie d k with
  | some e => ((s.die d).fwOf k).passes edge && ((s.die e).fwOf ((k + 2) % 4)).passes edge
      && (edge || s.partOfDie d == s.partOfDie e)
  | none => false

/-- The dies that a transaction reaches from a set in so many links. -/
def State.meshFrom (s : State) (edge : Bool) : Nat → List Nat → List Nat
  | 0, seen => seen
  | n + 1, seen =>
    let more := seen.flatMap (fun d => (List.range 4).filterMap (fun k => if s.crosses edge d k then farDie d k else none))
    let new := (more.filter (fun d => !seen.contains d)).eraseDups
    if new.isEmpty then seen else s.meshFrom edge n (seen ++ new)

/-- Some way over the mesh leads from a die to another (R393). The spec gives no route (DESIGN CHOICE, log 40). -/
def State.pathOpen (s : State) (edge : Bool) (a b : Nat) : Bool := a == b || (s.meshFrom edge 40 [a]).contains b

/-- The corner die lets edge-class traffic to and from its edge die. -/
def State.portOpen (s : State) (corner : Nat) : Bool := ((s.die corner).fwOf 4).passes true

/-- A request of a die reaches the home of a physical address (R393, R405, R406). -/
def State.canReach (s : State) (die pa : Nat) : Bool :=
  if isHbm pa then s.pathOpen false die (pa / 2 ^ 36)
  else if isCxl pa then s.pathOpen true die (homeDie pa) && s.portOpen (homeDie pa)
  else if isPeer pa then corners.any (fun e => s.pathOpen true die e && s.portOpen e)
  else true

/-- The same, where a request may come from no die in particular: the distributor's, whose place the spec does not give. -/
def State.canReachBy (s : State) (src : Option Nat) (pa : Nat) : Bool :=
  match src with
  | some d => s.canReach d pa
  | none => true

/-! ### Errors in memory (R407) -/

/-- Does a range of the memory hold a byte that cannot be corrected: a poisoned byte, or any of a 32-byte unit of HBM4E in which
two bytes have failed (R407)? -/
def State.poisoned (s : State) (pa n : Nat) : Bool :=
  s.poison.any (fun p => decide (pa ≤ p ∧ p < pa + n))
  || s.soft.any (fun p => decide (pa < p / 32 * 32 + 32 ∧ p / 32 * 32 < pa + n) && isHbm p
      && s.soft.any (fun q => q != p && q / 32 == p / 32))

/-- The errors that a read of ranges corrects are counted (R407). -/
def State.noteSoft (s : State) (ps : List (Nat × Nat)) : State :=
  { s with corrected := s.corrected + (s.soft.filter (fun p => ps.any (fun r => decide (r.1 ≤ p ∧ p < r.1 + r.2)))).length }

/-! ### Translation -/

/-- Fields of a stage-two range entry (R395): base and last IPA, PA base, read, write, slow. -/
def rangeBase (e : BitVec 128) : Nat := fld e 8 36 * 65536
def rangeLast (e : BitVec 128) : Nat := fld e 44 36 * 65536 + 65535
def rangePa (e : BitVec 128) : Nat := fld e 80 36 * 65536

/-- Stage two: the lowest-index valid entry whose range holds the IPA (R395). -/
def Vf.stageTwo (v : Vf) (ipa : Nat) : Option (BitVec 128) :=
  (v.ranges.find? (fun p => p.2.getLsbD 0 && decide (rangeBase p.2 ≤ ipa ∧ ipa ≤ rangeLast p.2))).map (·.2)

/-- The physical address of an IPA for a read or a write, each of which its range allows by a bit of its own. -/
def Vf.ipaToPa (v : Vf) (ipa : Nat) (write : Bool) : Option Nat :=
  match v.stageTwo ipa with
  | some e =>
    if (if write then e.getLsbD 2 else e.getLsbD 1) then some (rangePa e + (ipa - rangeBase e)) else none
  | none => none

/-- A table entry of 8 bytes at an IPA, as a walker on a die reads it: none where stage two or a firewall refuses it, or where
it is poisoned (R393, R394, R407). -/
def State.tableEntry (s : State) (src : Option Nat) (v : Vf) (ipa : Nat) : Option (BitVec 64) :=
  match v.ipaToPa ipa false with
  | some pa => if s.canReachBy src pa && !s.poisoned pa 8 then some (BitVec.ofNat 64 (leNat (s.phys.read pa 8))) else none
  | none => none

/-- The IPA that an entry names, where the entry is valid and well formed for its level (R394): `leaf` says that it may or
must map a page, `align` is the alignment of what it names. -/
def entryAddr (e : BitVec 64) (leaf : Bool) (align : Nat) : Option Nat :=
  let addr := fld e 8 44 * 256
  if e.getLsbD 0 && fld e 52 12 == 0 && fld e 3 5 == 0 && e.getLsbD 1 == leaf && decide (addr % align = 0) then some addr
  else none

/-- Stage one: the page that maps a virtual address, its size, its IPA and whether it may be written (R394). -/
def State.stageOne (s : State) (src : Option Nat) (v : Vf) (va : Nat) : Option (Nat × Nat × Bool) := do
  let root := fld v.ptroot 16 36 * 65536
  let e0 ← s.tableEntry src v (root + 8 * (va / 2 ^ 43 % 2 ^ 13))
  let t1 ← entryAddr e0 false 65536
  let e1 ← s.tableEntry src v (t1 + 8 * (va / 2 ^ 30 % 2 ^ 13))
  if e1.getLsbD 1 then
    let p ← entryAddr e1 true (2 ^ 30)
    some (2 ^ 30, p, e1.getLsbD 2)
  else
    let t2 ← entryAddr e1 false 4096
    let e2 ← s.tableEntry src v (t2 + 8 * (va / 2 ^ 21 % 2 ^ 9))
    if e2.getLsbD 1 then
      let p ← entryAddr e2 true (2 ^ 21)
      some (2 ^ 21, p, e2.getLsbD 2)
    else
      let t3 ← entryAddr e2 false 256
      let e3 ← s.tableEntry src v (t3 + 8 * (va / 2 ^ 16 % 2 ^ 5))
      let p ← entryAddr e3 true 65536
      some (65536, p, e3.getLsbD 2)

/-- The valid entries of stage two that hold a byte of a range of IPAs, the lowest index first. -/
def Vf.rangesOn (v : Vf) (ipa n : Nat) : List (BitVec 128) :=
  (v.ranges.map (·.2)).filter (fun e => e.getLsbD 0 && decide (rangeBase e < ipa + n ∧ ipa ≤ rangeLast e))

/-- A walk of both stages, whatever the range allows. The page is cut to 64 KiB where the entry that applies does not hold the
whole page, or where another entry of a lower index holds part of it (R121, R395). -/
def State.walkAny (s : State) (src : Option Nat) (part vf va : Nat) : Option TlbEntry := do
  let v := s.vf (vfKey part vf)
  let (size, ipa, w) ← s.stageOne src v va
  let here := ipa + va % size
  let e ← v.stageTwo here
  let whole := decide (rangeBase e ≤ ipa ∧ ipa + size - 1 ≤ rangeLast e) && (v.rangesOn ipa size).head? == some e
  let size' := if whole then size else 65536
  let off := va % size'
  some { part := part, vf := vf, va := va - off, size := size', pa := rangePa e + (here - rangeBase e) - off,
         read := e.getLsbD 1, write := w && e.getLsbD 2 }

/-- A walk of both stages by an access of a grid: what a TLB entry for the address holds; none where the range has no read access
(R398). -/
def State.walk (s : State) (src : Option Nat) (part vf va : Nat) : Option TlbEntry := (s.walkAny src part vf va).filter (·.read)

def TlbEntry.hit (t : TlbEntry) (part vf va : Nat) : Bool :=
  t.part == part && t.vf == vf && decide (t.va ≤ va ∧ va < t.va + t.size)

/-- The translation of one address: the TLB entry that a core holds, or a walk. -/
def State.lookVf (s : State) (src : Option Nat) (tlb : List TlbEntry) (part vf va : Nat) : Option TlbEntry :=
  match tlb.find? (fun t => t.hit part vf va) with
  | some t => some t
  | none => s.walk src part vf va

/-- What the module operating system's tables hold for an address (R372): physical address and whether it may be written. -/
def State.osLook (s : State) (va : Nat) : Option (Nat × Bool) :=
  (s.osPages.find? (fun p => decide (p.1 ≤ va ∧ va < p.1 + p.2.1))).map (fun p => (p.2.2.1 + (va - p.1), p.2.2.2))

/-- An admission entry covers an access to an aperture offset (R397, R406). -/
def admitOk (e : BitVec 128) (module part offset : Nat) (write : Bool) : Bool :=
  e.getLsbD 119 && fld e 109 10 == module && fld e 103 6 == part
  && decide (fld e 0 25 ≤ offset / 65536 ∧ offset / 65536 ≤ fld e 25 25)
  && (if write then e.getLsbD 121 else e.getLsbD 120)

/-- The VF whose stage two performs an admitted peer access, and the partition that admits it (R406). -/
def State.admitted (s : State) (module part offset : Nat) (write : Bool) : Option (Nat × Nat) :=
  s.parts.findSome? (fun p =>
    (p.2.admits.find? (fun e => admitOk e.2 module part offset write)).map (fun e => (p.1, fld e.2 122 6)))

/-- Where a physical access goes: an access to a peer aperture needs the target's admission. The aperture of this module
comes back through its own admission table; the memory of another module stands in `phys` at its aperture (R396, R406,
log 13; PRESUMED, log 49). -/
def State.route (s : State) (part pa : Nat) (write : Bool) : Option Nat :=
  if isPeer pa then
    let m := (pa - 0x8000000000000) / 2 ^ 41
    let off := (pa - 0x8000000000000) % 2 ^ 41
    if m = s.mdId.toNat then
      match s.admitted m part off write with
      | some (p, v) =>
        match (s.vf (vfKey p v)).ipaToPa off write with
        | some pa' => if isHbm pa' || isCxl pa' then some pa' else none
        | none => none
      | none => none
    else if s.peerRights.any (fun r => r.1 == m && r.2.1 == part && decide (r.2.2.1 ≤ off ∧ off ≤ r.2.2.2.1)
        && (if write then r.2.2.2.2.2 else r.2.2.2.2.1)) then some pa
    else none
  else if isHbm pa || isCxl pa then some pa
  else none

/-- The stack of a die that another partition holds (R392, R393). -/
def State.foreign (s : State) (part pa : Nat) : Bool :=
  isHbm pa && (match s.partOfDie (pa / 2 ^ 36) with
    | some q => q != part
    | none => false)

/-- A range of a confidential VF holds a physical address (R411). -/
def State.confidentialPa (s : State) (pa : Nat) : Bool :=
  s.vfs.any (fun v => v.2.confidential && v.2.ranges.any (fun e =>
    e.2.getLsbD 0 && decide (rangePa e.2 ≤ pa ∧ pa ≤ rangePa e.2 + (rangeLast e.2 - rangeBase e.2))))

/-- The physical address of one virtual address, for a read or a write by a request from a die, or from the distributor; none
where the walk ends the grid with `PERM` (R398, R406) or a firewall drops the request (R393). The monitor's own traffic
passes. -/
def State.xlateBy (s : State) (src : Option Nat) (tlb : List TlbEntry) (v : Via) (va : Nat) (write : Bool) : Option Nat :=
  match v with
  | .vf p f =>
    match s.lookVf src tlb p f va with
    | some t =>
      let pa := t.pa + (va - t.va)
      if t.read && (!write || t.write) && !s.foreign p pa && s.canReachBy src pa then s.route p pa write else none
    | none => none
  | .os =>
    match s.osLook va with
    | some (pa, w) =>
      if (!write || w) && !s.confidentialPa pa && s.canReachBy src pa then s.route 0 pa write else none
    | none => none
  | .phys => s.route 0 va write

def State.xlate (s : State) (c : Nat) (v : Via) (va : Nat) (write : Bool) : Option Nat :=
  s.xlateBy (some (dieOf c)) (s.core c).tlb v va write

/-- Why an address does not translate: the walk consumed a poisoned entry (R407), or it is refused (R398). -/
def State.missCode (s : State) (src : Option Nat) (tlb : List TlbEntry) (v : Via) (va : Nat) (write : Bool) : TrapCode :=
  if (({ s with poison := [], soft := [] } : State).xlateBy src tlb v va write).isSome then .eccUe else .perm

/-- The ends at which a request of a die may have been dropped: closed ends of the dies that it reaches. -/
def State.closedEnds (s : State) (edge : Bool) (die : Nat) : List (Nat × Nat) :=
  (s.meshFrom edge 40 [die]).flatMap (fun d =>
    ((List.range 5).filter (fun k => hasEnd d k && !((s.die d).fwOf k).passes edge)).map (d, ·))

/-- A dropped transaction leaves its mark at one of some ends (R393; log 2, log 40). -/
def State.markDrop (s : State) (ends : List (Nat × Nat)) : State :=
  let (i, s1) := s.pick ends.length
  match ends[i]? with
  | some (d, k) => s1.modDie d (fun x => { x with fw := putN x.fw k { x.fwOf k with violation := true } })
  | none => s

/-- A request of core `c` that a firewall drops leaves its mark at the end that dropped it (R393); which end that is, the spec's
mesh leaves open (log 2, log 40). -/
def State.noteDrop (s : State) (c : Nat) (v : Via) (va : Nat) : State :=
  let pa := match v with
    | .vf p f => (s.lookVf none (s.core c).tlb p f va).map (fun t => t.pa + (va - t.va))
    | .os => (s.osLook va).map (·.1)
    | .phys => none
  match pa with
  | some pa =>
    if s.canReach (dieOf c) pa then s else s.markDrop (s.closedEnds (!isHbm pa) (dieOf c))
  | none => s

/-- Edge-class traffic passes between a die and an edge die (R393). -/
def State.edgePath (s : State) (die edge : Nat) : Bool :=
  let c := corners.getD edge 0
  s.pathOpen true die c && s.portOpen c

/-- A transaction of an edge die reaches the home of a physical address (R393, R403). -/
def State.edgeReach (s : State) (edge pa : Nat) : Bool :=
  let c := corners.getD edge 0
  s.portOpen c && (if isHbm pa then s.pathOpen true c (pa / 2 ^ 36) else s.canReach c pa)

/-- A transaction between an edge die and the mesh is dropped (R393). -/
def State.edgeDrop (s : State) (die edge : Nat) : State :=
  let c := corners.getD edge 0
  s.markDrop (if s.portOpen c then s.closedEnds true die else [(c, 4)])

/-- A core's TLB takes the translation of an address (R121); the oldest of 1,024 entries leaves. -/
def State.fillTlb (s : State) (c : Nat) (v : Via) (va : Nat) : State :=
  match v with
  | .vf p f =>
    if (s.core c).tlb.any (fun t => t.hit p f va) then s
    else
      match s.walk (some (dieOf c)) p f va with
      | some t => s.modCore c (fun k => { k with tlb := (t :: k.tlb).take Config.tlbEntries })
      | none => s
  | _ => s

/-- A copy engine's walk-ahead TLB does the same (R302); the oldest of 256 entries leaves. -/
def State.fillWalkAhead (s : State) (c : Nat) (v : Via) (va : Nat) : State :=
  match v with
  | .vf p f =>
    if (s.core c).walkAhead.any (fun t => t.hit p f va) then s
    else
      match s.walk (some (dieOf c)) p f va with
      | some t => s.modCore c (fun k => { k with walkAhead := (t :: k.walkAhead).take Config.walkEntries })
      | none => s
  | _ => s

/-- The physical pieces of a range of virtual addresses, by 64 KiB granule. -/
def State.piecesBy (s : State) (src : Option Nat) (tlb : List TlbEntry) (v : Via) (write : Bool) : Nat → Nat → Nat → Option (List (Nat × Nat))
  | 0, _, n => if n = 0 then some [] else none
  | fuel + 1, va, n =>
    if n = 0 then some []
    else
      let m := min n (65536 - va % 65536)
      match s.xlateBy src tlb v va write with
      | none => none
      | some pa =>
        match s.piecesBy src tlb v write fuel (va + m) (n - m) with
        | none => none
        | some ps => some ((pa, m) :: ps)

def State.pieces (s : State) (c : Nat) (v : Via) (write : Bool) (fuel va n : Nat) : Option (List (Nat × Nat)) :=
  s.piecesBy (some (dieOf c)) (s.core c).tlb v write fuel va n

/-- Granules that a range may touch. -/
def granules (n : Nat) : Nat := n / 65536 + 2

/-- A walk for one address by an agent of these leases meets a page or a range without write access under an `rw` lease (R398). An
address that the TLB holds needs no walk. -/
def State.deniedAt (s : State) (src : Option Nat) (tlb : List TlbEntry) (v : Via) (ls : List Lease) (va : Nat) : Bool :=
  match v with
  | .vf p f =>
    !tlb.any (fun t => t.hit p f va) && (match s.walk src p f va with
      | some t => !t.write && ls.any (fun l => l.rw && decide (l.base < t.va + t.size ∧ t.va < l.base + l.size))
      | none => false)
  | _ => false

/-- The walks for a range of addresses, by 64 KiB granule. -/
def State.walkDenied (s : State) (src : Option Nat) (tlb : List TlbEntry) (v : Via) (ls : List Lease) (va n : Nat) : Bool :=
  ls.any (·.rw) && (List.range (granules n)).any (fun i =>
    let x := max va ((va / 65536 + i) * 65536)
    decide (x < va + n) && s.deniedAt src tlb v ls x)

/-! ### Reads and writes at the home -/

/-- Why a range does not translate: the code at its first granule that does not (R398, R407). -/
def State.rangeCode (s : State) (src : Option Nat) (tlb : List TlbEntry) (v : Via) (write : Bool) : Nat → Nat → Nat → TrapCode
  | 0, _, _ => .perm
  | fuel + 1, va, n =>
    match s.xlateBy src tlb v va write with
    | none => s.missCode src tlb v va write
    | some _ => let m := min n (65536 - va % 65536); if n = m then .perm else s.rangeCode src tlb v write fuel (va + m) (n - m)

/-- Write physical bytes: new bytes carry no error. -/
def State.physWrite (s : State) (pa : Nat) (bs : List Byte) : State :=
  { s with phys := s.phys.write pa bs, poison := s.poison.filter (fun p => decide (p < pa ∨ pa + bs.length ≤ p)),
           soft := s.soft.filter (fun p => decide (p < pa ∨ pa + bs.length ≤ p)) }

/-- Read bytes of the global space at their homes, by the translations that a TLB holds. -/
def State.readBy (s : State) (src : Option Nat) (tlb : List TlbEntry) (v : Via) (va n : Nat) : Except TrapCode (List Byte) :=
  match s.piecesBy src tlb v false (granules n) va n with
  | none => .error (s.rangeCode src tlb v false (granules n) va n)
  | some ps =>
    if ps.any (fun p => s.poisoned p.1 p.2) then .error .eccUe
    else .ok (ps.flatMap (fun p => s.phys.read p.1 p.2))

def State.homeRead (s : State) (c : Nat) (v : Via) (va n : Nat) : Except TrapCode (List Byte) :=
  s.readBy (some (dieOf c)) (s.core c).tlb v va n

/-- Write pieces of bytes. -/
def State.writePieces (s : State) : List (Nat × Nat) → List Byte → State
  | [], _ => s
  | (pa, n) :: ps, bs => (s.physWrite pa (bs.take n)).writePieces ps (bs.drop n)

/-- Write bytes of the global space at their homes. -/
def State.homeWrite (s : State) (c : Nat) (v : Via) (va : Nat) (bs : List Byte) : Except TrapCode State :=
  match s.pieces c v true (granules bs.length) va bs.length with
  | none => .error (s.rangeCode (some (dieOf c)) (s.core c).tlb v true (granules bs.length) va bs.length)
  | some ps => .ok (s.writePieces ps bs)

/-! ### L1 copies (R114) -/

/-- The L1 copy of the sector that holds a physical address. -/
def Core.l1Find (k : Core) (pa : Nat) : Option (List Byte) := (k.l1.find? (fun p => p.sector == pa / 32)).map (·.data)

/-- A list without its last entry of which something holds. -/
def dropLastOf {α : Type} (p : α → Bool) (l : List α) : List α := (l.reverse.eraseP p).reverse

/-- How a cache policy of R114 marks a sector: 1 for `.strm`, 2 for `.keep`. -/
def howOf (cache : Nat) : Nat := if cache = 1 then 1 else if cache = 2 then 2 else 0

/-- Copies of L1 after the evictions that one more makes: once 64 KiB are kept, a kept sector displaces the oldest kept one; in a
full L1 the oldest `.strm` sector leaves first, then the oldest other sector that is not kept (R114, log 12). -/
def l1Trim (l : List L1Copy) : List L1Copy :=
  if Config.keptSectors < (l.filter (fun x => x.how == 2)).length then dropLastOf (fun x => x.how == 2) l
  else if Config.l1Sectors < l.length then
    if l.any (fun x => x.how == 1) then dropLastOf (fun x => x.how == 1) l else dropLastOf (fun x => x.how != 2) l
  else l

/-- L1 takes a sector of 32 bytes by a cache policy (R114). -/
def Core.l1Put (k : Core) (sector : Nat) (bs : List Byte) (cache : Nat) : Core :=
  { k with l1 := l1Trim ({ sector := sector, data := bs, how := howOf cache } :: k.l1.filter (fun p => p.sector != sector)) }

/-- A load or store with `.keep` marks the copies of a range that L1 holds; one with `.strm` that loads marks them too (R114). -/
def Core.l1Mark (k : Core) (pa n : Nat) (how : Nat) : Core :=
  (List.range ((pa + n - 1) / 32 + 1 - pa / 32)).foldl (fun k i =>
    if k.l1.any (fun p => p.sector == pa / 32 + i) then
      { k with l1 := l1Trim (k.l1.map (fun p => if p.sector == pa / 32 + i then { p with how := how } else p)) }
    else k) k

/-- L1 drops every copy of a sector that a range touches. -/
def Core.l1Drop (k : Core) (pa n : Nat) : Core :=
  { k with l1 := k.l1.filter (fun p => decide (p.sector * 32 + 32 ≤ pa ∨ pa + n ≤ p.sector * 32)) }

/-- A store updates the copies that L1 holds. -/
def Core.l1Update (k : Core) (pa : Nat) (bs : List Byte) : Core :=
  { k with l1 := k.l1.map (fun p => { p with data := p.data.zipIdx.map (fun b =>
      let x := p.sector * 32 + b.2
      if pa ≤ x ∧ x < pa + bs.length then bs.getD (x - pa) 0 else b.1) }) }

/-- An acquire at `.team` or wider discards every L1 copy (R215). -/
def State.acquireAt (s : State) (c : Nat) (scope : Nat) : State :=
  if 1 ≤ scope then s.modCore c (fun k => { k with l1 := [] }) else s

/-- The leases of a grid: those of its record and the kernel text, `ro` (R191). -/
def Launch.allLeases (l : Launch) : List Lease := l.leases ++ [{ base := l.text, size := l.textLen, rw := false }]

/-- The leases that a walk by an agent is held to (R398): those of its grid. A supervisor's access is no access of a grid. -/
def State.leasesOf (s : State) (a : Agent) : List Lease := if s.level a = .t then (s.launchOf a).allLeases else []

/-! ### Requests that name their bytes at the home -/

/-- Two places share a byte. Global bytes are told apart by their virtual addresses: two addresses that map to one physical byte
count as two (DESIGN CHOICE, log 61). -/
def Place.overlaps (p : Place) (n : Nat) (q : Place) (m : Nat) : Bool :=
  match p, q with
  | .glob a, .glob b => decide (a < b + m ∧ b < a + n)
  | .store c w a, .store d x b => c == d && w == x && decide (a < b + m ∧ b < a + n)
  | .cstore a, .cstore b => decide (a < b + m ∧ b < a + n)
  | .wstore a, .wstore b => decide (a < b + m ∧ b < a + n)
  | _, _ => false

/-- For whom a request acts at the home: the agent, the tables of its issue (R371), and the bytes that matrix operations of the agent
worked on then (R217). -/
structure Home where
  agent : Agent
  via : Via
  undefs : List (Place × Nat) := []
deriving DecidableEq, Repr

/-- The bytes that matrix operations of a context still work on. -/
def Ctx.undefs (c : Ctx) : List (Place × Nat) := c.marks.flatMap (·.spans)

/-- A request of an agent that acts now. -/
def State.homeOf (s : State) (a : Agent) : Home := { agent := a, via := s.viaOf a, undefs := (s.ctx a).undefs }

/-- Bytes from an address up, where those that a matrix operation still works on are undefined: each the free value of its address from
a number up (R217, log 4). -/
def Home.blur (h : Home) (free va : Nat) (bs : List Byte) : List Byte :=
  if h.undefs.isEmpty then bs
  else bs.zipIdx.map (fun b => if h.undefs.any (fun x => (Place.glob (va + b.2)).overlaps 1 x.1 x.2) then
    Config.freeByte (free + (va + b.2)) else b.1)

/-- A request has taken its undefined values: 2^64 for the bytes that it may read and 2^64 for those that it may write (log 4). -/
def State.spend (s : State) (h : Home) : State := if h.undefs.isEmpty then s else { s with freeCount := s.freeCount + 2 ^ 65 }

/-- Read bytes of the global space for a request, through its tables, held to the leases of its agent (R398). -/
def State.agentRead (s : State) (h : Home) (va n : Nat) : Except TrapCode (List Byte) :=
  if s.walkDenied (some (dieOf h.agent.core)) (s.core h.agent.core).tlb h.via (s.leasesOf h.agent) va n then .error .perm
  else (s.homeRead h.agent.core h.via va n).map (h.blur s.freeCount va)

/-- Write bytes of the global space for a request, with its right to write there or without; its own core's L1 holds no older copy. -/
def State.agentWrite (s : State) (h : Home) (va : Nat) (bs : List Byte) (write : Bool := true) : Except TrapCode State :=
  let c := h.agent.core
  match s.pieces c h.via write (granules bs.length) va bs.length with
  | none => .error (s.rangeCode (some (dieOf c)) (s.core c).tlb h.via write (granules bs.length) va bs.length)
  | some ps => .ok (ps.foldl (fun s p => s.modCore c (fun k => k.l1Drop p.1 p.2))
      (s.writePieces ps (h.blur (s.freeCount + 2 ^ 64) va bs)))

/-- One byte as a per-lane load obtains it: from the L1 copy where the load may use it, else from the home. -/
def State.byteVia (s : State) (c pa : Nat) (l1 : Bool) : Byte :=
  match (if l1 then (s.core c).l1Find pa else none) with
  | some bs => bs.getD (pa % 32) 0
  | none => s.phys.byte pa

/-! ### The checks of an address -/

/-- Every byte of a range lies in some lease of the list. -/
def covers (ls : List Lease) : Nat → Nat → Nat → Bool
  | 0, _, n => n == 0
  | fuel + 1, a, n =>
    if n = 0 then true
    else
      match ls.foldl (fun best l => if l.base ≤ a ∧ a < l.base + l.size then max best (l.base + l.size - a) else best) 0 with
      | 0 => false
      | k => covers ls fuel (a + min n k) (n - min n k)

def leased (ls : List Lease) (write : Bool) (a n : Nat) : Bool :=
  let ls := if write then ls.filter (·.rw) else ls
  covers ls (ls.length + 1) a n

/-- `Canon` of an exact address (R7, R119). -/
def canonN (a : Nat) : Bool := decide (a < 2 ^ 55 ∨ (2 ^ 64 - 2 ^ 55 ≤ a ∧ a < 2 ^ 64))

/-- The grid of the mailbox request that a supervisor thread's core has selected (R371). -/
def State.servedGrid (s : State) (a : Agent) : Option Nat :=
  match lookupN (s.core a.core).mail (s.core a.core).tsel.toNat with
  | some m => s.gridNo m.agent
  | none => none

/-- A range of a confidential VF other than the one served holds a physical address (R411). -/
def State.confidentialOther (s : State) (part vf pa : Nat) : Bool :=
  s.vfs.any (fun v => v.1 != vfKey part vf && v.2.confidential && v.2.ranges.any (fun e =>
    e.2.getLsbD 0 && decide (rangePa e.2 ≤ pa ∧ pa ≤ rangePa e.2 + (rangeLast e.2 - rangeBase e.2))))

/-- The range unit keeps a supervisor thread that serves a request of grid `g` from what it reaches through VF `v`: a
confidential VF that it does not serve, or bytes that lie in a range of a confidential VF that it does not serve (R411). -/
def State.keptFrom (s : State) (a : Agent) (g : Grid) (v ea n : Nat) : Bool :=
  ((s.vf (vfKey (s.partOf a) v)).confidential && g.vf != v)
  || (match s.pieces a.core (.vf (s.partOf a) v) false (granules n) ea n with
    | some ps => ps.any (fun p => s.confidentialOther g.part g.vf p.1 || s.confidentialOther g.part g.vf (p.1 + p.2 - 1))
    | none => false)

/-- The rights of an agent over a global range by some tables (R119, R371, R372): none, or the trap. -/
def State.rightsBy (s : State) (v : Via) (a : Agent) (ea n : Nat) (write : Bool) : Option TrapCode :=
  match s.level a with
  | .t =>
    let ls := (s.launchOf a).allLeases
    if !leased ls false ea n then some .lease
    else if write && !leased ls true ea n then some .perm
    else none
  | .s =>
    match v with
    | .vf _ f =>
      match (s.servedGrid a).bind s.grid with
      | some g =>
        let ls := g.launch.allLeases
        if s.keptFrom a g f ea n then some .perm
        else if !leased ls false ea n || (write && !leased ls true ea n) then some .perm else none
      | none => some .perm
    | _ => if (s.pieces a.core .os write (granules n) ea n).isNone then some .perm else none
  | .m => none

/-- `CheckGlobal` of R119 at an exact address, by some tables; at level M no rights are checked (R372, log 9). -/
def State.checkGlobalBy (s : State) (v : Via) (a : Agent) (ea : Int) (n : Nat) (write ordered : Bool) : Option Trap :=
  let va := (BitVec.ofInt 64 ea).toNat
  if ea < 0 then some ⟨.noncanon, va⟩
  else
    let e := ea.toNat
    if e < 2 ^ 64 ∧ !canonN e then some ⟨.noncanon, va⟩
    else if 2 ^ 64 < e + n ∨ 2 ^ 64 ≤ e then some ⟨.crossTop, va⟩
    else if n != 0 ∧ !canonN (e + n - 1) then some ⟨.noncanon, va⟩
    else if ordered ∧ e % n ≠ 0 then some ⟨.align, va⟩
    else
      match s.rightsBy v a e n write with
      | some t => some ⟨t, va⟩
      | none => none

/-- The rights of an agent by its own tables, and the check by them (R371). -/
def State.rights (s : State) (a : Agent) (ea n : Nat) (write : Bool) : Option TrapCode := s.rightsBy (s.viaOf a) a ea n write
def State.checkGlobal (s : State) (a : Agent) (ea : Int) (n : Nat) (write ordered : Bool) : Option Trap :=
  s.checkGlobalBy (s.viaOf a) a ea n write ordered

/-- The check of an access to the own A-store (R122). -/
def checkOwn (astore : Nat) (ea : Int) (n : Nat) : Option Trap :=
  if ea % n ≠ 0 then some ⟨.align, 0⟩
  else if ea < 0 ∨ (astore : Int) < ea + n then some ⟨.storeBound, 0⟩
  else none

/-- The checks of an access by team address (R123). -/
def checkTeam (astore team : Nat) (ea : Int) (n : Nat) : Option Trap :=
  if ea % n ≠ 0 then some ⟨.align, 0⟩
  else if ea < 0 ∨ 0xFFFFFF < ea then some ⟨.storeBound, 0⟩
  else if (team : Int) ≤ ea / 2 ^ 20 then some ⟨.perm, 0⟩
  else if (astore : Int) < ea % 2 ^ 20 + n then some ⟨.storeBound, 0⟩
  else none

/-- Bytes of A-store and members of the team, as the checks see them; a supervisor thread has no A-store (R370). -/
def State.astoreOf (s : State) (a : Agent) : Nat := ((s.wg? a).map (·.aSize)).getD 0
def State.teamOf (s : State) (a : Agent) : Nat := if s.level a = .t then (s.launchOf a).team else 1

/-- Check an access in a space of R66: 0 global, 1 own A-store, 2 team A-store (DEDUCED, log 21). -/
def State.checkSpace (s : State) (a : Agent) (space : Nat) (ea : Int) (n : Nat) (write ordered : Bool) : Option Trap :=
  match space with
  | 0 => s.checkGlobal a ea n write ordered
  | 1 => checkOwn (s.astoreOf a) ea n
  | _ => checkTeam (s.astoreOf a) (s.teamOf a) ea n

/-- The core and place of the member of an agent's team with a team core index (R12, R123). -/
def State.member (s : State) (a : Agent) (m : Nat) : Nat × Nat :=
  match s.wg? a with
  | some w =>
    let n := (s.launchOf a).team
    match (s.gridOf a).bind (fun g => lookupN g.placed (w.lin / n)) with
    | some p => (p.core + m, p.places.getD m 0)
    | none => (a.core, s.place a)
  | none => (a.core, s.place a)

/-- The place of a checked access in a space of R66. -/
def State.placeOf (s : State) (a : Agent) (space : Nat) (ea : Nat) : Place :=
  match space with
  | 0 => .glob ea
  | 1 => .store a.core (s.place a) ea
  | _ => let (c, p) := s.member a (ea / 2 ^ 20); .store c p (ea % 2 ^ 20)

/-- Write bytes of the three stores of a core: new bytes carry no poison (R407). -/
def Core.aWrite (k : Core) (off : Nat) (bs : List Byte) : Core :=
  { k with astore := k.astore.write off bs, badA := k.badA.filter (fun x => decide (x < off ∨ off + bs.length ≤ x)) }
def Core.cWrite (k : Core) (off : Nat) (bs : List Byte) : Core :=
  { k with cstore := k.cstore.write off bs, badC := k.badC.filter (fun x => decide (x < off ∨ off + bs.length ≤ x)) }
def Core.wWrite (k : Core) (off : Nat) (bs : List Byte) : Core :=
  { k with wstore := k.wstore.write off bs, badW := k.badW.filter (fun x => decide (x < off ∨ off + bs.length ≤ x)) }

/-- A range of the C-store or the W-store holds a poisoned byte (R407). -/
def Core.cHurt (k : Core) (off n : Nat) : Bool := k.badC.any (fun x => decide (off ≤ x ∧ x < off + n))
def Core.wHurt (k : Core) (off n : Nat) : Bool := k.badW.any (fun x => decide (off ≤ x ∧ x < off + n))

/-- Base of an A-store region. -/
def State.regionBase (s : State) (c p : Nat) : Nat := (((s.core c).wg p).map (·.aBase)).getD 0

/-- Read and write an A-store region. -/
def State.storeRead (s : State) (c p off n : Nat) : List Byte := (s.core c).astore.read (s.regionBase c p + off) n
def State.storeWrite (s : State) (c p off : Nat) (bs : List Byte) : State :=
  let base := s.regionBase c p
  s.modCore c (fun k => k.aWrite (base + off) bs)

/-- A range of an A-store region holds a poisoned byte (R407). -/
def State.storeHurt (s : State) (c p off n : Nat) : Bool :=
  (s.core c).badA.any (fun x => decide (s.regionBase c p + off ≤ x ∧ x < s.regionBase c p + off + n))

/-! ### Recent writes of the stores that the matrix array reads (R216) -/

/-- A workgroup of an exclusive launch holds a core. -/
def State.exclusiveOn (s : State) (c : Nat) : Bool :=
  (s.core c).wgs.any (fun w => ((s.grid w.2.grid).map (·.launch.exclusive)).getD false)

/-- A write into the A-store or W-store of a core that an exclusive launch holds is remembered with the bytes that stood there and
the access or command that wrote; the agents named have observed it. -/
def State.noteFresh (s : State) (c : Nat) (place : Place) (old : List Byte) (seen : List AgentId) (by_ : Nat)
    (copier : Option AgentId := none) : State :=
  if s.exclusiveOn c then
    ({ s with nextOp := s.nextOp + 1 } : State).modCore c (fun k =>
      { k with fresh := { id := s.nextOp, place := place, old := old, seen := seen, by_ := by_, copier := copier } :: k.fresh })
  else s

/-- An agent observes a recent write. -/
def FreshWrite.see (w : FreshWrite) (id : AgentId) : FreshWrite :=
  if w.seen.contains id then w else { w with seen := id :: w.seen }

/-- A release by an agent of core `c` hands a write on through a channel, to its own core or, from `.team` on, to every other
(R207, R209; log 64). -/
def FreshWrite.hand (w : FreshWrite) (ch : Option Chan) (c scope : Nat) : FreshWrite :=
  match ch with
  | some ch => { w with chans := (ch, c, decide (1 ≤ scope)) :: w.chans }
  | none => w

/-- An acquire on core `c` at a scope, through a channel, meets a release that handed the write on; with `.rmt` the release may
have been of any scope (R207, R210). -/
def FreshWrite.reaches (w : FreshWrite) (ch : Option Chan) (c scope : Nat) (rmt : Bool) : Bool :=
  w.chans.any (fun x => some x.1 == ch && (x.2.1 == c || (decide (1 ≤ scope) && (x.2.2 || rmt))))

/-- Change the recent writes of every core. -/
def State.eachFresh (s : State) (f : FreshWrite → FreshWrite) : State :=
  { s with cores := s.cores.map (fun k => (k.1, { k.2 with fresh := k.2.fresh.map f })) }

/-- An agent observes recent writes of a core. -/
def Core.observe (k : Core) (id : AgentId) (p : FreshWrite → Bool) : Core :=
  { k with fresh := k.fresh.map (fun w => if p w then w.see id else w) }

/-- `OFENCE` of an agent: the writes that it has observed (R216). -/
def Core.fenceFresh (k : Core) (id : AgentId) : Core :=
  { k with fresh := k.fresh.map (fun w => if w.seen.contains id && !w.fenced.contains id then { w with fenced := id :: w.fenced } else w) }

/-- The recent writes that an agent has not fenced. -/
def Core.unfenced (k : Core) (id : AgentId) : List Nat := (k.fresh.filter (fun w => !w.fenced.contains id)).map (·.id)

/-- A release of an agent through a channel hands on the writes that it has observed (R209). -/
def State.publish (s : State) (a : Agent) (ch : Option Chan) (scope : Nat := 4) : State :=
  let id := s.idOf a
  s.eachFresh (fun w => if w.seen.contains id then w.hand ch a.core scope else w)

/-- An acquire of an agent through a channel observes the writes that it hands on (R209, R216; DESIGN CHOICE, log 64). -/
def State.collect (s : State) (a : Agent) (ch : Option Chan) (scope : Nat := 4) (rmt : Bool := false) : State :=
  let id := s.idOf a
  s.eachFresh (fun w => if w.reaches ch a.core scope rmt then w.see id else w)

/-- An acquire of an agent, by a scope of R66, through a channel where it has one: L1 copies are discarded (R215), the recent
writes that the channel hands on are observed (R216). -/
def State.acquire (s : State) (a : Agent) (scope : Nat) (ch : Option Chan) (rmt : Bool := false) : State :=
  (s.acquireAt a.core scope).collect a ch scope rmt

/-- A credit hands on the bytes that it counts, which access or command `op` of core `c` wrote; one to an object of an A-store from the
object's core, where it is applied (R133, R216). -/
def State.creditSeen (s : State) (c op : Nat) (r : ObjRef) : State :=
  let at_ := match r with
    | .store d _ _ => d
    | .glob _ => c
  s.eachFresh (fun w => if w.by_ == op then w.hand (some (.at_ r)) at_ 4 else w)

/-- The location of a place, as a channel of what is released there. -/
def State.chanOf (s : State) (c : Nat) (v : Via) (p : Place) : Option Chan :=
  match p with
  | .glob va => (s.xlate c v va false).map (fun pa => .at_ (.glob pa))
  | .store d w off => some (.at_ (.store d w off))
  | _ => none

/-- A strong load that is no acquire: what it meets, a later acquire fence of its agent observes (R207, R226). -/
def State.nearBy (s : State) (a : Agent) (ch : Option Chan) (scope : Nat) : State :=
  let id := s.idOf a
  s.eachFresh (fun w => if w.reaches ch a.core scope false && !w.near.contains id then { w with near := id :: w.near } else w)

/-- A store or an atomic reaches its location. A store ends what earlier releases handed on there; a release hands on what its
agent has observed, another strong one what its agent had observed at its last release fence (R207, R226). -/
def State.releaseAt (s : State) (a : Agent) (ch : Option Chan) (order : BitVec 3) (scope : Nat) (atomic : Bool) : State :=
  let id := s.idOf a
  s.eachFresh (fun w =>
    let w := if atomic then w else { w with chans := w.chans.filter (fun x => some x.1 != ch) }
    if (if order == 3 || order == 4 || order == 6 then w.seen.contains id else order != 0 && w.rel.contains id) then w.hand ch a.core scope
    else w)

/-- A fence of an agent (R226): a release fence remembers what the agent has observed, an acquire fence observes what its strong
loads met. -/
def State.fenceSeen (s : State) (a : Agent) (rel acq : Bool) : State :=
  let id := s.idOf a
  s.eachFresh (fun w =>
    let w := if rel && w.seen.contains id && !w.rel.contains id then { w with rel := id :: w.rel } else w
    if acq && w.near.contains id then w.see id else w)

end Sys2Proof.Machine
end

