-- ==== Sys2Proof/Machine/Operands.lean ====
section
/-!
DEFINITION. Operands: the `sr.` registers (spec/05 R107, R415), `ReadOp` and the writes of a destination (spec/00 R7, spec/05
R90, R91), the issue checks of a form (spec/03 R58 to R70), and the frame in which every lane of an instruction runs
(spec/03 R61, R62, R71).
-/

namespace Sys2Proof.Machine

/-! ### `sr.` registers -/

/-- Workgroups of a launch. -/
def Launch.wgs (l : Launch) : Nat := l.gx * l.gy * l.gz

/-- A level domain counts its units over the whole grid (R415): lane 0, group 1, core 2, team 3. -/
def domUnits (l : Launch) (dom dies : Nat) : Nat :=
  match dom with
  | 0 => l.wgs * l.threads
  | 1 => l.wgs * (l.threads / l.group)
  | 2 => l.wgs
  | 3 => l.wgs / l.team
  | 4 => dies
  | _ => 1

/-- The grid-wide index of an agent's unit of a domain (R415). -/
def domIndex (l : Launch) (dom lin tid grp diePos : Nat) : Nat :=
  match dom with
  | 0 => lin * l.threads + tid
  | 1 => lin * (l.threads / l.group) + grp
  | 2 => lin
  | 3 => lin / l.team
  | 4 => diePos
  | _ => 0

/-- Coordinate and extent of declared level `i` (R415). In a launch with `threads` 0 the extent of a lane level directly inside a group
level is 0 / 0, which R415 leaves undefined: extent and coordinate read 0 (DESIGN CHOICE, log 79). -/
def levelOf (l : Launch) (i lin tid grp diePos dies : Nat) : Nat × Nat :=
  match l.levels[i]? with
  | none => (0, 1)
  | some dom =>
    if 5 ≤ dom then (0, 1)
    else if dom = 4 then (diePos, dies)
    else
      match l.levels[i + 1]? with
      | none => (domIndex l dom lin tid grp diePos, domUnits l dom dies)
      | some out =>
        if out ≤ 3 then
          let ext := domUnits l dom dies / domUnits l out dies
          (domIndex l dom lin tid grp diePos % ext, ext)
        else (domIndex l dom lin tid grp diePos, domUnits l dom dies)

/-- The `sr.` register of an index as an agent reads it (R107), at its width: 64 bits for `sr.clock`, 32 for the others. A
supervisor or monitor thread has no launch: its workgroup, grid, team, lease, VF (while `stran` bit 6 is set) and level
registers read what an empty launch record gives, and `sr.nthreads` reads 8; the monitor pair of die d reads 8 for `sr.gwidth`, d mod
16 for `sr.core` and 640 + d for `sr.mcore`; on a die of no partition `sr.part` reads 0 (DESIGN CHOICE, log 59). One module-wide
clock stands for the clocks of all dies (DESIGN CHOICE, log 60). A die level counts by the dies that the partition had when the
workgroup came to its core, so that its registers do not change while the thread is resident. -/
def State.srVal (s : State) (a : Agent) (i : Nat) : Nat :=
  (if i = 22 then id else fun v => v % 2 ^ 32) <|
  let l := s.launchOf a
  let lin := ((s.wg? a).map (·.lin)).getD 0
  let dies := ((s.wg? a).map (·.dies)).getD 0
  let dieList := (List.range 40).filter (fun d => dies.getLsbD d)
  let diePos := dieList.idxOf (dieOf a.core)
  let th := !a.isLead
  let tid := if th then s.tidOf a else 0
  let grp := if th then s.groupOf a else 0
  let only (v : Nat) : Nat := if th then v else 0
  match i with
  | 1 => tid
  | 2 => only (match a.who with
      | .thread n => homeLane n
      | .lead _ => 0)
  | 3 => grp
  | 4 => only (s.posOf a)
  | 5 => s.groupW a
  | 6 => if s.level a = .t then l.threads else 8
  | 7 => lin % l.gx
  | 8 => lin / l.gx % l.gy
  | 9 => lin / (l.gx * l.gy)
  | 10 => l.gx
  | 11 => l.gy
  | 12 => l.gz
  | 13 => lin / l.team
  | 14 => lin % l.team
  | 15 => l.team
  | 16 => a.core % 16
  | 17 => dieOf a.core
  | 18 => a.core
  | 19 => s.partOf a
  | 20 => (s.vfOf a).getD 0
  | 21 => ((s.gridOf a).map (·.lease)).getD 0
  | 22 => s.clock % 2 ^ 64
  | 23 => (s.ctx a).fstat.toNat
  | _ =>
    if 32 ≤ i ∧ i < 40 then (levelOf l (i - 32) lin tid grp diePos dieList.length).1
    else if 40 ≤ i ∧ i < 48 then (levelOf l (i - 40) lin tid grp diePos dieList.length).2
    else 0

/-! ### Reading and writing operands -/

/-- `ReadOp` (R7) of a register operand at `w` bits. An immediate is read by the I forms themselves (DEDUCED, log 52). -/
def State.opVal (s : State) (a : Agent) (o : Opnd) (w : Nat) : Nat :=
  match o with
  | .g i => gWords (((s.thread? a).map (·.g)).getD []) i.toNat (wordsOf w) % 2 ^ w
  | .s i => (s.readS a i.toNat).toNat % 2 ^ w
  | .lit i => if i = 0 then 0 else s.srVal a i.toNat % 2 ^ w
  | .imm _ => 0

/-- A `w`-bit pattern as a signed or unsigned integer (R7). -/
def toVal (signed : Bool) (w v : Nat) : Int :=
  if signed ∧ 2 ^ (w - 1) ≤ v % 2 ^ w then (v % 2 ^ w : Nat) - (2 ^ w : Nat) else (v % 2 ^ w : Nat)

/-- The `w`-bit pattern of an integer. -/
def toBits (w : Nat) (v : Int) : Nat := (v % (2 ^ w : Nat)).toNat

/-- The integer immediate of an I form at its type (R65). -/
def immVal (ity : BitVec 2) (imm : Word) : Nat :=
  match ity.toNat with
  | 2 => toBits 64 (toVal true 32 imm.toNat)
  | _ => imm.toNat

/-- Write a `w`-bit pattern into D: `g` registers of a thread, an `s` register of a lead, or nothing for `zr` (R59). -/
def State.putD (s : State) (a : Agent) (d : Opnd) (w v : Nat) : State :=
  match d with
  | .g i => s.writeG a i.toNat w v
  | .s i => s.writeS a i.toNat v
  | _ => s

/-- `Put` of R90 and R91: a narrow result is extended to its register by its sign or by zero. -/
def State.putInt (s : State) (a : Agent) (d : Opnd) (signed : Bool) (w v : Nat) : State :=
  match d with
  | .g i => s.writeG a i.toNat w (if signed ∧ w < 32 then toBits 32 (toVal true w v) else v % 2 ^ w)
  | .s i => s.writeS a i.toNat (if signed then toBits 64 (toVal true w v) else v % 2 ^ w)
  | _ => s

/-- The second predicate of R64, after its negate bit. -/
def State.readPQ (s : State) (a : Agent) (p : BitVec 4) : Bool := s.readP a (p.toNat % 8) != p.getLsbD 3

/-- The guard (R61). -/
def State.guardTrue (s : State) (a : Agent) (g : BitVec 4) : Bool := s.readPQ a g

/-! ### Control registers (R385) -/

/-- Width, read level and write level of a control register; a level is 0 T, 1 S, 2 M, and 3 stands for none. -/
def ctlReg (i : Nat) : Option (Nat × Nat × Nat) :=
  if i = 0x000 then some (32, 0, 0)
  else if i = 0x010 ∨ i = 0x011 then some (32, 1, 1)
  else if i = 0x012 ∨ i = 0x013 then some (32, 1, 2)
  else if i = 0x014 then some (32, 1, 1)
  else if i = 0x020 then some (64, 1, 1)
  else if i = 0x021 ∨ i = 0x022 then some (32, 1, 1)
  else if 0x030 ≤ i ∧ i ≤ 0x033 then some (64, 1, 1)
  else if 0x040 ≤ i ∧ i ≤ 0x047 then some (32, 1, 1)
  else if 0x048 ≤ i ∧ i ≤ 0x04F then some (64, 1, 1)
  else if i = 0x080 then some (32, 0, 3)
  else if 0x100 ≤ i ∧ i ≤ 0x13F then some (64, 1, 2)
  else if 0x200 ≤ i ∧ i ≤ 0x3FF then some (64, 1, 3)
  else if 0x800 ≤ i ∧ i ≤ 0x9FF then some (32, 1, 1)
  else if i = 0xA00 then some (32, 1, 1)
  else if i = 0xA01 then some (64, 1, 1)
  else if i = 0xA02 then some (32, 1, 1)
  else none

/-- The number of a level (R385 `plev`). -/
def Level.num : Level → Nat
  | .t => 0
  | .s => 1
  | .m => 2

/-! ### Issue checks -/

/-- Rank and log2 of the element size of a volume descriptor (R260). -/
def volRank (d : List Byte) : Nat := (d.getD 0x0C 0).toNat % 8
def volElemLog (d : List Byte) : Nat := (d.getD 0x0C 0).toNat / 8 % 4
/-- Rank of a tensor record (R284). -/
def recRank (r : List Byte) : Nat := (r.getD 9 0).toNat % 8

/-- Bits of a coordinate operand of a rank (R271, R288). -/
def rankBits (r : Nat) : Nat := if r ≤ 1 then 32 else if r = 2 then 64 else 128

/-- What the issue check reads of the agent. -/
structure IssueEnv where
  lead : Bool
  level : Level
  regs : Nat
  cvregs : Nat
  fmts : NMap (BitVec 64)
  vols : NMap (List Byte)
  recs : NMap (List Byte)
  rules : NMap (BitVec 128)
deriving DecidableEq, Repr

def State.issueEnv (s : State) (a : Agent) : IssueEnv :=
  match s.gridOf a with
  | some g => { lead := a.isLead, level := s.level a, regs := s.regsOf a, cvregs := g.launch.cvregs, fmts := g.fmts,
                vols := g.vols, recs := g.recs, rules := g.rules }
  | none => { lead := a.isLead, level := s.level a, regs := s.regsOf a, cvregs := 0, fmts := [], vols := [], recs := [],
              rules := [] }

/-- A `g` operand of `w` bits at an index lies in the allocation and on its alignment (R58). -/
def IssueEnv.gOk (e : IssueEnv) (i : BitVec 9) (w : Nat) : Bool :=
  !e.lead && aligned i w && decide (i.toNat + wordsOf w ≤ e.regs)

/-- The rank that a form's coordinate operand takes (R271, R288). -/
def IssueEnv.rank (e : IssueEnv) (f : Form) : Nat :=
  match f.use with
  | .vol => volRank ((lookupN e.vols f.rslot).getD [])
  | _ => recRank ((lookupN e.recs f.rslot).getD [])

/-- Bits of a volume element operand (R271). -/
def IssueEnv.elemBits (e : IssueEnv) (f : Form) : Nat :=
  if volElemLog ((lookupN e.vols f.rslot).getD []) = 3 then 64 else 32

/-- The part of the field checks that depends on the stream, the allocation and the launch (R58, R59, R271, R288, R312). -/
def IssueEnv.roleOk (e : IssueEnv) (f : Form) : Role → Opnd → Bool
  | .none, _ => true
  | .imm, _ => true
  | .predDst, _ => true
  | .predSrc, _ => true
  | .handleDst, _ => true
  | .handleSrc, _ => true
  | .sread, _ => true
  | .src _ w, .g i => e.gOk i w
  | .src _ _, _ => true
  | .srcReg w, .g i => e.gOk i w
  | .srcReg _, _ => e.lead
  | .dst _ w, .g i => e.gOk i w
  | .dst _ _, .s _ => e.lead
  | .dst _ _, _ => true
  | .elemDst, .g i => e.gOk i (e.elemBits f)
  | .elemDst, _ => true
  | .elemSrc, .g i => e.gOk i (e.elemBits f)
  | .elemSrc, _ => true
  | .coord, .g i => e.gOk i (rankBits (e.rank f))
  | .coord, .s i => e.lead && (decide (e.rank f ≤ 2) || (aligned i 64 && decide (i.toNat < 63)))
  | .coord, _ => false
  | .quad, .g i => e.gOk i 128
  | .quad, _ => e.lead
  | .runS _, _ => true
  | .runG n, .g i => !e.lead && decide (i.toNat + n ≤ e.regs)
  | .runG _, .s _ => e.lead
  | .runG _, _ => true

/-- Fields of a format slot record (R83): a, b, accumulator, scale, sat, round. -/
def fmtA (r : BitVec 64) : Nat := fld r 0 4
def fmtB (r : BitVec 64) : Nat := fld r 4 4
def fmtAcc (r : BitVec 64) : Nat := fld r 8 4
def fmtScale (r : BitVec 64) : Bool := r.getLsbD 12
def fmtSat (r : BitVec 64) : Bool := r.getLsbD 13
def fmtRound (r : BitVec 64) : Nat := fld r 14 2

/-- A form that only an exclusive launch may use, issued outside the task level, has no launch whose slots it could name: it
traps `PERM` after the guard (R309). -/
def IssueEnv.launchless (e : IssueEnv) (f : Form) : Bool := f.excl && e.level != .t

/-- The slots that a form names are bound (R68). -/
def IssueEnv.slotsOk (e : IssueEnv) (f : Form) : Bool :=
  e.launchless f || match f.use with
  | .none => true
  | .vol => (lookupN e.vols f.rslot).isSome
  | .tensor => (lookupN e.recs f.rslot).isSome
  | .fmt => (lookupN e.fmts f.fslot).isSome
  | .rule => (lookupN e.rules f.rslot).isSome
  | .cv => decide (f.cv < e.cvregs)
  | .fmtCv => (lookupN e.fmts f.fslot).isSome && decide (f.cv < e.cvregs)

/-- The further field checks of a class chapter. -/
def IssueEnv.needOk (e : IssueEnv) (f : Form) : Bool :=
  e.launchless f || match f.need with
  | .none => true
  | .elem ty => decide (tyWn ty = 8 * 2 ^ volElemLog ((lookupN e.vols f.rslot).getD []))
  | .drain ty =>
    let r := (lookupN e.fmts f.fslot).getD 0
    if fmtAcc r = 9 then decide (9 ≤ ty ∧ ty ≤ 14) else decide (ty = 2 ∨ ty = 9)
  | .quant => decide (12 ≤ fmtA ((lookupN e.fmts f.fslot).getD 0))
  | .scan => let r := (lookupN e.fmts f.fslot).getD 0; decide (12 ≤ fmtA r ∧ fmtAcc r = 9)
  | .ctl i w =>
    match ctlReg i with
    | none => false
    | some (width, rl, wl) =>
      match w with
      | none => decide (rl ≤ e.level.num)
      | some w => decide (w = width ∧ wl ≤ e.level.num)
  | .pair =>
    e.lead || (match f.cm.d with
      | .g _ => true
      | _ => false)
  | .noScale => !e.lead || !fmtScale ((lookupN e.fmts f.fslot).getD 0) || f.cm.c == .lit 0

/-- Steps 2 and 3 of R71, for a decoded instruction: stream and level (R70, R369), then fields (R58 to R68). -/
def IssueEnv.ok (e : IssueEnv) (f : Form) : Bool :=
  (if e.lead then f.lead else f.thread) && f.lvl.has e.level
  && f.wordOk
  && e.slotsOk f
  && e.roleOk f f.d f.cm.d && e.roleOk f f.a f.cm.a && e.roleOk f f.b f.cm.b && e.roleOk f f.c f.cm.c
  && e.needOk f

def State.issueOk (s : State) (a : Agent) (f : Form) : Bool := (s.issueEnv a).ok f

/-! ### One lane of an instruction -/

/-- How one lane of an instruction ends. -/
inductive LaneOut where
  /-- its effect is done; on to `Next(PC)` -/
  | done (s : State)
  /-- its effect is done; on to a PC that a branch form names -/
  | jump (s : State) (pc : Int)
  /-- the lane stays at its PC: it waits, or it goes on from the state itself -/
  | stay (s : State)
  | trap (t : Trap)
deriving Repr

/-- The `s` registers that a source field reads. -/
def Role.sReads : Role → Opnd → List Nat
  | .src _ _, .s i => [i.toNat]
  | .elemSrc, .s i => [i.toNat]
  | .runS n, .s i => (List.range n).map (· + i.toNat)
  | _, _ => []

/-- A thread settles its reads of `s` registers (R92). Two source fields that name one register read the same write of the lead, where
R92 would let them differ (DESIGN CHOICE, log 78). -/
def State.settle (s : State) (a : Agent) (f : Form) : State :=
  (f.a.sReads f.cm.a ++ f.b.sReads f.cm.b ++ f.c.sReads f.cm.c).foldl (fun s n => s.settleS a n) s

/-- Width at which a field is read (R58, R271, R288, R312). -/
def IssueEnv.width (e : IssueEnv) (f : Form) : Role → Opnd → Nat
  | .src _ w, _ => w
  | .srcReg w, _ => w
  | .elemSrc, _ => e.elemBits f
  | .coord, _ => rankBits (e.rank f)
  | .quad, _ => 128
  | .runS n, _ => 64 * n
  | .runG n, .s _ => 64 * n
  | .runG n, _ => 32 * n
  | _, _ => 32

/-- The value of a register operand of any width: `g` registers and `s` registers in a row. -/
def State.wideVal (s : State) (a : Agent) (o : Opnd) (w : Nat) : Nat :=
  match o with
  | .g i => gWords (((s.thread? a).map (·.g)).getD []) i.toNat ((w + 31) / 32)
  | .s i => (List.range ((w + 63) / 64)).foldr (fun k v => (s.readS a (i.toNat + k)).toNat + 2 ^ 64 * v) 0 % 2 ^ w
  | _ => 0

/-- What a field reads for the operand buffer: a predicate, a handle, or registers at the field's width (R62). For a predicate field that
the form only writes (`BARV`, `CBAR`, `DQPUSH`) R62 does not say what is kept: the model keeps the `g` word of that index, and no result
rests on it (DESIGN CHOICE, log 77). -/
def State.kept (s : State) (a : Agent) (f : Form) (r : Role) (o : Opnd) : Retained :=
  match r with
  | .predSrc => { bank := .pred, opnd := o, width := 1, value := (s.readP a o.num).toNat }
  | .handleSrc => { bank := .handle, opnd := o, width := 32, value := (s.readH a o.num).toNat }
  | _ => let w := (s.issueEnv a).width f r o; { opnd := o, width := w, value := s.wideVal a o w }

/-- Retain keeps the value read for the named operand (R62). -/
def State.retain (s : State) (a : Agent) (f : Form) : State :=
  let keep (r : Role) (o : Opnd) : State := s.modCtx a (fun c => { c with opBuf := some (s.kept a f r o) })
  match f.cm.retain.toNat with
  | 0 => s
  | 1 => keep f.a f.cm.a
  | 2 => keep f.b f.cm.b
  | _ => keep f.c f.cm.c

/-! ### Registers that an instruction names (R93, R117) -/

/-- A run of registers: `s` or not, the first, how many. -/
structure Span where
  s : Bool
  i : Nat
  n : Nat
deriving DecidableEq, Repr

def Span.meets (x y : Span) : Bool := x.s == y.s && decide (x.i < y.i + y.n ∧ y.i < x.i + x.n)

/-- The registers of an operand field. -/
def IssueEnv.span (e : IssueEnv) (f : Form) (r : Role) (o : Opnd) : List Span :=
  let run (o : Opnd) (n m : Nat) : List Span :=
    match o with
    | .g i => [⟨false, i.toNat, n⟩]
    | .s i => [⟨true, i.toNat, m⟩]
    | _ => []
  match r with
  | .src _ w => run o (wordsOf w) 1
  | .srcReg w => run o (wordsOf w) 1
  | .dst _ w => run o (wordsOf w) 1
  | .elemDst => run o (wordsOf (e.elemBits f)) 1
  | .elemSrc => run o (wordsOf (e.elemBits f)) 1
  | .coord => run o (wordsOf (rankBits (e.rank f))) (if e.rank f ≤ 2 then 1 else 2)
  | .quad => run o 4 2
  | .runS n => run o n n
  | .runG n => run o n n
  | _ => []

def IssueEnv.spans (e : IssueEnv) (f : Form) : List Span :=
  e.span f f.d f.cm.d ++ e.span f f.a f.cm.a ++ e.span f f.b f.cm.b ++ e.span f f.c f.cm.c

/-- A source register of a form holds a word whose parity has failed (R407). -/
def State.badOperand (s : State) (a : Agent) (f : Form) : Bool :=
  match s.thread? a with
  | some t =>
    !t.bad.isEmpty && (let e := s.issueEnv a
      (e.span f f.a f.cm.a ++ e.span f f.b f.cm.b ++ e.span f f.c f.cm.c).any (fun x =>
        !x.s && t.bad.any (fun r => decide (x.i ≤ r ∧ r < x.i + x.n))))
  | none => false

/-- What a lane does once its effect is known. -/
def State.finish (s : State) (a : Agent) : LaneOut → State
  | .done t => t.advance a
  | .jump t pc => t.jumpTo a pc
  | .stay t => t
  | .trap t => s.raise a t

/-- Is the launch of an agent exclusive (R309)? -/
def State.exclusive (s : State) (a : Agent) : Bool := (s.launchOf a).exclusive

/-- ONE LANE, in the order of R71: the encoding, the guard, the spaces that the form may name (R66) and the exclusive launch
(R309), registers whose parity fails (R407), then the instruction's own effect. -/
def State.lane (s : State) (f : Form) (body : Agent → State → LaneOut) (a : Agent) : State :=
  if !s.issueOk a f then s.raise a ⟨.illEnc, 0⟩
  else if !s.guardTrue a f.cm.guard then s.advance a
  else if !f.space then s.raise a ⟨.perm, 0⟩
  else if f.excl && !s.exclusive a then s.raise a ⟨.perm, 0⟩
  else if s.badOperand a f then s.raise a ⟨.eccUe, 0⟩
  else
    let s1 := (s.settle a f).retain a f
    s1.finish a (body a s1)

/-- The issue is over; the paired slot is next where every lane stands at it (R162). -/
def State.endIssue (s : State) : State :=
  match s.cur with
  | none => s
  | some i =>
    if i.paired then
      let pc := nextPc i.pc
      let as := i.agents.filter (fun a => (s.ctx a).wait == .run && (s.ctx a).pc == pc)
      { s with cur := if as.isEmpty || as.length != i.agents.length then none
                      else some { i with pc := pc, paired := false, second := true } }
    else { s with cur := none }

/-- AN INSTRUCTION THAT EACH LANE RUNS ALONE, lanes in ascending home lane (R71, R252). With no issue in progress there is
no lane to run it. -/
def perLane (f : Option Form) (body : Agent → State → LaneOut) (s : State) : Host.Outcome State Fault Refusal :=
  match f, s.cur with
  | some f, some i => .next ((i.agents.foldl (fun s a => s.lane f body a) s).endIssue)
  | _, _ => .next s

end Sys2Proof.Machine
end

