-- ==== Sys2Proof/Machine/Objects.lean ====
section
/-!
DEFINITION. Barrier objects (spec/00 R8 to R10, spec/11 R230 to R233): their fields, `Expect`, `Credit`, `Arrive` and
`Complete`, and the waking of those that wait on one.
-/

namespace Sys2Proof.Machine

/-- A barrier object (R230). The reserved bits stand as they are (R231). -/
structure Obj where
  phase : BitVec 4
  aovr : Bool
  bovr : Bool
  valid : Bool
  rsv7 : Bool
  expa : Nat
  pend : Nat
  bexp : Nat
  bland : Nat
  waiters : Nat
  rsv : Nat
deriving DecidableEq, Repr

/-- The object that 16 bytes hold (R230). -/
def Obj.ofBytes (bs : List Byte) : Obj :=
  let v : BitVec 128 := BitVec.ofNat 128 (leNat (bs.take 16))
  { phase := v.extractLsb' 0 4, aovr := v.getLsbD 4, bovr := v.getLsbD 5, valid := v.getLsbD 6, rsv7 := v.getLsbD 7,
    expa := fld v 8 12, pend := fld v 20 12, bexp := fld v 32 32, bland := fld v 64 32, waiters := fld v 96 16,
    rsv := fld v 112 16 }

/-- The low 32 bits of an object (R243). -/
def Obj.low (o : Obj) : Nat :=
  o.phase.toNat + 16 * o.aovr.toNat + 32 * o.bovr.toNat + 64 * o.valid.toNat + 128 * o.rsv7.toNat
    + 2 ^ 8 * (o.expa % 4096) + 2 ^ 20 * (o.pend % 4096)

/-- The 16 bytes of an object (R230). -/
def Obj.bytes (o : Obj) : List Byte :=
  leBytes 16 (o.low + 2 ^ 32 * (o.bexp % 2 ^ 32) + 2 ^ 64 * (o.bland % 2 ^ 32) + 2 ^ 96 * (min o.waiters 65535)
    + 2 ^ 112 * (o.rsv % 65536))

/-- `valid` is 1, `expa` is 1 to 4,095 and `pend` ≤ `expa` (R231). -/
def Obj.consistent (o : Obj) : Bool := o.valid && decide (1 ≤ o.expa ∧ o.expa ≤ 4095 ∧ o.pend ≤ o.expa)

/-- `Complete` (R9): the object, and whether its phase advanced. -/
def Obj.complete (o : Obj) : Obj × Bool :=
  if o.pend = 0 ∧ o.bland = o.bexp then
    ({ o with phase := o.phase + 1, pend := o.expa, bexp := 0, bland := 0 }, true)
  else (o, false)

/-- `Expect` (R9). -/
def Obj.expect (o : Obj) (n : Nat) : Obj × Bool :=
  (if o.bexp + n > 0xFFFFFFFF then { o with bovr := true, bexp := 0xFFFFFFFF } else { o with bexp := o.bexp + n }).complete

/-- `Credit` (R9). -/
def Obj.credit (o : Obj) (n : Nat) : Obj × Bool :=
  let o := if o.bland + n > 0xFFFFFFFF then { o with bovr := true, bland := 0xFFFFFFFF } else { o with bland := o.bland + n }
  let o := if o.pend = 0 ∧ o.bland > o.bexp then { o with bovr := true } else o
  o.complete

/-- `Arrive` (R9): the object, whether its phase advanced, and success. -/
def Obj.arrive (o : Obj) (n : Nat) : Obj × Bool × Bool :=
  if n > o.pend then ({ o with aovr := true }, false, false)
  else
    let (o, adv) := { o with pend := o.pend - n }.complete
    (o, adv, true)

/-- `BINIT`'s fresh object (R237). -/
def Obj.fresh (n : Nat) : Obj :=
  { phase := 0, aovr := false, bovr := false, valid := true, rsv7 := false, expa := n, pend := n, bexp := 0, bland := 0,
    waiters := 0, rsv := 0 }

/-! ### Objects in memory -/

/-- The bytes of an object at its home. -/
def State.objRead (s : State) : ObjRef → Obj
  | .glob pa => Obj.ofBytes (s.phys.read pa 16)
  | .store c p off => Obj.ofBytes (s.storeRead c p off 16)

/-- Write an object at its home. The L1 copies of core `c`, which performs the operation, never hold it newer or older. -/
def State.objWrite (s : State) (c : Nat) (r : ObjRef) (o : Obj) : State :=
  match r with
  | .glob pa => (s.physWrite pa o.bytes).modCore c (fun k => k.l1Drop pa 16)
  | .store d p off => s.storeWrite d p off o.bytes

/-- An object holds a poisoned byte, so that what consumes it ends its grid (R407). -/
def State.objHurt (s : State) : ObjRef → Bool
  | .glob pa => s.poisoned pa 16
  | .store c p off => s.storeHurt c p off 16

/-- An access to an object that stands in the bytes of an unfinished matrix operation meets an undefined object (R217). -/
def State.spoilObj (s : State) (c : Nat) (r : ObjRef) (spoiled : Bool) : State :=
  if spoiled then
    let (bs, s1) := s.freeBytes 16
    match r with
    | .glob pa => (s1.physWrite pa bs).modCore c (fun k => k.l1Drop pa 16)
    | .store d p off => s1.storeWrite d p off bs
  else s

/-- Does a context wait on the object? -/
def Ctx.waitsOn (c : Ctx) (r : ObjRef) : Bool :=
  match c.wait with
  | .barrier o _ _ _ _ => o == r
  | _ => false

/-- A waiter on the object returns from `WaitPhase` with true (R10, R242). -/
def Ctx.wake (r : ObjRef) (c : Ctx) : Ctx :=
  match c.wait with
  | .barrier o _ _ p _ => if o == r then { (c.writeP p true).advance with wait := .run } else c
  | _ => c

/-- The exact number of threads and leads that wait on an object (R230). -/
def State.waitersOn (s : State) (r : ObjRef) : Nat :=
  (s.cores.flatMap (fun k => k.2.ctxs.filter (·.waitsOn r))).length
  + (s.grids.flatMap (fun g => g.2.skeins.flatMap (fun k => k.2.ctxs.filter (·.waitsOn r)))).length

/-- The field of waiters follows the exact count (R230). A poisoned object stays as it is, and stays poisoned (R407; DEDUCED, log 87). -/
def State.refreshWaiters (s : State) (c : Nat) (r : ObjRef) : State :=
  if s.objHurt r then s else s.objWrite c r { s.objRead r with waiters := s.waitersOn r }

/-- A trap of an operation that an agent issued earlier: it waits no more on an object that it waits on (R230). -/
def State.failAt (s : State) (a : Agent) (t : Trap) (pc : DWord) (by_ : IssueId := (pc, s.clock)) : State :=
  let s1 := s.raiseAt a t pc by_
  match (s.ctx a).wait with
  | .barrier r _ _ _ _ => s1.refreshWaiters a.core r
  | _ => s1

/-- The agents of a core that wait on an object. -/
def Core.waitersAt (k : Core) (c : Nat) (r : ObjRef) : List Agent :=
  (k.threads.filter (fun t => t.2.ctx.waitsOn r)).map (fun t => { core := c, who := .thread t.1 })
  ++ (k.wgs.filter (fun w => (w.2.lead.map (fun l => l.ctx.waitsOn r)).getD false)).map (fun w => { core := c, who := .lead w.1 })

/-- The scope at which a context waits on an object. -/
def Wait.scope : Wait → Nat
  | .barrier _ _ _ _ sc => sc
  | _ => 0

/-- Woken waiters have observed what those who arrived at the object, and the credits applied to it, hand on (R216, R219). -/
def State.wakeSeen (s : State) (r : ObjRef) : State :=
  (s.cores.flatMap (fun k => k.2.waitersAt k.1 r)).foldl (fun s a => s.collect a (some (.at_ r)) (s.ctx a).wait.scope) s

/-- A woken waiter has acquired at its scope (R215, R219, R242); one of a saved team acquires at its restore (R390, log 63). -/
def Core.wakeL1 (k : Core) (r : ObjRef) : Core :=
  if k.ctxs.any (fun c => match c.wait with
      | .barrier o _ _ _ sc => o == r && decide (1 ≤ sc)
      | _ => false)
  then { k with l1 := [] } else k

/-- Wake every thread and lead that waits on the object, those of saved teams among them (R9, R242). -/
def State.wakeAll (s : State) (r : ObjRef) : State :=
  let s := s.wakeSeen r
  { s with cores := s.cores.map (fun k => (k.1, (k.2.wakeL1 r).mapCtx (Ctx.wake r))),
           grids := s.grids.map (fun g => (g.1, { g.2 with
             skeins := g.2.skeins.map (fun k => (k.1, k.2.mapCtx (Ctx.wake r))) })) }

/-- Store an object after an operation of R9; a phase that advanced wakes its waiters (PHASE_COMPLETE). -/
def State.objDone (s : State) (c : Nat) (r : ObjRef) (o : Obj) (advanced : Bool) : State :=
  if advanced then (s.objWrite c r { o with waiters := 0 }).wakeAll r else s.objWrite c r o

/-- The object that a global address names, where the address translates. -/
def State.globObj (s : State) (c : Nat) (v : Via) (va : Nat) : Option ObjRef := (s.xlate c v va true).map .glob

/-- `Arrive(object, 1)` by the part itself, at the object's home, on a valid and consistent object of the global space; none
otherwise (R358, R377, R401). -/
def State.notify (s : State) (v : Via) (va : Nat) : Option State :=
  match s.xlateBy none [] v (va / 16 * 16) true with
  | none => none
  | some pa =>
    let o := s.objRead (.glob pa)
    if o.consistent && !s.objHurt (.glob pa) then
      let (o, adv, _) := o.arrive 1
      let s1 := s.physWrite pa (if adv then { o with waiters := 0 } else o).bytes
      some (if adv then s1.wakeAll (.glob pa) else s1)
    else none

/-- A credit that lands (R132, R291): discarded on an invalid object, which ends the grid with `BAR_BAD`, or on a poisoned one
(R407). -/
def State.landCredit (s : State) (c : Nat) (r : ObjRef) (n : Nat) : State × Option TrapCode :=
  let o := s.objRead r
  if s.objHurt r then (s, some .eccUe)
  else if o.valid then
    let (o, adv) := o.credit n
    (s.objDone c r o adv, none)
  else (s, some .barBad)

/-- An expectation of a copy (R291, R296). -/
def State.landExpect (s : State) (c : Nat) (r : ObjRef) (n : Nat) : State × Option TrapCode :=
  let o := s.objRead r
  if s.objHurt r then (s, some .eccUe)
  else if o.valid then
    let (o, adv) := o.expect n
    (s.objDone c r o adv, none)
  else (s, some .barBad)

end Sys2Proof.Machine
end

