-- ==== Sys2Proof/Machine/Registers.lean ====
section
/-!
DEFINITION. The module's configuration registers (spec/09 R194, spec/20 R357, spec/23 R393, R396, R397, R400): their writes
by the access codes of spec/00 R4, their reads, and the monitor window that maps them.
-/

namespace Sys2Proof.Machine

/-- The part of a bit vector from bit `64 × word` up is a word of 64 bits. -/
def wordOf {w : Nat} (v : BitVec w) (i : Nat) : DWord := v.extractLsb' (64 * i) 64

/-! ### Forming a partition (R392) -/

/-- Mesh neighbours of a die (R11). -/
def meshNear (d : Nat) : List Nat := (List.range 4).filterMap (farDie d)

/-- The dies of a mask that are reached from a set in so many rounds. -/
def meshReach (mask : BitVec 40) : Nat → List Nat → List Nat
  | 0, seen => seen
  | n + 1, seen =>
    meshReach mask n ((List.range 40).filter (fun d =>
      mask.getLsbD d && (seen.contains d || (meshNear d).any seen.contains)))

/-- The dies of a mask form a connected set on the mesh; none do. -/
def meshConnected (mask : BitVec 40) : Bool :=
  let ds := (List.range 40).filter (fun d => mask.getLsbD d)
  match ds with
  | [] => true
  | d :: _ => (meshReach mask 40 [d]).length == ds.length

/-- A write of `PT_DIES` forms the partition or is refused, with nothing changed but the refused bit (R392, R397; DEDUCED, log 51). -/
def State.formPartition (s : State) (p : Nat) (dies : BitVec 40) : State :=
  if !meshConnected dies || s.parts.any (fun q => q.1 != p && q.2.formed && (q.2.dies &&& dies) != 0) then
    s.modPart p (fun k => { k with refused := true })
  else s.modPart p (fun k => { k with dies := dies, formed := dies != 0 })

/-! ### Stage-two entries (R395, R396) -/

/-- Every physical address of a valid range lies in the map, and a range of the CXL tier has the slow attribute (R17, R395, R396). -/
def rangeMapped (e : BitVec 128) : Bool :=
  let a := rangePa e
  let b := rangePa e + (rangeLast e - rangeBase e)
  (isHbm a && isHbm b && a / 2 ^ 36 == b / 2 ^ 36) || (isCxl a && isCxl b && e.getLsbD 3) || (isPeer a && isPeer b)

/-- The monitor commits a stage-two entry, or the part refuses it; reserved bits read as zero (R5, R396). -/
def State.commitRange (s : State) (p v i : Nat) (lo hi : DWord) : State :=
  let e : BitVec 128 := (hi ++ lo) &&& 0x000FFFFFFFFFFFFFFFFFFFFFFFFFFF0F#128
  if i < 48 ∧ (!e.getLsbD 0 ∨ rangeMapped e) then
    s.modVf (vfKey p v) (fun k => { k with ranges := putN k.ranges i e })
  else s

/-! ### Plain register writes (R4) -/

/-- Window offset of the first word of a wide register (R397). -/
def admitOffset (p j : Nat) : Nat := 0x1000000 * p + 0x200000 + 0x10 * j
def rangeOffset (p v i : Nat) : Nat := 0x1000000 * p + 0x100000 + 0x1000 * v + 0x10 * i
def txOffset (p v e : Nat) : Nat := 0x1000000 * p + 0x400000 + 0x4000 * v + 0x1000 * e

/-- A lower word of a wide register waits for the highest (R397). -/
def State.latch (s : State) (off : Nat) (v : DWord) : State := { s with winLow := putN s.winLow off v }
/-- The lower word that a write of the highest word takes: the one that waits, else the register's. -/
def State.latched (s : State) (off : Nat) (now : DWord) : DWord := (lookupN s.winLow off).getD now

/-- Is a grid of a VF running (R400 `VF_PTROOT`)? -/
def State.vfRunning (s : State) (p v : Nat) : Bool :=
  s.grids.any (fun g => g.2.part == p && g.2.vf == v && g.2.state == .running)

/-- The module has the register: its numbers lie in their ranges (R11, R18, R397). -/
def regExists : RegName → Bool
  | .lqBase p f q => decide (p < 40 ∧ f < 64 ∧ q < 64)
  | .lqSize p f q => decide (p < 40 ∧ f < 64 ∧ q < 64)
  | .lqCtl p f q => decide (p < 40 ∧ f < 64 ∧ q < 64)
  | .txCtl p f e => decide (p < 40 ∧ f < 64 ∧ e < 4)
  | .txNote p f e => decide (p < 40 ∧ f < 64 ∧ e < 4)
  | .vfPtRoot p f => decide (p < 40 ∧ f < 64)
  | .mdId => true
  | .mdSpdm e => decide (e < 4)
  | .mdCollect w => decide (w < 2)
  | .mdCport => true
  | .fwCtl d k => hasEnd d k
  | .ptStat p => decide (p < 40)
  | .ptRstNote p => decide (p < 40)
  | .ptServe p => decide (p < 40)
  | .ptServeVf p => decide (p < 40)
  | .stageTwoLow p f i => decide (p < 40 ∧ f < 64 ∧ i < 48)
  | .vfConf p f => decide (p < 40 ∧ f < 64)
  | .admits p j w => decide (p < 40 ∧ j < 64 ∧ w < 2)
  | .txAddr p f e w => decide (p < 40 ∧ f < 64 ∧ e < 4 ∧ w < 2)
  | .txPort p f e => decide (p < 40 ∧ f < 64 ∧ e < 4)
  | .txPeer p f e k w => decide (p < 40 ∧ f < 64 ∧ e < 4 ∧ k < 64 ∧ w < 4)

/-- The VF whose register window holds the register, where it is a tenant's (R194, R357, R400). -/
def regTenant : RegName → Option (Nat × Nat)
  | .lqBase p f _ => some (p, f)
  | .lqSize p f _ => some (p, f)
  | .lqCtl p f _ => some (p, f)
  | .txCtl p f _ => some (p, f)
  | .txNote p f _ => some (p, f)
  | .vfPtRoot p f => some (p, f)
  | _ => none

/-- Bring-up is done: tenant accesses are accepted (R413). -/
def State.up (s : State) : Bool := decide (8 ≤ s.stage)

/-- A VF of a formed partition. -/
def State.hasVf (s : State) (part vf : Nat) : Bool := s.up && (s.part part).formed && decide (part < 40 ∧ vf < 64)

/-- A reset of the VF is in progress (R401). -/
def Vf.resetting (v : Vf) : Bool := v.resetAt != 0

/-- What a write to `LQ_CTL` with its reset bit does (R194). -/
def State.resetQueue (s : State) (part vf queue : Nat) (v : Word) : State :=
  s.modQueue (vfKey part vf) queue (fun q =>
    { q with qerr := false, cause := 0, widx := 0, ridx := 0, pending := [], priority := v.extractLsb' 4 3, enable := v.getLsbD 0 })

/-- A write to a register: `LQ_CTL` with its reset bit resets the queue (R4, R194). -/
def State.writeReg (s : State) (r : RegName) (v : DWord) : State :=
  match r with
  | .lqBase p f q =>
    s.modQueue (vfKey p f) q (fun k => if k.enable then k else { k with base := v &&& ~~~63#64 })
  | .lqSize p f q =>
    s.modQueue (vfKey p f) q (fun k => if k.enable then k else { k with log := v.extractLsb' 0 5 })
  | .lqCtl p f q =>
    if v.getLsbD 8 then s.resetQueue p f q (v.setWidth 32)
    else s.modQueue (vfKey p f) q (fun k => { k with priority := v.extractLsb' 4 3, enable := v.getLsbD 0 })
  | .txCtl p f e =>
    s.modTx e (vfKey p f) (fun k => { k with enable := v.getLsbD 0, noterr := k.noterr && !v.getLsbD 8 })
  | .txNote p f e => s.modTx e (vfKey p f) (fun k => { k with note := v &&& ~~~15#64 })
  | .vfPtRoot p f =>
    if s.vfRunning p f then s
    else s.modVf (vfKey p f) (fun k => { k with ptroot := v &&& 0x000FFFFFFFFF0000#64 })
  | .mdId => { s with mdId := v.extractLsb' 0 10 }
  | .mdSpdm e => s.modEdge e (fun k => { k with spdmPort := v.extractLsb' 0 16 })
  | .mdCollect w =>
    if w = 0 then s.latch 0x100000100 v
    else { s with mdCollect := v ++ s.latched 0x100000100 (wordOf s.mdCollect 0), winLow := delN s.winLow 0x100000100 }
  | .mdCport => { s with mdCport := v.extractLsb' 0 16 }
  | .fwCtl d k =>
    s.modDie d (fun i => { i with fw := putN i.fw k (let f := i.fwOf k
      { far := v.extractLsb' 10 6, own := v.extractLsb' 4 6, violation := f.violation && !v.getLsbD 2,
        edge := v.getLsbD 1, closed := v.getLsbD 0 }) })
  | .ptStat p =>
    s.modPart p (fun k => { k with rstnoterr := k.rstnoterr && !v.getLsbD 2, refused := k.refused && !v.getLsbD 1 })
  | .ptRstNote p => s.modPart p (fun k => { k with rstnote := v &&& ~~~15#64 })
  | .ptServe p => s.modPart p (fun k => { k with serve := v &&& ~~~63#64 })
  | .ptServeVf p => s.modPart p (fun k => { k with serveVf := v &&& 0xBF#64 })
  | .stageTwoLow p f i => s.latch (rangeOffset p f i) v
  | .vfConf p f => s.modVf (vfKey p f) (fun k => if k.launched then k else { k with confidential := v.getLsbD 0 })
  | .admits p j w =>
    if w = 0 then s.latch (admitOffset p j) v
    else
      let lo := s.latched (admitOffset p j) (wordOf ((lookupN (s.part p).admits j).getD 0) 0)
      { s.modPart p (fun k => { k with admits := putN k.admits j ((v ++ lo : BitVec 128)
          &&& 0xFFFFFF800003FFFFFFFFFFFFFFFFFFFF#128 &&& ~~~(((2 ^ 53 - 1 : Nat) : BitVec 128) <<< 50)) })
        with winLow := delN s.winLow (admitOffset p j) }
  | .txAddr p f e w =>
    let off := txOffset p f e + 0x20
    if w = 0 then s.latch off v
    else
      let lo := s.latched off (wordOf ((s.edge e).txOf (vfKey p f)).addr 0)
      { s.modTx e (vfKey p f) (fun k => { k with addr := v ++ lo }) with winLow := delN s.winLow off }
  | .txPort p f e => s.modTx e (vfKey p f) (fun k => { k with port := v.extractLsb' 0 16 })
  | .txPeer p f e k w =>
    let off := txOffset p f e + 0x40 + 0x20 * k
    if w < 3 then s.latch (off + 8 * w) v
    else
      let now := (lookupN ((s.edge e).txOf (vfKey p f)).peers k).getD 0
      let at_ (i : Nat) : DWord := s.latched (off + 8 * i) (wordOf (now.setWidth 256) i)
      let all : BitVec 192 := at_ 2 ++ at_ 1 ++ at_ 0
      { s.modTx e (vfKey p f) (fun t => { t with peers := putN t.peers k (all.extractLsb' 0 137) })
        with winLow := delN (delN (delN s.winLow off) (off + 8)) (off + 16) }

/-! ### The monitor window (R397) -/

/-- What stands at a window offset. -/
inductive WinReg where
  | plain (r : RegName)
  | ptDies (p : Nat)
  | stageTwoHigh (p v i : Nat)
  | none
deriving DecidableEq, Repr

/-- The register at an offset of a partition block. -/
def partBlock (p o : Nat) : WinReg :=
  if o = 0 then .ptDies p
  else if o = 0x08 then .plain (.ptStat p)
  else if o = 0x10 then .plain (.ptRstNote p)
  else if o = 0x18 then .plain (.ptServe p)
  else if o = 0x20 then .plain (.ptServeVf p)
  else if 0x100000 ≤ o ∧ o < 0x140000 then
    let v := (o - 0x100000) / 0x1000
    let r := o % 0x1000
    if r < 0x300 then (if r % 16 = 0 then .plain (.stageTwoLow p v (r / 16)) else .stageTwoHigh p v (r / 16))
    else if r = 0x400 then .plain (.vfConf p v)
    else .none
  else if 0x200000 ≤ o ∧ o < 0x200400 then .plain (.admits p ((o - 0x200000) / 16) (o / 8 % 2))
  else if 0x400000 ≤ o ∧ o < 0x500000 then
    let v := (o - 0x400000) / 0x4000
    let e := o / 0x1000 % 4
    let r := o % 0x1000
    if r = 0x20 ∨ r = 0x28 then .plain (.txAddr p v e (r / 8 - 4))
    else if r = 0x30 then .plain (.txPort p v e)
    else if 0x40 ≤ r ∧ r < 0x840 then .plain (.txPeer p v e ((r - 0x40) / 32) (r / 8 % 4))
    else .none
  else .none

/-- The register at a window offset. -/
def winReg (o : Nat) : WinReg :=
  if o % 8 ≠ 0 then .none
  else if o < 0x1000000 * 40 then partBlock (o / 0x1000000) (o % 0x1000000)
  else if o = 0x100000000 then .plain .mdId
  else if 0x100000010 ≤ o ∧ o < 0x100000050 ∧ o % 16 = 0 then .plain (.mdSpdm ((o - 0x100000010) / 16))
  else if o = 0x100000100 then .plain (.mdCollect 0)
  else if o = 0x100000108 then .plain (.mdCollect 1)
  else if o = 0x100000110 then .plain .mdCport
  else if 0x100010000 ≤ o ∧ o < 0x100010000 + 0x40 * 40 ∧ hasEnd ((o - 0x100010000) / 64) (o / 8 % 8) then
    .plain (.fwCtl ((o - 0x100010000) / 64) (o / 8 % 8))
  else .none

/-- A store by the monitor to the window. -/
def State.monWrite (s : State) (o : Nat) (v : DWord) : State :=
  match winReg o with
  | .plain r => s.writeReg r v
  | .ptDies p => s.formPartition p (v.extractLsb' 0 40)
  | .stageTwoHigh p f i =>
    let lo := s.latched (rangeOffset p f i) (wordOf ((lookupN (s.vf (vfKey p f)).ranges i).getD 0) 0)
    { s.commitRange p f i lo v with winLow := delN s.winLow (rangeOffset p f i) }
  | .none => s

/-- A load by the monitor from the window (R4). -/
def State.monRead (s : State) (o : Nat) : DWord :=
  match winReg o with
  | .none => 0
  | .ptDies p => (s.part p).dies.setWidth 64
  | .stageTwoHigh p f i => wordOf ((lookupN (s.vf (vfKey p f)).ranges i).getD 0) 1
  | .plain r =>
    match r with
    | .stageTwoLow p f i => wordOf ((lookupN (s.vf (vfKey p f)).ranges i).getD 0) 0
    | .mdId => s.mdId.setWidth 64
    | .mdSpdm e => (s.edge e).spdmPort.setWidth 64
    | .mdCollect w => wordOf s.mdCollect w
    | .mdCport => s.mdCport.setWidth 64
    | .fwCtl d k =>
      let f := (s.die d).fwOf k
      BitVec.ofNat 64 (f.far.toNat * 1024 + f.own.toNat * 16 + f.violation.toNat * 4 + f.edge.toNat * 2 + f.closed.toNat)
    | .ptStat p =>
      let k := s.part p
      BitVec.ofNat 64 (k.rstnoterr.toNat * 4 + k.refused.toNat * 2 + k.formed.toNat)
    | .ptRstNote p => (s.part p).rstnote
    | .ptServe p => (s.part p).serve
    | .ptServeVf p => (s.part p).serveVf
    | .vfConf p f => BitVec.ofNat 64 (s.vf (vfKey p f)).confidential.toNat
    | .admits p j w => wordOf ((lookupN (s.part p).admits j).getD 0) w
    | .txAddr p f e w => wordOf ((s.edge e).txOf (vfKey p f)).addr w
    | .txPort p f e => ((s.edge e).txOf (vfKey p f)).port.setWidth 64
    | .txPeer p f e k w => wordOf (((lookupN ((s.edge e).txOf (vfKey p f)).peers k).getD 0).setWidth 256) w
    | _ => 0

/-! ### The VF register window (R194, R357, R400, R402) -/

/-- `LQ_STAT` (R194). -/
def Queue.stat (q : Queue) : Nat := q.cause.toNat * 256 + (if q.qerr then 2 else if q.enable then 1 else 0)

/-- 8 bytes of a VF's register window at an 8-byte offset. -/
def State.vfWindow (s : State) (p f o : Nat) : DWord :=
  let v := s.vf (vfKey p f)
  if o < 0x1000 then
    let q := v.queue (o / 64)
    match o % 64 with
    | 0x00 => q.base
    | 0x08 => BitVec.ofNat 64 (q.log.toNat + 2 ^ 32 * (q.priority.toNat * 16 + q.enable.toNat))
    | 0x10 => BitVec.ofNat 64 (q.widx.toNat + 2 ^ 32 * q.ridx.toNat)
    | 0x18 => BitVec.ofNat 64 q.stat
    | _ => 0
  else if o = 0x1000 then
    BitVec.ofNat 64 (v.confidential.toNat * 4 + v.resetting.toNat * 2
      + 2 ^ 32 * (v.busy.toNat * 65536 + v.epoch.toNat))
  else if o = 0x1008 then v.ptroot
  else if o = 0x1018 then BitVec.ofNat 64 v.flhead.toNat
  else if 0x2000 ≤ o ∧ o < 0x2800 then
    BitVec.ofNat 64 (leNat (((lookupN v.faults ((o - 0x2000) / 32)).getD []).drop (o % 32) |>.take 8))
  else if 0x10000 ≤ o ∧ o < 0x14000 then
    let e := o / 0x1000 % 4
    let t := (s.edge e).txOf (vfKey p f)
    let r := o % 0x1000
    if r = 0 then BitVec.ofNat 64 (t.noterr.toNat * 256 + t.enable.toNat)
    else if r = 0x08 then t.note
    else if r = 0x10 then
      BitVec.ofNat 64 (t.queue.length * 65536 + ((s.edge e).streams.filter (fun k => k.2.part == p && k.2.vf == f && !k.2.closed)).length)
    else if r = 0x18 then BitVec.ofNat 64 t.drop.toNat
    else if r = 0x20 ∨ r = 0x28 then wordOf t.addr (r / 8 - 4)
    else if r = 0x30 then t.port.setWidth 64
    else if 0x40 ≤ r ∧ r < 0x840 then wordOf (((lookupN t.peers ((r - 0x40) / 32)).getD 0).setWidth 256) (r / 8 % 4)
    else 0
  else 0

end Sys2Proof.Machine
end

