-- ==== Sys2Proof/Machine/Flags.lean ====
section
/-!
DEFINITION. The floating-point flags (spec/04 R81, R82) and the one place that ORs them into `fstat`.
-/

namespace Sys2Proof.Machine

/-- A set of flags by R81: bit 0 invalid, 1 divzero, 2 overflow, 3 underflow, 4 inexact. -/
abbrev FFlags := BitVec 5

def fInvalid : FFlags := 1
def fDivzero : FFlags := 2
def fOverflow : FFlags := 4
def fUnderflow : FFlags := 8
def fInexact : FFlags := 16

/-- Flags where a condition holds. -/
def flagIf (b : Bool) (f : FFlags) : FFlags := if b then f else 0

/-- The flags of a result placed in its format's range: overflow carries inexact, underflow is a tiny inexact result (R78,
R79). -/
def roundFlags (overflow tiny inexact : Bool) : FFlags :=
  if overflow then fOverflow ||| fInexact
  else flagIf inexact fInexact ||| flagIf (tiny && inexact) fUnderflow

end Sys2Proof.Machine
end

