-- ==== Sys2Proof/Machine/Float.lean ====
section
/-!
DEFINITION. Floating-point formats and arithmetic (spec/04 R73 to R80, spec/07 R141 to R157). Every result is the exact value
of the operation, a sign and a ratio of natural numbers times a power of two, rounded once.
-/

namespace Sys2Proof.Machine

/-- A format of R74: exponent and fraction bits, bias, and which codes it reserves. -/
structure FFmt where
  eb : Nat
  fb : Nat
  bias : Nat
  /-- the top exponent code means infinity or NaN -/
  ieee : Bool
  /-- E4M3: only the fraction 0b111 under the top exponent is NaN -/
  oneNan : Bool
deriving DecidableEq, Repr

/-- The format of a type code (R63, R74). -/
def ffmt (t : Nat) : FFmt :=
  match t with
  | 8 => ⟨11, 52, 1023, true, false⟩
  | 9 => ⟨8, 23, 127, true, false⟩
  | 10 => ⟨5, 10, 15, true, false⟩
  | 11 => ⟨8, 7, 127, true, false⟩
  | 12 => ⟨4, 3, 7, false, true⟩
  | 13 => ⟨5, 2, 15, true, false⟩
  | _ => ⟨2, 1, 1, false, false⟩

/-- Bits of a format. -/
def FFmt.bits (f : FFmt) : Nat := 1 + f.eb + f.fb

/-- Codes of the largest finite magnitude, of infinity and of the canonical NaN (R74). -/
def FFmt.maxCode (f : FFmt) : Nat :=
  if f.ieee then (2 ^ f.eb - 1) * 2 ^ f.fb - 1 else if f.oneNan then 2 ^ (f.eb + f.fb) - 2 else 2 ^ (f.eb + f.fb) - 1
def FFmt.infCode (f : FFmt) : Nat := (2 ^ f.eb - 1) * 2 ^ f.fb
def FFmt.nanCode (f : FFmt) : Nat :=
  if f.ieee then f.infCode + 2 ^ (f.fb - 1) else if f.oneNan then 2 ^ (f.eb + f.fb) - 1 else 0
def FFmt.signCode (f : FFmt) (neg : Bool) : Nat := if neg then 2 ^ (f.eb + f.fb) else 0

/-- The value of an encoding (R73, R75): a finite value is ± m × 2^e. -/
inductive FVal where
  | nan (signalling : Bool)
  | inf (neg : Bool)
  | fin (neg : Bool) (m : Nat) (e : Int)
deriving DecidableEq, Repr

def unpackF (f : FFmt) (v : Nat) : FVal :=
  let frac := v % 2 ^ f.fb
  let ex := v / 2 ^ f.fb % 2 ^ f.eb
  let neg := v / 2 ^ (f.eb + f.fb) % 2 == 1
  if f.ieee && ex == 2 ^ f.eb - 1 then
    if frac == 0 then .inf neg else .nan (frac < 2 ^ (f.fb - 1))
  else if f.oneNan && ex == 2 ^ f.eb - 1 && frac == 2 ^ f.fb - 1 then .nan false
  else if ex == 0 then .fin neg frac (1 - (f.bias : Int) - f.fb)
  else .fin neg (2 ^ f.fb + frac) ((ex : Int) - f.bias - f.fb)

def FVal.isNan : FVal → Bool
  | .nan _ => true
  | _ => false
def FVal.isSnan : FVal → Bool
  | .nan q => q
  | _ => false
def FVal.isInf : FVal → Bool
  | .inf _ => true
  | _ => false
def FVal.isZero : FVal → Bool
  | .fin _ m _ => m == 0
  | _ => false
def FVal.neg : FVal → Bool
  | .nan _ => false
  | .inf n => n
  | .fin n _ _ => n

/-- Round a ratio to an integer in a mode of R77: (the integer, whether it is exact). -/
def roundInt (mode : Nat) (neg : Bool) (n d : Nat) : Nat × Bool :=
  let k := n / d
  let r := n % d
  let up := match mode with
    | 0 => decide (2 * r > d) || (decide (2 * r = d) && k % 2 == 1)
    | 1 => false
    | 2 => !neg && r != 0
    | _ => neg && r != 0
  (if up then k + 1 else k, r == 0)

/-- `n / d × 2^e` as a ratio. -/
def ratio (n d : Nat) (e : Int) : Nat × Nat :=
  if 0 ≤ e then (n * 2 ^ e.toNat, d) else (n, d * 2 ^ (-e).toNat)

/-- floor(log2(n / d)), for n and d above 0. -/
def ratioLog (n d : Nat) : Int :=
  let l : Int := (n.log2 : Int) - d.log2
  let (a, b) := ratio 1 1 l
  if n * b < d * a then l - 1 else l

/-- `Round` of R7 for a non-zero exact value ± n / d × 2^e (R77 to R79): the code and the flags. `force` says that the value
already differs from the one meant (R149, R150). -/
def roundF (f : FFmt) (mode : Nat) (sat neg : Bool) (n d : Nat) (e : Int) (force : Bool := false) : Nat × FFlags :=
  let ex := ratioLog n d + e
  let emin : Int := 1 - (f.bias : Int)
  -- tiny: the magnitude rounded with an unbounded exponent lies below the least normal (R79)
  let q0 := ex - f.fb
  let (a0, b0) := ratio n d (e - q0)
  let k0 := (roundInt mode neg a0 b0).1
  let tiny := decide (ex < emin) && !(decide (ex = emin - 1) && k0 == 2 ^ (f.fb + 1))
  let q := max q0 (emin - f.fb)
  let (a, b) := ratio n d (e - q)
  let (k, exact) := roundInt mode neg a b
  -- code of k × 2^q: a carry out of the fraction moves into the exponent field
  let field := (q - (emin - f.fb)).toNat
  let code := if ex < emin then k else field * 2 ^ f.fb + k
  if f.maxCode < code then
    let sgn := f.signCode neg
    let v :=
      if sat || !(f.ieee || f.oneNan) then sgn + f.maxCode
      else
        let toInf := mode == 0 || (mode == 2 && !neg) || (mode == 3 && neg)
        if toInf then (if f.ieee then sgn + f.infCode else f.nanCode) else sgn + f.maxCode
    (v, roundFlags true false true)
  else (f.signCode neg + code, roundFlags false tiny (!exact || force))

/-- A zero of a sign. -/
def zeroF (f : FFmt) (neg : Bool) : Nat := f.signCode neg

/-- Round an exact finite value; a zero keeps its sign (DEDUCED, log 58). -/
def roundFin (f : FFmt) (mode : Nat) (sat neg : Bool) (m : Nat) (e : Int) : Nat × FFlags :=
  if m = 0 then (zeroF f neg, 0) else roundF f mode sat neg m 1 e

/-- The sign of an exact sum that is 0: the operands' sign where they agree, else +0, and -0 in mode 11 (R77). -/
def zeroSign (mode : Nat) (na nb : Bool) : Bool := if na == nb then na else mode == 3

/-- Exact sum of two finite values: sign, magnitude, exponent. -/
def addExact (mode : Nat) (na : Bool) (ma : Nat) (ea : Int) (nb : Bool) (mb : Nat) (eb : Int) : Bool × Nat × Int :=
  let e := min ea eb
  let x : Int := (if na then -1 else 1) * ((ma * 2 ^ (ea - e).toNat : Nat) : Int)
  let y : Int := (if nb then -1 else 1) * ((mb * 2 ^ (eb - e).toNat : Nat) : Int)
  let s := x + y
  if s = 0 then (zeroSign mode na nb, 0, e) else (decide (s < 0), s.natAbs, e)

/-- `FADD` on values (R141). -/
def fAdd (f : FFmt) (mode : Nat) (sat : Bool) (a b : FVal) : Nat × FFlags :=
  let inv := flagIf (a.isSnan || b.isSnan) fInvalid
  match a, b with
  | .nan _, _ => (f.nanCode, inv)
  | _, .nan _ => (f.nanCode, inv)
  | .inf x, .inf y => if x == y then (f.signCode x + f.infCode, 0) else (f.nanCode, fInvalid)
  | .inf x, _ => (f.signCode x + f.infCode, 0)
  | _, .inf y => (f.signCode y + f.infCode, 0)
  | .fin na ma ea, .fin nb mb eb =>
    let (n, m, e) := addExact mode na ma ea nb mb eb
    roundFin f mode sat n m e

/-- The opposite value. -/
def FVal.opp : FVal → FVal
  | .nan q => .nan q
  | .inf n => .inf (!n)
  | .fin n m e => .fin (!n) m e

/-- `FMUL` on values (R141). -/
def fMul (f : FFmt) (mode : Nat) (sat : Bool) (a b : FVal) : Nat × FFlags :=
  let inv := flagIf (a.isSnan || b.isSnan) fInvalid
  match a, b with
  | .nan _, _ => (f.nanCode, inv)
  | _, .nan _ => (f.nanCode, inv)
  | .inf x, y => if y.isZero then (f.nanCode, fInvalid) else (f.signCode (x ^^ y.neg) + f.infCode, 0)
  | x, .inf y => if x.isZero then (f.nanCode, fInvalid) else (f.signCode (x.neg ^^ y) + f.infCode, 0)
  | .fin na ma ea, .fin nb mb eb => roundFin f mode sat (na ^^ nb) (ma * mb) (ea + eb)

/-- `FFMA` on values: the product is not rounded (R141). -/
def fFma (f : FFmt) (mode : Nat) (sat : Bool) (a b c : FVal) : Nat × FFlags :=
  let inv := flagIf (a.isSnan || b.isSnan || c.isSnan) fInvalid
  let badProd := (a.isInf && b.isZero) || (a.isZero && b.isInf)
  if a.isNan || b.isNan || c.isNan then (f.nanCode, inv)
  else if badProd then (f.nanCode, fInvalid)
  else
    let n := a.neg ^^ b.neg
    if a.isInf || b.isInf then
      if c.isInf && c.neg != n then (f.nanCode, fInvalid) else (f.signCode n + f.infCode, 0)
    else
      match a, b, c with
      | .fin _ ma ea, .fin _ mb eb, .fin nc mc ec =>
        let (s, m, e) := addExact mode n (ma * mb) (ea + eb) nc mc ec
        roundFin f mode sat s m e
      | _, _, _ => (f.signCode c.neg + f.infCode, 0)

/-- Order of two values that are no NaN: -0 equals +0. -/
def fCompare (a b : FVal) : Ordering :=
  match a, b with
  | .inf x, .inf y => if x == y then .eq else if x then .lt else .gt
  | .inf x, _ => if x then .lt else .gt
  | _, .inf y => if y then .gt else .lt
  | .fin na ma ea, .fin nb mb eb =>
    let e := min ea eb
    let x : Int := (if na then -1 else 1) * ((ma * 2 ^ (ea - e).toNat : Nat) : Int)
    let y : Int := (if nb then -1 else 1) * ((mb * 2 ^ (eb - e).toNat : Nat) : Int)
    compare x y
  | _, _ => .eq

/-- `FMIN` (`less`) and `FMAX` on codes: unrounded, -0 below +0, a NaN gives way (R142). -/
def fMinMax (f : FFmt) (less : Bool) (x y : Nat) : Nat × FFlags :=
  let a := unpackF f x
  let b := unpackF f y
  let inv := flagIf (a.isSnan || b.isSnan) fInvalid
  if a.isNan && b.isNan then (f.nanCode, inv)
  else if a.isNan then (y, inv)
  else if b.isNan then (x, inv)
  else
    let aLess := match fCompare a b with
      | .lt => true
      | .gt => false
      | .eq => a.neg
    (if aLess == less then x else y, inv)

/-- The relation of `FSETP` and whether it raises invalid (R143). -/
def fSetp (f : FFmt) (cc x y : Nat) : Bool × FFlags :=
  let a := unpackF f x
  let b := unpackF f y
  let un := a.isNan || b.isNan
  let sn := a.isSnan || b.isSnan
  let o := fCompare a b
  let rel := match cc with
    | 0 => !un && o == .eq
    | 1 => !un && o != .eq
    | 2 => !un && o == .lt
    | 3 => !un && o != .gt
    | 4 => !un && o == .gt
    | 5 => !un && o != .lt
    | 6 => !un
    | 7 => un
    | 8 => un || o == .eq
    | 9 => un || o != .eq
    | 10 => un || o == .lt
    | 11 => un || o != .gt
    | 12 => un || o == .gt
    | _ => un || o != .lt
  (rel, flagIf (if 2 ≤ cc ∧ cc ≤ 5 then un else sn) fInvalid)

/-- The class mask of `FCLASS` (R144). -/
def fClass (f : FFmt) (x : Nat) : Nat :=
  match unpackF f x with
  | .nan q => if q then 1 else 2
  | .inf n => if n then 4 else 512
  | .fin n m _ =>
    if m = 0 then (if n then 32 else 64)
    else if m < 2 ^ f.fb then (if n then 16 else 128)
    else (if n then 8 else 256)

/-- `FDIV` on values (R145). -/
def fDiv (f : FFmt) (mode : Nat) (sat : Bool) (a b : FVal) : Nat × FFlags :=
  let inv := flagIf (a.isSnan || b.isSnan) fInvalid
  let n := a.neg ^^ b.neg
  match a, b with
  | .nan _, _ => (f.nanCode, inv)
  | _, .nan _ => (f.nanCode, inv)
  | .inf _, .inf _ => (f.nanCode, fInvalid)
  | .inf _, _ => (f.signCode n + f.infCode, 0)
  | _, .inf _ => (zeroF f n, 0)
  | .fin _ ma ea, .fin _ mb eb =>
    if mb = 0 then (if ma = 0 then (f.nanCode, fInvalid) else (f.signCode n + f.infCode, fDivzero))
    else if ma = 0 then (zeroF f n, 0)
    else roundF f mode sat n ma mb (ea - eb)

/-- floor(√n), from bit `k` down. -/
def isqrtFrom (n : Nat) : Nat → Nat → Nat
  | 0, r => r
  | k + 1, r => if (r + 2 ^ k) * (r + 2 ^ k) ≤ n then isqrtFrom n k (r + 2 ^ k) else isqrtFrom n k r

def isqrt (n : Nat) : Nat := isqrtFrom n (n.log2 / 2 + 1) 0

/-- √(m × 2^e) as ± k × 2^x with a sticky low bit, exact in the bits above it. -/
def sqrtExact (m : Nat) (e : Int) : Nat × Int :=
  let (m, e) := if e % 2 = 0 then (m, e) else (2 * m, e - 1)
  let big := m * 2 ^ 128
  let r := isqrt big
  (2 * r + (if r * r = big then 0 else 1), e / 2 - 65)

/-- `FSQRT` on a value (R145). -/
def fSqrt (f : FFmt) (mode : Nat) (a : FVal) : Nat × FFlags :=
  match a with
  | .nan q => (f.nanCode, flagIf q fInvalid)
  | .inf n => if n then (f.nanCode, fInvalid) else (f.infCode, 0)
  | .fin n m e =>
    if m = 0 then (zeroF f n, 0)
    else if n then (f.nanCode, fInvalid)
    else
      let (k, x) := sqrtExact m e
      roundF f mode false false k 1 x

/-- A positive ratio rounded to nearest-even at `p` significant bits: k × 2^q. -/
def roundSig (p n d : Nat) (e : Int) : Nat × Int :=
  let q := ratioLog n d + e - (p - 1 : Int)
  let (a, b) := ratio n d (e - q)
  ((roundInt 0 false a b).1, q)

/-- `m1` of R146 as an odd number of units of 2^-12, and E. -/
def seedArg (m : Nat) (e : Int) : Nat × Int :=
  let l := m.log2
  (2 * (m * 2 ^ 11 / 2 ^ l) + 1, e + l)

/-- The final rounding of a seed raises overflow or underflow, and inexact only with them (R147). -/
def seedRound (f : FFmt) (neg : Bool) (k : Nat) (q : Int) : Nat × FFlags :=
  let (v, fl) := roundF f 0 false neg k 1 q
  (v, if fl &&& (fOverflow ||| fUnderflow) = 0 then 0 else fl)

/-- `RCPS` on a value (R146, R147). -/
def fRcps (f : FFmt) (a : FVal) : Nat × FFlags :=
  match a with
  | .nan q => (f.nanCode, flagIf q fInvalid)
  | .inf n => (zeroF f n, 0)
  | .fin n m e =>
    if m = 0 then (f.signCode n + f.infCode, fDivzero)
    else
      let (m1, ex) := seedArg m e
      let (k, q) := roundSig 17 (2 ^ 12) m1 (-ex)
      seedRound f n k q

/-- `RSQS` on a value (R146, R147). -/
def fRsqs (f : FFmt) (a : FVal) : Nat × FFlags :=
  match a with
  | .nan q => (f.nanCode, flagIf q fInvalid)
  | .inf n => if n then (f.nanCode, fInvalid) else (0, 0)
  | .fin n m e =>
    if m = 0 then (f.signCode n + f.infCode, fDivzero)
    else if n then (f.nanCode, fInvalid)
    else
      let (m1, ex) := seedArg m e
      -- 1 / √(m1 × 2^(ex - 12)), the exponent made even
      let x := ex - 12
      let (m1, x) := if x % 2 = 0 then (m1, x) else (2 * m1, x - 1)
      let r := isqrt (2 ^ 160 / m1)
      let k := 2 * r + (if r * r * m1 = 2 ^ 160 then 0 else 1)
      let (k, q) := roundSig 17 k 1 (-(x / 2) - 81)
      seedRound f false k q

/-- `c[1]` to `c[7]` of R148, in units of 2^-64. -/
def expC : List Int :=
  [12786308645202655660, 4431396893595737425, 1023870087579328454, 177423166116318949, 24596073471909060, 2841449829983172, 281363276907910]

/-- `T[-32]` to `T[32]` of R148, in units of 2^-64. -/
def expT : List Int :=
  [13043817825332782212, 13185855688839100305, 13329440243271311081, 13474588330989340155, 13621316977754388159, 13769643394726039683, 13919584980481119318, 14071159323054531591, 14224384202002324189, 14379277590487216477, 14535857657386837923, 14694142769424923741, 14854151493325717732]
  ++ [15015902597991835029, 15179415056705840218, 15344708049355799071, 15511800964685064948, 15680713402566563766, 15851465176301844309, 16024076314945163556, 16198567065652879633, 16374957896058427985, 16553269496673159336, 16733522783313321064, 16915738899553466671, 17099939219206581124]
  ++ [17286145348831213003, 17474379130265907514, 17664662643191237676, 17857018207719734201, 18051468387014017850, 18248035989933441397, 18446744073709551616, 18647615946650685159, 18850675170876015534, 19055945565079371916, 19263451207323153962, 19473216437862670368, 19685265862001232463]
  ++ [19899624352976337716, 20116317054877281742, 20335369385594541003, 20556807039801272192, 20780655991967278009, 21006942499405792876, 21235693105353445976, 21466934642083762882, 21700694234054571009, 21936999301089678047, 22175877561595196618, 22417357035810892401, 22661466049096937122]
  ++ [22908233235256451931, 23157687539894230916, 23409858223812038705, 23664774866440880444, 23922467369310646740, 24182965959557540563, 24446301193469697521, 24712503960071415407, 24981605484746413453, 25253637332900546282, 25528631413664402207, 25806619983636220178, 26087635650665564425]

/-- `Rcp[0]` to `Rcp[64]` of R148, in units of 2^-16. -/
def logRcp : List Nat :=
  [65536, 64528, 63550, 62602, 61681, 60787, 59919, 59075, 58254, 57456, 56680, 55924, 55188]
  ++ [54471, 53773, 53092, 52429, 51782, 51150, 50534, 49932, 49345, 48771, 48210, 47663, 47127]
  ++ [46603, 46091, 45590, 45100, 44620, 44151, 43691, 43240, 42799, 42367, 41943, 41528, 41121]
  ++ [40721, 40330, 39946, 39569, 39199, 38836, 38480, 38130, 37787, 37449, 37118, 36792, 36472]
  ++ [36158, 35849, 35545, 35246, 34953, 34664, 34380, 34100, 33825, 33554, 33288, 33026, 32768]

/-- `Lg[0]` to `Lg[64]` of R148, in units of 2^-64. -/
def logLg : List Int :=
  [0, 412511801979862557, 818952338354772318, 1218940031897186095, 1613379268357035309, 2001929224965885928, 2384685756134997083, 2762213543773921140, 3134664534162957034, 3501746577396382119, 3863631110689725338, 4220985203030537560, 4573556910156900338]
  ++ [4921577806020617944, 5264805139895286587, 5603994138559393187, 5938423656079433651, 6268884916238478008, 6595695702403272484, 6918142197133312366, 7237080614488995454, 7551796579524406699, 7863184147555424093, 8171081039266408827, 8474763687986915817, 8775739193385557430]
  ++ [9073303922085808826, 9367303706064401865, 9658165691507551910, 9945749983767032503, 10230510894422911743, 10511720420485005004, 10790450503018326767, 11066590947750720037, 11339407864065947320, 11609396496182687764, 11877075733219782072, 12141706488177535921, 12403817081601157718]
  ++ [12663959679322550539, 12920730699165356580, 13175339299655304187, 13427698881022384361, 13677721532776964087, 13925318077683264138, 14170398120150715838, 14413568045068074424, 14654049889665099584, 14893171144678239966, 15129441063797623551, 15364210453677207442, 15596690868031609503]
  ++ [15826803556703254300, 16055211227420318341, 16281852369804355394, 16506664624228330548, 16728823400182469953, 16949781176359265762, 17168718146006484124, 17386349245923579588, 17601840513956277015, 17815918163931941349, 18027734158009302557, 18238026076564642662, 18446744073709551616]

/-- `d[1]` to `d[10]` of R148, in units of 2^-64. -/
def logD : List Int :=
  [26613026195688644983, -13306513097844322492, 8871008731896214994, -6653256548922161246, 5322605239137728997, -4435504365948107497, 3801860885098377855, -3326628274461080623, 2957002910632071665, -2661302619568864498]

/-- Nearest integer to ± m × 2^e, ties to even. -/
def nearInt (neg : Bool) (m : Nat) (e : Int) : Int :=
  let (a, b) := ratio m 1 e
  let k : Int := (roundInt 0 neg a b).1
  if neg then -k else k

/-- `Fix` of R148 of a product, in units of 2^-64. -/
def fixMul (x y : Int) : Int := x * y / 2 ^ 64

/-- `FEXP2` on a value (R149). Beyond ± 2^14 every format overflows or underflows, so the operand is cut there. Of a tiny positive
operand it gives R149's rounding of exactly 1 in every mode (DESIGN CHOICE, log 71). -/
def fExp2 (f : FFmt) (mode : Nat) (sat : Bool) (a : FVal) : Nat × FFlags :=
  match a with
  | .nan q => (f.nanCode, flagIf q fInvalid)
  | .inf n => if n then (0, 0) else (f.infCode, 0)
  | .fin n m e =>
    if m = 0 then roundF f mode sat false 1 1 0
    else
      let big := decide (14 ≤ (m.log2 : Int) + e)
      let (m, e) := if big then (1, 14) else (m, e)
      let k := nearInt n m e
      let (x, y) := ratio m 1 (e + 64)
      -- a - n in units of 2^-64: exact numerator over y, and its floor
      let num : Int := (if n then -(x : Int) else x) - k * 2 ^ 64 * y
      let (jn, jd) := ratio num.natAbs y (-58)
      let j : Int := (if num < 0 then -1 else 1) * ((roundInt 0 false jn jd).1 : Int)
      let q := (num - j * 2 ^ 58 * y) / (y : Int)
      let p := [6, 5, 4, 3, 2, 1].foldl (fun p k => fixMul p q + expC.getD (k - 1) 0) (expC.getD 6 0)
      let p := fixMul p q + 2 ^ 64
      let v := fixMul (expT.getD (j + 32).toNat 0) p
      let integral := num == 0
      roundF f mode sat false v.toNat 1 (k - 64) (!integral)

/-- `FLOG2` on a value (R150). Of 1.0 it gives +0 in every mode (DESIGN CHOICE, log 70). -/
def fLog2 (f : FFmt) (mode : Nat) (a : FVal) : Nat × FFlags :=
  match a with
  | .nan q => (f.nanCode, flagIf q fInvalid)
  | .inf n => if n then (f.nanCode, fInvalid) else (f.infCode, 0)
  | .fin n m e =>
    if m = 0 then (f.signCode true + f.infCode, fDivzero)
    else if n then (f.nanCode, fInvalid)
    else
      let l := m.log2
      let ex : Int := e + l
      let j := (roundInt 0 false (64 * (m - 2 ^ l)) (2 ^ l)).1
      let z : Int := (m * logRcp.getD j 0 : Nat) - (2 ^ (l + 16) : Nat)
      let zd : Int := (2 ^ (l + 16) : Nat)
      let p := [9, 8, 7, 6, 5, 4, 3, 2, 1].foldl (fun p k => p * z / zd + logD.getD (k - 1) 0) (logD.getD 9 0)
      let sum := (ex * 2 ^ 64 + logLg.getD j 0) * zd + z * p
      if sum = 0 then (0, 0)
      else roundF f mode false (decide (sum < 0)) sum.natAbs 1 (-(l + 80 : Int)) (z != 0)

/-- `FRND` on a code (R152): no flag but invalid for a signalling NaN. -/
def fRnd (f : FFmt) (mode x : Nat) : Nat × FFlags :=
  match unpackF f x with
  | .nan q => (f.nanCode, flagIf q fInvalid)
  | .inf _ => (x, 0)
  | .fin n m e =>
    let (a, b) := ratio m 1 e
    let k := (roundInt mode n a b).1
    ((roundFin f 1 false n k 0).1, 0)

/-- `FSCALE` on a value (R153). A scale beyond ± 5,000 gives what ± 5,000 gives. -/
def fScale (f : FFmt) (mode : Nat) (sat : Bool) (a : FVal) (k : Int) : Nat × FFlags :=
  match a with
  | .nan q => (f.nanCode, flagIf q fInvalid)
  | .inf n => (f.signCode n + f.infCode, 0)
  | .fin n m e => roundFin f mode sat n m (e + max (-5000) (min 5000 k))

/-- `FEXPO` on a value (R154). -/
def fExpo (a : FVal) : Int × FFlags :=
  match a with
  | .nan _ => (0x7FFFFFFF, fInvalid)
  | .inf _ => (0x7FFFFFFF, 0)
  | .fin _ m e => if m = 0 then (-0x80000000, fDivzero) else (e + m.log2, 0)

/-- `F2I` on a value into the range `lo .. hi` (R155). -/
def fToInt (mode : Nat) (lo hi : Int) (a : FVal) : Int × FFlags :=
  match a with
  | .nan _ => (0, fInvalid)
  | .inf n => (if n then lo else hi, fInvalid)
  | .fin n m e =>
    -- 2^70 lies beyond every integer type
    let (m, e) := if m != 0 && decide (70 ≤ (m.log2 : Int) + e) then (1, 70) else (m, e)
    let (x, y) := ratio m 1 e
    let (k, exact) := roundInt mode n x y
    let v : Int := if n then -(k : Int) else k
    if hi < v then (hi, fInvalid) else if v < lo then (lo, fInvalid) else (v, flagIf (!exact) fInexact)

/-- `I2F` (R156). -/
def intToF (f : FFmt) (mode : Nat) (sat : Bool) (v : Int) : Nat × FFlags := roundFin f mode sat (decide (v < 0)) v.natAbs 0

/-- A conversion of a value by R77 to R80. -/
def fConv (f : FFmt) (mode : Nat) (sat : Bool) (a : FVal) : Nat × FFlags :=
  match a with
  | .nan q => if f.ieee || f.oneNan then (f.nanCode, flagIf q fInvalid) else (0, fInvalid)
  | .inf n =>
    if f.ieee then (f.signCode n + f.infCode, 0)
    else if f.oneNan then (if sat then (f.signCode n + f.maxCode, 0) else (f.nanCode, fInvalid))
    else (f.signCode n + f.maxCode, fInvalid)
  | .fin n m e => roundFin f mode sat n m e

/-- `FCVT` with a scale: the exact product, then the conversion (R157). -/
def fConvScaled (f : FFmt) (mode : Nat) (sat : Bool) (a b : FVal) : Nat × FFlags :=
  let inv := flagIf (a.isSnan || b.isSnan) fInvalid
  if a.isNan || b.isNan then
    let (v, fl) := fConv f mode sat (.nan false)
    (v, fl ||| inv)
  else if (a.isInf && b.isZero) || (a.isZero && b.isInf) then
    let (v, fl) := fConv f mode sat (.nan false)
    (v, fl ||| fInvalid)
  else
    match a, b with
    | .fin na ma ea, .fin nb mb eb => fConv f mode sat (.fin (na ^^ nb) (ma * mb) (ea + eb))
    | _, _ => fConv f mode sat (.inf (a.neg ^^ b.neg))

/-- A source modifier on a code: absolute value, then negation, of the sign bit alone (R140). -/
def srcMod (f : FFmt) (neg abs : Bool) (x : Nat) : Nat :=
  let top := 2 ^ (f.eb + f.fb)
  let x := x % (2 * top)
  let x := if abs then x % top else x
  if neg then (if x < top then x + top else x - top) else x

/-- The FP32 pattern of an I form at its type: widened exactly for FP64 (R65). -/
def widenImm (ity : Nat) (imm : Nat) : Nat :=
  if ity = 1 then
    let frac := imm % 2 ^ 23
    let ex := imm / 2 ^ 23 % 256
    if ex = 255 then imm / 2 ^ 31 * 2 ^ 63 + 2047 * 2 ^ 52 + frac * 2 ^ 29
    else
      match unpackF (ffmt 9) imm with
      | .fin n m e => (roundFin (ffmt 8) 0 false n m e).1
      | _ => 0
  else if ity = 0 then imm
  else imm % 65536

/-- The type code of a floating immediate type (R65). -/
def fImmType (ity : Nat) : Nat :=
  match ity with
  | 0 => 9
  | 1 => 8
  | 2 => 10
  | _ => 11

end Sys2Proof.Machine
end

