-- ==== Sys2Proof/Machine/Blocks.lean ====
section
/-!
DEFINITION. The cast-off unit (spec/18 R330 to R347): cast rules, blocks as the memory holds them, and what each step on a block does
at its home.
-/

namespace Sys2Proof.Machine

/-- A result, or the trap that a lane takes and that changes nothing (R273). -/
abbrev VolRes (α : Type) := Except Trap α

/-- Little-endian field of a record. -/
def leAt (d : List Byte) (o n : Nat) : Nat := leNat ((d.drop o).take n)

/-- Bytes that a record reserves are 0. -/
def zeroAt (d : List Byte) (o n : Nat) : Bool := leAt d o n == 0

/-- A result at the home that may trap the lane. A firewall that dropped its request keeps its mark (R393). -/
def State.laneOf (s : State) (a : Agent) (r : VolRes LaneOut) : LaneOut :=
  match r with
  | .ok o => o
  | .error t => if t.code = .perm then .stay ((s.noteDrop a.core (s.viaOf a) t.va).raise a t) else .trap t

/-! ### Cast rules (R335, R336) -/

/-- `c ≥ t` on FP16 codes (R143, R336). -/
def geF16 (c t : Nat) : Bool := (fSetp (ffmt 10) 5 c t).1

def ruleFinal (r : BitVec 128) : Nat := fld r 0 16
def ruleTent (r : BitVec 128) : Nat := fld r 16 16
def ruleKmin (r : BitVec 128) : Nat := fld r 32 11
def ruleReopen (r : BitVec 128) : Bool := r.getLsbD 48

/-- A bound rule record is accepted (R336). -/
def ruleAccepted (r : BitVec 128) : Bool :=
  fld r 43 5 == 0 && fld r 49 79 == 0 && geF16 (ruleFinal r) (ruleTent r) && decide (ruleKmin r ≤ 1024)

/-! ### Blocks (R330 to R332) -/

/-- What a step has read of a block. -/
structure Block where
  at_ : Nat
  header : List Byte
  word : BitVec 64
deriving DecidableEq, Repr

def Block.n (b : Block) : Nat := fld b.word 16 11
def Block.frontier (b : Block) : Nat := fld b.word 0 11
def Block.pass (b : Block) : Nat := fld b.word 32 8
def Block.finals (b : Block) : Nat := fld b.word 40 11
def Block.vf (b : Block) : Nat := fld b.word 52 6
def Block.void (b : Block) : Bool := b.word.getLsbD 62
def Block.valid (b : Block) : Bool := b.word.getLsbD 63
def Block.epoch (b : Block) : Nat := leAt b.header 0x10 2
def Block.stream (b : Block) : Nat := leAt b.header 0x14 4
def Block.slotAt (b : Block) (k : Nat) : Nat := b.at_ + 64 + 8 * k

/-- The reserved bits of the header are 0 (R330, R331). -/
def Block.reservedOk (b : Block) : Bool :=
  zeroAt b.header 0x12 2 && zeroAt b.header 0x18 40 && fld b.word 11 5 == 0 && fld b.word 27 5 == 0 && !b.word.getLsbD 51
  && fld b.word 58 3 == 0

/-- Put a field into a word. -/
def setFld (v : BitVec 64) (lo len x : Nat) : BitVec 64 :=
  BitVec.ofNat 64 (v.toNat - fld v lo len * 2 ^ lo + x % 2 ^ len * 2 ^ lo)

/-- A slot record (R332). -/
structure Slot8 where
  pass : Nat
  conf : Nat
  token : Nat
  cached : Bool
  state : Nat
deriving DecidableEq, Repr

def Slot8.ofWord (v : BitVec 64) : Slot8 :=
  { pass := fld v 44 8, conf := fld v 28 16, token := fld v 8 20, cached := v.getLsbD 2, state := fld v 0 2 }
def Slot8.word (r : Slot8) : BitVec 64 :=
  BitVec.ofNat 64 (r.state % 4 + 4 * r.cached.toNat + 2 ^ 8 * (r.token % 2 ^ 20) + 2 ^ 28 * (r.conf % 2 ^ 16) + 2 ^ 44 * (r.pass % 256))
def slotReservedOk (v : BitVec 64) : Bool := fld v 3 5 == 0 && fld v 52 12 == 0

/-! ### Bytes of a block at its home -/

/-- Read a 64-bit word of a block. -/
def State.blockWord (s : State) (h : Home) (va : Nat) : VolRes (BitVec 64) :=
  match s.agentRead h va 8 with
  | .ok bs => .ok (BitVec.ofNat 64 (leNat bs))
  | .error t => .error ⟨t, va⟩

/-- Write bytes of a block; the voiding of R347, which the unit does of itself, needs no right to write (DEDUCED, log 35). -/
def State.blockWrite (s : State) (h : Home) (va : Nat) (bs : List Byte) (write : Bool := true) : VolRes State :=
  (s.agentWrite h va bs write).mapError (⟨·, va⟩)

def State.putWord (s : State) (h : Home) (va : Nat) (v : BitVec 64) : VolRes State := s.blockWrite h va (leBytes 8 v.toNat)

/-- What a check of `CheckGlobal` gives. -/
def State.blockCheck (s : State) (h : Home) (va n : Nat) (write : Bool) : VolRes Unit :=
  match s.checkGlobalBy h.via h.agent va n write false with
  | some t => .error t
  | none => .ok ()

/-- The header of a block. -/
def State.blockRead (s : State) (h : Home) (at_ : Nat) : VolRes Block := do
  let b ← (s.agentRead h at_ 64).mapError (⟨·, at_⟩)
  .ok { at_ := at_, header := b, word := BitVec.ofNat 64 (leAt b 8 8) }

/-- R334 over the header and every slot record, and then the bound of a slot index (R340). -/
def State.blockFollow (s : State) (h : Home) (b : Block) (slot : Option Nat) : VolRes Unit := do
  if !b.valid || !b.reservedOk || b.n == 0 || decide (1024 < b.n) || decide (b.n < b.frontier) then .error ⟨.perm, b.at_⟩
  let recs ← (List.range b.n).mapM (fun k => s.blockWord h (b.slotAt k))
  if !recs.all slotReservedOk then .error ⟨.perm, b.at_⟩
  match slot with
  | some k => if b.n ≤ k then .error ⟨.storeBound, 0⟩ else .ok ()
  | none => .ok ()

/-- The reset epoch of the VF that owns a block (R347). -/
def State.blockEpoch (s : State) (h : Home) (b : Block) : Nat := (s.vf (vfKey (s.partOf h.agent) b.vf)).epoch.toNat

/-- BLOCK_VOID: a step on a block of an older epoch voids it first (R347). -/
def State.voidBlock (s : State) (h : Home) (b : Block) : VolRes (State × Block) :=
  if b.void || b.epoch == s.blockEpoch h b then .ok (s, b)
  else do
    let s1 ← (List.range b.n).foldlM (fun (s : State) k => do
      let v ← s.blockWord h (b.slotAt k)
      let r := Slot8.ofWord v
      if r.state = 2 then .ok s
      else s.blockWrite h (b.slotAt k) (leBytes 8 { r with state := 3, pass := b.pass }.word.toNat) false) s
    let w := setFld b.word 62 1 1
    let s2 ← s1.blockWrite h (b.at_ + 8) (leBytes 8 w.toNat) false
    .ok (s2, { b with word := w })

/-- The frontier from a position up, over slots whose states are read (R339). -/
def State.frontierFrom (s : State) (h : Home) (b : Block) : Nat → Nat → VolRes Nat
  | 0, f => .ok f
  | fuel + 1, f =>
    if b.n ≤ f then .ok b.n
    else do
      let v ← s.blockWord h (b.slotAt f)
      if (Slot8.ofWord v).state = 2 then s.frontierFrom h b fuel (f + 1) else .ok f

/-- The state word with frontier and done by R339. -/
def State.refront (s : State) (h : Home) (b : Block) (w : BitVec 64) : VolRes (BitVec 64) := do
  let f ← s.frontierFrom h b 1024 0
  .ok (setFld (setFld w 0 11 f) 61 1 (if f = b.n then 1 else 0))

/-! ### The steps -/

/-- What a step leaves: the state, the value of `D`, and whether it has written the state word (R333). -/
structure Stepped where
  state : State
  value : Nat
  wrote : Bool := false

/-- A block that a step may follow, as the step finds it once it has voided an older epoch's, and whether it has voided it (R334, R340,
R347). -/
def State.enterBlock (s : State) (h : Home) (at_ : Nat) (slot : Option Nat) : VolRes (State × Block × Bool) := do
  let b ← s.blockRead h at_
  s.blockFollow h b slot
  let (s1, c) ← s.voidBlock h b
  .ok (s1, c, c.word != b.word)

/-- A slot after `CAST`, and whether it was cast off by threshold (R339). -/
def castSlot (rule : BitVec 128) (pass : Nat) (r : Slot8) (tok c : Nat) : Slot8 × Bool :=
  if 2 ≤ r.state then (r, false)
  else
    let fin := geF16 c (ruleFinal rule)
    let st := if fin then 2
      else if geF16 c (ruleTent rule) then
        (if r.state == 1 && ruleReopen rule && tok != r.token then 0 else 1)
      else 0
    ({ r with token := tok, conf := c, state := st, pass := if st = r.state then r.pass else pass }, fin)

/-- `CAST` (R339). -/
def State.stepCast (s : State) (h : Home) (at_ slot token conf : Nat) (rule : BitVec 128) : VolRes Stepped := do
  let (s1, b, voided) ← s.enterBlock h at_ (some slot)
  let v ← s1.blockWord h (b.slotAt slot)
  if b.void then .ok { state := s1, value := v.toNat, wrote := voided }
  else
    let (new, fin) := castSlot rule b.pass (Slot8.ofWord v) token conf
    let s2 ← s1.putWord h (b.slotAt slot) new.word
    let w ← s2.refront h b (if fin then setFld b.word 40 11 (b.finals + 1) else b.word)
    let s3 ← s2.putWord h (b.at_ + 8) w
    .ok { state := s3, value := new.word.toNat, wrote := true }

/-- `SLOTLD.rd` and `SLOTLD.mark` (R344). -/
def State.stepSlot (s : State) (h : Home) (at_ : Nat) (mark : Bool) (slot : Nat) : VolRes Stepped := do
  let (s1, b, voided) ← s.enterBlock h at_ (some slot)
  let v ← s1.blockWord h (b.slotAt slot)
  let r := Slot8.ofWord v
  if mark && !b.void && r.state == 2 then
    let new := { r with cached := true }.word
    let s2 ← s1.putWord h (b.slotAt slot) new
    .ok { state := s2, value := new.toNat }
  else .ok { state := s1, value := v.toNat, wrote := voided }

/-- `SLOTLD.hdr` (R344). -/
def State.stepHeader (s : State) (h : Home) (at_ : Nat) : VolRes Stepped := do
  let (s1, b, voided) ← s.enterBlock h at_ none
  .ok { state := s1, value := b.word.toNat, wrote := voided }

/-- `FRONT` names every slot record, which is checked once the header says how many there are (R340). -/
def State.frontBlock (s : State) (h : Home) (at_ : Nat) : VolRes Block := do
  let b ← s.blockRead h at_
  s.blockCheck h at_ (64 + 8 * b.n) true
  .ok b

/-- `FRONT.open` (R341). -/
def State.stepOpen (s : State) (h : Home) (at_ : Nat) : VolRes Stepped := do
  let b ← s.frontBlock h at_
  if b.n = 0 ∨ 1024 < b.n ∨ !b.reservedOk ∨ h.via.vf? ≠ some b.vf then .error ⟨.perm, at_⟩
  let w := setFld (setFld (setFld 0 63 1 1) 52 6 b.vf) 16 11 b.n
  let s1 ← s.blockWrite h (at_ + 64) (List.replicate (8 * b.n) 0)
  let s2 ← s1.blockWrite h (at_ + 0x10) (leBytes 2 (s.blockEpoch h b))
  let s3 ← s2.putWord h (at_ + 8) w
  .ok { state := s3, value := w.toNat, wrote := true }

/-- FP16 codes in rising order of value; the two zeros are equal. -/
def f16Key (c : Nat) : Nat := if 32768 ≤ c then 32768 - c % 32768 else 32768 + c

/-- The slots that `FRONT.pass` casts off: tentative ones by confidence descending, ties to the lower index (R342). -/
def castOffs (need : Nat) (rs : List (Nat × Slot8)) : List (Nat × Slot8) :=
  (sortBy (fun x => 65536 - f16Key x.2.conf) (rs.filter (fun x => x.2.state == 1))).take need

/-- `FRONT.pass` (R342). -/
def State.stepPass (s : State) (h : Home) (at_ kmin : Nat) : VolRes Stepped := do
  let _ ← s.frontBlock h at_
  let (s1, b, voided) ← s.enterBlock h at_ none
  if b.void then .ok { state := s1, value := b.word.toNat, wrote := voided }
  else
    let rs ← (List.range b.n).mapM (fun k => do
      let v ← s1.blockWord h (b.slotAt k)
      .ok (k, Slot8.ofWord v))
    let s2 ← (castOffs (kmin - b.finals) rs).foldlM (fun (s : State) x =>
      s.putWord h (b.slotAt x.1) { x.2 with state := 2, pass := b.pass }.word) s1
    let w ← s2.refront h b (setFld (setFld b.word 32 8 (b.pass + 1)) 40 11 0)
    let s3 ← s2.putWord h (b.at_ + 8) w
    .ok { state := s3, value := w.toNat, wrote := true }

/-- A STEP ON A BLOCK at its home (R333). -/
def State.stepOn (s : State) (h : Home) (at_ : Nat) : StepOp → VolRes Stepped
  | .cast k t c r => s.stepCast h at_ k t c r
  | .slot m k => s.stepSlot h at_ m k
  | .header => s.stepHeader h at_
  | .opening => s.stepOpen h at_
  | .pass n => s.stepPass h at_ n

end Sys2Proof.Machine
end

