-- ==== Sys2Proof/Machine/Streams.lean ====
section
/-!
DEFINITION. The text engines at work (spec/20 R356 to R364): vocabulary images, the tokeniser, streams, and what each text form does
on its edge die.
-/

namespace Sys2Proof.Machine

/-! ### Vocabulary images (R360) -/

/-- A vocabulary image as it is read: through a VF's tables, from an address, by some edge dies. -/
structure Image where
  via : Via
  base : Nat
  edges : List Nat
deriving DecidableEq, Repr

/-- Bytes at an offset of an image. A walk that meets an entry made invalid ends the grid with `PERM` (R398), so does a firewall that drops
the request (R393), and poisoned bytes end it with `ECC_UE` (R405, R407). -/
def State.imgRead (s : State) (m : Image) (off n : Nat) : VolRes (List Byte) :=
  let va := m.base + off
  match s.piecesBy none [] m.via false (granules n) va n with
  | none => .error ⟨s.rangeCode none [] m.via false (granules n) va n, va⟩
  | some ps =>
    if !ps.all (fun p => m.edges.all (fun e => s.edgeReach e p.1)) then .error ⟨.perm, va⟩
    else if ps.any (fun p => s.poisoned p.1 p.2) then .error ⟨.eccUe, va⟩
    else .ok (ps.flatMap (fun p => s.phys.read p.1 p.2))

/-- A firewall between an image and an edge die that reads it drops the read, and keeps its mark (R393). -/
def State.imgDrop (s : State) (m : Image) (va : Nat) : State :=
  match s.piecesBy none [] m.via false (granules 1) va 1 with
  | some ((pa, _) :: _) =>
    match m.edges.find? (fun e => !s.edgeReach e pa) with
    | some e => s.edgeDrop (homeDie pa) e
    | none => s
  | _ => s

/-- A little-endian number at an offset of an image. -/
def State.imgNat (s : State) (m : Image) (off n : Nat) : VolRes Nat := (s.imgRead m off n).map leNat

/-- The header of an image. -/
structure Vocab where
  magic : Nat
  count : Nat
  merges : Nat
  logH : Nat
  classes : Nat
  byteMap : Nat
  pairs : Nat
  texts : Nat
  bytes : Nat
  length : Nat
deriving DecidableEq, Repr

def State.vocab (s : State) (m : Image) : VolRes Vocab :=
  (s.imgRead m 0 64).map (fun h =>
    { magic := leAt h 0 4, count := leAt h 4 4, merges := leAt h 8 4, logH := leAt h 12 4, classes := leAt h 16 8,
      byteMap := leAt h 24 8, pairs := leAt h 32 8, texts := leAt h 40 8, bytes := leAt h 48 8, length := leAt h 56 8 })

/-- Where the search for a pair starts (R360). -/
def pairHash (logH l r : Nat) : Nat := Nat.xor (l * 0x9E3779B9) (r * 0x85EBCA6B) % 2 ^ 32 / 2 ^ (32 - logH)

/-- The pair-table entry of a pair: index, rank, result. -/
def State.findPair (s : State) (m : Image) (h : Vocab) (l r : Nat) : Nat → Nat → VolRes (Option (Nat × Nat × Nat))
  | 0, _ => .ok none
  | fuel + 1, i => do
    let e ← s.imgRead m (h.pairs + 16 * i) 16
    let w0 := leAt e 0 4
    if w0 / 2 ^ 31 = 0 then .ok none
    else if w0 % 2 ^ 20 = l ∧ leAt e 4 4 = r then .ok (some (i, leAt e 8 4, leAt e 12 4))
    else s.findPair m h l r fuel ((i + 1) % 2 ^ h.logH)

def State.pairOf (s : State) (m : Image) (h : Vocab) (l r : Nat) : VolRes (Option (Nat × Nat × Nat)) :=
  s.findPair m h l r (2 ^ h.logH) (pairHash h.logH l r)

/-- The text bytes of a token. -/
def State.tokenText (s : State) (m : Image) (h : Vocab) (t : Nat) : VolRes (List Byte) := do
  let e ← s.imgRead m (h.texts + 8 * t) 8
  s.imgRead m (h.bytes + leAt e 0 4) (leAt e 4 2)

/-- The status of `VOCLOAD` for an image whose header has been read (R361). The tables that it reads are read whole. -/
def State.vocabStatus (s : State) (m : Image) (h : Vocab) : VolRes Nat := do
  let table (o n : Nat) : Bool := o % 16 == 0 && decide (o + n ≤ h.length)
  if h.magic ≠ 0x4A564F43 ∨ h.count < 256 ∨ 2 ^ 20 < h.count ∨ h.count - 256 < h.merges ∨ h.logH < 1 ∨ 22 < h.logH
      ∨ 2 ^ h.logH < 2 * h.merges ∨ 2 ^ 32 < h.length
      ∨ !(table h.classes 256 && table h.byteMap 1024 && table h.pairs (16 * 2 ^ h.logH) && table h.texts (8 * h.count)
          && table h.bytes 0) then .ok 1
  else
    let map ← s.imgRead m h.byteMap 1024
    let badMap := (List.range 256).any (fun b => decide (h.count ≤ leAt map (4 * b) 4))
    let pairs ← (List.range (2 ^ h.logH)).mapM (fun i => do
      let e ← s.imgRead m (h.pairs + 16 * i) 16
      if leAt e 0 4 / 2 ^ 31 = 1 then do
        let found ← s.pairOf m h (leAt e 0 4 % 2 ^ 20) (leAt e 4 4)
        .ok (decide (h.count ≤ leAt e 12 4) || found.map (·.1) != some i)
      else .ok false)
    if badMap || pairs.any id then .ok 2
    else
      let texts ← s.imgRead m h.texts (8 * h.count)
      .ok (if (List.range h.count).any (fun t => decide (h.length - h.bytes < leAt texts (8 * t) 4 + leAt texts (8 * t + 4) 2)) then 3
        else 0)

/-! ### Tokenising (R359) -/

/-- Split text into pieces by the classes of its bytes. -/
def splitPieces (cls : List Byte) : List Byte → List Byte → List (List Byte)
  | cur, [] => if cur.isEmpty then [] else [cur.reverse]
  | [], b :: r => splitPieces cls [b] r
  | p :: cur, b :: r =>
    let x := (cls.getD p.toNat 0).toNat
    let y := (cls.getD b.toNat 0).toNat
    if (x % 128 ≠ y % 128 ∧ x < 128) ∨ (p :: cur).length = 1024 then (p :: cur).reverse :: splitPieces cls [b] r
    else splitPieces cls (b :: p :: cur) r

/-- The mergeable adjacent pairs of tokens: position, rank, result. -/
def mergeable (look : Nat → Nat → VolRes (Option (Nat × Nat))) : Nat → List Nat → VolRes (List (Nat × Nat × Nat))
  | j, x :: y :: r => do
    let here ← look x y
    let more ← mergeable look (j + 1) (y :: r)
    .ok (match here with
      | some (rank, res) => (j, rank, res) :: more
      | none => more)
  | _, _ => .ok []

/-- Merge the pair of lowest rank, the leftmost among equals, until none is left. -/
def mergeAll (look : Nat → Nat → VolRes (Option (Nat × Nat))) : Nat → List Nat → VolRes (List Nat)
  | 0, ts => .ok ts
  | fuel + 1, ts => do
    match ← mergeable look 0 ts with
    | [] => .ok ts
    | c :: cs =>
      let best := cs.foldl (fun b x => if x.2.1 < b.2.1 then x else b) c
      mergeAll look fuel (ts.take best.1 ++ best.2.2 :: ts.drop (best.1 + 2))

/-- The tokens of a text by an image, or what keeps a byte of the image that they need from being read. -/
def State.tokens (s : State) (m : Image) (text : List Byte) : VolRes (List Word) := do
  let h ← s.vocab m
  let cls ← s.imgRead m h.classes 256
  let look (l r : Nat) : VolRes (Option (Nat × Nat)) := (s.pairOf m h l r).map (·.map (fun x => (x.2.1, x.2.2)))
  let pieces ← (splitPieces cls [] text).mapM (fun p => do
    let ts ← p.mapM (fun b => s.imgNat m (h.byteMap + 4 * b.toNat) 4)
    mergeAll look p.length ts)
  .ok (pieces.flatten.map (BitVec.ofNat 32))

/-! ### Streams (R356) -/

/-- A stream id (R356). -/
def streamId (edge vf n : Nat) : Nat := edge * 2 ^ 30 + vf * 2 ^ 24 + n

/-- Edge die and number of a stream id. -/
def sidEdge (sid : Nat) : Nat := sid / 2 ^ 30 % 4
def sidVf (sid : Nat) : Nat := sid / 2 ^ 24 % 64

/-- The stream that an id names for a partition; an id with bits set between VF and number names none. -/
def State.streamOf (s : State) (part sid : Nat) : Option Stream :=
  if sid / 2 ^ 16 % 256 ≠ 0 then none
  else (lookupN (s.edge (sidEdge sid)).streams (sid % 2 ^ 16)).bind (fun k => if k.part = part ∧ k.vf = sidVf sid then some k else none)

def Stream.open_ (k : Stream) : Bool := !k.closed && k.closing.isNone

def State.modStream (s : State) (sid : Nat) (f : Stream → Stream) : State :=
  s.modEdge (sidEdge sid) (fun e => { e with streams := modN e.streams (sid % 2 ^ 16) f })

/-! ### Held bytes (R362) -/

/-- Bytes of a well-formed UTF-8 sequence after a lead byte, and the range of the second byte (Unicode table 3-7). -/
def utf8Lead (b : Nat) : Option (Nat × Nat × Nat) :=
  if 0xC2 ≤ b ∧ b ≤ 0xDF then some (1, 0x80, 0xBF)
  else if b = 0xE0 then some (2, 0xA0, 0xBF)
  else if b = 0xED then some (2, 0x80, 0x9F)
  else if 0xE1 ≤ b ∧ b ≤ 0xEF then some (2, 0x80, 0xBF)
  else if b = 0xF0 then some (3, 0x90, 0xBF)
  else if 0xF1 ≤ b ∧ b ≤ 0xF3 then some (3, 0x80, 0xBF)
  else if b = 0xF4 then some (3, 0x80, 0x8F)
  else none

/-- A proper prefix of a well-formed sequence. -/
def utf8Prefix : List Byte → Bool
  | [] => false
  | b :: r =>
    match utf8Lead b.toNat with
    | none => false
    | some (n, lo, hi) =>
      decide (r.length < n)
      && (match r with
          | [] => true
          | c :: t => decide (lo ≤ c.toNat ∧ c.toNat ≤ hi) && t.all (fun x => decide (0x80 ≤ x.toNat ∧ x.toNat ≤ 0xBF)))

/-- The tail that is held back. -/
def heldTail (bs : List Byte) : List Byte :=
  (([3, 2, 1].map (fun n => bs.drop (bs.length - n))).find? utf8Prefix).getD []

/-- Bytes join a stream's output: all but the held tail become sendable. -/
def Stream.output (k : Stream) (bs : List Byte) : Stream :=
  let all := k.held ++ bs
  let tail := heldTail all
  { k with ready := k.ready ++ all.take (all.length - tail.length), held := tail }

/-! ### What the forms do on their edge die (R362 to R364) -/

/-- How a text form ends at its edge die: with a state and the value of `D`; or its grid ends, with a state in which the firewall that
has dropped a request keeps its mark (R393). -/
inductive TextEnd where
  | done (s : State) (v : Nat)
  | failed (s : State) (t : Trap)

/-- The VF of a request, where it names one. -/
def State.textVf (_ : State) (h : Home) : VolRes (Nat × Nat) :=
  match h.via with
  | .vf p v => .ok (p, v)
  | _ => .error ⟨.perm, 0⟩

/-- A form acts on its edge die where the firewalls let its request through. -/
def State.onEdge (s : State) (h : Home) (edge : Nat) (act : VolRes TextEnd) : VolRes TextEnd :=
  if s.edgePath (dieOf h.agent.core) edge then act else .ok (.failed (s.edgeDrop (dieOf h.agent.core) edge) ⟨.perm, 0⟩)

/-- A request as `TXTAKE` writes it (R364). -/
def TxRequest.bytes (r : TxRequest) (edge vf : Nat) : List Byte :=
  leBytes 8 r.request.toNat ++ leBytes 4 (streamId edge vf r.stream) ++ leBytes 4 r.slot ++ leBytes 4 r.maxNew.toNat
    ++ leBytes 4 r.tokens.length ++ List.replicate 8 0 ++ r.tokens.flatMap (fun t => leBytes 4 t.toNat)

/-- `TXTAKE` (R364). -/
def State.takeText (s : State) (h : Home) (dst edge cap : Nat) : VolRes TextEnd := do
  let (part, vf) ← s.textVf h
  let k := vfKey part vf
  s.onEdge h edge (match ((s.edge edge).txOf k).queue with
    | [] => .ok (.done s (2 ^ 32))
    | r :: rest =>
      let c := r.tokens.length
      if cap < c then .ok (.done s (c + 2 * 2 ^ 32))
      else do
        let s1 ← s.blockWrite h dst (r.bytes edge vf)
        .ok (.done (s1.modTx edge k (fun t => { t with queue := rest })) c))

/-- The image that a stream's slot is bound to on an edge die. -/
def State.streamImage (s : State) (h : Home) (edge : Nat) (k : Stream) : Image :=
  { via := h.via, base := (lookupN ((s.edge edge).txOf (vfKey k.part k.vf)).vocab k.slot).getD 0, edges := [edge] }

/-- The slots of a block from one position to another join the output of a stream that may take them (R362). -/
def State.emitText (s : State) (h : Home) (b : Block) (k : Stream) (sent lim : Nat) : VolRes TextEnd := do
  let sid := b.stream
  let top := min lim b.frontier
  let m := s.streamImage h (sidEdge sid) k
  let slots ← ((List.range top).filter (fun i => decide (sent ≤ i))).mapM (fun i => s.blockWord h (b.slotAt i))
  let now := max sent top
  let out (text : List Byte) : VolRes TextEnd :=
    .ok (.done (s.modStream sid (fun _ => ({ k with block := some b.at_, n0 := b.n, sent := now }).output text)) now)
  if slots.isEmpty then out []
  else
    match (do
      let v ← s.vocab m
      slots.mapM (fun w => s.tokenText m v (Slot8.ofWord w).token)) with
    | .error t => .ok (.failed (s.imgDrop m t.va) t)
    | .ok texts => out texts.flatten

/-- `TXEMIT` (R362, R365). -/
def State.emitBlock (s : State) (h : Home) (at_ lim : Nat) : VolRes TextEnd := do
  let b ← s.blockRead h at_
  let k := s.streamOf (s.partOf h.agent) b.stream
  let moved (k : Stream) : Bool := match k.block with
    | some b0 => b0 != at_
    | none => false
  let sent := match k with
    | some k => if moved k then 0 else k.sent
    | none => 0
  let sends := (k.map (fun k => k.open_ && !(moved k && decide (k.sent < k.n0)))).getD false
  let reads := if sends && decide (b.n ≤ 1024) then (List.range (min lim b.frontier)).filter (fun i => decide (sent ≤ i)) else []
  let _ ← reads.mapM (fun i => s.blockCheck h (b.slotAt i) 8 false)
  s.blockFollow h b none
  let (_, vf) ← s.textVf h
  if vf ≠ b.vf ∨ vf ≠ sidVf b.stream then .error ⟨.perm, at_⟩
  s.onEdge h (sidEdge b.stream) (match k with
    | none => .ok (.done s (2 * 2 ^ 16))
    | some k =>
      if !k.open_ then .ok (.done s (2 * 2 ^ 16 + k.sent))
      else if moved k && decide (k.sent < k.n0) then .ok (.done s (3 * 2 ^ 16 + k.sent))
      else s.emitText h b k sent lim)

/-- `TXCLOSE` (R363). -/
def State.closeText (s : State) (h : Home) (sid code : Nat) : VolRes TextEnd :=
  s.onEdge h (sidEdge sid) (.ok (match s.streamOf (s.partOf h.agent) sid with
    | some k =>
      if k.open_ then
        let close := ((if code = 0 then 0 else 1), BitVec.ofNat 32 code)
        .done (s.modStream sid (fun k => { k with ready := k.ready ++ k.held, held := [], closing := some close })) 0
      else .done s 2
    | none => .done s 2))

/-- What `TXSTAT` reads of a stream (R363). -/
def Stream.stat (k : Stream) : Nat :=
  let st := if k.closed then 3 else if k.closing.isSome then 2 else 1
  k.sent % 2048 + k.held.length * 2 ^ 11 + st * 2 ^ 14 + k.bytes % 2 ^ 32 * 2 ^ 32

/-- `TXSTAT` (R363). -/
def State.statText (s : State) (h : Home) (sid : Nat) : VolRes TextEnd :=
  s.onEdge h (sidEdge sid) (.ok (.done s (((s.streamOf (s.partOf h.agent) sid).map (·.stat)).getD 0)))

/-- A TEXT FORM at its edge die; `at_` is the address that it names. -/
def State.textOn (s : State) (h : Home) (at_ : Nat) : TextOp → VolRes TextEnd
  | .take e c => s.takeText h at_ e c
  | .emit l => s.emitBlock h at_ l
  | .close sid c => s.closeText h sid c
  | .stat sid => s.statText h sid

end Sys2Proof.Machine
end

