-- ==== Sys2Proof/Machine/Access.lean ====
section
/-!
DEFINITION. Per-lane accesses after their issue (spec/06 R114, R116 to R120, R131 to R133, spec/10 R207 to R217, R223 to
R226): when a pending access may be performed, what performing it does, and the flush that a release or a fence makes.
-/

namespace Sys2Proof.Machine

/-! ### The order of pending accesses -/

/-- Release, acquire and strong accesses of R206 and R209, by the order code of R66. -/
def isRelease (o : BitVec 3) : Bool := o == 3 || o == 4 || o == 6
def isAcquire (o : BitVec 3) : Bool := o == 2 || o == 4 || o == 5 || o == 6

def Pending.isLdga (p : Pending) : Bool :=
  match p.kind with
  | .ldga _ _ _ _ _ _ => true
  | _ => false

/-- A load, which writes no byte. -/
def Pending.isLoad (p : Pending) : Bool :=
  match p.kind with
  | .load _ _ => true
  | _ => false

/-- A store: an access that writes and reads nothing. -/
def Pending.isStore (p : Pending) : Bool :=
  match p.kind with
  | .store _ => true
  | _ => false

/-- A barrier form (R245): `BINIT` and `BEXP` count in `st`, the others in `ld`. -/
def Pending.isBar (p : Pending) : Bool :=
  match p.kind with
  | .bar _ _ _ _ => true
  | _ => false

/-- An atomic of R211. -/
def Pending.isAtomic (p : Pending) : Bool :=
  match p.kind with
  | .atom _ _ _ _ => true
  | .cas _ _ _ => true
  | .ticket _ _ _ => true
  | _ => false

/-- A step on a block (R333). -/
def Pending.isStep (p : Pending) : Bool :=
  match p.kind with
  | .step _ _ _ => true
  | _ => false

/-- A text form (R366). -/
def Pending.isText (p : Pending) : Bool :=
  match p.kind with
  | .text _ _ => true
  | _ => false

/-- Bytes from its place up that an access may touch: a step or `TXEMIT` a whole block of 1,024 slots (R330), `TXTAKE` its capacity
(R364). -/
def Pending.reach (p : Pending) : Nat :=
  match p.kind with
  | .step _ _ _ => 64 + 8 * 1024
  | .text (.take _ cap) _ => 32 + 4 * cap
  | .text (.emit _) _ => 64 + 8 * 1024
  | _ => p.n

/-- Barrier forms on one object, whatever addresses name it (R232). -/
def Pending.sameObject (p q : Pending) : Bool :=
  match p.kind, q.kind with
  | .bar _ o _ _, .bar _ r _ _ => o == r
  | _, _ => false

/-- Steps on one block, whatever addresses name it (R333). -/
def Pending.sameBlock (p q : Pending) : Bool :=
  match p.kind, q.kind with
  | .step _ b _, .step _ c _ => b == c
  | _, _ => false

/-- Two accesses share a byte or a barrier object. -/
def Pending.overlaps (p q : Pending) : Bool := p.place.overlaps p.reach q.place q.reach || p.sameObject q

/-- Issued as lanes of one issue of one instruction (R112, R223). -/
def Pending.sameIssue (p q : Pending) : Bool := p.issued == q.issued && p.pc == q.pc && p.agent.isLead == q.agent.isLead

/-- An earlier access `p` of the same agent must be performed before `q` (R118, R209, R212). An `LDGA` takes part with the
global bytes that it reads; the bytes that it writes are ordered only by its object (R118, R133; DEDUCED, log 57). Text forms of one
agent go in its program order (DEDUCED, log 89). -/
def Pending.before (p q : Pending) : Bool :=
  p.overlaps q || isAcquire p.order || (p.isText && q.isText)
    || (!p.isLdga && (isRelease q.order
        || (p.order != 0 && q.order != 0 && decide (2 ≤ p.scope.toNat ∧ 2 ≤ q.scope.toNat) && !(p.isStore && q.isLoad))))

/-- May an access be performed now? Stores of one issue to one byte, and steps of one issue on one block, go in ascending home lane
(R112, R340). -/
def Core.opReady (k : Core) (q : Pending) : Bool :=
  !k.pend.any (fun p => decide (p.id < q.id) &&
    ((p.agent == q.agent && p.before q)
      || (p.sameIssue q && ((p.isStore && q.isStore && p.overlaps q) || p.sameBlock q))))

def Core.findOp (k : Core) (id : Nat) : Option Pending := k.pend.find? (fun p => p.id == id)

/-- The atomics of one issue on one location, and the barrier forms of one issue on one object, which are applied together
(R223, R232). -/
def Core.atomicSet (k : Core) (q : Pending) : List Pending :=
  k.pend.filter (fun p => (p.isAtomic || p.isBar) && p.sameIssue q && p.overlaps q)

/-- Two loads, or two `LDGA`, of one issue that share bytes. -/
def Pending.joins (p q : Pending) : Bool := ((p.isLoad && q.isLoad) || (p.isLdga && q.isLdga)) && p.sameIssue q && p.overlaps q

/-- The loads of one issue that are joined to a set by the bytes that they share, in so many rounds. -/
def Core.joinLoads (k : Core) : Nat → List Pending → List Pending
  | 0, set => set
  | n + 1, set =>
    let more := k.pend.filter (fun p => set.any (fun q => p == q || p.joins q))
    if more.length = set.length then set else k.joinLoads n more

/-- The loads that obtain their bytes together with one: lanes of one issue that load the same byte receive the same value
(R112). -/
def Core.loadSet (k : Core) (q : Pending) : List Pending := k.joinLoads 64 [q]

/-- An access touches a C-tile or bytes of a matrix operation that the agent has not waited for (R128, R217). -/
def Ctx.marked (c : Ctx) (p : Place) (n : Nat) : Bool :=
  c.marks.any (fun m =>
    (match p with
      | .cstore off => m.tiles.contains (off / 32768)
      | _ => false)
    || m.spans.any (fun x => p.overlaps n x.1 x.2))

/-- Places that an access of `n` bytes touches beside its own: the destination of an `LDGA` (R131, R217). -/
def PendKind.spans (k : PendKind) (n : Nat) : List (Place × Nat) :=
  match k with
  | .ldga c w dst _ _ _ => [(.store c w dst, n)]
  | _ => []

/-- The barrier object that an access credits (R131). -/
def PendKind.credits (k : PendKind) : List (Place × Nat) :=
  match k with
  | .ldga _ _ _ c w b => [(.store c w b, 16)]
  | _ => []

/-- The base of the monitor window (R397). -/
abbrev windowBase : Nat := 0xF00000000000

/-- An untranslated access to the monitor window (R397). -/
def inWindow (v : Via) (va : Nat) : Bool :=
  match v with
  | .phys => isWindow va
  | _ => false

/-- May a load take its bytes from L1? A load that is strong at `.team` or wider reads the home (R206, R215). -/
def Pending.usesL1 (p : Pending) : Bool := p.cache != 3 && (p.order == 0 || p.scope == 0)

/-- The 32-byte sectors of a range. -/
def sectorsOf (va n : Nat) : List Nat :=
  if n = 0 then [] else (List.range ((va + n - 1) / 32 + 1 - va / 32)).map (va / 32 + ·)

/-- The sectors of the global space that an access touches. -/
def Pending.sectors (p : Pending) : List Nat :=
  match p.place with
  | .glob va => if inWindow p.via va then [] else sectorsOf va p.n
  | _ => []

/-- Lanes of one group (R111). -/
def State.sameGroup (s : State) (a b : Agent) : Bool :=
  a == b || (a.isLead == b.isLead && s.level a == s.level b && s.place a == s.place b && s.groupOf a == s.groupOf b)

/-- The sectors that an access is the first of its group to touch in its issue: a group is served with one request per sector (R111). -/
def State.ownSectors (s : State) (p : Pending) : List Nat :=
  p.sectors.filter (fun x =>
    !(s.core p.agent.core).pend.any (fun q => p.sameIssue q && s.sameGroup p.agent q.agent && q.sectors.contains x))

/-- The requests to L2 of an access, as it issues, and the misses of L1 among them (R111, R388; DESIGN CHOICE, log 88): one for each
sector that L1 does not hold of a load that may use L1, one for each sector of any other access, one for a step or a `TXEMIT`. -/
def State.countRequests (s : State) (p : Pending) : State :=
  let c := p.agent.core
  let ask (s : State) (n : Nat) : State := s.perfEvent c 6 p.via.vf? n
  if p.isText || p.isStep then (if p.n = 0 then s else ask s 1)
  else
    let pas := (s.ownSectors p).filterMap (fun x => s.xlate c p.via (x * 32) false)
    if (p.isLoad || p.isLdga) && p.usesL1 then
      let n := (pas.filter (fun pa => ((s.core c).l1Find pa).isNone)).length
      ask (s.perfEvent c 5 p.via.vf? n) n
    else ask s pas.length

/-- The pending access that an issue makes. -/
def State.pendingOf (s : State) (a : Agent) (place : Place) (n : Nat) (order scope : BitVec 3) (cache : BitVec 2) (kind : PendKind)
    (ctr : Ctr) : Pending :=
  let c := s.ctx a
  let p : Pending := { id := s.nextOp, agent := a, pc := c.pc, place := place, n := n, order := order, scope := scope, cache := cache,
                       kind := kind, ctr := ctr, via := s.viaOf a, issued := s.clock,
                       undef := c.marked place n || (kind.spans n).any (fun x => c.marked x.1 x.2),
                       undefObj := kind.credits.any (fun x => c.marked x.1 x.2) }
  if p.isStep || p.isText then { p with undef := false, undefs := c.undefs } else p

/-- A pending access of an agent enters the list and counts in (R116). -/
def State.post (s : State) (a : Agent) (place : Place) (n : Nat) (order scope : BitVec 3) (cache : BitVec 2)
    (kind : PendKind) (ctr : Ctr) : State :=
  let p := s.pendingOf a place n order scope cache kind ctr
  ((({ s with nextOp := s.nextOp + 1 } : State).countRequests p).modCore a.core (fun k => { k with pend := k.pend ++ [p] })).countIn a ctr

/-- The access leaves the list and its count (R116). -/
def State.retire (s : State) (p : Pending) : State :=
  (s.modCore p.agent.core (fun c => { c with pend := c.pend.filter (fun q => q.id != p.id) })).countOut p.agent p.ctr

/-- An access whose trap ends its grid leaves, and its agent takes the trap at the PC of its issue (R116, R376). -/
def State.opTraps (s : State) (p : Pending) (t : Trap) : State := (s.retire p).failAt p.agent t p.pc (p.pc, p.issued)

/-- An access that ends its grid while it is performed (R121, R132, R398, R407). A firewall that dropped it keeps its mark
(R393). -/
def State.opFails (s : State) (p : Pending) (t : Trap) : State :=
  (match p.place with
    | .glob va => s.noteDrop p.agent.core p.via (if p.isStep || p.isText then t.va else va)
    | _ => s).opTraps p t

/-! ### Loads -/

/-- The value that a load writes: extended by its size (R126), to 64 bits in a lead (R185). -/
def loadValue (sext : Bool) (n : Nat) (bs : List Byte) (dst : Opnd) : Nat :=
  let v := leNat bs
  let w := match dst with
    | .s _ => 64
    | _ => max 32 (8 * n)
  if sext then toBits w (toVal true (8 * n) v) else v

/-- Width at which a load writes its destination. -/
def loadWidth (n : Nat) (dst : Opnd) : Nat :=
  match dst with
  | .s _ => 64
  | _ => max 32 (8 * n)

/-- An agent that still takes values of its loads (R170, R376). -/
def Ctx.alive (c : Ctx) : Bool := c.wait != .stopped && c.wait != .exited

/-- Write a value that comes back to an agent. -/
def State.giveBack (s : State) (p : Pending) (d : Opnd) (w v : Nat) : State :=
  if (s.ctx p.agent).alive then s.putD p.agent d w v else s

/-- L1 takes the sectors of a range from their homes where it does not hold them; a fresh read refreshes them (R114). -/
def State.l1Fill (s : State) (c pa n : Nat) (fresh : Bool) (cache : Nat) : State :=
  (List.range ((pa + n - 1) / 32 + 1 - pa / 32)).foldl (fun s i =>
    let sec := pa / 32 + i
    if fresh || ((s.core c).l1Find (sec * 32)).isNone then
      s.modCore c (fun k => k.l1Put sec (s.phys.read (sec * 32) 32) cache)
    else if cache = 0 then s else s.modCore c (fun k => k.l1Mark (sec * 32) 32 (howOf cache))) s

/-- Read the monitor window: aligned 8-byte accesses only; others read 0 (R397). -/
def State.windowRead (s : State) (pa n : Nat) : List Byte :=
  if n = 8 ∧ pa % 8 = 0 then leBytes 8 (s.monRead (pa - windowBase)).toNat else List.replicate n 0

def State.windowWrite (s : State) (pa : Nat) (bs : List Byte) : State :=
  if bs.length = 8 ∧ pa % 8 = 0 then s.monWrite (pa - windowBase) (BitVec.ofNat 64 (leNat bs)) else s

/-- The bytes of a range that a per-lane load of the global space obtains, and the state with its L1 copies. What it reads from L2 may
be corrected on its way (R407). -/
def State.loadGlobal (s : State) (p : Pending) (va n : Nat) : Except TrapCode (List Byte × State) :=
  let c := p.agent.core
  if inWindow p.via va then .ok (s.windowRead va n, s)
  else if s.walkDenied (some (dieOf c)) (s.core c).tlb p.via (s.leasesOf p.agent) va n then .error .perm
  else
    match s.pieces c p.via false (granules n) va n with
    | none => .error (s.rangeCode (some (dieOf c)) (s.core c).tlb p.via false (granules n) va n)
    | some ps =>
      if ps.any (fun q => s.poisoned q.1 q.2) then .error .eccUe
      else
        let bs := ps.flatMap (fun q => (List.range q.2).map (fun i => s.byteVia c (q.1 + i) p.usesL1))
        let miss := ps.any (fun q => (sectorsOf q.1 q.2).any (fun x => ((s.core c).l1Find (x * 32)).isNone))
        let s1 := if p.cache == 3 then s else ps.foldl (fun s q => s.l1Fill c q.1 q.2 (!p.usesL1) p.cache.toNat) s
        let s2 := if miss || !p.usesL1 then s1.noteSoft ps else s1
        .ok (bs, s2.fillTlb c p.via va)

/-- The first address or offset of a place. -/
def Place.addr : Place → Nat
  | .glob a => a
  | .store _ _ a => a
  | .cstore a => a
  | .wstore a => a

/-- The place that begins at another address. -/
def Place.at_ (p : Place) (x : Nat) : Place :=
  match p with
  | .glob _ => .glob x
  | .store c w _ => .store c w x
  | .cstore _ => .cstore x
  | .wstore _ => .wstore x

/-- The bytes that a load obtains from a range of its place. -/
def State.loadBytes (s : State) (p : Pending) (x n : Nat) : Except TrapCode (List Byte × State) :=
  match p.place with
  | .glob _ => s.loadGlobal p x n
  | .store c w _ => if s.storeHurt c w x n then .error .eccUe else .ok (s.storeRead c w x n, s)
  | .cstore _ =>
    if (s.core p.agent.core).cHurt x n then .error .eccUe else .ok ((s.core p.agent.core).cstore.read x n, s)
  | .wstore _ => .ok (List.replicate n 0, s)

/-- The single-copy atomic unit of an access that holds an address: base and bytes (R120). A 16-byte access at 8 mod 16 keeps its two
aligned halves single, though it is not aligned to its size (DESIGN CHOICE, log 57). -/
def Pending.unitOf (p : Pending) (x : Nat) : Nat × Nat :=
  let a := p.place.addr
  if a % p.n = 0 ∧ p.n ≤ 8 then (a, p.n) else if a % 8 = 0 ∧ p.n = 16 then (x / 8 * 8, 8) else (x, 1)

/-- The units of an access. -/
def Pending.units (p : Pending) : List (Nat × Nat) :=
  ((List.range p.n).map (fun i => p.unitOf (p.place.addr + i))).eraseDups

/-- The units of an access that are still to be performed. -/
def Pending.rest (p : Pending) : List (Nat × Nat) := p.units.filter (fun u => (lookupN p.got u.1).isNone)

/-- Change a pending access. -/
def State.modOp (s : State) (p : Pending) (f : Pending → Pending) : State :=
  s.modCore p.agent.core (fun k => { k with pend := k.pend.map (fun q => if q.id == p.id then f q else q) })

/-- The location of an access. -/
def State.chan (s : State) (p : Pending) : Option Chan := s.chanOf p.agent.core p.via p.place

/-- An access that is an acquire acquires what was released at its location; orders 5 and 6 are those with `.rmt` (R209, R210). -/
def State.acquireBy (s : State) (p : Pending) : State :=
  s.acquire p.agent p.scope.toNat (s.chan p) (p.order == 5 || p.order == 6)

/-- What a load or an atomic meets at its location: an acquire acquires it, another strong access lets a later acquire fence do so
(R207, R226). -/
def State.meetBy (s : State) (p : Pending) : State :=
  if isAcquire p.order then s.acquireBy p
  else if p.order = 1 then s.nearBy p.agent (s.chan p) p.scope.toNat else s

/-- Perform a load: the bytes that it has not obtained yet come now. -/
def State.performLoad (s : State) (p : Pending) (dst : Opnd) (sext : Bool) : State :=
  match s.loadBytes p p.place.addr p.n with
  | .error t => s.opFails p ⟨t, match p.place with | .glob va => va | _ => 0⟩
  | .ok (now, s0) =>
    let bs := now.zipIdx.map (fun x => (lookupN p.got (p.place.addr + x.2)).getD x.1)
    let (bs, s1) := if p.undef then s0.freeBytes p.n else (bs, s0)
    let s2 := s1.modCore p.agent.core (fun k => k.observe (s1.idOf p.agent) (fun w => w.place.overlaps w.old.length p.place p.n))
    ((s2.meetBy p).giveBack p dst (loadWidth p.n dst) (loadValue sext p.n bs dst)).retire p

/-- A load obtains the part of a range of addresses that lies in it (R208, R231). -/
def State.loadPart (s : State) (p : Pending) (x n : Nat) : State :=
  let lo := max x p.place.addr
  let hi := min (x + n) (p.place.addr + p.n)
  if hi ≤ lo then s
  else
    match s.loadBytes p lo (hi - lo) with
    | .error t => s.opFails p ⟨t, match p.place with | .glob va => va | _ => 0⟩
    | .ok (bs, s1) =>
      s1.modOp p (fun q => { q with got := bs.zipIdx.foldl (fun g b => if (lookupN g (lo + b.2)).isSome then g
        else g ++ [(lo + b.2, b.1)]) q.got })

/-- A range of bytes grown by the units that share a byte with it, in so many rounds: no atomic unit is split (R120). -/
def growUnit (us : List (Nat × Nat)) : Nat → Nat × Nat → Nat × Nat
  | 0, u => u
  | k + 1, u =>
    let hit := us.filter (fun v => decide (v.1 < u.1 + u.2 ∧ u.1 < v.1 + v.2))
    let lo := hit.foldl (fun m v => min m v.1) u.1
    let hi := hit.foldl (fun m v => max m (v.1 + v.2)) (u.1 + u.2)
    if lo = u.1 ∧ hi = u.1 + u.2 then u else growUnit us k (lo, hi - lo)

/-- Perform the loads of a set: all that is left of them, or first one of their atomic units with those of other lanes that share its
bytes (R112, R120, R208, R231, log 2). -/
def State.performLoads (s : State) (set : List Pending) : State :=
  let us := (set.flatMap (·.rest)).eraseDups
  let (i, s1) := s.pick (if us.length ≤ 1 then 1 else us.length + 1)
  let finish (s : State) : State := set.foldl (fun s p =>
    match (s.core p.agent.core).findOp p.id with
    | some q => (match q.kind with
        | .load d x => s.performLoad q d x
        | _ => s)
    | none => s) s
  match i with
  | 0 => finish s1
  | k + 1 =>
    let all := set.flatMap (·.units)
    let (x, n) := growUnit all all.length (us.getD k (0, 0))
    set.foldl (fun s p => s.loadPart p x n) s1

/-! ### Stores -/

/-- Write bytes at their home and in the L1 copy of the storing core (R114). -/
def State.storeGlobal (s : State) (p : Pending) (va : Nat) (bs : List Byte) : Except TrapCode State :=
  let c := p.agent.core
  if inWindow p.via va then .ok (s.windowWrite va bs)
  else
    match s.pieces c p.via true (granules bs.length) va bs.length with
    | none => .error (s.rangeCode (some (dieOf c)) (s.core c).tlb p.via true (granules bs.length) va bs.length)
    | some ps =>
      let s1 := s.writePieces ps bs
      let s2 := ps.foldl (fun (acc : State × List Byte) q =>
        (acc.1.modCore c (fun k =>
          if p.cache == 3 then k.l1Drop q.1 q.2
          else let k := k.l1Update q.1 (acc.2.take q.2); if p.cache == 2 then k.l1Mark q.1 q.2 2 else k),
          acc.2.drop q.2)) (s1, bs)
      .ok (s2.1.fillTlb c p.via va)

/-- Write a range of a store's bytes at its place. A store to a C-tile of an unfinished matrix operation leaves the tile
undefined (R128). -/
def State.storeBytes (s : State) (p : Pending) (x : Nat) (bs : List Byte) : Except TrapCode State :=
  let (bs, s) := if p.undef then s.freeBytes bs.length else (bs, s)
  match p.place with
  | .glob _ => s.storeGlobal p x bs
  | .store c w _ => .ok ((s.noteFresh c (.store c w x) (s.storeRead c w x bs.length) [s.idOf p.agent] p.id).storeWrite c w x bs)
  | .cstore _ =>
    if p.undef then
      let (tile, s) := s.freeBytes 32768
      .ok (s.modCore p.agent.core (fun k => k.cWrite (x / 32768 * 32768) tile))
    else .ok (s.modCore p.agent.core (fun k => k.cWrite x bs))
  | .wstore _ => .ok s

/-- The bytes of a store's data that go to a range of addresses in it. -/
def Pending.dataAt (p : Pending) (bs : List Byte) (x n : Nat) : List Byte := (bs.drop (x - p.place.addr)).take n

/-- Perform what is left of a store, unit by unit. -/
def State.storeRest (s : State) (p : Pending) (bs : List Byte) : List (Nat × Nat) → Except TrapCode State
  | [] => .ok s
  | (x, n) :: us =>
    match s.storeBytes p x (p.dataAt bs x n) with
    | .error t => .error t
    | .ok s1 => s1.storeRest p bs us

/-- Perform a store. -/
def State.performStore (s : State) (p : Pending) (bs : List Byte) : State :=
  match (if p.got.isEmpty then s.storeBytes p p.place.addr bs else s.storeRest p bs p.rest) with
  | .error t => s.opFails p ⟨t, match p.place with | .glob va => va | _ => 0⟩
  | .ok s1 => (s1.releaseAt p.agent (s1.chan p) p.order p.scope.toNat false).retire p

/-- Perform a store, whole or one atomic unit after the other (R120, R208, log 2). -/
def State.performStoreStep (s : State) (p : Pending) (bs : List Byte) : State :=
  let us := p.rest
  let whole := if p.got.isEmpty then 1 else 0
  let (i, s1) := s.pick (if us.length ≤ 1 then 1 else us.length + whole)
  if us.length ≤ 1 ∨ i < whole then s1.performStore p bs
  else
    let (x, n) := us.getD (i - whole) (0, 0)
    match s1.storeBytes p x (p.dataAt bs x n) with
    | .error t => s1.opFails p ⟨t, match p.place with | .glob va => va | _ => 0⟩
    | .ok s2 => s2.modOp p (fun q => { q with got := q.got ++ (List.range n).map (fun i => (x + i, 0)) })

/-! ### Atomics -/

/-- `Op(old, b)` of R223. -/
def atomOp (op ty old b : Nat) : Nat :=
  let w := tyWn ty
  let f := ffmt ty
  if 8 ≤ ty then
    match op with
    | 0 => (fAdd f 0 false (unpackF f old) (unpackF f b)).1
    | 1 => (fMinMax f true old b).1
    | 2 => (fMinMax f false old b).1
    | _ => b
  else
    let sg := decide (ty < 4)
    match op with
    | 0 => (old + b) % 2 ^ w
    | 1 => if toVal sg w old ≤ toVal sg w b then old else b
    | 2 => if toVal sg w old ≤ toVal sg w b then b else old
    | 3 => Nat.land old b
    | 4 => Nat.lor old b
    | 5 => Nat.xor old b
    | 6 => b
    | 7 => if old ≥ b then 0 else old + 1
    | _ => if old = 0 ∨ old > b then b else old - 1

/-- What an atomic leaves at its location, and what it returns (R223 to R225). -/
def atomResult (kind : PendKind) (old : Nat) : Nat × Nat :=
  match kind with
  | .atom _ op ty b => (atomOp op ty old b.toNat, old)
  | .cas _ b c => (if old = b.toNat then c.toNat else old, old)
  | .ticket _ n lim =>
    if old + n.toNat ≤ lim.toNat then (old + n.toNat, old) else (old, 2 ^ 64 - 1)
  | _ => (old, old)

/-- The destination of an atomic; `zr` where it returns nothing. -/
def PendKind.dst : PendKind → Opnd
  | .atom d _ _ _ => d
  | .cas d _ _ => d
  | .ticket d _ _ => d
  | .load d _ => d
  | .bar _ _ d _ => d
  | .step _ _ d => d
  | .text _ d => d
  | _ => .lit 0

/-- The result predicate of a pending access; `pt` where it has none (R245). -/
def PendKind.pred : PendKind → Nat
  | .bar _ _ _ p => p
  | _ => 7

/-- Perform an atomic at its home (R211). -/
def State.performAtomic (s : State) (p : Pending) : State :=
  let c := p.agent.core
  let give (s : State) (bs : List Byte) : State :=
    let (_, ret) := atomResult p.kind (leNat bs)
    let s1 := s.meetBy p
    let s1 := s1.releaseAt p.agent (s1.chan p) p.order p.scope.toNat true
    (s1.giveBack p p.kind.dst (8 * p.n) ret).retire p
  let new (bs : List Byte) : List Byte := leBytes p.n (atomResult p.kind (leNat bs)).1
  match p.place with
  | .glob va =>
    match s.homeRead c p.via va p.n with
    | .error t => s.opFails p ⟨t, va⟩
    | .ok bs =>
      match s.pieces c p.via true (granules p.n) va p.n with
      | none => s.opFails p ⟨s.rangeCode (some (dieOf c)) (s.core c).tlb p.via true (granules p.n) va p.n, va⟩
      | some ps =>
        let (bs, s) := if p.undef then s.freeBytes p.n else (bs, s)
        let s1 := s.writePieces ps (new bs)
        let s2 := ps.foldl (fun s q => s.modCore c (fun k => k.l1Drop q.1 q.2)) s1
        give ((s2.noteSoft ps).fillTlb c p.via va) bs
  | .store d w off =>
    if s.storeHurt d w off p.n then s.opFails p ⟨.eccUe, 0⟩
    else
      let (bs, s) := if p.undef then s.freeBytes p.n else (s.storeRead d w off p.n, s)
      give ((s.noteFresh d p.place (s.storeRead d w off p.n) [s.idOf p.agent] p.id).storeWrite d w off (new bs)) bs
  | _ => s.retire p

/-! ### LDGA -/

/-- An `LDGA` lands: its bytes are written, in one step (DESIGN CHOICE, log 76), then its credit is applied (R131 to R133). -/
def State.performLdga (s : State) (p : Pending) (c w dst barCore barWg bar : Nat) : State :=
  match p.place with
  | .glob va =>
    match s.loadGlobal p va p.n with
    | .error t => s.opFails p ⟨t, va⟩
    | .ok (bs, s0) =>
      let (bs, s0) := if p.undef then s0.freeBytes p.n else (bs, s0)
      let s1 := (s0.noteFresh c (.store c w dst) (s0.storeRead c w dst p.n) [] p.id).storeWrite c w dst bs
      let r : ObjRef := .store barCore barWg bar
      match ((s1.creditSeen p.agent.core p.id r).spoilObj p.agent.core r p.undefObj).landCredit p.agent.core r p.n with
      | (s2, none) => s2.retire p
      | (s2, some code) => s2.opFails p ⟨code, 0⟩
  | _ => s.retire p

/-! ### Barrier forms (R232, R236 to R245) -/

/-- `BWAIT` on an object of the global space is a request to L2 (R388). -/
def State.barEvent (s : State) (c : Nat) (v : Via) (r : ObjRef) : State :=
  match r with
  | .glob _ => s.perfEvent c 6 v.vf? 1
  | _ => s

/-- A barrier form reaches its object at its home: it acts there and its results are written, or it traps and changes nothing
(R236 to R243). `BINIT`, `BARV` and `BEXIT` release what its agent has observed (R219, R237). -/
def State.performBar (s : State) (p : Pending) (k : BarKind) (r : ObjRef) (d : Opnd) (pred : Nat) : State :=
  let c := p.agent.core
  let s := s.spoilObj c r p.undef
  let freed (s : State) : State := s.publish p.agent (some (.at_ r)) p.scope.toNat
  let o := s.objRead r
  let bad : State := s.opFails p ⟨.barBad, 0⟩
  let sound (t : State) : State := if o.consistent then t else bad
  let result (t : State) (v : Bool) : State :=
    (if (t.ctx p.agent).alive then t.writeP p.agent pred v else t).retire p
  if s.objHurt r then s.opFails p ⟨.eccUe, 0⟩
  else
    match k with
    | .binit n => if o.valid ∧ s.waitersOn r ≠ 0 then bad else ((freed s).objWrite c r (Obj.fresh n)).retire p
    | .barv n =>
      let (o1, adv, ok) := o.arrive n
      sound (result (((freed s).objDone c r o1 adv).giveBack p d 32 o.phase.toNat) ok)
    | .bexp n =>
      let (o1, adv) := o.expect n
      sound ((s.objDone c r o1 adv).retire p)
    | .btest ph =>
      let moved := o.valid && o.phase != ph
      let s1 := if moved then s.acquire p.agent p.scope.toNat (some (.at_ r)) else s
      result (s1.giveBack p d 32 o.low) moved
    | .bexit =>
      sound (if o.expa = 1 ∨ o.pend = 0 then result ((freed s).objWrite c r { o with aovr := true }) false
        else
          let (o1, adv, _) := { o with expa := o.expa - 1 }.arrive 1
          result ((freed s).objDone c r o1 adv) true)
    | .binval =>
      sound (if s.waitersOn r = 0 then result (s.objWrite c r { o with valid := false }) true else result s false)

/-! ### Steps on blocks (R333, R352) and text forms (R366) -/

/-- For whom a pending access acts at the home. -/
def Pending.home (p : Pending) : Home := { agent := p.agent, via := p.via, undefs := p.undefs }

/-- The value of a step or a text form comes back to its agent. -/
def State.doneAt (s : State) (p : Pending) (v : Nat) : State := ((s.giveBack p p.kind.dst 64 v).spend p.home).retire p

/-- Perform a step on the block at a physical address. A step that returns a value acquires the earlier steps on its block; every step
releases what its agent has observed to those after it, and to the readers of a state word that it writes, where it voids the block of an
older epoch too (R333, R347). -/
def State.performStep (s : State) (p : Pending) (op : StepOp) (block : Nat) : State :=
  match s.stepOn p.home p.place.addr op with
  | .error t => s.opFails p t
  | .ok r =>
    let s1 := if isAcquire p.order then r.state.acquire p.agent 5 (some (.block block)) else r.state
    let s2 := s1.publish p.agent (some (.block block)) 5
    (if r.wrote then s2.publish p.agent (some (.at_ (.glob (block + 8)))) 5 else s2).doneAt p r.value

/-- Perform a text form; a `TXEMIT` acquires the state word of its block (R362). -/
def State.performText (s : State) (p : Pending) (op : TextOp) : State :=
  match s.textOn p.home p.place.addr op with
  | .error t => s.opFails p t
  | .ok (.failed s1 t) => s1.opTraps p t
  | .ok (.done s1 v) =>
    (if isAcquire p.order then s1.acquire p.agent 5 (s1.chanOf p.agent.core p.via (.glob (p.place.addr + 8))) else s1).doneAt p v

/-! ### Performing, and the flush of a fence -/

/-- Perform a pending access. -/
def State.perform (s : State) (p : Pending) : State :=
  match p.kind with
  | .load d x => s.performLoad p d x
  | .store bs => s.performStore p bs
  | .ldga c w d bc bw b => s.performLdga p c w d bc bw b
  | .bar k r d q => s.performBar p k r d q
  | .step op b _ => s.performStep p op b
  | .text op _ => s.performText p op
  | _ => s.performAtomic p

/-- Every pending access of a core is performed, the oldest first. A release, a fence or a save waits for it (R118, R209,
R215, R226; log 10). -/
def State.flush (s : State) (c : Nat) : State := (s.core c).pend.foldl (fun s p => s.perform p) s

/-- A wait begins, unless what the agent had pending has stopped it meanwhile. -/
def State.park (s : State) (a : Agent) (w : Wait) : State :=
  s.modCtx a (fun c => if c.wait = .run then { c with wait := w, waitFrom := s.clock } else c)

end Sys2Proof.Machine
end

