-- ==== Sys2Proof/Machine/MemoryForms.lean ====
section
/-!
DEFINITION. Per-lane memory instructions (spec/06 R110 to R135), `LDS` (spec/09 R185) and the operations that end a pending
access (spec/06 R116, R121, R131, spec/10 R211).
-/

namespace Sys2Proof.Machine

/-! ### Addresses -/

/-- Bytes of a size code (R126). -/
def sizeBytes (size : BitVec 4) : Nat := tyW size / 8

/-- `Base` (R126): 64 bits for the global space, 32 otherwise. -/
def State.base (s : State) (a : Agent) (space : BitVec 2) (o : Opnd) : Int :=
  (s.opVal a o (if space = 0 then 64 else 32) : Nat)

/-- The signed offset of an M form (R66), and the 16-bit offset of `LDX`, `STX` and the atomics (R129, R221). -/
def off20 (f : MForm) : Int := toVal true 20 f.offset.toNat
def off16 (f : MForm) : Int := toVal true 16 (fld f.offset 0 16)

/-- The address of an M form: operand A and the offset, exact (R119). -/
def State.ea (s : State) (a : Agent) (f : MForm) (off : Int) : Int := s.base a f.space f.cm.a + off

/-- The address of `LDX` and `STX` (R130). -/
def State.eaIndexed (s : State) (a : Agent) (f : MForm) : Int :=
  let ix := toVal (f.offset.getLsbD 16) 32 (s.opVal a f.cm.b 32)
  s.base a f.space f.cm.a + ix * ((2 ^ fld f.offset 17 3 : Nat) : Int) + off16 f

/-- The place of a checked address; an address of the monitor pair wraps at 64 bits. -/
def State.spot (s : State) (a : Agent) (space : BitVec 2) (ea : Int) : Place := s.placeOf a space.toNat (BitVec.ofInt 64 ea).toNat

/-! ### Loads and stores -/

/-- A load of `n` bytes at an address: checked, then pending (R126). -/
def loadOut (a : Agent) (f : MForm) (ea : Int) (s : State) : LaneOut :=
  let n := sizeBytes f.size
  match s.checkSpace a f.space.toNat ea n false (f.order != 0) with
  | some t => .trap t
  | none => .done (s.post a (s.spot a f.space ea) n f.order f.scope f.cache (.load f.cm.d (tySigned f.size)) .ld)

/-- A store of an operand at an address (R126): the data are read at issue (R117). -/
def storeOut (a : Agent) (f : MForm) (ea : Int) (data : Opnd) (s : State) : LaneOut :=
  let n := sizeBytes f.size
  match s.checkSpace a f.space.toNat ea n true (f.order != 0) with
  | some t => .trap t
  | none =>
    .done (s.post a (s.spot a f.space ea) n f.order f.scope f.cache (.store (leBytes n (s.opVal a data (8 * n)))) .st)

def execLd (f : MForm) (s : State) : Host.Outcome State Fault Refusal :=
  perLane (form (.ld f)) (fun a s => loadOut a f (s.ea a f (off20 f)) s) s
def execSt (f : MForm) (s : State) : Host.Outcome State Fault Refusal :=
  perLane (form (.st f)) (fun a s => storeOut a f (s.ea a f (off20 f)) f.cm.b s) s
def execLda (f : MForm) (s : State) : Host.Outcome State Fault Refusal :=
  perLane (form (.lda f)) (fun a s => loadOut a f (s.ea a f (off20 f)) s) s
def execSta (f : MForm) (s : State) : Host.Outcome State Fault Refusal :=
  perLane (form (.sta f)) (fun a s => storeOut a f (s.ea a f (off20 f)) f.cm.b s) s
def execLdx (f : MForm) (s : State) : Host.Outcome State Fault Refusal :=
  perLane (form (.ldx f)) (fun a s => loadOut a f (s.eaIndexed a f) s) s
def execStx (f : MForm) (s : State) : Host.Outcome State Fault Refusal :=
  perLane (form (.stx f)) (fun a s => storeOut a f (s.eaIndexed a f) f.cm.c s) s
/-- The lead's load, extended to 64 bits when it returns (R185). -/
def execLds (f : MForm) (s : State) : Host.Outcome State Fault Refusal :=
  perLane (form (.lds f)) (fun a s => loadOut a f (s.ea a f (off20 f)) s) s

/-- The checks of a C-store access (R127). -/
def checkCstore (ea : Int) (n : Nat) : Option Trap :=
  if ea % n ≠ 0 then some ⟨.align, 0⟩
  else if ea < 0 ∨ (Config.cstoreBytes : Int) < ea + n then some ⟨.storeBound, 0⟩
  else none

def execLdcs (f : MForm) (s : State) : Host.Outcome State Fault Refusal :=
  perLane (form (.ldcs f)) (fun a s =>
    let ea := s.ea a f (off20 f)
    let n := sizeBytes f.size
    match checkCstore ea n with
    | some t => .trap t
    | none => .done (s.post a (.cstore ea.toNat) n 0 0 0 (.load f.cm.d (tySigned f.size)) .ld)) s

def execStcs (f : MForm) (s : State) : Host.Outcome State Fault Refusal :=
  perLane (form (.stcs f)) (fun a s =>
    let ea := s.ea a f (off20 f)
    let n := sizeBytes f.size
    match checkCstore ea n with
    | some t => .trap t
    | none => .done (s.post a (.cstore ea.toNat) n 0 0 0 (.store (leBytes n (s.opVal a f.cm.b (8 * n)))) .st)) s

/-- `LDGA` (R131). -/
def execLdga (f : MForm) (s : State) : Host.Outcome State Fault Refusal :=
  perLane (form (.ldga f)) (fun a s =>
    let n := sizeBytes f.size
    let ga : Int := (s.opVal a f.cm.a 64 : Nat) + off20 f
    let da := s.opVal a f.cm.b 32
    let ba := s.opVal a f.cm.c 32
    match s.checkGlobal a ga n false true with
    | some t => .trap t
    | none =>
      match s.checkSpace a f.space.toNat da n true false with
      | some t => .trap t
      | none =>
        match s.checkSpace a f.space.toNat ba 16 true false with
        | some t => .trap t
        | none =>
          if da < ba + 16 ∧ ba < da + n then .trap ⟨.barBad, 0⟩
          else
            match s.placeOf a f.space.toNat da, s.placeOf a f.space.toNat ba with
            | .store c w d, .store bc bw b =>
              .done (s.post a (.glob (BitVec.ofInt 64 ga).toNat) n 0 0 f.cache (.ldga c w d bc bw b) .ld)
            | _, _ => .trap ⟨.storeBound, 0⟩) s

/-! ### Cache management (R134, R135) -/

/-- The physical address that a cache form reaches at an address that its checks let through. A walk that meets an invalid entry or a
range without its rights ends the grid, as for an access (R121, R398). -/
def State.cacheAddr (s : State) (a : Agent) (va : Nat) : VolRes Nat :=
  let die := some (dieOf a.core)
  let tlb := (s.core a.core).tlb
  if s.walkDenied die tlb (s.viaOf a) (s.leasesOf a) va 1 then .error ⟨.perm, va⟩
  else
    match s.xlate a.core (s.viaOf a) va false with
    | some pa => .ok pa
    | none => .error ⟨s.missCode die tlb (s.viaOf a) va false, va⟩

/-- What a cache form does at an address that its checks let through; the monitor's untranslated address outside the map does nothing. -/
def State.cacheOut (s : State) (a : Agent) (va : Nat) (act : State → Nat → State) : LaneOut :=
  match s.cacheAddr a va with
  | .ok pa => .done ((act s pa).fillTlb a.core (s.viaOf a) va)
  | .error t => if s.viaOf a = .phys then .done s else s.laneOf a (.error t)

/-- `PREF` of the block of an address (R134): an address that fails a check of R119 is dropped. -/
def State.prefOut (s : State) (a : Agent) (ea : Int) (act : State → Nat → State) : LaneOut :=
  if (s.checkGlobal a ea 1 false false).isSome then .done s
  else s.cacheOut a ((BitVec.ofInt 64 ea).toNat / 128 * 128) (fun s pa => (act s pa).perfEvent a.core 6 (s.vfOf a) 1)

/-- `PREF` (R134): the four sectors of the block enter L1, unless they are poisoned; nothing else changes but the counts (R388). -/
def execPrefL1 (f : MForm) (s : State) : Host.Outcome State Fault Refusal :=
  perLane (form (.prefL1 f)) (fun a s => s.prefOut a (s.ea a f (off20 f))
    (fun s pa => if s.poisoned pa 128 then s else s.l1Fill a.core pa 128 true 0)) s

/-- `PREF.l2` fills the home L2, whose contents are memory's: nothing changes but the count of requests to L2 (R134, R388). -/
def execPrefL2 (f : MForm) (s : State) : Host.Outcome State Fault Refusal :=
  perLane (form (.prefL2 f)) (fun a s => s.prefOut a (s.ea a f (off20 f)) (fun s _ => s)) s

def execCctlIc (f : MForm) (s : State) : Host.Outcome State Fault Refusal :=
  perLane (form (.cctlIc f)) (fun a s => .done (s.modCore a.core (fun k => { k with icache := [] }))) s

/-- `CCTL.dl`: the canonical and top checks of R119 trap, an address outside the leases does nothing (R135). -/
def execCctlDl (f : MForm) (s : State) : Host.Outcome State Fault Refusal :=
  perLane (form (.cctlDl f)) (fun a s =>
    match s.checkGlobal a (s.ea a f (off20 f)) 1 false false with
    | some t => if t.code = .noncanon ∨ t.code = .crossTop then .trap t else .done s
    | none =>
      s.cacheOut a (BitVec.ofInt 64 (s.ea a f (off20 f))).toNat (fun s pa => s.modCore a.core (fun k => k.l1Drop pa 1))) s

def execCctlDa (f : MForm) (s : State) : Host.Outcome State Fault Refusal :=
  perLane (form (.cctlDa f)) (fun a s => .done (s.modCore a.core (fun k => { k with l1 := [] }))) s

/-! ### Operations that end a pending access -/

/-- A pending access of a core that may be performed now. -/
def State.readyOp (s : State) (core op : Nat) : Option Pending :=
  ((s.core core).findOp op).bind (fun p => if (s.core core).opReady p then some p else none)

/-- The accesses that go together with one, in ascending home lane, once all of them may (R223, R232). -/
def State.performSet (s : State) (p : Pending) (name : String) : Host.Outcome State Fault Refusal :=
  let set := (s.core p.agent.core).atomicSet p
  if set.all (s.core p.agent.core).opReady then .next (set.foldl (fun s q => s.perform q) s)
  else .refused (.notEnabled name)

/-- The loads of one issue that share bytes return together (R112); a barrier form that counts in `ld` returns its results
(R245), a step on a block or a text form its value (R352, R366). -/
def execLoadReturn (core op : Nat) (s : State) : Host.Outcome State Fault Refusal :=
  match s.readyOp core op with
  | some p =>
    if p.isLoad then
      let set := (s.core core).loadSet p
      if set.all (s.core core).opReady then .next (s.performLoads set) else .refused (.notEnabled "LOAD_RETURN")
    else if p.isStep || p.isText then .next (s.perform p)
    else if p.isBar && p.ctr == .ld then s.performSet p "LOAD_RETURN"
    else .refused (.notEnabled "LOAD_RETURN")
  | none => .refused (.notEnabled "LOAD_RETURN")

def execStorePerformed (core op : Nat) (s : State) : Host.Outcome State Fault Refusal :=
  match s.readyOp core op with
  | some p =>
    match p.kind with
    | .store bs => .next (s.performStoreStep p bs)
    | .bar _ _ _ _ => if p.ctr == .st then s.performSet p "STORE_PERFORMED" else .refused (.notEnabled "STORE_PERFORMED")
    | _ => .refused (.notEnabled "STORE_PERFORMED")
  | none => .refused (.notEnabled "STORE_PERFORMED")

/-- The atomics of one issue on one location go together, in ascending home lane (R211, R223). -/
def execAtomicAtHome (core op : Nat) (s : State) : Host.Outcome State Fault Refusal :=
  match s.readyOp core op with
  | some p => if p.isAtomic then s.performSet p "ATOMIC_AT_HOME" else .refused (.notEnabled "ATOMIC_AT_HOME")
  | none => .refused (.notEnabled "ATOMIC_AT_HOME")

/-- `LDGA` lanes of one issue that read one global byte obtain it together (R112): each lands in its turn, in one step. -/
def execLdgaLanding (core op : Nat) (s : State) : Host.Outcome State Fault Refusal :=
  match s.readyOp core op with
  | some p =>
    let set := (s.core core).loadSet p
    if p.isLdga && set.all (s.core core).opReady then .next (set.foldl (fun s q => s.perform q) s)
    else .refused (.notEnabled "LDGA_LANDING")
  | none => .refused (.notEnabled "LDGA_LANDING")

end Sys2Proof.Machine
end

