-- ==== Sys2Proof/Machine/Atomics.lean ====
section
/-!
DEFINITION. Atomic and fence instructions (spec/10 R221 to R229).
-/

namespace Sys2Proof.Machine

/-- An atomic at its address: checked with write and ordered set, then pending (R223, R228). -/
def atomicOut (a : Agent) (f : MForm) (n : Nat) (kind : PendKind) (ctr : Ctr) (s : State) : LaneOut :=
  let ea := s.ea a f (off16 f)
  match s.checkSpace a f.space.toNat ea n true true with
  | some t => .trap t
  | none => .done (s.post a (s.spot a f.space ea) n f.order f.scope 0 kind ctr)

/-- Op of `ATOM` and `ATOMA` (R221). -/
def atomOpOf (f : MForm) : Nat := fld f.offset 16 4

def execAtom (f : MForm) (s : State) : Host.Outcome State Fault Refusal :=
  let n := sizeBytes f.size
  perLane (form (.atom f)) (fun a s =>
    atomicOut a f n (.atom f.cm.d (atomOpOf f) f.size.toNat (BitVec.ofNat 64 (s.opVal a f.cm.b (8 * n)))) .ld s) s

def execAtoma (f : MForm) (s : State) : Host.Outcome State Fault Refusal :=
  let n := sizeBytes f.size
  perLane (form (.atoma f)) (fun a s =>
    atomicOut a f n (.atom (.lit 0) (atomOpOf f) f.size.toNat (BitVec.ofNat 64 (s.opVal a f.cm.b (8 * n)))) .st s) s

def execCas (f : MForm) (s : State) : Host.Outcome State Fault Refusal :=
  let n := sizeBytes f.size
  perLane (form (.cas f)) (fun a s =>
    atomicOut a f n (.cas f.cm.d (BitVec.ofNat 64 (s.opVal a f.cm.b (8 * n))) (BitVec.ofNat 64 (s.opVal a f.cm.c (8 * n)))) .ld s) s

/-- `TICKET` (R225): a limit of `zr` is 2^64 - 1. -/
def execTicket (f : MForm) (s : State) : Host.Outcome State Fault Refusal :=
  perLane (form (.ticket f)) (fun a s =>
    let lim := if f.cm.c = .lit 0 then 2 ^ 64 - 1 else s.opVal a f.cm.c 64
    atomicOut a f 8 (.ticket f.cm.d (BitVec.ofNat 32 (s.opVal a f.cm.b 32)) (BitVec.ofNat 64 lim)) .ld s) s

/-- `FENCE` (R226): with release or acquire, everything pending on the core is performed before it ends (log 10); an acquire at
`.team` or wider discards the L1 copies (R215). -/
def execFence (f : MForm) (s : State) : Host.Outcome State Fault Refusal :=
  perLane (form (.fence f)) (fun a s =>
    let s1 := (s.flush a.core).fenceSeen a (isRelease f.order) (isAcquire f.order)
    .done (if f.order = 3 then s1 else s1.acquireAt a.core f.scope.toNat)) s

end Sys2Proof.Machine
end

