-- ==== Sys2Proof/Machine/Tree.lean ====
section
/-!
DEFINITION. The fixed tree of ordered reductions (spec/04 R89) and its ops (spec/08 R171, R178, R179), and values that come
back to a thread or lead wherever it stands.
-/

namespace Sys2Proof.Machine

/-- A value of a node and the flags raised so far. -/
abbrev Node := Nat × FFlags

/-- `op` of R171 on two values of a type, in a rounding mode: the lower position is the left operand. -/
def redOp (op ty round : Nat) (x y : Node) : Node :=
  let w := tyWn ty
  let f := ffmt ty
  let fl := x.2 ||| y.2
  let res : Node :=
    if 8 ≤ ty then
      match op with
      | 0 => fAdd f round false (unpackF f x.1) (unpackF f y.1)
      | 1 => fMinMax f true x.1 y.1
      | _ => fMinMax f false x.1 y.1
    else
      let sg := decide (ty < 4)
      match op with
      | 0 => ((x.1 + y.1) % 2 ^ w, 0)
      | 1 => (if toVal sg w x.1 ≤ toVal sg w y.1 then x.1 else y.1, 0)
      | 2 => (if toVal sg w x.1 ≤ toVal sg w y.1 then y.1 else x.1, 0)
      | 3 => (Nat.land x.1 y.1, 0)
      | 4 => (Nat.lor x.1 y.1, 0)
      | _ => (Nat.xor x.1 y.1, 0)
  (res.1, res.2 ||| fl)

/-- One level of the tree over present positions in rising order: neighbours under one parent combine, a value with no partner
passes up unchanged. -/
def pairUp (op : Node → Node → Node) : List (Nat × Node) → List (Nat × Node)
  | [] => []
  | [(i, x)] => [(i / 2, x)]
  | (i, x) :: (j, y) :: r =>
    if i / 2 = j / 2 then (i / 2, op x y) :: pairUp op r else (i / 2, x) :: pairUp op ((j, y) :: r)

/-- `FixedTree` of R89 over 2^n positions; none where no position is present. -/
def fixedTree (op : Node → Node → Node) : Nat → List (Nat × Node) → Option Node
  | 0, xs => xs.head?.map (·.2)
  | n + 1, xs => fixedTree op n (pairUp op xs)

/-- The identity of an op (R179). -/
def redIdentity (op ty : Nat) : Nat :=
  let w := tyWn ty
  let f := ffmt ty
  if 8 ≤ ty then
    match op with
    | 0 => 0
    | 1 => f.infCode
    | _ => f.signCode true + f.infCode
  else
    match op with
    | 1 => if ty < 4 then 2 ^ (w - 1) - 1 else 2 ^ w - 1
    | 2 => if ty < 4 then 2 ^ (w - 1) else 0
    | 3 => 2 ^ w - 1
    | _ => 0

/-- Log2 of a power of two. -/
def log2N (n : Nat) : Nat := n.log2

/-! ### Values that come back -/

/-- A thread takes a value of `w` bits into D (R59). -/
def Thread.put (t : Thread) (d : Opnd) (w v : Nat) : Thread :=
  match d with
  | .g i => { t with g := gPut t.g i.toNat (wordsOf w) v, ctx := t.ctx.dropBuf d w }
  | _ => t

/-- A lead takes a value into D; the write joins its writes in order (R92). -/
def Lead.put (l : Lead) (d : Opnd) (v : Nat) : Lead :=
  match d with
  | .s i =>
    { l with s := setR l.s i.toNat (BitVec.ofNat 64 v), log := l.log ++ [(i.toNat, BitVec.ofNat 64 v)],
             ctx := l.ctx.dropBuf d 64 }
  | _ => l

/-- Change a saved thread or lead (R389). -/
def Skein.onId (k : Skein) (lin : Nat) (tid : Option Nat) (ft : Thread → Thread) (fl : Lead → Lead) : Skein :=
  match tid with
  | none => { k with wgs := k.wgs.map (fun w => if w.lin = lin then { w with lead := w.lead.map fl } else w) }
  | some t =>
    { k with threads := k.threads.map (fun x =>
        match k.wgs[x.member]? with
        | some w => if w.lin = lin ∧ x.thread.tid = t then { x with thread := ft x.thread } else x
        | none => x) }

/-- Change the lead of a place. What it writes of its `s` registers empties the buffers of its threads that retain them (R62). -/
def Core.onLead (k : Core) (p : Nat) (fl : Lead → Lead) : Core :=
  let k1 := k.modLead p fl
  match (k.wg p).bind (·.lead), (k1.wg p).bind (·.lead) with
  | some l0, some l1 => (l1.log.drop l0.log.length).foldl (fun k w => k.dropS p w.1) k1
  | _, _ => k1

/-- Change a thread or lead by its name, on its core or in its skein. -/
def State.onId (s : State) (id : AgentId) (ft : Thread → Thread) (fl : Lead → Lead) : State :=
  match s.locate id with
  | some a =>
    match a.who with
    | .thread n => s.modCore a.core (fun k => k.modThread n ft)
    | .lead p => s.modCore a.core (fun k => k.onLead p fl)
  | none =>
    match id with
    | .lead g l => s.modGrid g (fun x => { x with skeins := x.skeins.map (fun k => (k.1, k.2.onId l none ft fl)) })
    | .thread g l t => s.modGrid g (fun x => { x with skeins := x.skeins.map (fun k => (k.1, k.2.onId l (some t) ft fl)) })
    | _ => s

/-- The context of a thread or lead by its name, on its core or in its skein. -/
def State.ctxOf (s : State) (id : AgentId) : Ctx :=
  match s.locate id with
  | some a => s.ctx a
  | none =>
    match id with
    | .lead g l =>
      ((s.grid g).bind (fun x => x.skeins.findSome? (fun k =>
        (k.2.wgs.find? (fun w => w.lin == l)).bind (fun w => w.lead.map (·.ctx))))).getD {}
    | .thread g l t =>
      ((s.grid g).bind (fun x => x.skeins.findSome? (fun k =>
        (k.2.threads.find? (fun h => h.thread.tid == t && ((k.2.wgs[h.member]?).map (·.lin)) == some l)).map
          (fun h => h.thread.ctx)))).getD {}
    | _ => {}

/-- Change a context by its agent's name. -/
def State.onCtx (s : State) (id : AgentId) (f : Ctx → Ctx) : State :=
  s.onId id (fun t => { t with ctx := f t.ctx }) (fun l => { l with ctx := f l.ctx })

end Sys2Proof.Machine
end

