-- ==== Sys2Proof/Machine/Circles.lean ====
section
/-!
DEFINITION. Circles (spec/11 R246 to R258): handles, arrivals, the boundary of a phase with its joins, leaves and results, and
departures.
-/

namespace Sys2Proof.Machine

/-- The VF whose circles an agent reaches; none is the module's own space, which only supervisor threads reach (R246). The monitor
pair, which has no VF, has a space apart, numbered 64 (DEDUCED, log 27). -/
def State.circleVf (s : State) (a : Agent) : Option Nat := if s.level a = .m then some 64 else s.vfOf a

def handleIx (h : Word) : Nat := h.toNat % 4096
def handleGen (h : Word) : Nat := h.toNat / 4096

/-- The handle of a circle at an index. -/
def Circle.handle (c : Circle) (ix : Nat) : Word := BitVec.ofNat 32 (c.gen * 4096 + ix)

/-- The live circle that a handle names for an agent (R246). -/
def State.circleOf (s : State) (a : Agent) (h : Word) : Option Circle :=
  match lookupN (s.part (s.partOf a)).circles (handleIx h) with
  | some c => if c.gen = handleGen h ∧ c.vf = s.circleVf a then some c else none
  | none => none

/-- The index is live in another VF (R252). -/
def State.foreignCircle (s : State) (a : Agent) (h : Word) : Bool :=
  match lookupN (s.part (s.partOf a)).circles (handleIx h) with
  | some c => c.vf != s.circleVf a
  | none => false

/-- The next generation of an index: it skips 0 when it wraps (R246). -/
def nextGen (g : Nat) : Nat := if g + 1 ≤ 0xFFFFF then g + 1 else 1

/-- Free a circle: its index takes the next generation (R247, R253). -/
def Part.freeCircle (p : Part) (ix : Nat) : Part :=
  match lookupN p.circles ix with
  | some c => { p with circles := delN p.circles ix, gens := putN p.gens ix (nextGen c.gen) }
  | none => p

def Circle.member (c : Circle) (id : AgentId) : Option Member := c.members.find? (fun m => m.id == id)

/-- In how many circles an agent is a member or a pending joiner (R247). -/
def Part.belongs (p : Part) (id : AgentId) : Nat := (p.circles.filter (fun c => (c.2.member id).isSome)).length

def arrived (l : List (AgentId × ArriveKind)) (id : AgentId) : Bool := l.any (fun x => x.1 == id)

/-- Where an arrival of a member goes: the current phase, the next, or nowhere yet (R248). -/
inductive Slot where
  | now
  | next
  | held
deriving DecidableEq, Repr

/-- The slot of a member's arrival. A member that has issued `CLEAVE` and arrives again before the boundary is counted in no later
phase: it is held until the boundary, after which its arrival is that of a stranger (DESIGN CHOICE, log 66). -/
def Circle.slotFor (c : Circle) (m : Member) : Slot :=
  if m.counted && !arrived c.now m.id then .now
  else if m.leaving || m.departed then .held
  else if !arrived c.next m.id then .next
  else .held

/-- The phase number of a slot. -/
def Circle.phaseOf (c : Circle) : Slot → BitVec 16
  | .now => c.phase
  | _ => c.phase + 1

/-- A phase is mixed: its arrivals by `CBAR`, `CVOTE` and `CRED` do not share one form, mode, op, type and round (R258). -/
def sameKind : ArriveKind → ArriveKind → Bool
  | .bar, .bar => true
  | .vote m _, .vote n _ => m == n
  | .red o t r _, .red p u q _ => o == p && t == u && r == q
  | _, _ => false

def loud (l : List (AgentId × ArriveKind)) : List ArriveKind :=
  (l.map (·.2)).filter (fun k => k != .quiet)

def mixedPhase (l : List (AgentId × ArriveKind)) : Bool :=
  match loud l with
  | [] => false
  | k :: ks => !ks.all (sameKind k)

/-- The status of `CBAR` (R256). -/
def barStatus (phase : BitVec 16) (fault mixed : Bool) : Nat := phase.toNat + fault.toNat * 2 ^ 16 + mixed.toNat * 2 ^ 17

/-- The result of a vote over the present votes (R257). -/
def voteResult (mode : Nat) (vs : List Bool) : Bool :=
  match mode with
  | 0 => vs.all id
  | 1 => vs.any id
  | _ => vs.all id || vs.all (!·)

/-- The rank of a member. -/
def Circle.rankOf (c : Circle) (id : AgentId) : Nat := ((c.member id).map (·.rank)).getD 0

/-- Result and flags of a `CRED` phase (R257). -/
def Circle.redResult (c : Circle) (op : Nat) (ty : BitVec 4) (round : BitVec 2) : Node :=
  let vals := c.now.filterMap (fun x =>
    match x.2 with
    | .red _ _ _ v => some (c.rankOf x.1, (v.toNat, (0 : FFlags)))
    | _ => none)
  (fixedTree (redOp op ty.toNat round.toNat) 16 (sortBy (·.1) vals)).getD (redIdentity op ty.toNat, 0)

/-- What the completion of the current phase gives to one that waits in it (R256 to R258). -/
def State.deliver (s : State) (ix : Nat) (c : Circle) (id : AgentId) (k : ArriveKind) : State :=
  match (s.ctxOf id).wait with
  | .circle h ph _ d p =>
    if handleIx h = ix ∧ handleGen h = c.gen ∧ ph = c.phase then
      let mixed := mixedPhase c.now
      let clean := !c.fault && !mixed
      let go (x : Ctx) (v : Bool) : Ctx := { (x.writeP p v).advance with wait := .run }
      match k with
      | .bar =>
        let st := barStatus c.phase c.fault mixed
        s.onId id (fun t => { t.put d 32 st with ctx := go (t.put d 32 st).ctx true })
          (fun l => { l.put d st with ctx := go (l.put d st).ctx true })
      | .vote mode _ =>
        let vs := c.now.filterMap (fun x =>
          match x.2 with
          | .vote _ v => some v
          | _ => none)
        let r := !mixed && voteResult mode vs
        s.onCtx id (fun x => go (x.writeP d.num r) clean)
      | .red op ty round _ =>
        let (v, fl) := if mixed then (0, 0) else c.redResult op ty round
        let w := tyW ty
        let put (x : Ctx) : Ctx := go { x with fstat := x.fstat ||| fl } clean
        s.onId id (fun t => { t.put d (max 32 w) v with ctx := put (t.put d (max 32 w) v).ctx })
          (fun l =>
            let v := if tySigned ty then toBits 64 (toVal true w v) else v
            { l.put d v with ctx := put (l.put d v).ctx })
      | .quiet => s
    else s
  | _ => s

/-- The completion of a phase is an acquire at `.part` for those that arrived in it (R215, R216, R219). -/
def State.circleAcquire (s : State) (p ix : Nat) (c : Circle) : State :=
  c.now.foldl (fun s x => match s.locate x.1 with
    | some a => s.acquire a 3 (some (.circle p ix c.gen c.phase.toNat))
    | none => s) s

/-- Every counted member has arrived in the current phase (R248). -/
def Circle.phaseDone (c : Circle) : Bool := c.members.all (fun m => !m.counted || arrived c.now m.id)

/-- The boundary (R248): leavers and departed members go, joiners are counted, the next phase is the current one. -/
def Circle.boundary (c : Circle) : Circle :=
  let ms := (c.members.filter (fun m => !(m.counted && (m.leaving || m.departed)))).map (fun m => { m with counted := true })
  { c with phase := c.phase + 1, members := ms, now := c.next.filter (fun x => ms.any (fun m => m.id == x.1)), next := [] }

/-- Complete the phases of a circle that are done; free the circle when its last member has departed (R247, R248). -/
def State.turnCircle (p ix : Nat) : Nat → State → State
  | 0, s => s
  | n + 1, s =>
    match lookupN (s.part p).circles ix with
    | none => s
    | some c =>
      if c.members.isEmpty then s.modPart p (fun k => k.freeCircle ix)
      else if c.phaseDone then
        let s1 := (c.now.foldl (fun s x => s.deliver ix c x.1 x.2) s).circleAcquire p ix c
        let c' := c.boundary
        let s2 := s1.modPart p (fun k => { k with circles := putN k.circles ix c' })
        State.turnCircle p ix n s2
      else s

def State.setCircle (s : State) (p ix : Nat) (c : Circle) : State :=
  State.turnCircle p ix 4 (s.modPart p (fun k => { k with circles := putN k.circles ix c }))

/-- Record an arrival in its slot. -/
def Circle.record (c : Circle) (id : AgentId) (sl : Slot) (k : ArriveKind) : Circle :=
  match sl with
  | .now => { c with now := c.now ++ [(id, k)] }
  | .next => { c with next := c.next ++ [(id, k)] }
  | .held => c

/-- One member departs; one that has departed or issued `CLEAVE` already is on its way out and does not depart again (R249;
DEDUCED, log 27). -/
def Circle.depart (c : Circle) (id : AgentId) (fault : Bool) : Circle :=
  match c.member id with
  | none => c
  | some m =>
    if m.departed || m.leaving then c
    else if !m.counted then
      { c with members := c.members.filter (fun x => x.id != id), next := c.next.filter (fun x => x.1 != id) }
    else
      let c := { c with fault := c.fault || fault }
      let c := if arrived c.now id then c else { c with now := c.now ++ [(id, .quiet)] }
      { c with members := c.members.map (fun x => if x.id == id then { x with departed := true } else x) }

/-- The departure of a member that counts in a phase is a release of what it has performed (R250). One that is not on a core, whose
team is saved, has nothing left that a matrix operation may read. -/
def State.departSeen (s : State) (p ix : Nat) (c : Circle) (id : AgentId) : State :=
  match c.member id, s.locate id with
  | some m, some a =>
    if m.counted && !m.departed && !m.leaving then s.publish a (some (.circle p ix c.gen c.phase.toNat)) 3 else s
  | _, _ => s

/-- An agent departs every circle of a partition that it belongs to (R249, R250). -/
def State.departAll (s : State) (p : Nat) (id : AgentId) (fault : Bool) : State :=
  (s.part p).circles.foldl (fun s c =>
    if (c.2.member id).isSome then
      match lookupN (s.part p).circles c.1 with
      | some now => (s.departSeen p c.1 now id).setCircle p c.1 (now.depart id fault)
      | none => s
    else s) s

/-- A circle form names a circle in whose current and next phases its issuer has arrived, so that it is held (R248). -/
def State.circleHeld (s : State) (a : Agent) (h : Word) : Bool :=
  match s.circleOf a h with
  | some c =>
    match c.member (s.idOf a) with
    | some m => c.slotFor m == .held
    | none => false
  | none => false

end Sys2Proof.Machine
end

