-- ==== Sys2Proof/Machine/Descriptors.lean ====
section
/-!
DEFINITION. Volume descriptors (spec/14 R260 to R262), the tile and element of coordinates, how a volume form names them (R271), and
the search of the look-aside buffer (R269).
-/

namespace Sys2Proof.Machine

/-! ### Descriptors (R260 to R262) -/

/-- A volume descriptor (R260). -/
structure VolDesc where
  pool : Nat
  tiles : Nat
  rank : Nat
  elemLog : Nat
  append : Bool
  budget : Nat
  levels : Nat
  /-- extents, and tile exponents, of the dimensions below the rank -/
  ext : List Nat
  tile : List Nat
  background : Nat
deriving DecidableEq, Repr

def VolDesc.ofBytes (d : List Byte) : VolDesc :=
  let shape := leAt d 0x0C 1
  let rank := shape % 8
  { pool := leAt d 0 8, tiles := leAt d 8 4, rank := rank, elemLog := shape / 8 % 4, append := shape / 32 % 2 == 1,
    budget := leAt d 0x0D 1, levels := leAt d 0x0E 1 % 8,
    ext := (List.range rank).map (fun i => leAt d (0x10 + 4 * i) 4 + 1),
    tile := (List.range rank).map (fun i => leAt d (0x20 + i) 1), background := leAt d 0x28 8 }

/-- Bytes of an element. -/
def VolDesc.elem (d : VolDesc) : Nat := 2 ^ d.elemLog

/-- ⌈a / b⌉ -/
def ceilDiv (a b : Nat) : Nat := (a + b - 1) / b

/-- ⌈log2 n⌉ -/
def clog2 (n : Nat) : Nat := if n ≤ 1 then 0 else (n - 1).log2 + 1

/-- Tiles in each dimension (R262). -/
def VolDesc.counts (d : VolDesc) : List Nat := (d.ext.zip d.tile).map (fun p => ceilDiv p.1 (2 ^ p.2))
/-- The tile count `T`. -/
def VolDesc.total (d : VolDesc) : Nat := d.counts.foldl (· * ·) 1

/-- A bound descriptor is accepted (R261). -/
def volAccepted (b : List Byte) : Bool :=
  let d := VolDesc.ofBytes b
  zeroAt b 0x0F 1 && zeroAt b 0x24 4 && zeroAt b 0x30 16 && leAt b 0x0C 1 / 64 == 0 && leAt b 0x0E 1 / 8 == 0
  && decide (d.pool % 4096 = 0 ∧ d.pool < 2 ^ 64 ∧ 1 ≤ d.tiles ∧ 1 ≤ d.rank ∧ d.rank ≤ 4)
  && canon (BitVec.ofNat 64 d.pool)
  && (List.range 4).all (fun i => decide (i < d.rank) || (zeroAt b (0x10 + 4 * i) 4 && zeroAt b (0x20 + i) 1))
  && decide (d.tile.foldl (· + ·) 0 + d.elemLog = 12)
  && (d.ext.zip d.tile).all (fun p => decide (p.2 ≤ clog2 p.1))
  && decide (d.levels = max 1 (ceilDiv (clog2 d.total) 6) ∧ d.total ≤ 2 ^ 36)

/-- Mixed-radix index of digits, the first fastest (R262 `L`). -/
def mixed : List (Nat × Nat) → Nat
  | [] => 0
  | (x, n) :: r => x + n * mixed r

/-- The tile of coordinates. -/
def VolDesc.tileOf (d : VolDesc) (c : List Nat) : Nat :=
  mixed (((c.zip d.tile).map (fun p => p.1 / 2 ^ p.2)).zip d.counts)

/-- The element of a tile. -/
def VolDesc.elemOf (d : VolDesc) (c : List Nat) : Nat :=
  mixed ((c.zip d.tile).map (fun p => (p.1 % 2 ^ p.2, 2 ^ p.2)))

/-- `path[k]` of a tile. -/
def VolDesc.path (d : VolDesc) (tile k : Nat) : Nat := tile / 2 ^ (6 * (d.levels - 1 - k)) % 64

/-! ### The look-aside buffer (R269) -/

/-- A volume as its accesses name it: VF, descriptor address. -/
structure VolName where
  vf : Nat
  desc : Nat
deriving DecidableEq, Repr

def ClbEntry.is (e : ClbEntry) (v : VolName) (tile : Nat) : Bool := e.vf == v.vf && e.desc == v.desc && e.tile == tile

def Core.clbFind (k : Core) (v : VolName) (tile : Nat) : Option Nat := (k.clb.find? (fun e => e.is v tile)).map (·.leaf)

/-! ### What a volume form names -/

/-- The descriptor that a volume form names, and its address (R68, R261). -/
def State.volDesc (s : State) (a : Agent) (f : XForm) : VolDesc :=
  VolDesc.ofBytes ((lookupN (((s.gridOf a).map (·.vols)).getD []) f.rslot.toNat).getD [])
def State.volName (s : State) (a : Agent) (f : XForm) : VolName :=
  { vf := (s.vfOf a).getD 0, desc := (lookupN (s.launchOf a).volAddr f.rslot.toNat).getD 0 }

/-- The words of a thread's operand. -/
def State.coordWords (s : State) (a : Agent) (o : Opnd) (n : Nat) : List Nat :=
  let v := s.opVal a o (rankBits n)
  (List.range n).map (fun i => v / 2 ^ (32 * i) % 2 ^ 32)

/-- The coordinates of a volume form. -/
def State.volCoords (s : State) (a : Agent) (f : XForm) (d : VolDesc) : List Nat := s.coordWords a f.cm.a d.rank

/-- Steps 1 and 2 of R273. -/
def VolDesc.check (d : VolDesc) (c : List Nat) (appendOk : Bool) : Option Trap :=
  if d.append && !appendOk then some ⟨.perm, 0⟩
  else if (c.zip d.ext).all (fun p => decide (p.1 < p.2)) then none
  else some ⟨.volRank, 0⟩

end Sys2Proof.Machine
end

