-- ==== Sys2Proof/Machine/Fetch.lean ====
section
/-!
DEFINITION. Instruction fetch and issue (spec/03 R50 to R56, R71, spec/08 R158 to R165, R172, spec/21 R370, R387): the line
of an agent, the checks of a fetch, which threads and leads are ready, and the bundle that issues.
-/

namespace Sys2Proof.Machine

/-! ### Lines -/

/-- Instruction of a slot, and the line word (R51). -/
def slotWord (l : Line) (k : Nat) : IWord := l.extractLsb' (96 * k) 96
def lineWord (l : Line) : Word := l.extractLsb' 480 32

def lineOfBytes (bs : List Byte) : Line := BitVec.ofNat 512 (leNat bs)

/-- The number of ones in the `n` lowest bits. -/
def onesN (v : Nat) : Nat → Nat
  | 0 => 0
  | n + 1 => v / 2 ^ n % 2 + onesN v n

/-- The six parity bits of a line are right (R51, R52). -/
def parityOk (l : Line) : Bool :=
  decide (onesN (lineWord l).toNat 32 % 2 = 0)
  && (List.range 5).all (fun k => (onesN (slotWord l k).toNat 96 + ((lineWord l).getLsbD (9 + k)).toNat) % 2 == 0)

/-- The pairing template permits slots `k` and `k + 1` (R51, R55). -/
def templateBit (l : Line) (k : Nat) : Bool := decide (k < 4) && (lineWord l).getLsbD (5 + k)

/-! ### The fetch of an agent -/

/-- The tables of a fetch: the VF's at T, the operating system's at S, none at M (R17, R372). -/
def State.fetchVia (s : State) (a : Agent) : Via :=
  match s.level a with
  | .m => .phys
  | .s => .os
  | .t => .vf (s.partOf a) ((s.vfOf a).getD 0)

/-- Physical address of the line at the agent's PC. -/
def State.linePa (s : State) (a : Agent) : Option Nat :=
  s.xlate a.core (s.fetchVia a) (lineOf (s.ctx a).pc).toNat false

/-- The text of a task agent's kernel holds its line (R54). -/
def State.inText (s : State) (a : Agent) : Bool :=
  let l := s.launchOf a
  let x := (lineOf (s.ctx a).pc).toNat
  decide (l.text ≤ x ∧ x + 64 ≤ l.text + l.textLen)

/-- The text of the supervisor image holds a supervisor thread's line (R372). -/
def State.inSupText (s : State) (a : Agent) : Bool :=
  let x := (lineOf (s.ctx a).pc).toNat
  decide (s.supText.1 ≤ x ∧ x + 64 ≤ s.supText.1 + s.supText.2)

/-- What an agent's fetch meets before it has the line (R50, R54, R398; DEDUCED, log 53). -/
def State.fetchTrap (s : State) (a : Agent) : Option Trap :=
  let c := s.ctx a
  let va := c.pc.toNat
  if c.pcOver || !canon c.pc then some ⟨.noncanon, va⟩
  else if c.pc.extractLsb' 3 3 != 0 ∨ 4 < slotOf c.pc then some ⟨.illPc, 0⟩
  else if s.level a = .t ∧ !s.inText a then some ⟨.lease, va⟩
  else if s.level a = .s ∧ !s.inSupText a then some ⟨.perm, va⟩
  else if s.walkDenied (some (dieOf a.core)) (s.core a.core).tlb (s.fetchVia a) (s.leasesOf a) (lineOf c.pc).toNat 64 then
    some ⟨.perm, va⟩
  else if (s.linePa a).isNone then some ⟨s.missCode (some (dieOf a.core)) (s.core a.core).tlb (s.fetchVia a) (lineOf c.pc).toNat false, va⟩
  else none

/-- The line in the instruction cache, whether its check has failed. -/
def State.cachedLine (s : State) (a : Agent) : Option ICLine :=
  (s.linePa a).bind (fun pa => lookupN (s.core a.core).icache pa)

/-- What the line word makes of an issue at the agent's PC (R53, R54). -/
def State.lineTrap (s : State) (a : Agent) (l : Line) : Option TrapCode :=
  let w := lineWord l
  let c := s.ctx a
  if w.extractLsb' 16 16 != 0 then some .illEnc
  else if w.getLsbD 15 && w.extractLsb' 5 4 != 0 then some .illEnc
  else if w.getLsbD 15 != a.isLead then some .illPc
  else if c.byBranch && !w.getLsbD (slotOf c.pc) then some .illPc
  else none

/-- How the fetch of an agent ends. -/
inductive Fetched where
  /-- the line is not in the instruction cache, or awaits its second check -/
  | absent
  | trap (t : Trap)
  | word (w : IWord)
deriving DecidableEq, Repr

/-- The instruction word at an agent's PC (R71 step 1). -/
def State.fetch (s : State) (a : Agent) : Fetched :=
  match s.fetchTrap a with
  | some t => .trap t
  | none =>
    match s.cachedLine a with
    | none => .absent
    | some l =>
      if l.failed then .absent
      else
        match s.lineTrap a l.data with
        | some t => .trap ⟨t, 0⟩
        | none => .word (slotWord l.data (slotOf (s.ctx a).pc))

/-- The instruction at an agent's PC and its form, where the fetch gives one that decodes and passes the issue checks. -/
def State.upcoming (s : State) (a : Agent) : Option (Instr × Form) :=
  match s.fetch a with
  | .word w =>
    match decode w with
    | .ok i =>
      match form i with
      | some f => if s.issueOk a f then some (i, f) else none
      | none => none
    | .error _ => none
  | _ => none

/-! ### Interlocks (R93, R117) -/

/-- The registers that a pending access of the agent will write (R117). A barrier form writes 32 bits (R245), a step or a text form
64 (R340, R365). -/
def Pending.span (p : Pending) : List Span :=
  match p.kind.dst with
  | .g i => [⟨false, i.toNat, if p.isBar then 1 else if p.isStep || p.isText then 2 else wordsOf (max 32 (8 * p.n))⟩]
  | .s i => [⟨true, i.toNat, 1⟩]
  | _ => []

/-- Predicate and handle fields that a form writes or reads. -/
def Role.bits (dst : Bool) : Role → Opnd → List (Bool × Nat)
  | .predDst, o => if dst then [(true, o.num)] else []
  | .predSrc, o => if dst then [] else [(true, o.num)]
  | .handleDst, o => [(false, o.num)]
  | .handleSrc, o => if dst then [] else [(false, o.num)]
  | _, _ => []

/-- The predicates (`true`) and handles that a form reads: its guard, its second predicate (R64) and its operand fields. -/
def Form.bitReads (f : Form) : List (Bool × Nat) :=
  (true, f.cm.guard.toNat % 8) :: f.p2.toList.map (true, ·)
    ++ f.d.bits false f.cm.d ++ f.a.bits false f.cm.a ++ f.b.bits false f.cm.b ++ f.c.bits false f.cm.c

/-- The predicates and handles that a form writes; what it writes to `pt` is discarded (R7). -/
def Form.bitWrites (f : Form) : List (Bool × Nat) :=
  (f.d.bits true f.cm.d ++ f.c.bits true f.cm.c).filter (fun x => x != (true, 7))

/-- No register of the form is a pending destination, and no predicate a pending result (R117, R245). -/
def State.interlockFree (s : State) (a : Agent) (f : Form) : Bool :=
  let sp := (s.issueEnv a).spans f
  !(s.core a.core).pend.any (fun p => p.agent == a && (p.span.any (fun x => sp.any x.meets)
    || (p.kind.pred != 7 && (f.bitReads ++ f.bitWrites).contains (true, p.kind.pred))))

/-- Copy commands that an agent has handed to the engine and that the engine has not accepted yet (R283). -/
def State.handed (s : State) (a : Agent) : Nat :=
  ((s.core a.core).copies.filter (fun c => c.agent == a && !c.accepted)).length

/-- The counter of the form's class stands below 63 (R116), with the commands that will count in `cp` (R299). -/
def State.counterFree (s : State) (a : Agent) (f : Form) : Bool :=
  match f.cls with
  | some k => decide ((s.ctx a).count k + (if k = .cp then s.handed a else 0) < 63)
  | none => true

/-! ### Ready threads and leads -/

/-- The instruction arrives on a circle in which its issuer must wait for the current phase to end (R248). -/
def State.heldAtCircle (s : State) (a : Agent) (i : Instr) : Bool :=
  let held (cm : Common) : Bool := s.guardTrue a cm.guard && s.circleHeld a (s.readH a cm.a.num)
  match i with
  | .cbar f => held f.cm
  | .cvote f => held f.cm
  | .cred f => held f.cm
  | _ => false

/-- The condition of an `OWAIT` holds (R300): function bits hold the counts of `ld`, `st`, `cp`, `mx`; 15 is not tested. -/
def Ctx.owaitMet (c : Ctx) (func : BitVec 17) : Bool :=
  let ok (lo n : Nat) : Bool := decide (fld func lo 4 = 15 ∨ n ≤ fld func lo 4)
  ok 12 c.ld && ok 8 c.st && ok 4 c.cp && ok 0 c.mx

/-- An `OWAIT` whose condition does not hold keeps its thread or lead from being ready (R300). One that names `cp` waits until the
engine has accepted what was handed to it, so that it counts (R299). -/
def State.heldAtOwait (s : State) (a : Agent) (i : Instr) : Bool :=
  match i with
  | .owait f => s.guardTrue a f.cm.guard && (!(s.ctx a).owaitMet f.func || (fld f.func 4 4 != 15 && s.handed a != 0))
  | _ => false

/-- While the engine's queue is full, a lane stays at its copy and is not ready (R283). -/
def State.heldAtCopy (s : State) (a : Agent) (i : Instr) : Bool :=
  let held (cm : Common) : Bool := s.guardTrue a cm.guard && decide (Config.copyQueue ≤ (s.core a.core).copies.length)
  match i with
  | .cpy f => held f.cm
  | .cpym f => held f.cm
  | .cpys f => held f.cm
  | .cpyr f => held f.cm
  | _ => false

/-- An instruction that would issue an operation to a full sequencer keeps its issuer from being ready (R326). -/
def State.heldAtSequencer (s : State) (a : Agent) (i : Instr) : Bool :=
  let full := decide (Config.seqOps ≤ (s.core a.core).mxOps.length)
  let one (cm : Common) : Bool := s.guardTrue a cm.guard && full
  let last (f : XForm) : Bool :=
    match (s.wg? a).bind (fun w => lookupN w.cvs f.cv.toNat) with
    | some r => s.guardTrue a f.cm.guard && full && r.signed + 1 == r.count
    | none => false
  match i with
  | .mzero f => one f.cm
  | .mdrain f => one f.cm
  | .mdrainAdd f => one f.cm
  | .mdrainAddOrd f => one f.cm
  | .qdual f => one f.cm
  | .qscan f => one f.cm
  | .mma f => last f
  | .mmas f => last f
  | _ => false

/-- The die that homes the order word of an ordered drain (R321). -/
def State.drainDie (s : State) (core : Nat) (o : MxOp) : Option Nat :=
  match o.kind with
  | .drain 2 _ _ _ order => (s.xlate core o.via order true).map homeDie
  | _ => none

/-- Ordered drains that wait at the homes of a die (R321). -/
def State.drainsAt (s : State) (die : Nat) : Nat :=
  (s.cores.flatMap (fun k => k.2.mxOps.filter (fun o =>
    (match o.state with
      | .atWord _ => true
      | _ => false) && s.drainDie k.1 o == some die))).length

/-- The issuer of an ordered drain that its sequencer holds, because 64 already wait at the die, is not ready (R321). -/
def State.heldByDrain (s : State) (a : Agent) : Bool :=
  (s.core a.core).mxOps.any (fun o => o.agent == s.idOf a && o.state == .waiting &&
    (match s.drainDie a.core o with
      | some d => decide (Config.waitingDrains ≤ s.drainsAt d)
      | none => false))

/-- A volume form that looks its tile up in the look-aside buffer finds it there, so that its access is a per-lane access (R268, R269). -/
def State.volHit (s : State) (a : Agent) (f : XForm) : Bool :=
  let d := s.volDesc a f
  ((s.core a.core).clbFind (s.volName a f) (d.tileOf (s.volCoords a f d))).isSome

/-- An instruction that reads or writes memory in the step that issues it: a walk, an allocation or a compact leaf of a volume (R268),
the check of a vocabulary image (R361). -/
def State.actsAtIssue (s : State) (a : Agent) (i : Instr) : Bool :=
  match i with
  | .vld f => !s.volHit a f
  | .vst f => !s.volHit a f
  | .vred f => !s.volHit a f
  | .vprobe _ => true
  | .vtouch _ => true
  | .vfree _ => true
  | .vfreeAll _ => true
  | .vpool _ => true
  | .vocload _ => true
  | _ => false

/-- A `TXEMIT` of a VF is on its way. -/
def State.emitting (s : State) (part vf : Nat) : Bool :=
  s.cores.any (fun k => k.2.pend.any (fun p => p.via == .vf part vf && (match p.kind with
    | .text (.emit _) _ => true
    | _ => false)))

/-- An instruction that acts in the step that issues it waits until its agent's earlier accesses of the global space, and its earlier
acquires, have been performed (R118, R208, R209; DESIGN CHOICE, log 90); a `VOCLOAD`, until no `TXEMIT` of its VF uses the old binding
(R361). -/
def State.heldAtHome (s : State) (a : Agent) (i : Instr) : Bool :=
  (s.core a.core).pend.any (fun p => p.agent == a && (isAcquire p.order || (match p.place with
    | .glob _ => true
    | _ => false))) && s.actsAtIssue a i
  || (match i, s.viaOf a with
    | .vocload _, .vf p v => s.emitting p v
    | _, _ => false)

/-- The team of an agent is to stop: for groups once they are reconverged, for a lead at once (R389). -/
def State.stopping (s : State) (a : Agent) : Option Placed :=
  match s.gridOf a, s.wg? a with
  | some g, some w =>
    match lookupN g.placed (w.lin / g.launch.team) with
    | some p => if p.stopping.isSome then some p else none
    | none => none
  | _, _ => none

/-- The non-exited threads of an agent's group (R158, R172); the octet at S (R370). -/
def State.groupMates (s : State) (a : Agent) : List Agent :=
  let k := s.core a.core
  let lv := s.level a
  let mates := k.threads.filter (fun t => t.2.level == lv && t.2.ctx.wait != .exited &&
    (lv != .t || (t.2.wg == s.place a && t.2.tid / s.groupW a == s.groupOf a)))
  mates.map (fun t => { core := a.core, who := .thread t.1 })

/-- A group is reconverged: its non-exited threads hold equal PCs (R165). -/
def State.reconverged (s : State) (a : Agent) : Bool := (s.groupMates a).all (fun b => (s.ctx b).pc == (s.ctx a).pc)

/-- The cores of a die that a monitor mismatch holds issue nothing, nor does any core once the operating system has
panicked (R408, R409). -/
def State.mayIssue (s : State) (a : Agent) : Bool :=
  (decide (640 ≤ a.core) || !(s.die (dieOf a.core)).held) && !s.panicked
  && (match s.stopping a with
      | none => true
      | some p => !p.forced && !a.isLead && !s.reconverged a)

/-- Nothing that the instruction needs keeps its issuer from being ready: registers and counters (R116, R117), accesses before an
instruction that acts as it issues (R209), a phase, a count, a copy engine, a sequencer, a drain. -/
def State.operandsFree (s : State) (a : Agent) (i : Instr) (f : Form) : Bool :=
  s.interlockFree a f && s.counterFree a f && !s.heldAtHome a i && !s.heldAtCircle a i && !s.heldAtOwait a i
  && !s.heldAtCopy a i && !s.heldAtSequencer a i && !s.heldByDrain a

/-- Ready but for what a collective waits for (R160): running, its line there, no interlock, its counter below 63. -/
def State.issuable (s : State) (a : Agent) : Bool :=
  (s.ctx a).wait == .run && s.mayIssue a
  && (match s.fetch a with
      | .absent => false
      | .trap _ => true
      | .word _ =>
        match s.upcoming a with
        | none => true
        | some (i, f) => s.operandsFree a i f)

/-- Is the next instruction of an agent a group collective? -/
def State.atCollective (s : State) (a : Agent) : Bool :=
  match s.upcoming a with
  | some (_, f) => f.coll
  | none => false

/-- Every non-exited thread of the group holds the PC, has the collective there and is issuable: one whose own fetch traps at that
PC does not stand at the collective (R172, R173). While one of them is interlocked, the spec does not say whether its mates are ready and
age: the whole group is not ready (DESIGN CHOICE, log 82). -/
def State.gathered (s : State) (a : Agent) : Bool :=
  (s.groupMates a).all (fun b => (s.ctx b).pc == (s.ctx a).pc && (s.ctx b).wait == .run && s.atCollective b && s.issuable b)

/-- READY (R160). -/
def State.ready (s : State) (a : Agent) : Bool := s.issuable a && (!s.atCollective a || s.gathered a)

def Core.threadAgents (k : Core) (c : Nat) : List Agent := k.threads.map (fun t => { core := c, who := .thread t.1 })
def Core.leadAgents (k : Core) (c : Nat) : List Agent :=
  k.wgs.filterMap (fun w => w.2.lead.map (fun _ => { core := c, who := .lead w.1 }))

/-- The threads and leads of the whole module. -/
def State.agents (s : State) : List Agent := s.cores.flatMap (fun k => k.2.threadAgents k.1 ++ k.2.leadAgents k.1)

/-- A thread is held at a collective: it has reached it, and not every non-exited thread of its group holds that PC (R172). One that is
held stays so while its line is away. -/
def State.heldAtCollective (s : State) (a : Agent) (t : Thread) : Bool :=
  t.ctx.wait == .run && !s.reconverged a && (s.atCollective a || (t.heldFrom.isSome && s.fetch a == .absent))

/-- Threads held at a collective start and stop their watchdog count (R172, R173). -/
def State.markHolds (s : State) (c : Nat) : State :=
  s.modCore c (fun k => { k with threads := k.threads.map (fun t =>
    (t.1, { t.2 with heldFrom := if s.heldAtCollective { core := c, who := .thread t.1 } t.2 then
      (match t.2.heldFrom with
        | some x => some x
        | none => some s.clock) else none })) })

/-! ### The bundle -/

def State.arrivalOf (s : State) (a : Agent) : Nat := ((s.thread? a).map (·.arrival)).getD 0
def State.agedOf (s : State) (a : Agent) : Bool := ((s.thread? a).map (·.aged)).getD false
/-- The slot of a thread. -/
def slotNum (a : Agent) : Nat :=
  match a.who with
  | .thread n => n
  | .lead _ => 0

/-- The lowest PC held by an agent of a list. -/
def State.lowestPc (s : State) : List Agent → Option Nat
  | [] => none
  | a :: as =>
    match s.lowestPc as with
    | none => some (s.ctx a).pc.toNat
    | some p => some (min p (s.ctx a).pc.toNat)

/-- Take the oldest candidate of each home lane (R161); the candidates come oldest first. -/
def takeLanes : List Nat → List Agent → List Agent
  | _, [] => []
  | used, a :: as =>
    if used.contains (homeLane (slotNum a)) then takeLanes used as else a :: takeLanes (homeLane (slotNum a) :: used) as

/-- Take whole groups, ordered by their oldest thread (R161). -/
def State.takeGroups (s : State) (used done : List Nat) : List Agent → List Agent
  | [] => []
  | a :: as =>
    let key := s.place a * 65536 + s.groupOf a
    if done.contains key then s.takeGroups used done as
    else
      let mates := s.groupMates a
      let lanes := mates.map (fun b => homeLane (slotNum b))
      if lanes.any used.contains then s.takeGroups used (key :: done) as
      else mates ++ s.takeGroups (lanes ++ used) (key :: done) as

/-- The bundle that the issue unit of a core forms (R161, R370): its lanes in ascending home lane. -/
def State.bundle (s : State) (c : Nat) : List Agent :=
  let rdy := ((s.core c).threadAgents c).filter s.ready
  let sup := rdy.filter (fun a => s.level a == .s)
  let pool := if sup.isEmpty then rdy else sup
  let aged := pool.filter s.agedOf
  let src := if aged.isEmpty then pool else aged
  match s.lowestPc src with
  | none => []
  | some p =>
    let cand := sortBy s.arrivalOf (pool.filter (fun a => (s.ctx a).pc.toNat == p))
    let taken :=
      match cand with
      | [] => []
      | _ => if cand.any s.atCollective then s.takeGroups [] [] (cand.filter s.atCollective) else takeLanes [] cand
    sortBy (fun a => homeLane (slotNum a)) taken

/-- The match register that stops an agent at a PC (R387). -/
def State.matchReg (s : State) (a : Agent) (pc : DWord) : Option Nat :=
  (List.range 4).find? (fun m =>
    let r := getR (s.core a.core).bpm m
    r.getLsbD 63 && r.getLsbD 62 == a.isLead && r.extractLsb' 6 50 == pc.extractLsb' 6 50
    && r.extractLsb' 0 3 == pc.extractLsb' 0 3 && s.vfOf a == some (r.extractLsb' 56 6).toNat)

/-- A thread or lead stops at a match register (R387, R374): `BRK` with arg0 = 0x100 + m, the resume PC its own. -/
def State.stopAtMatch (s : State) (a : Agent) (m : Nat) : State :=
  s.raiseResumable a { code := .brk, arg0 := BitVec.ofNat 64 (0x100 + m), arg1 := 0, arg2 := 0, resume := (s.ctx a).pc }

/-- Agents that pass the match registers, and the state after the others stop there (R387). -/
def State.passMatch (s : State) (as : List Agent) : State × List Agent :=
  as.foldl (fun (acc : State × List Agent) a =>
    let c := acc.1.ctx a
    match (if c.noMatch then none else acc.1.matchReg a c.pc) with
    | some m => (acc.1.stopAtMatch a m, acc.2)
    | none => (acc.1, acc.2 ++ [a])) (s, [])

/-- Unit class of a major (R45): integer 0, load-store 1, floating 2, control 3, lead 4, engine 5. -/
def unitClass (major : Nat) : Nat :=
  if 0x01 ≤ major ∧ major ≤ 0x07 then 0
  else if (0x08 ≤ major ∧ major ≤ 0x0B) ∨ (0x20 ≤ major ∧ major ≤ 0x23) ∨ (0x28 ≤ major ∧ major ≤ 0x2B) then 1
  else if 0x0C ≤ major ∧ major ≤ 0x13 then 2
  else if (0x14 ≤ major ∧ major ≤ 0x1B) ∨ major = 0x1D ∨ (0x3A ≤ major ∧ major ≤ 0x3E) then 3
  else if major = 0x1C ∨ major = 0x1E ∨ major = 0x1F then 4
  else 5

/-- A form that ORs flags into `fstat`, for which a read of `fstat` waits: those of floating point, and `SMERGE` (R82, R348). -/
def Form.raisesFlags (f : Form) : Bool := unitClass f.major == 2 || (f.major == 0x37 && f.minor == 0)

/-- A form that reads `fstat` (R107). -/
def Form.readsFstat (f : Form) : Bool :=
  match f.a with
  | .sread => f.cm.a == .lit 23
  | _ => false

/-- The later form depends on the earlier: it reads a register, a predicate, a handle or `fstat` that the earlier writes, or it writes
a register, a predicate or a handle that the earlier writes (R45, R55). The spec does not say whether the second counts as a
dependence (DESIGN CHOICE, log 72). -/
def IssueEnv.depends (e : IssueEnv) (f g : Form) : Bool :=
  (e.span f f.d f.cm.d).any (fun x => (e.spans g).any x.meets)
  || f.bitWrites.any (fun x => (g.bitReads ++ g.bitWrites).contains x)
  || (f.raisesFlags && g.readsFstat)

/-- Slots `k` and `k + 1` of the line may issue together for a bundle (R55, R162). The second slot must not meet a match register
(R387). Whether its threads are ready there once slot `k` has counted in is seen after slot `k` (`State.openIssue`). -/
def State.pairs (s : State) (as : List Agent) : Bool :=
  match as with
  | [] => false
  | a :: _ =>
    match s.cachedLine a, s.upcoming a with
    | some l, some (_, f) =>
      let pc := (s.ctx a).pc
      templateBit l.data (slotOf pc) && unitClass f.major != 3
      && as.all (fun b =>
          let next := s.modCtx b Ctx.advance
          match next.upcoming b with
          | some (i, g) =>
            unitClass g.major != 3 && unitClass g.major != unitClass f.major && !(s.issueEnv b).depends f g
            && next.mayIssue b && next.operandsFree b i g && (s.matchReg b (nextPc pc)).isNone
          | none => false)
    | _, _ => false

/-- An operation runs on the array: `MZERO`, `MMA` and `MMAS` (R318, R326). -/
def MxOp.onArray (o : MxOp) : Bool :=
  o.state == .running && (match o.kind with
    | .mma _ _ _ => true
    | .mzero _ => true
    | _ => false)

/-- Ready task threads of a core count the clocks that pass; an issue sets the count back (R163). -/
def State.countReady (s : State) (c n : Nat) : State :=
  let rdy := ((s.core c).threadAgents c).filter (fun a => s.level a == .t && s.ready a)
  if rdy.isEmpty then s
  else s.modCore c (fun k => { k with threads := k.threads.map (fun t =>
    if rdy.contains { core := c, who := .thread t.1 } then (t.1, { t.2 with readyFor := t.2.readyFor + n }) else t) })

/-- The clock advances (R107), and with it the counts of threads held at collectives (R173) and of ready threads (R163) and the
performance events 1 and 7 (R388). -/
def State.pass (s : State) (n : Nat) : State :=
  s.cores.foldl (fun t k =>
    let vf := if k.2.wgs.isEmpty then none else k.2.vf.map (·.2)
    let t := ((t.markHolds k.1).countReady k.1 n).perfEvent k.1 1 vf n
    if k.2.mxOps.any (·.onArray) then t.perfEvent k.1 7 vf n else t) s |>.tick n

/-- The threads of a bundle issue: their arrival numbers, in ascending home lane, their marks (R159, R163) and the issue that
ignores match registers (R387). -/
def State.takeNumbers (s : State) (c : Nat) (as : List Agent) : State :=
  as.foldl (fun s a => s.modCore c (fun k =>
    { (k.modThread (slotNum a) (fun t => { t with arrival := k.nextArrival, aged := false, readyFor := 0, heldFrom := none,
                                                  ctx := { t.ctx with noMatch := false } })) with
      nextArrival := k.nextArrival + 1 })) s

/-! ### The issue in progress -/

/-- A fetch that a firewall dropped leaves its mark (R393). -/
def State.fetchDrop (s : State) (a : Agent) : State :=
  if (s.linePa a).isNone then s.noteDrop a.core (s.fetchVia a) (lineOf (s.ctx a).pc).toNat else s

/-- Every agent of an issue passes its fetch, or traps with the PC that produced its own (R54, R71 step 1). -/
def State.fetchAll (s : State) (as : List Agent) : State × List (Agent × IWord) :=
  as.foldl (fun (acc : State × List (Agent × IWord)) a =>
    match acc.1.fetch a with
    | .word w => (acc.1, acc.2 ++ [(a, w)])
    | .trap t => ((if t.code = .perm then acc.1.fetchDrop a else acc.1).raiseAt a t (acc.1.ctx a).srcPc, acc.2)
    | .absent => acc) (s, [])

/-- The lanes that run an instruction: of a collective, whole groups (R172). -/
def State.wholeGroups (s : State) (i : Instr) (as : List Agent) : List Agent :=
  if ((form i).map (·.coll)).getD false then as.filter (fun a => (s.groupMates a).all as.contains) else as

/-- An issue whose slot is next: the second slot of a pair issues, and the pair counts (R388), only where every thread of the bundle
is ready there after the first (R162); else it waits for a later clock. -/
def State.openIssue (s : State) (i : Issue) : Option State :=
  if !i.second then some s
  else if i.agents.all s.ready then some (s.perfEvent i.core 3 (i.agents.head?.bind s.vfOf) 1)
  else none

/-- The instruction of an issue (R71 steps 1 and 2): none where no lane is left, with the state after the lanes' traps, or where
the second slot of a pair does not issue with the first. A lane that a trap of an earlier operation has stopped meanwhile takes no part
(R373, R376). -/
def State.nextInstr (s : State) (i : Issue) : State × Option Instr :=
  match s.openIssue i with
  | none => ({ s with cur := none }, none)
  | some s0 =>
    let (s1, ok) := s0.fetchAll (i.agents.filter (fun a => (s0.ctx a).wait == .run))
    match ok with
    | [] => (s1.endIssue, none)
    | (_, w) :: _ =>
      match decode w with
      | .ok ins =>
        match s1.wholeGroups ins (ok.map (·.1)) with
        | [] => (s1.endIssue, none)
        | as => ({ s1 with cur := some { i with agents := as } }, some ins)
      | .error _ => ((ok.foldl (fun s p => s.raise p.1 ⟨.illEnc, 0⟩) s1).endIssue, none)

end Sys2Proof.Machine
end

