-- ==== Sys2Proof/Machine/Queue.lean ====
section
/-!
DEFINITION. The decision queue of a workgroup (spec/09 R186 to R188): live groups, releases, and the pushes and pops that wait
on it.
-/

namespace Sys2Proof.Machine

/-- The task threads of a workgroup place. -/
def Core.threadsOf (k : Core) (p : Nat) : NMap Thread := k.threads.filter (fun t => t.2.level == .t && t.2.wg == p)

/-- The group width of the workgroup at a place. -/
def State.widthAt (s : State) (c p : Nat) : Nat :=
  ((((s.core c).wg p).bind (fun w => s.grid w.grid)).map (fun g => g.launch.group)).getD 8

/-- The live groups: those with a thread that has not exited (R186). -/
def State.liveGroups (s : State) (c p : Nat) : List Nat :=
  (((s.core c).threadsOf p).filter (fun t => t.2.ctx.wait != .exited)).map (fun t => t.2.tid / s.widthAt c p) |>.eraseDups

def Wg.popsOf (w : Wg) (g : Nat) : Nat := (lookupN w.pops g).getD 0

/-- Some live group has not popped the oldest of 64 entries (R186). -/
def State.queueFull (s : State) (c p : Nat) : Bool :=
  match (s.core c).wg p with
  | some w => (s.liveGroups c p).any (fun g => w.pushes - w.popsOf g == 64)
  | none => false

/-- Entries that every live group has popped (R186). -/
def State.released (s : State) (c p : Nat) : Nat :=
  match (s.core c).wg p with
  | some w => (s.liveGroups c p).foldl (fun m g => min m (w.popsOf g)) w.pushes
  | none => 0

/-- The pop object completes a phase each time the oldest entry is released (R186): `before` entries were released before. -/
def State.countReleases (s : State) (c p before : Nat) : State :=
  let n := s.released c p - before
  s.modCore c (fun k => k.modWg p (fun w => { w with popPhase := w.popPhase + BitVec.ofNat 4 n }))

/-- Change the contexts of the threads of a group. -/
def State.onGroup (s : State) (c p g : Nat) (f : Thread → Thread) : State :=
  let w := s.widthAt c p
  s.modCore c (fun k => { k with threads := k.threads.map (fun t =>
    if t.2.level == .t && t.2.wg == p && t.2.tid / w == g then (t.1, f t.2) else t) })

/-- A thread waits in a `DQPOP`. -/
def Thread.popping (t : Thread) : Bool :=
  match t.ctx.wait with
  | .pop _ _ _ _ => true
  | _ => false

/-- A waiting thread of a group leaves its `DQPOP`: with an entry or 0 where present, or untouched by a timeout (R188). -/
def Thread.leavePop (v : Option DWord) (ok : Bool) (t : Thread) : Thread :=
  match t.ctx.wait with
  | .pop present d _ pr =>
    let t1 := match v with
      | some v => if present then t.put d 64 v.toNat else t
      | none => t
    let c := if present then t1.ctx.writeP pr ok else t1.ctx
    { t1 with ctx := { c.advance with wait := .run } }
  | _ => t

/-- The groups of a workgroup that wait in a `DQPOP`. -/
def State.poppingGroups (s : State) (c p : Nat) : List Nat :=
  (((s.core c).threadsOf p).filter (fun t => t.2.popping)).map (fun t => t.2.tid / s.widthAt c p) |>.eraseDups

/-- A group takes its next entry, which it has (R188): its floor rises to the lead's writes before the push (R92), and its threads
have observed what the push ordered (R207, R216). -/
def State.takeEntry (s : State) (c p g : Nat) : DWord × State :=
  match (s.core c).wg p with
  | some w =>
    let n := w.popsOf g
    let e := (lookupN w.queue (n % 64)).getD (0, 0)
    let before := s.released c p
    let mates := ((s.core c).threadsOf p).filter (fun t => t.2.tid / s.widthAt c p == g)
    let s0 := mates.foldl (fun s t => s.collect { core := c, who := .thread t.1 } (some (.queue c p n)) 0) s
    let s1 := s0.modCore c (fun k => k.modWg p (fun w =>
      { w with pops := putN w.pops g (n + 1), floor := putN w.floor g (max e.2 ((lookupN w.floor g).getD 0)) }))
    (e.1, s1.countReleases c p before)
  | none => (0, s)

/-- Has a group an entry to take? -/
def State.hasEntry (s : State) (c p g : Nat) : Bool :=
  match (s.core c).wg p with
  | some w => decide (w.popsOf g < w.pushes)
  | none => false

/-- Every waiting group with an entry takes it. -/
def State.servePops (s : State) (c p : Nat) : State :=
  (s.poppingGroups c p).foldl (fun s g =>
    if s.hasEntry c p g then
      let (e, s1) := s.takeEntry c p g
      s1.onGroup c p g (Thread.leavePop (some e) true)
    else s) s

/-- The lead's push enters the queue, a release of what the lead has observed: the push object completes a phase (R187, R207). With no
live group it is discarded. -/
def State.enqueue (s : State) (c p : Nat) (v : DWord) : State :=
  if (s.liveGroups c p).isEmpty then s
  else (s.publish { core := c, who := .lead p } (some (.queue c p ((((s.core c).wg p).map (·.pushes)).getD 0))) 0).modCore c (fun k => k.modWg p (fun w =>
    { w with queue := putN w.queue (w.pushes % 64) (v, ((w.lead.map (·.log.length)).getD 0)), pushes := w.pushes + 1,
             pushPhase := w.pushPhase + 1 }))

/-- A waiting lead whose queue is no longer full pushes (R187). -/
def State.servePush (s : State) (c p : Nat) : State :=
  match ((s.core c).wg p).bind (·.lead) with
  | some l =>
    match l.ctx.wait with
    | .push v _ pr =>
      if s.queueFull c p then s
      else (s.enqueue c p v).modCore c (fun k => k.modLead p (fun l =>
        { l with ctx := { (l.ctx.writeP pr true).advance with wait := .run } }))
    | _ => s
  | none => s

/-- Everything that a change of the queue lets go on. -/
def State.settleQueue (s : State) (c p : Nat) : State := ((s.servePops c p).servePush c p).servePops c p

/-- The lead has ended, or there is none (R188, R204). -/
def State.leadDone (s : State) (c p : Nat) : Bool :=
  match ((s.core c).wg p).bind (·.lead) with
  | some l => l.ctx.wait == .exited
  | none => true

/-- After the lead's end, waiting pops of an empty queue return 0 (R188, R204). -/
def State.endPops (s : State) (c p : Nat) : State :=
  if s.leadDone c p then (s.poppingGroups c p).foldl (fun s g => s.onGroup c p g (Thread.leavePop (some 0) false)) s else s

end Sys2Proof.Machine
end

