-- ==== Sys2Proof/Machine/Barriers.lean ====
section
/-!
DEFINITION. Barrier-object instructions (spec/11 R234 to R245), and the limits and watchdogs of waits (spec/00 R10, spec/08
R173, spec/11 R244).
-/

namespace Sys2Proof.Machine

/-! ### The object of a barrier form -/

/-- The object that a barrier form names, after its address checks (R236), or the trap. -/
def State.barObject (s : State) (a : Agent) (f : MForm) : Except Trap ObjRef :=
  let ea := s.ea a f (off20 f)
  match s.checkSpace a f.space.toNat ea 16 true true with
  | some t => .error t
  | none =>
    match s.spot a f.space ea with
    | .glob va =>
      match s.globObj a.core (s.viaOf a) va with
      | some r => .ok r
      | none => .error ⟨s.missCode (some (dieOf a.core)) (s.core a.core).tlb (s.viaOf a) va true, va⟩
    | .store c w off => .ok (.store c w off)
    | _ => .error ⟨.storeBound, 0⟩

/-- A barrier form whose object cannot be reached traps; a firewall that drops its request keeps its mark (R393). -/
def State.barFails (s : State) (a : Agent) (f : MForm) (t : Trap) : LaneOut :=
  match s.spot a f.space (s.ea a f (off20 f)), s.checkSpace a f.space.toNat (s.ea a f (off20 f)) 16 true true with
  | .glob va, none => .stay ((s.noteDrop a.core (s.viaOf a) va).raise a t)
  | _, _ => .trap t

/-- A barrier form whose address passes its checks is pending, and counts, until it acts on its object at its home (R236, R245). -/
def barrierOut (a : Agent) (f : MForm) (k : BarKind) (d : Opnd) (pred : Nat) (ctr : Ctr) (s : State) : LaneOut :=
  match s.barObject a f with
  | .error t => s.barFails a f t
  | .ok r => .done (s.post a (s.spot a f.space (s.ea a f (off20 f))) 16 f.order f.scope 0 (.bar k r d pred) ctr)

/-! ### The instructions -/

/-- `BINIT` (R237): an operand outside 1 to 4,095 traps at once. -/
def execBinit (f : MForm) (s : State) : Host.Outcome State Fault Refusal :=
  perLane (form (.binit f)) (fun a s =>
    let n := s.opVal a f.cm.b 32
    match s.barObject a f with
    | .error t => s.barFails a f t
    | .ok _ =>
      if n = 0 ∨ 4095 < n then .trap ⟨.barBad, 0⟩ else barrierOut a f (.binit n) (.lit 0) 7 .st s) s

def execBarv (f : MForm) (s : State) : Host.Outcome State Fault Refusal :=
  perLane (form (.barv f)) (fun a s => barrierOut a f (.barv (s.opVal a f.cm.b 32)) f.cm.d f.cm.c.num .ld s) s

def execBexp (f : MForm) (s : State) : Host.Outcome State Fault Refusal :=
  perLane (form (.bexp f)) (fun a s => barrierOut a f (.bexp (s.opVal a f.cm.b 32)) (.lit 0) 7 .st s) s

/-- `BWAIT` (R242): what the core has pending is performed first (R118; log 10), then the wait returns at once on another phase,
or begins. -/
def execBwait (f : MForm) (s : State) : Host.Outcome State Fault Refusal :=
  perLane (form (.bwait f)) (fun a s =>
    let ph : BitVec 4 := BitVec.ofNat 4 (s.opVal a f.cm.b 32)
    let lim := s.opVal a f.cm.c 32
    match s.barObject a f with
    | .error t => s.barFails a f t
    | .ok r =>
      let at_ := s.spot a f.space (s.ea a f (off20 f))
      let s1 := ((s.flush a.core).barEvent a.core (s.viaOf a) r).spoilObj a.core r ((s.ctx a).marked at_ 16)
      let o := s1.objRead r
      if (s1.ctx a).wait ≠ .run then .stay s1
      else if s1.objHurt r then .trap ⟨.eccUe, 0⟩
      else if !o.consistent then .trap ⟨.barBad, 0⟩
      else
        let s2 := s1.enterWait a
        if o.phase ≠ ph then .done ((s2.acquire a f.scope.toNat (some (.at_ r))).writeP a f.cm.d.num true)
        else
          .stay ((s2.park a (.barrier r ph (if lim = 0 then none else some (s.clock + lim)) f.cm.d.num f.scope.toNat)).refreshWaiters
            a.core r)) s

def execBtest (f : MForm) (s : State) : Host.Outcome State Fault Refusal :=
  perLane (form (.btest f)) (fun a s =>
    barrierOut a f (.btest (BitVec.ofNat 4 (s.opVal a f.cm.b 32))) f.cm.d f.cm.c.num .ld s) s

def execBexit (f : MForm) (s : State) : Host.Outcome State Fault Refusal :=
  perLane (form (.bexit f)) (fun a s => barrierOut a f .bexit (.lit 0) f.cm.c.num .ld s) s

def execBinval (f : MForm) (s : State) : Host.Outcome State Fault Refusal :=
  perLane (form (.binval f)) (fun a s => barrierOut a f .binval (.lit 0) f.cm.c.num .ld s) s

/-! ### Limits and watchdogs -/

/-- The clock at which a bounded wait runs out. -/
def Wait.limit : Wait → Option Nat
  | .barrier _ _ l _ _ => l
  | .push _ l _ => l
  | .pop _ _ l _ => l
  | .circle _ _ l _ _ => l
  | _ => none

/-- A wait that `bwdog` watches: unbounded, on an object, the queue or a circle (R244). -/
def Wait.unbounded : Wait → Bool
  | .barrier _ _ none _ _ => true
  | .push _ none _ => true
  | .pop _ _ none _ => true
  | .circle _ _ none _ _ => true
  | _ => false

/-- A context goes on with its result predicate. -/
def Ctx.proceed (c : Ctx) (p : Nat) (v : Bool) : Ctx := { (c.writeP p v).advance with wait := .run }

/-- A bounded wait that has run out returns false (R10, R187, R188, R242, R256); on a poisoned object, whose count of waiters it would
change, its grid ends (R407; DEDUCED, log 87). A waiter on a circle that is no longer live (a VF
reset has freed it, R247) gets its predicate only, and one whose wait is unbounded waits on (DESIGN CHOICE, log 65). -/
def State.timeOut (s : State) (a : Agent) : Option State :=
  let c := s.ctx a
  match c.wait.limit with
  | none => none
  | some t =>
    if s.clock < t then none
    else
      match c.wait with
      | .barrier r _ _ p _ =>
        some (if s.objHurt r then s.raise a ⟨.eccUe, 0⟩ else (s.modCtx a (fun c => c.proceed p false)).refreshWaiters a.core r)
      | .push _ _ p => some (s.modCtx a (fun c => c.proceed p false))
      | .pop _ _ _ _ => some (s.onGroup a.core (s.place a) (s.groupOf a) (Thread.leavePop none false))
      | .circle h ph _ d p =>
        match s.circleOf a h with
        | some k =>
          let mixed := mixedPhase (if k.phase = ph then k.now else k.next)
          some ((s.putInt a d false 32 (barStatus ph k.fault mixed)).modCtx a (fun c => c.proceed p false))
        | none => some (s.modCtx a (fun c => c.proceed p false))
      | _ => none

def execWaitPhaseTimeout (a : Agent) (s : State) : Host.Outcome State Fault Refusal :=
  match s.timeOut a with
  | some t => .next t
  | none => .refused (.notEnabled "WAIT_PHASE_TIMEOUT")

/-- A thread held at a collective for `cwdog` clocks ends its grid (R173); 0 is off (R385). -/
def execCollectiveWatchdogTimeout (a : Agent) (s : State) : Host.Outcome State Fault Refusal :=
  match (s.thread? a).bind (·.heldFrom) with
  | some t =>
    let lim := (s.core a.core).cwdog.toNat
    if lim ≠ 0 ∧ t + lim ≤ s.clock ∧ (s.ctx a).wait = .run ∧ !s.reconverged a then .next (s.raise a ⟨.timeout, 0⟩)
    else .refused (.notEnabled "COLLECTIVE_WATCHDOG_TIMEOUT")
  | none => .refused (.notEnabled "COLLECTIVE_WATCHDOG_TIMEOUT")

/-- An unbounded wait of `bwdog` clocks ends the grid (R244). -/
def execBarrierWaitWatchdog (a : Agent) (s : State) : Host.Outcome State Fault Refusal :=
  let c := s.ctx a
  let lim := (s.core a.core).bwdog.toNat
  if c.wait.unbounded ∧ lim ≠ 0 ∧ c.waitFrom + lim ≤ s.clock then
    match c.wait with
    | .barrier r _ _ _ _ => .next ((s.raise a ⟨.timeout, 0⟩).refreshWaiters a.core r)
    | _ => .next (s.raise a ⟨.timeout, 0⟩)
  else .refused (.notEnabled "BARRIER_WAIT_WATCHDOG")

end Sys2Proof.Machine
end

