-- ==== Sys2Proof/Machine/Integer.lean ====
section
/-!
DEFINITION. Integer, logic, bit-field, predicate, move and address instructions (spec/05 R90 to R109).
-/

namespace Sys2Proof.Machine

/-! ### Shared -/

/-- `Fit` of spec/05: saturate, or wrap modulo 2^w. -/
def fit (sat signed : Bool) (w : Nat) (e : Int) : Int :=
  let lo : Int := if signed then -(2 ^ (w - 1) : Nat) else 0
  let hi : Int := if signed then (2 ^ (w - 1) : Nat) - 1 else (2 ^ w : Nat) - 1
  if sat then min (max e lo) hi else toVal signed w (toBits w e)

/-- `Val` of a register operand. -/
def State.val (s : State) (a : Agent) (signed : Bool) (w : Nat) (o : Opnd) : Int := toVal signed w (s.opVal a o w)

/-- Is an integer immediate type signed (R65)? -/
def itySigned (t : BitVec 2) : Bool := t.toNat % 2 == 0

/-- `Val` of the immediate. -/
def immInt (f : IForm) : Int := toVal (itySigned f.ity) (ityW f.ity) (immVal f.ity f.imm)

/-- An arithmetic form: the exact value of the operands, fitted and put (R96). -/
def arithR (i : Instr) (f : RForm) (e : Int → Int → Int → Int) (s : State) : Host.Outcome State Fault Refusal :=
  let w := tyW f.ty
  let sg := tySigned f.ty
  perLane (form i) (fun a s =>
    let r := fit (f.sat == 1) sg w (e (s.val a sg w f.cm.a) (s.val a sg w f.cm.b) (s.val a sg w f.cm.c))
    .done (s.putInt a f.cm.d sg w (toBits w r))) s

/-- An arithmetic form with an immediate: no saturation (R65, R96). -/
def arithI (i : Instr) (f : IForm) (e : Int → Int → Int) (s : State) : Host.Outcome State Fault Refusal :=
  let w := ityW f.ity
  let sg := itySigned f.ity
  perLane (form i) (fun a s =>
    .done (s.putInt a f.cm.d sg w (toBits w (fit false sg w (e (s.val a sg w f.cm.a) (immInt f)))))) s

/-- A logic or shift form: A at the type's width, B at `wb` bits (R99). -/
def logicR (i : Instr) (f : RForm) (wb : Nat) (g : Nat → Nat → Nat → Nat) (s : State) : Host.Outcome State Fault Refusal :=
  let w := tyW f.ty
  perLane (form i) (fun a s =>
    .done (s.putInt a f.cm.d (tySigned f.ty) w (g w (s.opVal a f.cm.a w) (s.opVal a f.cm.b wb) % 2 ^ w))) s

/-- A logic or shift form with an immediate. -/
def logicI (i : Instr) (f : IForm) (g : Nat → Nat → Nat → Nat) (s : State) : Host.Outcome State Fault Refusal :=
  let w := ityW f.ity
  perLane (form i) (fun a s =>
    .done (s.putInt a f.cm.d (itySigned f.ity) w (g w (s.opVal a f.cm.a w) (immVal f.ity f.imm) % 2 ^ w))) s

/-- `ANDN` (R99). -/
def andnBits (w a b : Nat) : Nat := Nat.land a (2 ^ w - 1 - b % 2 ^ w)

/-- The shift count (R99). -/
def shiftCount (b : Nat) : Nat := b % 256

/-- `SHL`, `SHR`, `SRA`, `ROT` of a w-bit pattern (R99). -/
def shlBits (w a b : Nat) : Nat := if w ≤ shiftCount b then 0 else a * 2 ^ shiftCount b % 2 ^ w
def shrBits (w a b : Nat) : Nat := if w ≤ shiftCount b then 0 else a / 2 ^ shiftCount b
def sraBits (w a b : Nat) : Nat :=
  toBits w (Int.fdiv (toVal true w a) ((2 ^ (min (shiftCount b) w) : Nat) : Int))
def rotBits (w a b : Nat) : Nat :=
  let n := shiftCount b % w
  a * 2 ^ n % 2 ^ w + a / 2 ^ (w - n)

/-! ### Arithmetic (R96, R97, R98) -/

def execIadd (f : RForm) (s : State) : Host.Outcome State Fault Refusal := arithR (.iadd f) f (fun a b _ => a + b) s
def execIaddImm (f : IForm) (s : State) : Host.Outcome State Fault Refusal := arithI (.iaddImm f) f (fun a b => a + b) s
def execIsub (f : RForm) (s : State) : Host.Outcome State Fault Refusal := arithR (.isub f) f (fun a b _ => a - b) s
def execImul (f : RForm) (s : State) : Host.Outcome State Fault Refusal := arithR (.imul f) f (fun a b _ => a * b) s
def execImulImm (f : IForm) (s : State) : Host.Outcome State Fault Refusal := arithI (.imulImm f) f (fun a b => a * b) s
def execImad (f : RForm) (s : State) : Host.Outcome State Fault Refusal := arithR (.imad f) f (fun a b c => a * b + c) s
def execIabs (f : RForm) (s : State) : Host.Outcome State Fault Refusal := arithR (.iabs f) f (fun a _ _ => a.natAbs) s
def execIneg (f : RForm) (s : State) : Host.Outcome State Fault Refusal := arithR (.ineg f) f (fun a _ _ => -a) s
def execImin (f : RForm) (s : State) : Host.Outcome State Fault Refusal := arithR (.imin f) f (fun a b _ => min a b) s
def execIminImm (f : IForm) (s : State) : Host.Outcome State Fault Refusal := arithI (.iminImm f) f (fun a b => min a b) s
def execImax (f : RForm) (s : State) : Host.Outcome State Fault Refusal := arithR (.imax f) f (fun a b _ => max a b) s
def execImaxImm (f : IForm) (s : State) : Host.Outcome State Fault Refusal := arithI (.imaxImm f) f (fun a b => max a b) s

/-- The high half of the exact product (R97). -/
def execImulh (f : RForm) (s : State) : Host.Outcome State Fault Refusal :=
  arithR (.imulh f) f (fun a b _ => Int.fdiv (a * b) ((2 ^ tyW f.ty : Nat) : Int)) s

/-- 32-bit factors, 64-bit addend and result of the same signedness (R97). -/
def execImadw (f : RForm) (s : State) : Host.Outcome State Fault Refusal :=
  let sg := tySigned f.ty
  perLane (form (.imadw f)) (fun a s =>
    let e := s.val a sg 32 f.cm.a * s.val a sg 32 f.cm.b + s.val a sg 64 f.cm.c
    .done (s.putInt a f.cm.d sg 64 (toBits 64 (fit (f.sat == 1) sg 64 e)))) s

/-- The quotient and the remainder of R98, exact. -/
def divInt (signed : Bool) (w : Nat) (a b : Int) : Int :=
  if b = 0 then (if signed then -1 else (2 ^ w : Nat) - 1) else Int.tdiv a b
def remInt (a b : Int) : Int := if b = 0 then a else a - b * Int.tdiv a b

def execIdiv (f : RForm) (s : State) : Host.Outcome State Fault Refusal :=
  arithR (.idiv f) f (fun a b _ => divInt (tySigned f.ty) (tyW f.ty) a b) s
def execIrem (f : RForm) (s : State) : Host.Outcome State Fault Refusal := arithR (.irem f) f (fun a b _ => remInt a b) s

/-! ### Logic and shifts (R99) -/

def execAnd (f : RForm) (s : State) : Host.Outcome State Fault Refusal := logicR (.and f) f (tyW f.ty) (fun _ a b => Nat.land a b) s
def execAndImm (f : IForm) (s : State) : Host.Outcome State Fault Refusal := logicI (.andImm f) f (fun _ a b => Nat.land a b) s
def execOr (f : RForm) (s : State) : Host.Outcome State Fault Refusal := logicR (.or f) f (tyW f.ty) (fun _ a b => Nat.lor a b) s
def execOrImm (f : IForm) (s : State) : Host.Outcome State Fault Refusal := logicI (.orImm f) f (fun _ a b => Nat.lor a b) s
def execXor (f : RForm) (s : State) : Host.Outcome State Fault Refusal := logicR (.xor f) f (tyW f.ty) (fun _ a b => Nat.xor a b) s
def execXorImm (f : IForm) (s : State) : Host.Outcome State Fault Refusal := logicI (.xorImm f) f (fun _ a b => Nat.xor a b) s
def execAndn (f : RForm) (s : State) : Host.Outcome State Fault Refusal := logicR (.andn f) f (tyW f.ty) andnBits s
def execAndnImm (f : IForm) (s : State) : Host.Outcome State Fault Refusal := logicI (.andnImm f) f andnBits s
def execShl (f : RForm) (s : State) : Host.Outcome State Fault Refusal := logicR (.shl f) f 32 shlBits s
def execShlImm (f : IForm) (s : State) : Host.Outcome State Fault Refusal := logicI (.shlImm f) f shlBits s
def execShr (f : RForm) (s : State) : Host.Outcome State Fault Refusal := logicR (.shr f) f 32 shrBits s
def execShrImm (f : IForm) (s : State) : Host.Outcome State Fault Refusal := logicI (.shrImm f) f shrBits s
def execSra (f : RForm) (s : State) : Host.Outcome State Fault Refusal := logicR (.sra f) f 32 sraBits s
def execSraImm (f : IForm) (s : State) : Host.Outcome State Fault Refusal := logicI (.sraImm f) f sraBits s
def execRot (f : RForm) (s : State) : Host.Outcome State Fault Refusal := logicR (.rot f) f 32 rotBits s
def execRotImm (f : IForm) (s : State) : Host.Outcome State Fault Refusal := logicI (.rotImm f) f rotBits s

/-! ### Bit fields and counts (R100, R101) -/

/-- Field position and length (R100). -/
def fieldPos (b : Nat) : Nat := b % 256
def fieldLen (w b : Nat) : Nat := min (b / 256 % 256) w

def bfxBits (signed : Bool) (w a b : Nat) : Nat :=
  let len := fieldLen w b
  let f := (Int.fdiv (toVal signed w a) ((2 ^ fieldPos b : Nat) : Int) % ((2 ^ len : Nat) : Int)).toNat
  if len = 0 then 0 else toBits w (toVal signed len f)

def bfiBits (w a b c : Nat) : Nat :=
  let m := (2 ^ fieldLen w b - 1) * 2 ^ fieldPos b % 2 ^ w
  Nat.lor (Nat.land c (2 ^ w - 1 - m)) (Nat.land (a * 2 ^ fieldPos b % 2 ^ w) m)

def execBfx (f : RForm) (s : State) : Host.Outcome State Fault Refusal :=
  logicR (.bfx f) f 32 (bfxBits (tySigned f.ty)) s

def execBfi (f : RForm) (s : State) : Host.Outcome State Fault Refusal :=
  let w := tyW f.ty
  perLane (form (.bfi f)) (fun a s =>
    .done (s.putInt a f.cm.d false w (bfiBits w (s.opVal a f.cm.a w) (s.opVal a f.cm.b 32) (s.opVal a f.cm.c w)))) s

/-- One bits of a w-bit pattern, its leading zeros and its reversal (R101). -/
def popcBits (w a : Nat) : Nat := ((List.range w).filter (fun i => a / 2 ^ i % 2 == 1)).length
def clzBits (w a : Nat) : Nat := if a = 0 then w else w - 1 - a.log2
def brevBits (w a : Nat) : Nat := (List.range w).foldl (fun v i => v + a / 2 ^ i % 2 * 2 ^ (w - 1 - i)) 0

/-- A form that reads A at its type and puts an unsigned result of `wd` bits. -/
def countR (i : Instr) (f : RForm) (wd : Nat) (g : Nat → Nat → Nat) (s : State) : Host.Outcome State Fault Refusal :=
  let w := tyW f.ty
  perLane (form i) (fun a s => .done (s.putInt a f.cm.d false wd (g w (s.opVal a f.cm.a w)))) s

def execPopc (f : RForm) (s : State) : Host.Outcome State Fault Refusal := countR (.popc f) f 32 popcBits s
def execClz (f : RForm) (s : State) : Host.Outcome State Fault Refusal := countR (.clz f) f 32 clzBits s
def execBrev (f : RForm) (s : State) : Host.Outcome State Fault Refusal := countR (.brev f) f (tyW f.ty) brevBits s

/-! ### Predicates and selection (R102 to R104) -/

/-- The integer compares of R95: eq, ne, lt, le, gt, ge. -/
def compareInt (cc : Nat) (a b : Int) : Bool :=
  match cc with
  | 0 => a == b
  | 1 => a != b
  | 2 => decide (a < b)
  | 3 => decide (a ≤ b)
  | 4 => decide (b < a)
  | _ => decide (b ≤ a)

/-- Combine a compare with the second predicate: and, or, xor (R102, R143). -/
def combine (mode : Nat) (x q : Bool) : Bool :=
  match mode with
  | 0 => x && q
  | 1 => x || q
  | _ => x != q

def execIsetp (f : RForm) (s : State) : Host.Outcome State Fault Refusal :=
  let w := tyW f.ty
  let sg := tySigned f.ty
  perLane (form (.isetp f)) (fun a s =>
    let x := compareInt (fld f.func 0 3) (s.val a sg w f.cm.a) (s.val a sg w f.cm.b)
    .done (s.writeP a f.cm.d.num (combine (fld f.func 3 2) x (s.readPQ a f.pred2)))) s

def execSel (f : RForm) (s : State) : Host.Outcome State Fault Refusal :=
  let w := tyW f.ty
  perLane (form (.sel f)) (fun a s =>
    .done (s.putInt a f.cm.d false w (s.opVal a (if s.readPQ a f.pred2 then f.cm.a else f.cm.b) w))) s

def execPlog (f : RForm) (s : State) : Host.Outcome State Fault Refusal :=
  perLane (form (.plog f)) (fun a s =>
    let i := 4 * (s.readP a f.cm.a.num).toNat + 2 * (s.readP a f.cm.b.num).toNat + (s.readP a f.cm.c.num).toNat
    .done (s.writeP a f.cm.d.num (f.func.getLsbD i))) s

/-! ### Moves and addresses (R105, R106) -/

def execMov (f : RForm) (s : State) : Host.Outcome State Fault Refusal := countR (.mov f) f (tyW f.ty) (fun _ a => a) s

def execMovi (f : IForm) (s : State) : Host.Outcome State Fault Refusal :=
  perLane (form (.movi f)) (fun a s =>
    .done (s.putInt a f.cm.d (itySigned f.ity) (ityW f.ity) (immVal f.ity f.imm))) s

/-- The high half of D takes the immediate; the low half stands (R105). -/
def State.putHigh (s : State) (a : Agent) (d : Opnd) (imm : Word) : State :=
  match d with
  | .g i => s.writeG a (i.toNat + 1) 32 imm.toNat
  | .s i => s.writeS a i.toNat (imm.toNat * 2 ^ 32 + (s.readS a i.toNat).toNat % 2 ^ 32)
  | _ => s

def execMovh (f : IForm) (s : State) : Host.Outcome State Fault Refusal :=
  perLane (form (.movh f)) (fun a s => .done (s.putHigh a f.cm.d f.imm)) s

/-- `LEA`: a canonical sum, or `NONCANON` with no write (R106). -/
def leaOut (a : Agent) (d : Opnd) (e : Int) (s : State) : LaneOut :=
  if -(2 ^ 55 : Nat) ≤ e ∧ e ≤ (2 ^ 55 : Nat) - 1 then .done (s.putInt a d true 64 (toBits 64 e))
  else .trap ⟨.noncanon, toBits 64 e⟩

def execLea (f : RForm) (s : State) : Host.Outcome State Fault Refusal :=
  perLane (form (.lea f)) (fun a s =>
    let ix := s.val a (tySigned f.ty) (tyW f.ty) f.cm.b
    leaOut a f.cm.d (s.val a true 64 f.cm.a + ix * ((2 ^ fld f.func 0 3 : Nat) : Int)) s) s

def execLeaImm (f : IForm) (s : State) : Host.Outcome State Fault Refusal :=
  perLane (form (.leaImm f)) (fun a s => leaOut a f.cm.d (s.val a true 64 f.cm.a + immInt f) s) s

/-! ### `NOP` and `SREAD` (R107 to R109) -/

def execNop (f : RForm) (s : State) : Host.Outcome State Fault Refusal := perLane (form (.nop f)) (fun _ s => .done s) s

def execSread (f : RForm) (s : State) : Host.Outcome State Fault Refusal :=
  perLane (form (.sread f)) (fun a s =>
    .done (s.putInt a f.cm.d false (tyW f.ty) (s.srVal a f.cm.a.num % 2 ^ tyW f.ty))) s

end Sys2Proof.Machine
end

