-- ==== Sys2Proof/Machine/CircleForms.lean ====
section
/-!
DEFINITION. Circle instructions (spec/11 R251 to R258).
-/

namespace Sys2Proof.Machine

/-- The lowest index that no live circle of a partition holds (R253). -/
def Part.freeIndex (p : Part) : Option Nat := freeN p.circles Config.circlesPerPart

/-- A live circle of a VF with a key. -/
def Part.byKey (p : Part) (vf : Option Nat) (key : Word) : Option (Nat × Circle) :=
  p.circles.find? (fun c => c.2.key == key && c.2.vf == vf)

/-- The firewalls let a circle's home die be reached (R246, R393). -/
def State.circleReach (s : State) (a : Agent) (c : Circle) : Bool := s.level a == .m || s.pathOpen false (dieOf a.core) c.home

/-- A form acts on a circle at its home; where a firewall drops its request, the end keeps its mark and the form traps (R393). -/
def atHome (a : Agent) (c : Circle) (act : State → LaneOut) (s : State) : LaneOut :=
  if s.circleReach a c then act s
  else .stay ((s.markDrop (s.closedEnds false (dieOf a.core))).raise a ⟨.perm, 0⟩)

def execCmake (f : RForm) (s : State) : Host.Outcome State Fault Refusal :=
  perLane (form (.cmake f)) (fun a s =>
    let key : Word := BitVec.ofNat 32 (s.opVal a f.cm.a 32)
    let r := s.opVal a f.cm.b 32
    let pn := s.partOf a
    let p := s.part pn
    let vf := s.circleVf a
    let id := s.idOf a
    let out (s : State) (h : Word) (ok : Bool) : LaneOut := .done ((s.writeH a f.cm.d.num h).writeP a f.cm.c.num ok)
    match (if key = 0 then none else p.byKey vf key) with
    | some (ix, c) => atHome a c (fun s => out s (c.handle ix) false) s
    | none =>
      match p.freeIndex with
      | some ix =>
        if 65535 < r ∨ Config.circlesPerAgent ≤ p.belongs id then out s 0 false
        else
          let c : Circle := { gen := (lookupN p.gens ix).getD 1, key := key, vf := vf, home := dieOf a.core,
                              members := [{ id := id, rank := r, counted := true }] }
          out (s.modPart pn (fun p => { p with circles := putN p.circles ix c })) (c.handle ix) true
      | none => out s 0 false) s

def execCjoin (f : RForm) (s : State) : Host.Outcome State Fault Refusal :=
  perLane (form (.cjoin f)) (fun a s =>
    let h : Word := BitVec.ofNat 32 (s.opVal a f.cm.a 32)
    let r := s.opVal a f.cm.b 32
    let pn := s.partOf a
    let id := s.idOf a
    let out (s : State) (h : Word) (ok : Bool) : LaneOut := .done ((s.writeH a f.cm.d.num h).writeP a f.cm.c.num ok)
    if s.foreignCircle a h then .trap ⟨.circleBad, 0⟩
    else
      match s.circleOf a h with
      | none => out s 0 false
      | some c => atHome a c (fun s =>
        if 65535 < r ∨ c.members.any (fun m => m.rank == r) ∨ (c.member id).isSome
            ∨ Config.circleMembers ≤ c.members.length ∨ Config.circlesPerAgent ≤ (s.part pn).belongs id then out s 0 false
        else
          let c1 := { c with members := c.members ++ [{ id := id, rank := r, counted := false }] }
          out (s.modPart pn (fun p => { p with circles := putN p.circles (handleIx h) c1 })) h true) s) s

/-- A form on a handle register that must be live (R252), at the circle's home. -/
def liveCircle (a : Agent) (h : Word) (act : Circle → State → LaneOut) (s : State) : LaneOut :=
  match s.circleOf a h with
  | some c => atHome a c (act c) s
  | none => .trap ⟨.circleBad, 0⟩

def execCleave (f : RForm) (s : State) : Host.Outcome State Fault Refusal :=
  perLane (form (.cleave f)) (fun a s =>
    let h := s.readH a f.cm.d.num
    let id := s.idOf a
    let pn := s.partOf a
    liveCircle a h (fun c s =>
      match c.member id with
      | none => .done (s.writeP a f.cm.c.num false)
      | some m =>
        let c1 :=
          if !m.counted then
            { c with members := c.members.filter (fun x => x.id != id), next := c.next.filter (fun x => x.1 != id) }
          else
            let c2 := if arrived c.now id then c else { c with now := c.now ++ [(id, .quiet)] }
            { c2 with members := c2.members.map (fun x => if x.id == id then { x with leaving := true } else x) }
        let s0 := (s.flush a.core).publish a (some (.circle pn (handleIx h) c.gen c.phase.toNat)) 3
        let s1 := s0.setCircle pn (handleIx h) c1
        .done ((s1.writeH a f.cm.d.num 0).writeP a f.cm.c.num true)) s) s

def execCfree (f : RForm) (s : State) : Host.Outcome State Fault Refusal :=
  perLane (form (.cfree f)) (fun a s =>
    let h := s.readH a f.cm.d.num
    liveCircle a h (fun c s =>
      match c.members with
      | [m] =>
        if m.id = s.idOf a ∧ m.counted then
          .done (((s.modPart (s.partOf a) (fun p => p.freeCircle (handleIx h))).writeH a f.cm.d.num 0).writeP a f.cm.c.num true)
        else .done (s.writeP a f.cm.c.num false)
      | _ => .done (s.writeP a f.cm.c.num false)) s) s

/-- What `CQUERY` writes (R255). -/
def Circle.query (c : Circle) (id : AgentId) (h : Word) : Nat :=
  let m := c.member id
  let counted := (m.map (·.counted)).getD false
  h.toNat + 2 ^ 32 * (c.members.filter (·.counted)).length + 2 ^ 48 * c.fault.toNat + 2 ^ 49 * m.isSome.toNat
    + 2 ^ 50 * counted.toNat + 2 ^ 51 * (arrived c.now id).toNat + 2 ^ 52 * (c.phase.toNat % 4096)

def execCquery (f : RForm) (s : State) : Host.Outcome State Fault Refusal :=
  perLane (form (.cquery f)) (fun a s =>
    let h := s.readH a f.cm.a.num
    if s.foreignCircle a h then .trap ⟨.circleBad, 0⟩
    else
      match s.circleOf a h with
      | some c => atHome a c (fun s => .done ((s.putInt a f.cm.d false 64 (c.query (s.idOf a) h)).writeP a f.cm.c.num true)) s
      | none => .done ((s.putInt a f.cm.d false 64 0).writeP a f.cm.c.num false)) s

/-- Arrive by R248 and wait for the phase arrived in. An issuer that has arrived in both phases stays (R248). -/
def arriveOut (a : Agent) (h : Word) (k : ArriveKind) (lim : Nat) (d : Opnd) (p : Nat) (s : State) : LaneOut :=
  liveCircle a h (fun c s =>
    match c.member (s.idOf a) with
    | none => .trap ⟨.circleBad, 0⟩
    | some m =>
      match c.slotFor m with
      | .held => .stay s
      | sl =>
        let s0 := s.flush a.core
        if (s0.ctx a).wait ≠ .run then .stay s0
        else
          let s0 := s0.publish a (some (.circle (s.partOf a) (handleIx h) c.gen (c.phaseOf sl).toNat)) 3
          let s1 := (s0.enterWait a).park a (.circle h (c.phaseOf sl) (if lim = 0 then none else some (s.clock + lim)) d p)
          .stay (s1.setCircle (s.partOf a) (handleIx h) (c.record (s.idOf a) sl k))) s

def execCbar (f : RForm) (s : State) : Host.Outcome State Fault Refusal :=
  perLane (form (.cbar f)) (fun a s =>
    arriveOut a (s.readH a f.cm.a.num) .bar (s.opVal a f.cm.b 32) f.cm.d f.cm.c.num s) s

def execCvote (f : RForm) (s : State) : Host.Outcome State Fault Refusal :=
  perLane (form (.cvote f)) (fun a s =>
    arriveOut a (s.readH a f.cm.a.num) (.vote (fld f.func 0 2) (s.readPQ a f.pred2)) 0 f.cm.d f.cm.c.num s) s

def execCred (f : RForm) (s : State) : Host.Outcome State Fault Refusal :=
  perLane (form (.cred f)) (fun a s =>
    let v : DWord := BitVec.ofNat 64 (s.opVal a f.cm.b (tyW f.ty))
    arriveOut a (s.readH a f.cm.a.num) (.red (fld f.func 0 3) f.ty f.round v) 0 f.cm.d f.cm.c.num s) s

end Sys2Proof.Machine
end

