-- ==== Sys2Proof/Machine/Control.lean ====
section
/-!
DEFINITION. Branches and `EXIT` (spec/08 R167 to R170).
-/

namespace Sys2Proof.Machine

/-- The target of a B form: its line offset and slot, exact (R67, R168). -/
def branchTarget (pc : DWord) (f : BForm) : Int :=
  (lineOf pc).toNat + 64 * toVal true 28 f.offset.toNat + f.slot.toNat

def execBra (f : BForm) (s : State) : Host.Outcome State Fault Refusal :=
  perLane (form (.bra f)) (fun a s => .jump s (branchTarget (s.ctx a).pc f)) s

def execCall (f : BForm) (s : State) : Host.Outcome State Fault Refusal :=
  perLane (form (.call f)) (fun a s =>
    let pc := (s.ctx a).pc
    .jump (s.putD a f.cm.d 64 (nextPc pc).toNat) (branchTarget pc f)) s

def execBrx (f : RForm) (s : State) : Host.Outcome State Fault Refusal :=
  perLane (form (.brx f)) (fun a s => .jump s (s.opVal a f.cm.a 64 : Nat)) s

def execCallx (f : RForm) (s : State) : Host.Outcome State Fault Refusal :=
  perLane (form (.callx f)) (fun a s =>
    .jump (s.putD a f.cm.d 64 (nextPc (s.ctx a).pc).toNat) (s.opVal a f.cm.a 64 : Nat)) s

def execRet (f : RForm) (s : State) : Host.Outcome State Fault Refusal :=
  perLane (form (.ret f)) (fun a s => .jump s (s.opVal a f.cm.a 64 : Nat)) s

/-- A thread ends (R170): it departs its circles (R249), and entries of the decision queue that only its group still held are
released (R186). -/
def State.exitThread (s : State) (a : Agent) : State :=
  let c := a.core
  let p := s.place a
  let before := s.released c p
  let id := s.idOf a
  let s1 := s.modCtx a (fun x => { x with wait := .exited, opBuf := none })
  let s2 := s1.departAll (s.partOf a) id false
  if s.level a = .t then (s2.countReleases c p before).settleQueue c p else s2

def execExit (f : RForm) (s : State) : Host.Outcome State Fault Refusal :=
  perLane (form (.exit f)) (fun a s => .stay (s.exitThread a)) s

end Sys2Proof.Machine
end

