-- ==== Sys2Proof/Machine/Volumes.lean ====
section
/-!
DEFINITION. Coordinate volumes (spec/14 R263 to R282): the tile tree and its pool, the coordinate look-aside
buffer, and the volume instructions. A walk, an allocation and every access to a compact leaf are one step at the home; an
element of a dense leaf is a per-lane access (R268).
-/

namespace Sys2Proof.Machine

/-! ### Volume bytes at the home -/

/-- Read bytes of the pool for an agent: its rights (R119, R273), its tables, no poison. Where a tree entry, a free-list link or a
region field leads to an address that is not canonical, the checks of R119 before the leases trap first (DESIGN CHOICE, log 67). -/
def State.volRead (s : State) (a : Agent) (va n : Nat) : VolRes (List Byte) :=
  match s.checkGlobal a va n false false with
  | some t => .error t
  | none =>
    match s.agentRead (s.homeOf a) va n with
    | .ok bs => .ok bs
    | .error c => .error ⟨c, va⟩

/-- Write bytes of the pool for an agent; its own core's L1 holds no older copy. -/
def State.volWrite (s : State) (a : Agent) (va : Nat) (bs : List Byte) : VolRes State :=
  match s.checkGlobal a va bs.length true false with
  | some t => .error t
  | none => (s.agentWrite (s.homeOf a) va bs).mapError (⟨·, va⟩)

/-- Read a little-endian number of the pool. -/
def State.volNat (s : State) (a : Agent) (va n : Nat) : VolRes Nat := (s.volRead a va n).map leNat

/-! ### Tree entries (R264) -/

/-- What a tree entry says. -/
inductive Entry where
  | absent
  | node (at_ : Nat)
  | leaf (at_ : Nat) (compact : Bool)
deriving DecidableEq, Repr

/-- An entry of the last level or of one above it; none where the part cannot follow it (DEDUCED, log 29). -/
def Entry.read (last : Bool) (e : Nat) : Option Entry :=
  if e / 8 % 64 ≠ 0 then none
  else if !last && e / 2 % 4 != 0 then none
  else if e % 2 = 0 then some .absent
  else if last then
    if e / 512 % 8 ≠ 0 then none else some (.leaf (e / 4096 * 4096) (e / 2 % 2 == 1))
  else some (.node (e / 512 * 512))

/-- Where a walk ends: at level `k` in the entry at an address, which holds this. -/
structure Walked where
  k : Nat
  at_ : Nat
  raw : Nat
  entry : Entry
deriving DecidableEq, Repr

/-- The root node of a volume (R263). -/
def VolDesc.root (d : VolDesc) : Nat := d.pool + 0x200

/-- Follow the path of a tile from the node at an address (R262, R264). -/
def State.volWalk (s : State) (a : Agent) (d : VolDesc) (tile : Nat) : Nat → Nat → Nat → VolRes Walked
  | 0, _, node => .error ⟨.perm, node⟩
  | fuel + 1, k, node => do
    let at_ := node + 8 * d.path tile k
    let raw ← s.volNat a at_ 8
    match Entry.read (k + 1 == d.levels) raw with
    | none => .error ⟨.perm, at_⟩
    | some (.node n) => s.volWalk a d tile fuel (k + 1) n
    | some e => .ok { k := k, at_ := at_, raw := raw, entry := e }

def State.volFind (s : State) (a : Agent) (d : VolDesc) (tile : Nat) : VolRes Walked := s.volWalk a d tile 8 0 d.root

/-! ### The look-aside buffer (R269) -/

/-- An entry is used: it comes first; the least recently used of 256 leaves. -/
def Core.clbUse (k : Core) (v : VolName) (tile leaf : Nat) : Core :=
  { k with clb := ({ vf := v.vf, desc := v.desc, tile := tile, leaf := leaf } ::
      k.clb.filter (fun e => !e.is v tile)).take Config.clbEntries }

/-- The shoot-down of R277: on every core of the partition the entries go, once the accesses that used them have performed. -/
def State.shootDown (s : State) (part : Nat) (v : VolName) (tile : Option Nat) : State :=
  let cs := (s.cores.map (·.1)).filter (fun c => decide (c < 640) && s.partOfDie (dieOf c) == some part)
  cs.foldl (fun s c => (s.flush c).modCore c (fun k => { k with clb := k.clb.filter (fun e =>
    !(e.vf == v.vf && e.desc == v.desc && (match tile with
      | some t => e.tile == t
      | none => true))) })) s

/-! ### Allocation (R266) -/

/-- The header fields (R263). -/
structure Pool where
  free : Nat
  region : Nat
  count : Nat
  next : Nat
  nodeBlock : Nat
  nodeUsed : Nat
  tilesLive : Nat
  nodesLive : Nat
  spare : Nat
deriving DecidableEq, Repr

/-- The header; region 0 stands for the initial one. -/
def State.volPool (s : State) (a : Agent) (d : VolDesc) : VolRes Pool := do
  let b ← s.volRead a d.pool 0x40
  let region := leAt b 8 8
  .ok { free := leAt b 0 8, region := if region = 0 then d.pool + 4096 else region,
        count := if region = 0 then d.tiles else leAt b 0x10 4, next := leAt b 0x14 4, nodeBlock := leAt b 0x18 8,
        nodeUsed := leAt b 0x20 4, tilesLive := leAt b 0x24 4, nodesLive := leAt b 0x28 4, spare := leAt b 0x2C 4 }

def Pool.bytes (p : Pool) : List Byte :=
  leBytes 8 p.free ++ leBytes 8 p.region ++ leBytes 4 p.count ++ leBytes 4 p.next ++ leBytes 8 p.nodeBlock
    ++ leBytes 4 p.nodeUsed ++ leBytes 4 p.tilesLive ++ leBytes 4 p.nodesLive ++ leBytes 4 p.spare

/-- Take blocks, each from the free list first, else from the region; none left is none. -/
def State.takeBlocks (s : State) (a : Agent) : Nat → Pool → VolRes (Option (List Nat × Pool))
  | 0, p => .ok (some ([], p))
  | n + 1, p =>
    if p.free ≠ 0 then do
      let next ← s.volNat a p.free 8
      let r ← s.takeBlocks a n { p with free := next }
      .ok (r.map (fun x => (p.free :: x.1, x.2)))
    else if p.next < p.count then do
      let r ← s.takeBlocks a n { p with next := p.next + 1 }
      .ok (r.map (fun x => ((p.region + 4096 * p.next) :: x.1, x.2)))
    else .ok none

/-- The node slots that an allocation of `n` nodes uses, spare slots first, then the node block's, then those of new blocks; and
the header after it. -/
def takeNodes (d : VolDesc) (n : Nat) (fresh : List Nat) (p : Pool) : List Nat × Pool :=
  let fromSpare := min n (6 - p.spare)
  let n1 := n - fromSpare
  let fromBlock := if p.nodeBlock = 0 then 0 else min n1 (8 - p.nodeUsed)
  let n2 := n1 - fromBlock
  let spares := (List.range fromSpare).map (fun i => d.pool + 0x400 + 512 * (p.spare + i))
  let olds := (List.range fromBlock).map (fun i => p.nodeBlock + 512 * (p.nodeUsed + i))
  let news := (fresh.flatMap (fun b => (List.range 8).map (fun i => b + 512 * i))).take n2
  (spares ++ olds ++ news,
    { p with spare := p.spare + fromSpare, nodesLive := p.nodesLive + n,
             nodeBlock := if n2 = 0 then p.nodeBlock else fresh.getLastD p.nodeBlock,
             nodeUsed := if n2 = 0 then p.nodeUsed + fromBlock else n2 - 8 * (fresh.length - 1) })

/-- New node blocks that `n` nodes need. -/
def newBlocks (n : Nat) (p : Pool) : Nat :=
  ceilDiv (n - min n (6 - p.spare) - (if p.nodeBlock = 0 then 0 else 8 - p.nodeUsed)) 8

/-- `n` bytes of the background (R260). -/
def VolDesc.fill (d : VolDesc) : List Byte :=
  (List.replicate (4096 / d.elem) (leBytes d.elem (d.background % 2 ^ (8 * d.elem)))).flatten

/-- How an element access or an allocation of a volume ends that does not end the grid. -/
inductive Allocated where
  | ok (s : State) (w : Walked)
  /-- the pool runs out: the blocks that the allocation needs -/
  | full (blocks : Nat)

/-- A step of the home that finds no block: the rights over what it would write come first, the header and the places of a list
(R273). -/
def State.volShort (s : State) (a : Agent) (d : VolDesc) (places : List (Nat × Nat)) {α : Type} (x : α) : VolRes α :=
  match ((d.pool, 0x40) :: places).findSome? (fun p => s.checkGlobal a (p.1 : Nat) p.2 true false) with
  | some t => .error t
  | none => .ok x

/-- What an allocation of `n` nodes would write beside the header and new blocks: the entry where the walk ended, and the node slots
that the header has left. -/
def Pool.slots (p : Pool) (d : VolDesc) (n : Nat) (w : Walked) : List (Nat × Nat) :=
  (w.at_, 8) :: ((takeNodes d n [] p).1.map (·, 512))

/-- Write bytes in order. -/
def State.volWrites (s : State) (a : Agent) : List (Nat × List Byte) → VolRes State
  | [] => .ok s
  | (va, bs) :: r => do
    let s1 ← s.volWrite a va bs
    s1.volWrites a r

/-- THE ALLOCATION of the leaf of a tile whose walk ended absent at an entry (R266). -/
def State.volAllocate (s : State) (a : Agent) (d : VolDesc) (tile : Nat) (w : Walked) : VolRes Allocated := do
  let p0 ← s.volPool a d
  let n := d.levels - 1 - w.k
  let blocks := 1 + newBlocks n p0
  let got ← s.takeBlocks a blocks p0
  match got with
  | none => s.volShort a d (p0.slots d n w) (.full blocks)
  | some (bs, p1) =>
    let leaf := bs.headD 0
    let (nodes, p2) := takeNodes d n bs.tail p1
    let compact := d.budget != 0
    let leafEntry := leaf + (if compact then 3 else 1)
    let places := w.at_ :: (nodes.zipIdx.map (fun x => x.1 + 8 * d.path tile (w.k + 1 + x.2)))
    let values := (nodes.map (· + 1)) ++ [leafEntry]
    let zeros := nodes.map (fun x => (x, List.replicate 512 (0 : Byte)))
    let leafBytes := (leaf, if compact then List.replicate 16 (0 : Byte) else d.fill)
    let entries := ((places.zip values).map (fun x => (x.1, leBytes 8 x.2))).reverse
    let s1 ← s.volWrites a (zeros ++ [leafBytes] ++ entries ++ [(d.pool, { p2 with tilesLive := p2.tilesLive + 1 }.bytes)])
    .ok (.ok s1 { k := d.levels - 1, at_ := places.getLastD w.at_, raw := leafEntry, entry := .leaf leaf compact })

/-! ### Compact leaves (R265, R267) -/

/-- The pairs of a compact leaf: element index and value. -/
def State.volPairs (s : State) (a : Agent) (leaf : Nat) : VolRes (List (Nat × Nat)) := do
  let n ← s.volNat a leaf 2
  let b ← s.volRead a (leaf + 16) (16 * n)
  .ok ((List.range n).map (fun i => (leAt b (16 * i) 4, leAt b (16 * i + 8) 8)))

/-- A pair's 16 bytes. -/
def pairBytes (e v : Nat) : List Byte := leBytes 8 (e % 2 ^ 32) ++ leBytes 8 v

/-- Write an element of a compact leaf, with the rewrite of a full one. -/
def State.volPut (s : State) (a : Agent) (d : VolDesc) (w : Walked) (leaf e v : Nat) : VolRes State := do
  let ps ← s.volPairs a leaf
  match ps.findIdx? (fun p => p.1 == e) with
  | some i => s.volWrite a (leaf + 16 + 16 * i) (pairBytes e v)
  | none =>
    if ps.length < d.budget then
      s.volWrites a [(leaf + 16 + 16 * ps.length, pairBytes e v), (leaf, leBytes 2 (ps.length + 1))]
    else
      let put (x : Nat × Nat) : Nat × List Byte := (leaf + (x.1 * d.elem) % 4096, leBytes d.elem (x.2 % 2 ^ (8 * d.elem)))
      s.volWrites a ([(leaf, d.fill)] ++ ps.map put ++ [(w.at_, leBytes 8 (leaf + 5)), put (e, v)])

/-- The value of an element of a compact leaf. -/
def State.volGet (s : State) (a : Agent) (d : VolDesc) (leaf e : Nat) : VolRes Nat := do
  let ps ← s.volPairs a leaf
  match ps.find? (fun p => p.1 == e) with
  | some p => .ok (p.2 % 2 ^ (8 * d.elem))
  | none => .ok (d.background % 2 ^ (8 * d.elem))

/-! ### The instructions -/

/-- A lane that finds no block asks the supervisor for a new region (R273, R374). -/
def State.volFull (s : State) (a : Agent) (d : VolDesc) (v : VolName) (blocks : Nat) : LaneOut :=
  .stay (s.raiseResumable a { code := .volPool, arg0 := BitVec.ofNat 64 d.pool, arg1 := BitVec.ofNat 64 blocks,
                              arg2 := BitVec.ofNat 64 v.desc, resume := (s.ctx a).pc })

/-- A request to the home of a volume is a request to L2 (R388); its reads of tree entries acquire at `.dev` (R282). What it reads of an
unfinished matrix operation's bytes is undefined, for each request anew (R217, log 4). -/
def State.volAsk (s : State) (a : Agent) : State := ((s.spend (s.homeOf a)).acquireAt a.core 4).perfEvent a.core 6 (s.vfOf a) 1

/-- A walk after a miss of the look-aside buffer; a present dense leaf enters the buffer (R269). -/
def State.volMiss (s : State) (a : Agent) : State := (s.volAsk a).perfEvent a.core 11 (s.vfOf a) 1
def State.volCached (s : State) (a : Agent) (v : VolName) (tile leaf : Nat) : State :=
  s.modCore a.core (fun k => k.clbUse v tile leaf)

/-- An element access at a dense leaf: a weak access of the global space, or an `ATOMA.rlx.dev` (R268, R274, R275). -/
def State.volDense (s : State) (a : Agent) (d : VolDesc) (leaf e : Nat) (write ordered : Bool) (order scope : BitVec 3)
    (kind : PendKind) (ctr : Ctr) : VolRes State :=
  let va := leaf + e * d.elem
  match s.checkGlobal a va d.elem write ordered with
  | some t => .error t
  | none => .ok (s.post a (.glob va) d.elem order scope 0 kind ctr)

/-- `VLD` (R274). -/
def vldOut (f : XForm) (a : Agent) (s : State) : LaneOut :=
  let d := s.volDesc a f
  let v := s.volName a f
  let c := s.volCoords a f d
  match d.check c false with
  | some t => .trap t
  | none =>
    let tile := d.tileOf c
    let e := d.elemOf c
    let load (s : State) (leaf : Nat) : VolRes LaneOut :=
      (s.volDense a d leaf e false false 0 0 (.load f.cm.d false) .ld).map .done
    let give (s : State) (x : Nat) : LaneOut := .done (s.putD a f.cm.d (max 32 (8 * d.elem)) x)
    match (s.core a.core).clbFind v tile with
    | some leaf => s.laneOf a (load (s.volCached a v tile leaf) leaf)
    | none =>
      let s1 := s.volMiss a
      s1.laneOf a (do
        let w ← s1.volFind a d tile
        match w.entry with
        | .leaf leaf true => do
          let x ← s1.volGet a d leaf e
          .ok (give s1 x)
        | .leaf leaf false => load (s1.volCached a v tile leaf) leaf
        | _ => .ok (give s1 (d.background % 2 ^ (8 * d.elem))))

/-- The leaf of a tile, allocated where it is absent, and then what a form does with it. -/
def volWith (f : XForm) (a : Agent) (s : State) (d : VolDesc) (tile : Nat)
    (act : State → Walked → Nat → Bool → VolRes LaneOut) : LaneOut :=
  let v := s.volName a f
  let go (s : State) (w : Walked) : VolRes LaneOut :=
    match w.entry with
    | .leaf leaf compact => act (if compact then s else s.volCached a v tile leaf) w leaf compact
    | _ => .ok (.done s)
  let s1 := s.volMiss a
  s1.laneOf a (do
    let w ← s1.volFind a d tile
    match w.entry with
    | .leaf _ _ => go s1 w
    | _ =>
      let r ← s1.volAllocate a d tile w
      match r with
      | .full n => .ok (s1.volFull a d v n)
      | .ok s2 w2 => go s2 w2)

/-- The region of a volume in append mode: its base, blocks, the append count and first. -/
def State.volAppend (s : State) (a : Agent) (d : VolDesc) : VolRes (Nat × Nat × Nat × Nat) := do
  let b ← s.volRead a d.pool 0x40
  let region := leAt b 8 8
  .ok (if region = 0 then d.pool + 4096 else region, if region = 0 then d.tiles else leAt b 0x10 4, leAt b 0x30 8, leAt b 0x38 8)

/-- `VST` in append mode (R280). -/
def appendOut (f : XForm) (a : Agent) (s : State) (d : VolDesc) (c : List Nat) : LaneOut :=
  let s := s.volAsk a
  s.laneOf a (do
    let (region, count, i, first) ← s.volAppend a d
    let j := i - first
    if 4096 * count < 32 * (j + 1) then s.volShort a d [] (s.volFull a d (s.volName a f) 1)
    else
      let coords := (List.range 4).flatMap (fun k => leBytes 4 (c.getD k 0))
      let rec_ := coords ++ leBytes 8 (s.opVal a f.cm.b (8 * d.elem)) ++ List.replicate 8 (0 : Byte)
      let s1 ← s.volWrites a [(region + 32 * j, rec_), (d.pool + 0x30, leBytes 8 (i + 1))]
      .ok (.done s1))

/-- An element write, plain or by an op of R223 (R274, R275). -/
def volStoreOut (f : XForm) (a : Agent) (s : State) (red : Option (Nat × Nat)) : LaneOut :=
  let d := s.volDesc a f
  let v := s.volName a f
  let c := s.volCoords a f d
  match d.check c red.isNone with
  | some t => .trap t
  | none =>
    if d.append then appendOut f a s d c
    else
      let tile := d.tileOf c
      let e := d.elemOf c
      let b := s.opVal a f.cm.b (8 * d.elem)
      let dense (s : State) (leaf : Nat) : VolRes LaneOut :=
        match red with
        | none => (s.volDense a d leaf e true false 0 0 (.store (leBytes d.elem b)) .st).map .done
        | some (op, ty) => (s.volDense a d leaf e true true 1 4 (.atom (.lit 0) op ty (BitVec.ofNat 64 b)) .st).map .done
      match (s.core a.core).clbFind v tile with
      | some leaf => s.laneOf a (dense (s.volCached a v tile leaf) leaf)
      | none =>
        volWith f a s d tile (fun s w leaf compact =>
          if compact then do
            let x ← s.volGet a d leaf e
            let s1 ← s.volPut a d w leaf e (match red with
              | none => b
              | some (op, ty) => atomOp op ty x b)
            .ok (.done s1)
          else dense s leaf)

def execVld (f : XForm) (s : State) : Host.Outcome State Fault Refusal := perLane (form (.vld f)) (vldOut f) s

def execVst (f : XForm) (s : State) : Host.Outcome State Fault Refusal :=
  perLane (form (.vst f)) (fun a s => volStoreOut f a s none) s

def execVred (f : XForm) (s : State) : Host.Outcome State Fault Refusal :=
  perLane (form (.vred f)) (fun a s => volStoreOut f a s (some (fld f.flags 4 4, fld f.flags 0 4))) s

/-- `VPROBE` (R276): the leaf's entry, or 0. -/
def execVprobe (f : XForm) (s : State) : Host.Outcome State Fault Refusal :=
  perLane (form (.vprobe f)) (fun a s =>
    let d := s.volDesc a f
    let c := s.volCoords a f d
    match d.check c false with
    | some t => .trap t
    | none =>
      let s1 := s.volAsk a
      s1.laneOf a (do
        let w ← s1.volFind a d (d.tileOf c)
        .ok (.done (s1.putD a f.cm.d 64 (match w.entry with
          | .leaf _ _ => w.raw
          | _ => 0))))) s

/-- `VTOUCH` (R276). -/
def execVtouch (f : XForm) (s : State) : Host.Outcome State Fault Refusal :=
  perLane (form (.vtouch f)) (fun a s =>
    let d := s.volDesc a f
    let c := s.volCoords a f d
    match d.check c false with
    | some t => .trap t
    | none => volWith f a s d (d.tileOf c) (fun s w _ _ => .ok (.done (s.putD a f.cm.d 64 w.raw)))) s

/-! ### Freeing (R277, R278) -/

/-- Push blocks onto the free list, in order. -/
def State.pushBlocks (s : State) (a : Agent) : List Nat → Nat → VolRes (State × Nat)
  | [], head => .ok (s, head)
  | b :: bs, head => do
    let s1 ← s.volWrite a b (leBytes 8 head)
    s1.pushBlocks a bs b

/-- A release of everything that the core of an agent has pending, then the shoot-down. -/
def State.volShoot (s : State) (a : Agent) (f : XForm) (tile : Option Nat) : State :=
  (s.flush a.core).shootDown (s.partOf a) (s.volName a f) tile

/-- `VFREE` of one tile. -/
def vfreeOut (f : XForm) (a : Agent) (s : State) : LaneOut :=
  let d := s.volDesc a f
  let c := s.volCoords a f d
  match d.check c false with
  | some t => .trap t
  | none =>
    let tile := d.tileOf c
    let s := s.volAsk a
    s.laneOf a (do
      let w ← s.volFind a d tile
      match w.entry with
      | .leaf leaf _ => do
        let s1 ← s.volWrite a w.at_ (leBytes 8 0)
        let s2 := s1.volShoot a f (some tile)
        let p ← s2.volPool a d
        let (s3, head) ← s2.pushBlocks a [leaf] p.free
        let s4 ← s3.volWrites a [(d.pool, leBytes 8 head), (d.pool + 0x24, leBytes 4 (p.tilesLive + 2 ^ 32 - 1))]
        .ok (.done s4)
      | _ => .ok (.done (s.volShoot a f (some tile))))

def execVfree (f : XForm) (s : State) : Host.Outcome State Fault Refusal := perLane (form (.vfree f)) (vfreeOut f) s

/-- The leaves below a node in ascending tile number, and the nodes below it. -/
def State.volTree (s : State) (a : Agent) (d : VolDesc) : Nat → Nat → Nat → VolRes (List Nat × List Nat)
  | 0, _, node => .error ⟨.perm, node⟩
  | fuel + 1, k, node => do
    let b ← s.volRead a node 512
    (List.range 64).foldlM (fun (acc : List Nat × List Nat) i => do
      match Entry.read (k + 1 == d.levels) (leAt b (8 * i) 8) with
      | none => .error ⟨.perm, node + 8 * i⟩
      | some .absent => .ok acc
      | some (.leaf l _) => .ok (acc.1 ++ [l], acc.2)
      | some (.node n) => do
        let (ls, ns) ← s.volTree a d fuel (k + 1) n
        .ok (acc.1 ++ ls, acc.2 ++ [n] ++ ns)) ([], [])

/-- `VFREE.all`. -/
def vfreeAllOut (f : XForm) (a : Agent) (s : State) : LaneOut :=
  let d := s.volDesc a f
  if d.append then .trap ⟨.perm, 0⟩
  else
    let s := s.volAsk a
    s.laneOf a (do
      let (leaves, nodes) ← s.volTree a d 8 0 d.root
      let p ← s.volPool a d
      let s1 ← s.volWrites a [(d.root, List.replicate 512 (0 : Byte)), (d.pool + 0x18, leBytes 8 0), (d.pool + 0x20, leBytes 4 0),
        (d.pool + 0x2C, leBytes 4 0)]
      let s2 := s1.volShoot a f none
      let blocks := sortBy id (((nodes.map (fun n => n / 4096 * 4096)).filter (· != d.pool)).eraseDups)
      let (s3, head) ← s2.pushBlocks a (leaves ++ blocks) p.free
      let less (x n : Nat) : Nat := (x + 2 ^ 32 - n % 2 ^ 32) % 2 ^ 32
      let s4 ← s3.volWrites a [(d.pool, leBytes 8 head), (d.pool + 0x24, leBytes 4 (less p.tilesLive leaves.length)),
        (d.pool + 0x28, leBytes 4 (less p.nodesLive nodes.length))]
      .ok (.done s4))

def execVfreeAll (f : XForm) (s : State) : Host.Outcome State Fault Refusal :=
  perLane (form (.vfreeAll f)) (vfreeAllOut f) s

/-- `VINV` (R278). -/
def execVinv (f : XForm) (s : State) : Host.Outcome State Fault Refusal :=
  perLane (form (.vinv f)) (fun a s => .done (s.volShoot a f none)) s

/-- The rights that `VPOOL` needs: the header block and every block of the region in leases, and then in writable ones (R279). -/
def State.poolRights (s : State) (a : Agent) (h base n : Nat) : Option Trap :=
  [(h, 4096, false), (base, 4096 * n, false), (h, 4096, true), (base, 4096 * n, true)].findSome?
    (fun x => if x.2.1 = 0 then none else (s.rights a x.1 x.2.1 x.2.2).map (⟨·, x.1⟩))

/-- `VPOOL` (R279). While the region is the initial one, which no allocation has used, `tiles` blocks are left (R263). -/
def execVpool (f : XForm) (s : State) : Host.Outcome State Fault Refusal :=
  perLane (form (.vpool f)) (fun a s =>
    let h := s.opVal a f.cm.a 64
    let base := s.opVal a f.cm.b 64
    let n := s.opVal a f.cm.c 32
    if h % 4096 ≠ 0 ∨ base % 4096 ≠ 0 then .trap ⟨.align, if h % 4096 ≠ 0 then h else base⟩
    else
      match s.poolRights a h base n with
      | some t => .trap t
      | none =>
        let s := s.volAsk a
        s.laneOf a (do
          let b ← s.volRead a h 0x40
          if leAt b 8 8 = 0 ∨ leAt b 0x14 4 < leAt b 0x10 4 ∨ n = 0 then .ok (.done (s.writeP a f.cm.d.num false))
          else
            let s1 ← s.volWrites a [(h + 8, leBytes 8 base ++ leBytes 4 n ++ leBytes 4 0),
              (h + 0x38, leBytes 8 (leAt b 0x30 8))]
            .ok (.done (s1.writeP a f.cm.d.num true)))) s

end Sys2Proof.Machine
end

