-- ==== Sys2Proof/Machine/Copies.lean ====
section
/-!
DEFINITION. The copy engine (spec/15 R283 to R305): tensor records, the copy instructions, what a chunk moves, `OWAIT`,
`OFENCE`, and the walks of the two TLBs (spec/06 R121, spec/15 R302).
-/

namespace Sys2Proof.Machine

/-! ### Tensor records (R284 to R286) -/

/-- A tensor record. For `.e2m1` extents, tile extents and the first coordinate count units of two elements. -/
structure Tensor where
  base : Nat
  ty : Nat
  size : Nat
  rank : Nat
  ext : List Nat
  stride : List Nat
  tile : List Nat
  pad : Nat
deriving DecidableEq, Repr

/-- Bytes of an element, or of a unit of `.e2m1`. -/
def unitBytes (ty : Nat) : Nat := if ty = 14 then 1 else tyWn ty / 8

/-- Dimension 0 of an `.e2m1` record counts in twos. -/
def halve (ty : Nat) : List Nat → List Nat
  | [] => []
  | x :: r => if ty = 14 then x / 2 :: r else x :: r

def Tensor.ofBytes (b : List Byte) : Tensor :=
  let ty := leAt b 8 1 % 16
  let rank := leAt b 9 1 % 8
  let p := leAt b 0x48 8
  { base := leAt b 0 8, ty := ty, size := unitBytes ty, rank := rank,
    ext := halve ty ((List.range rank).map (fun d => leAt b (0x10 + 4 * d) 4 + 1)),
    stride := (List.range rank).map (fun d => leAt b (0x20 + 8 * d) 6),
    tile := halve ty ((List.range rank).map (fun d => leAt b (0x40 + 2 * d) 2 + 1)),
    pad := if ty = 14 then p % 16 * 17 else p % 2 ^ (8 * unitBytes ty) }

/-- The tile size `S`. -/
def Tensor.bytes (t : Tensor) : Nat := t.tile.foldl (· * ·) t.size

/-- A bound tensor record is accepted (R285). -/
def tensorAccepted (b : List Byte) : Bool :=
  let t := Tensor.ofBytes b
  leAt b 8 1 / 16 == 0 && leAt b 9 1 / 8 == 0 && zeroAt b 0x0A 6 && zeroAt b 0x50 48
  && canon (BitVec.ofNat 64 t.base) && decide (t.ty ≤ 14 ∧ 1 ≤ t.rank ∧ t.rank ≤ 4 ∧ t.base % t.size = 0)
  && (List.range 4).all (fun d => zeroAt b (0x26 + 8 * d) 2
      && (decide (d < t.rank) || (zeroAt b (0x10 + 4 * d) 4 && zeroAt b (0x20 + 8 * d) 8 && zeroAt b (0x40 + 2 * d) 2)))
  && t.stride.head? == some t.size && t.stride.all (fun x => x % t.size == 0)
  && (t.ty != 14 || (leAt b 0x10 4 % 2 == 1 && leAt b 0x40 2 % 2 == 1))
  && decide (t.bytes ≤ 1048576)

/-- The indices of element `k` of a tile, dimension 0 first. -/
def digits : Nat → List Nat → List Nat
  | _, [] => []
  | k, n :: r => k % n :: digits (k / n) r

/-- Where element `k` of the tile at an origin lies, where it is in extent (R286). -/
def Tensor.globalOf (t : Tensor) (c : List Int) (k : Nat) : Option Nat :=
  let x := ((c.zip (digits k t.tile)).map (fun p => p.1 + (p.2 : Int)))
  if (x.zip t.ext).all (fun p => decide (0 ≤ p.1 ∧ p.1 < (p.2 : Int))) then
    some (t.base + (x.zip t.stride).foldl (fun s p => s + p.1.toNat * p.2) 0)
  else none

/-! ### The bytes of a command -/

/-- A place some bytes further on. -/
def Place.shift (p : Place) (n : Nat) : Place :=
  match p with
  | .glob a => .glob (a + n)
  | .store c w a => .store c w (a + n)
  | .cstore a => .cstore (a + n)
  | .wstore a => .wstore (a + n)

def CopyCmd.tensor (c : CopyCmd) : Tensor := Tensor.ofBytes c.rec_

/-- The global place of byte `j` of a tile, in extent. -/
def CopyCmd.tileByte (c : CopyCmd) (j : Nat) : Option Place :=
  let t := c.tensor
  (t.globalOf c.coords (j / t.size)).map (fun ga => .glob (ga + j % t.size))

/-- The source of byte `j`; none is padding. -/
def CopyCmd.srcAt (c : CopyCmd) (j : Nat) : Option Place :=
  match c.src with
  | some p => some (p.shift j)
  | none => c.tileByte j

/-- The pad byte of byte `j` of a tile. -/
def CopyCmd.padAt (c : CopyCmd) (j : Nat) : Byte := (leBytes c.tensor.size c.tensor.pad).getD (j % c.tensor.size) 0

/-- The destinations of byte `j`: none for an element that `CPYS` drops. -/
def CopyCmd.dstAt (c : CopyCmd) (j : Nat) : List Place :=
  if c.op = 2 then (c.tileByte j).toList else c.dsts.map (·.shift j)

/-- Chunks of 256 bytes. -/
def CopyCmd.chunks (c : CopyCmd) : Nat := if c.op = 1 ∧ c.dsts.isEmpty then 0 else ceilDiv c.n 256
/-- The bytes of a chunk. -/
def CopyCmd.chunk (c : CopyCmd) (k : Nat) : List Nat := (List.range (min 256 (c.n - 256 * k))).map (· + 256 * k)

/-- Bytes that count toward the credit of one object (R292 to R295). -/
def CopyCmd.counted (c : CopyCmd) (js : List Nat) : Nat :=
  if c.op = 2 then (js.filter (fun j => (c.tileByte j).isSome)).length else js.length

/-- The credit or expectation of each object for some bytes: without `.each` the members' bytes go to one object (R293). -/
def CopyCmd.credits (c : CopyCmd) (js : List Nat) : List (Place × Nat) :=
  let n := c.counted js
  if copyEach c.form then c.bars.map (·, n)
  else c.bars.map (·, if c.op = 1 then n * c.dsts.length else n)

/-! ### Issue (R288 to R295) -/

/-- Bytes of an address operand: a `g` quad, or two `s` registers of a lead (R288). -/
def State.quadVal (s : State) (a : Agent) (o : Opnd) : Nat :=
  match o with
  | .s i => (s.readS a i.toNat).toNat + 2 ^ 64 * (s.readS a (i.toNat + 1)).toNat
  | _ => s.opVal a o 128

/-- The signed coordinates of a copy form (R286, R288). -/
def State.copyCoords (s : State) (a : Agent) (o : Opnd) (rank : Nat) : List Int :=
  let v := if a.isLead then s.quadVal a o else s.opVal a o (rankBits rank)
  (List.range rank).map (fun i => toVal true 32 (v / 2 ^ (32 * i) % 2 ^ 32))

/-- The check of one local side: space code, address, bytes (R290). -/
def State.checkLocal (s : State) (a : Agent) (space addr n : Nat) : Option Trap :=
  if space = 0 then none
  else if addr % 16 ≠ 0 then some ⟨.align, 0⟩
  else
    match space with
    | 1 => if s.astoreOf a < addr + n then some ⟨.storeBound, 0⟩ else none
    | 2 =>
      if 0xFFFFFF < addr then some ⟨.storeBound, 0⟩
      else if s.teamOf a ≤ addr / 2 ^ 20 then some ⟨.perm, 0⟩
      else if s.astoreOf a < addr % 2 ^ 20 + n then some ⟨.storeBound, 0⟩
      else none
    | 3 => if Config.wstoreBytes < addr + n then some ⟨.storeBound, 0⟩ else none
    | _ => if Config.cstoreBytes < addr + n then some ⟨.storeBound, 0⟩ else none

/-- The place of a copy side (R287). -/
def State.copyPlace (s : State) (a : Agent) (space addr : Nat) : Place :=
  match space with
  | 0 => .glob addr
  | 1 => .store a.core (s.place a) addr
  | 2 => let (c, p) := s.member a (addr / 2 ^ 20); .store c p (addr % 2 ^ 20)
  | 3 => .wstore addr
  | _ => .cstore addr

/-- The command that a copy form makes, before its checks. -/
def State.copyCmd (s : State) (op : Nat) (f : XForm) (a : Agent) : CopyCmd :=
  let rec_ := (lookupN (((s.gridOf a).map (·.recs)).getD []) f.rslot.toNat).getD []
  let t := Tensor.ofBytes rec_
  let b := s.opVal a f.cm.b 32
  let c := s.ctx a
  let coords0 := s.copyCoords a f.cm.a t.rank
  let coords := if t.ty = 14 then (match coords0 with
    | x :: r => x / 2 :: r
    | [] => []) else coords0
  let members := (List.range 16).filter (fun m => (b / 2 ^ 16).testBit m)
  let memberAt (m off : Nat) : Place := let (k, p) := s.member a m; .store k p off
  let q := s.quadVal a f.cm.a
  let sideAddr (space v : Nat) : Nat := if space = 0 then v % 2 ^ 64 else v % 2 ^ 32
  let (src, dsts, n) : Option Place × List Place × Nat :=
    match op with
    | 0 => (none, [s.copyPlace a (copyDst f) b], t.bytes)
    | 1 => (none, members.map (fun m => memberAt m (b % 2 ^ 16 * 16)), t.bytes)
    | 2 => (some (s.copyPlace a (copySrc f) b), [], t.bytes)
    | _ => (some (s.copyPlace a (copySrc f) (sideAddr (copySrc f) q)),
            [s.copyPlace a (copyDst f) (sideAddr (copyDst f) (q / 2 ^ 64))], b)
  let bar := s.opVal a f.cm.c (if copyBar f = 2 then 64 else 32)
  let bars := if f.cm.c = .lit 0 then []
    else if copyEach f then members.map (fun m => memberAt m bar)
    else [s.copyPlace a (match copyBar f with
      | 0 => 1
      | 1 => 2
      | _ => 0) bar]
  { id := s.nextOp, agent := a, pc := c.pc, issued := s.clock, form := f, op := op, via := s.viaOf a, rec_ := if op = 3 then [] else rec_,
    coords := if op = 3 then [] else coords, src := src, dsts := dsts, n := n, bars := bars,
    undefs := c.marks.flatMap (fun m => m.spans ++ m.tiles.map (fun t => (.cstore (32768 * t), 32768))) }

/-- The checks of R290 in their order (DEDUCED, log 30). -/
def State.copyCheck (s : State) (op : Nat) (f : XForm) (a : Agent) (c : CopyCmd) : Option Trap :=
  let t := c.tensor
  let b := s.opVal a f.cm.b 32
  let members := (List.range 16).filter (fun m => (b / 2 ^ 16).testBit m)
  let q := s.quadVal a f.cm.a
  let odd := op != 3 && t.ty == 14 && ((s.copyCoords a f.cm.a t.rank).headD 0) % 2 != 0
  let locals : List (Option Trap) :=
    match op with
    | 0 => [s.checkLocal a (copyDst f) b c.n]
    | 1 => members.map (fun m => if s.teamOf a ≤ m then some ⟨.perm, 0⟩ else s.checkLocal a 1 (b % 2 ^ 16 * 16) c.n)
    | 2 => [s.checkLocal a (copySrc f) b c.n]
    | _ => [s.checkLocal a (copyDst f) (q / 2 ^ 64 % 2 ^ 32) c.n, s.checkLocal a (copySrc f) (q % 2 ^ 32) c.n]
  let aligned16 := (copySrc f ≠ 0 ∨ q % 2 ^ 64 % 16 = 0) ∧ (copyDst f ≠ 0 ∨ q / 2 ^ 64 % 16 = 0) ∧ b % 16 = 0
  let bar := s.opVal a f.cm.c (if copyBar f = 2 then 64 else 32)
  let barTrap : Option Trap :=
    if c.bars.isEmpty then none
    else s.checkSpace a (match copyBar f with
      | 0 => 1
      | 1 => 2
      | _ => 0) bar 16 true true
  let written (x : Place) : Bool :=
    if op = 2 then (List.range (c.n / t.size)).any (fun k => match t.globalOf c.coords k with
      | some ga => (Place.glob ga).overlaps t.size x 16
      | none => false)
    else c.dsts.any (fun d => d.overlaps c.n x 16)
  if odd then some ⟨.align, 0⟩
  else
    match locals.filterMap id with
    | e :: _ => some e
    | [] =>
      if op = 3 ∧ ¬ aligned16 then some ⟨.align, 0⟩
      else
        match barTrap with
        | some e => some e
        | none => if c.bars.any written then some ⟨.barBad, 0⟩ else none

/-- The physical address that an access of a command reaches through the engine's walk-ahead TLB, or the trap (R302, R398). -/
def State.copyXlate (s : State) (c : CopyCmd) (core va : Nat) (write : Bool) : Except Trap Nat :=
  if !write && s.walkDenied (some (dieOf core)) (s.core core).walkAhead c.via (s.leasesOf c.agent) va 1 then .error ⟨.perm, va⟩
  else
  match s.xlateBy (some (dieOf core)) (s.core core).walkAhead c.via va write with
  | some pa => .ok pa
  | none => .error ⟨s.missCode (some (dieOf core)) (s.core core).walkAhead c.via va write, va⟩

/-- The object that a place names, through the engine's walk-ahead TLB. -/
def State.copyObject (s : State) (c : CopyCmd) (core : Nat) (p : Place) : Except Trap ObjRef :=
  match p with
  | .glob va => (s.copyXlate c core va true).map .glob
  | .store k w off => .ok (.store k w off)
  | _ => .error ⟨.barBad, 0⟩

/-- An object stands in bytes that a matrix operation of the issuer worked on when the command issued (R217). -/
def CopyCmd.spoilsAt (c : CopyCmd) (p : Place) : Bool := c.undefs.any (fun u => p.overlaps 16 u.1 u.2)

/-- Apply expectations or credits; an invalid object ends the grid (R291), a poisoned one too (R407). A credit hands on the bytes
that it counts (R216). -/
def State.copyCount (s : State) (c : CopyCmd) (core : Nat) (credit : Bool) (l : List (Place × Nat)) : State × Option Trap :=
  l.foldl (fun acc x =>
    match s.copyObject c core x.1 with
    | .error t => (acc.1, acc.2 <|> some t)
    | .ok r =>
      let s0 := acc.1.spoilObj core r (c.spoilsAt x.1)
      let (s1, bad) := if credit then (s0.creditSeen core c.id r).landCredit core r x.2 else s0.landExpect core r x.2
      (s1, acc.2 <|> bad.map (⟨·, 0⟩))) (s, none)

/-- The copy engine of a core has no room for one more command (R283). -/
def Core.copiesFull (k : Core) : Bool := decide (Config.copyQueue ≤ k.copies.length)

/-- A copy form: while the engine has no room, the lane stays at it. Else it is checked, its expectation made, its command handed
to the engine (R283, R290, R292 to R296). -/
def copyOut (op : Nat) (f : XForm) (a : Agent) (s : State) : LaneOut :=
  if (s.core a.core).copiesFull then .stay s
  else
    let c := s.copyCmd op f a
    match s.copyCheck op f a c with
    | some t => .trap t
    | none =>
      let (s1, bad) := if copyExp f then s.copyCount c a.core false (c.credits (List.range c.n)) else (s, none)
      match bad with
      | some t => .trap t
      | none => .done (({ s1 with nextOp := s1.nextOp + 1 } : State).modCore a.core (fun k => { k with copies := k.copies ++ [c] }))

def execCpy (f : XForm) (s : State) : Host.Outcome State Fault Refusal := perLane (form (.cpy f)) (copyOut 0 f) s
def execCpym (f : XForm) (s : State) : Host.Outcome State Fault Refusal := perLane (form (.cpym f)) (copyOut 1 f) s
def execCpys (f : XForm) (s : State) : Host.Outcome State Fault Refusal := perLane (form (.cpys f)) (copyOut 2 f) s
def execCpyr (f : XForm) (s : State) : Host.Outcome State Fault Refusal := perLane (form (.cpyr f)) (copyOut 3 f) s

/-- The matrix operations that a core still works on, sets that are partly signed among them. -/
def Core.liveOps (k : Core) : List Nat :=
  k.mxOps.map (·.id) ++ k.wgs.flatMap (fun w => w.2.cvs.filterMap (fun v => v.2.snap.map (·.op)))

/-- A matrix operation that `OWAIT` has counted out leaves no mark (R217). -/
def Ctx.unmark (live : List Nat) (c : Ctx) : Ctx := { c with marks := c.marks.filter (fun m => live.contains m.op) }

/-- What `OWAIT` has counted out, its issuer has observed: the bytes of its matrix operations, and with no copy left the bytes of its
copies (R217, R298, R327, log 64). -/
def State.owaitSeen (s : State) (a : Agent) (cp mx : Bool) : State :=
  let live := (s.core a.core).liveOps
  let done := ((s.ctx a).marks.filter (fun m => !live.contains m.op)).flatMap (·.spans)
  s.modCore a.core (fun k => k.observe (s.idOf a) (fun w =>
    (cp && (s.ctx a).cp == 0 && w.copier == some (s.idOf a)) || (mx && done.any (fun x => w.place.overlaps w.old.length x.1 x.2))))

/-- `OWAIT` (R300). -/
def execOwait (f : RForm) (s : State) : Host.Outcome State Fault Refusal :=
  perLane (form (.owait f)) (fun a s =>
    if (s.ctx a).owaitMet f.func then
      let s1 := s.owaitSeen a (fld f.func 4 4 != 15) (fld f.func 0 4 != 15)
      .done (if fld f.func 0 4 = 15 then s1 else s1.modCtx a (Ctx.unmark (s1.core a.core).liveOps))
    else .stay s) s

/-- `OFENCE` (R301): the issuer's earlier stores and atomics, and those of its core that it may have observed, are performed
before it goes on (log 10); what it has observed, the engines of its core read from now on (R216). -/
def execOfence (f : RForm) (s : State) : Host.Outcome State Fault Refusal :=
  perLane (form (.ofence f)) (fun a s =>
    let s1 := s.flush a.core
    .done (s1.modCore a.core (fun k => k.fenceFresh (s1.idOf a)))) s

/-! ### The engine -/

def Core.findCopy (k : Core) (id : Nat) : Option CopyCmd := k.copies.find? (fun c => c.id == id)
def Core.modCopy (k : Core) (id : Nat) (f : CopyCmd → CopyCmd) : Core :=
  { k with copies := k.copies.map (fun c => if c.id == id then f c else c) }
def Core.dropCopy (k : Core) (id : Nat) : Core := { k with copies := k.copies.filter (fun c => c.id != id) }

/-- The commands at work: the first 8 accepted (R283). -/
def Core.copiesAtWork (k : Core) : List CopyCmd := (k.copies.filter (fun c => c.accepted && !c.suspended)).take Config.copyAtWork

/-- The engine accepts the oldest command handed to it; it counts in `cp` (R283, R299). -/
def execCopyCommandAccept (core cmd : Nat) (s : State) : Host.Outcome State Fault Refusal :=
  let k := s.core core
  match k.copies.find? (fun c => !c.accepted) with
  | some c =>
    if c.id = cmd ∧ (k.copies.filter (·.accepted)).length < Config.copyQueue then
      .next ((s.modCore core (fun k => k.modCopy cmd (fun c => { c with accepted := true }))).countIn c.agent .cp)
    else .refused (.notEnabled "COPY_COMMAND_ACCEPT")
  | none => .refused (.notEnabled "COPY_COMMAND_ACCEPT")

/-! ### What a chunk moves -/

/-- One byte that a chunk moves: its number, the physical address of its source and of its destination where they are global, and
its value. -/
structure CopyMove where
  j : Nat
  srcPa : Option Nat
  dst : Place
  dstPa : Option Nat
  val : Byte
deriving DecidableEq, Repr

/-- The byte at a place, whose physical address is known where it is global. -/
def State.byteAt (s : State) (core : Nat) (p : Place) (pa : Option Nat) : Byte :=
  match p with
  | .glob _ => s.phys.byte (pa.getD 0)
  | .store k w off => (s.storeRead k w off 1).headD 0
  | .cstore off => (s.core core).cstore.byte off
  | .wstore off => (s.core core).wstore.byte off

/-- The byte at a place is poisoned (R407). -/
def State.byteHurt (s : State) (core : Nat) (p : Place) (pa : Option Nat) : Bool :=
  match p with
  | .glob _ => s.poisoned (pa.getD 0) 1
  | .store k w off => s.storeHurt k w off 1
  | .cstore off => (s.core core).cHurt off 1
  | .wstore off => (s.core core).wHurt off 1

/-- Where one byte of a command's source or destination lies, with the checks of a global one: its physical address, or none for
a local store (R290, R297). The tables are those of the command's issue (R371). -/
def State.copyTarget (s : State) (c : CopyCmd) (core : Nat) (write : Bool) (p : Place) : Except Trap (Option Nat) :=
  match p with
  | .glob va =>
    match s.checkGlobalBy c.via c.agent va 1 write false with
    | some t => .error t
    | none => (s.copyXlate c core va write).map some
  | _ => .ok none

/-- The byte lies in what a matrix operation works on: bytes that the issuer's operations named when the command issued, or a
C-tile that an operation of the core names and its issuer has not waited for (R128, R217, R298). -/
def State.copyUndef (s : State) (core : Nat) (c : CopyCmd) (p : Place) : Bool :=
  c.undefs.any (fun u => p.overlaps 1 u.1 u.2)
  || (match p with
    | .cstore off => (s.core core).ctxs.any (fun x => x.marks.any (fun m => m.tiles.contains (off / 32768)))
    | _ => false)

/-- The number of the source byte of `CPYR` that a place holds (R295). -/
def CopyCmd.inSource (c : CopyCmd) (p : Place) : Option Nat :=
  match c.src with
  | some q => if c.op == 3 && q.overlaps c.n p 1 then some (p.addr - q.addr) else none
  | none => none

/-- The pages of a chunk enter the walk-ahead TLB (R302). -/
def State.walkChunk (s : State) (core : Nat) (c : CopyCmd) (js : List Nat) : State :=
  js.foldl (fun s j => ((c.srcAt j).toList ++ c.dstAt j).foldl (fun s p =>
    match p with
    | .glob va => s.fillWalkAhead core c.via va
    | _ => s) s) s

/-- What some bytes of a command move, or the trap that leaves them unwritten; `sound` says that the chunk has been read and
checked before. A source byte that the command itself has overwritten keeps its first value. Bytes that are not defined take free
values (R217, R295, R298; DEDUCED, log 31). -/
def State.chunkMoves (s : State) (core : Nat) (c : CopyCmd) (sound : Bool) (free : List Byte) (js : List Nat) :
    Except Trap (List CopyMove) := do
  let moves ← js.mapM (fun j => do
    let src := c.srcAt j
    let spa ← match src with
      | some p => s.copyTarget c core false p
      | none => .ok none
    if !sound && (src.map (fun p => s.byteHurt core p spa)).getD false then
      .error ⟨.eccUe, match src with | some (.glob va) => va | _ => 0⟩
    let v := match src with
      | some p => (lookupN c.kept j).getD (s.byteAt core p spa)
      | none => c.padAt j
    (c.dstAt j).mapM (fun d => do
      let dpa ← s.copyTarget c core true d
      let open_ := (src.map (s.copyUndef core c)).getD false || s.copyUndef core c d || (c.inSource d).isSome
      .ok { j := j, srcPa := spa, dst := d, dstPa := dpa, val := if open_ then free.getD (j % 256) 0 else v }))
  .ok moves.flatten

/-- Write one byte of a destination; the issuing core's L1 loses the sector (R294). Matrix operations may still read the byte that
stood in an A-store or W-store (R216). -/
def State.copyPut (s : State) (core : Nat) (c : CopyCmd) (p : Place) (pa : Option Nat) (b : Byte) : State :=
  let note (k : Nat) : State := s.noteFresh k p [s.byteAt core p none] [] c.id (some (s.idOf c.agent))
  match p, pa with
  | .glob _, some pa => (s.physWrite pa [b]).modCore core (fun k => k.l1Drop pa 1)
  | .store k w off, _ => (note k).storeWrite k w off [b]
  | .cstore off, _ => s.modCore core (fun k => k.cWrite off [b])
  | .wstore off, _ => (note core).modCore core (fun k => k.wWrite off [b])
  | _, _ => s

/-- The command keeps the source bytes that a move overwrites (R295). -/
def State.keepSource (s : State) (core : Nat) (c : CopyCmd) (m : CopyMove) : State :=
  match c.inSource m.dst with
  | some i =>
    let b := s.byteAt core m.dst m.dstPa
    s.modCore core (fun k => k.modCopy c.id (fun c =>
      if (lookupN c.kept i).isSome then c else { c with kept := c.kept ++ [(i, b)] }))
  | none => s

/-- The C-tiles of an unfinished matrix operation that a chunk stores to are undefined as a whole (R128, R298). -/
def State.spoilTiles (s : State) (core : Nat) (c : CopyCmd) (moves : List CopyMove) : State :=
  let tiles := (moves.filterMap (fun m => match m.dst with
    | .cstore off => if s.copyUndef core c m.dst then some (off / 32768) else none
    | _ => none)).eraseDups
  tiles.foldl (fun s t =>
    let (bs, s) := s.freeBytes 32768
    s.modCore core (fun k => k.cWrite (32768 * t) bs)) s

/-- The chunk writes a W-store region whose old contents are not saved yet (R201, R304). -/
def CopyCmd.waitsRegion (c : CopyCmd) (k : Core) (js : List Nat) : Bool :=
  js.any (fun j => (c.dstAt j).any (fun d => match d with
    | .wstore off => (lookupN k.wOld (off / 1048576)).isSome
    | _ => false))

/-- A copy that ends its grid: the command leaves, and its agent or grid takes the trap at the copy's PC (R290, R291, R303). A
firewall that dropped a request of it keeps its mark (R393). -/
def State.copyFails (s : State) (core : Nat) (c : CopyCmd) (t : Trap) : State :=
  let s1 := if t.code = .perm then s.noteDrop core c.via t.va else s
  ((s1.modCore core (fun k => k.dropCopy c.id)).countOut c.agent .cp).failAt c.agent t c.pc (c.pc, c.issued)

/-- The bytes that a copy has moved and the requests that it made of L2 are counted (R388). -/
def State.countCopied (s : State) (core : Nat) (via : Via) (moves : List CopyMove) : State :=
  let vf := match via with
    | .vf _ v => some v
    | _ => none
  let n := (s.core core).copyRest + moves.length
  let s1 := (s.perfEvent core 8 vf (n / 16)).modCore core (fun k => { k with copyRest := n % 16 })
  if moves.any (fun m => m.srcPa.isSome || m.dstPa.isSome) then s1.perfEvent core 6 vf 1 else s1

/-- The bytes of a chunk that have not landed (R214). -/
def CopyCmd.rest (c : CopyCmd) (chunk : Nat) : List Nat := (c.chunk chunk).filter (fun j => !c.part.contains j)

/-- Bytes of a chunk land. The chunk is checked whole before its first byte lands (R303); with its last byte its credit is applied
(R296). -/
def State.landBytes (s : State) (core : Nat) (c : CopyCmd) (chunk : Nat) (js : List Nat) : State :=
  let sound := (c.rest chunk).length != (c.chunk chunk).length
  let read := if sound then js else c.chunk chunk
  let s0 := s.walkChunk core c read
  let (free, s1) := if read.any (fun j => ((c.srcAt j).toList ++ c.dstAt j).any (fun p =>
      s0.copyUndef core c p || (c.inSource p).isSome)) then s0.freeBytes 256 else ([], s0)
  match s1.chunkMoves core c sound free read with
  | .error t => s1.copyFails core c t
  | .ok all =>
    let moves := all.filter (fun m => js.contains m.j)
    let s2 := moves.foldl (fun s m => (s.keepSource core c m).copyPut core c m.dst m.dstPa m.val) s1
    let s3 := (s2.spoilTiles core c moves).countCopied core c.via moves
    let s4 := s3.noteSoft (moves.filterMap (fun m => m.srcPa.map (·, 1)))
    if (c.rest chunk).all js.contains then
      match s4.copyCount c core true ((c.credits (c.chunk chunk)).filter (fun x => x.2 != 0)) with
      | (s5, some t) => s5.copyFails core c t
      | (s5, none) => s5.modCore core (fun k => k.modCopy c.id (fun x =>
          { x with landed := chunk :: x.landed, part := x.part.filter (fun j => !(c.chunk chunk).contains j) }))
    else s4.modCore core (fun k => k.modCopy c.id (fun x => { x with part := js ++ x.part }))

/-- All that is left of a chunk lands. -/
def State.landChunk (s : State) (core : Nat) (c : CopyCmd) (chunk : Nat) : State := s.landBytes core c chunk (c.rest chunk)

/-- A chunk lands: all that is left of it, or one byte of it first; or an error on its way is corrected and counted, or leaves it
unwritten (R214, R303, log 2). -/
def State.landStep (s : State) (core : Nat) (c : CopyCmd) (chunk : Nat) : State :=
  let js := c.rest chunk
  let parts := if js.length ≤ 1 then 0 else js.length
  let begun := js.length != (c.chunk chunk).length
  let (i, s1) := s.pick (parts + if begun then 2 else 3)
  if i = 0 then s1.landChunk core c chunk
  else if i ≤ parts then s1.landBytes core c chunk [js.getD (i - 1) 0]
  else if i = parts + 1 then ({ s1 with corrected := s1.corrected + 1 } : State).landChunk core c chunk
  else s1.copyFails core c ⟨.eccUe, 0⟩

def execCopyChunkLand (core cmd chunk : Nat) (s : State) : Host.Outcome State Fault Refusal :=
  match (s.core core).copiesAtWork.find? (fun c => c.id == cmd) with
  | none => .refused (.notEnabled "COPY_CHUNK_LAND")
  | some c =>
    if c.chunks ≤ chunk ∨ c.landed.contains chunk ∨ c.waitsRegion (s.core core) (c.chunk chunk) then
      .refused (.notEnabled "COPY_CHUNK_LAND")
    else .next (s.landStep core c chunk)

/-- A command whose bytes and credits are all done leaves the engine and `cp` (R299). -/
def execCopyCommandComplete (core cmd : Nat) (s : State) : Host.Outcome State Fault Refusal :=
  match (s.core core).copiesAtWork.find? (fun c => c.id == cmd) with
  | some c =>
    if c.landed.length = c.chunks then .next ((s.modCore core (fun k => k.dropCopy cmd)).countOut c.agent .cp)
    else .refused (.notEnabled "COPY_COMMAND_COMPLETE")
  | none => .refused (.notEnabled "COPY_COMMAND_COMPLETE")

/-! ### Table walks -/

/-- The pending access whose page at an address the core TLB does not hold (R121). -/
def State.missOp (s : State) (core : Nat) (va : Nat) : Option Pending :=
  (s.core core).pend.find? (fun p =>
    match p.place, p.via with
    | .glob x, .vf part f => decide (x ≤ va ∧ va < x + p.n) && !(s.core core).tlb.any (fun t => t.hit part f va)
    | _, _ => false)

/-- The pages of 64 KiB that the engine may walk to for a stream of addresses: that of the first byte in transfer and 32 ahead of
it (R302). -/
def pagesAhead (stream : List Nat) : List Nat := ((stream.map (· / 65536)).eraseDups).take 33

def Place.va? : Place → Option Nat
  | .glob va => some va
  | _ => none

/-- The pages that a command's walk-ahead may reach, on its source and on its destination side (R302). -/
def CopyCmd.ahead (c : CopyCmd) : List Nat :=
  match (List.range c.chunks).find? (fun k => !c.landed.contains k) with
  | none => []
  | some k =>
    let js := (List.range (c.n - 256 * k)).map (· + 256 * k)
    pagesAhead (js.filterMap (fun j => (c.srcAt j).bind Place.va?))
      ++ pagesAhead (js.flatMap (fun j => (c.dstAt j).filterMap Place.va?))

/-- The command at work whose page at an address the walk-ahead TLB does not hold (R302). -/
def State.missCopy (s : State) (core : Nat) (va : Nat) : Option CopyCmd :=
  (s.core core).copiesAtWork.find? (fun c =>
    match c.via with
    | .vf part f => !(s.core core).walkAhead.any (fun t => t.hit part f va) && c.ahead.contains (va / 65536)
    | _ => false)

/-- A hardware walk fills a TLB, or meets an entry that ends the grid: with `PERM`, or with `ECC_UE` where the entry is poisoned
(R121, R302, R398, R407). -/
def execTlbMissWalk (core : Nat) (walkAhead : Bool) (va : DWord) (s : State) : Host.Outcome State Fault Refusal :=
  let die := some (dieOf core)
  if walkAhead then
    match s.missCopy core va.toNat with
    | some c =>
      match c.via with
      | .vf p f =>
        if s.deniedAt die (s.core core).walkAhead c.via (s.leasesOf c.agent) va.toNat then .next (s.copyFails core c ⟨.perm, va.toNat⟩)
        else if (s.walk die p f va.toNat).isSome then .next (s.fillWalkAhead core c.via va.toNat)
        else .next (s.copyFails core c ⟨s.missCode die [] c.via va.toNat false, va.toNat⟩)
      | _ => .refused (.notEnabled "TLB_MISS_WALK")
    | none => .refused (.notEnabled "TLB_MISS_WALK")
  else
    match s.missOp core va.toNat with
    | some q =>
      match q.via with
      | .vf p f =>
        if s.deniedAt die (s.core core).tlb q.via (s.leasesOf q.agent) va.toNat then .next (s.opFails q ⟨.perm, va.toNat⟩)
        else if (s.walk die p f va.toNat).isSome then .next (s.fillTlb core q.via va.toNat)
        else .next (s.opFails q ⟨s.missCode die [] q.via va.toNat false, va.toNat⟩)
      | _ => .refused (.notEnabled "TLB_MISS_WALK")
    | none => .refused (.notEnabled "TLB_MISS_WALK")

end Sys2Proof.Machine
end

