-- ==== Sys2Proof/Machine/Floating.lean ====
section
/-!
DEFINITION. Floating-point instructions (spec/07 R136 to R157): the operands after their source modifiers, the exact result
rounded once, the flags into `fstat`.
-/

namespace Sys2Proof.Machine

/-! ### Shared -/

/-- A floating operand code of type `t` after its source modifiers; `k` is 0, 1, 2 for A, B, C (R64, R140). -/
def State.fsrc (s : State) (a : Agent) (t : Nat) (mods : BitVec 6) (k : Nat) (o : Opnd) : Nat :=
  srcMod (ffmt t) (mods.getLsbD (5 - 2 * k)) (mods.getLsbD (4 - 2 * k)) (s.opVal a o (tyWn t))

/-- Write a result and OR its flags into `fstat` (R81, R82, R140). -/
def State.putF (s : State) (a : Agent) (d : Opnd) (w : Nat) (r : Nat × FFlags) : State := (s.flag a r.2).putD a d w r.1

/-- A form on values of its own type. -/
def floatR (i : Instr) (f : RForm) (g : FFmt → FVal → FVal → FVal → Nat × FFlags) (s : State) :
    Host.Outcome State Fault Refusal :=
  let t := f.ty.toNat
  let m := ffmt t
  perLane (form i) (fun a s =>
    let x := unpackF m (s.fsrc a t f.mods 0 f.cm.a)
    let y := unpackF m (s.fsrc a t f.mods 1 f.cm.b)
    let z := unpackF m (s.fsrc a t f.mods 2 f.cm.c)
    .done (s.putF a f.cm.d (tyWn t) (g m x y z))) s

/-- A form with an immediate: nearest-even, no saturation, no source modifiers (R65, R139). The operand before the immediate
is B in `FFMA`. -/
def floatI (i : Instr) (f : IForm) (g : FFmt → FVal → FVal → FVal → Nat × FFlags) (s : State) :
    Host.Outcome State Fault Refusal :=
  let t := fImmType f.ity.toNat
  let m := ffmt t
  perLane (form i) (fun a s =>
    let x := unpackF m (s.opVal a f.cm.a (tyWn t))
    let y := unpackF m (s.opVal a f.cm.b (tyWn t))
    .done (s.putF a f.cm.d (tyWn t) (g m x y (unpackF m (widenImm f.ity.toNat f.imm.toNat))))) s

/-- A form on the codes of A and B. -/
def floatCode (i : Instr) (f : RForm) (wd : Nat) (g : FFmt → Nat → Nat → Nat × FFlags) (s : State) :
    Host.Outcome State Fault Refusal :=
  let t := f.ty.toNat
  perLane (form i) (fun a s =>
    .done (s.putF a f.cm.d wd (g (ffmt t) (s.fsrc a t f.mods 0 f.cm.a) (s.fsrc a t f.mods 1 f.cm.b)))) s

/-! ### Arithmetic (R141, R142) -/

def execFadd (f : RForm) (s : State) : Host.Outcome State Fault Refusal :=
  floatR (.fadd f) f (fun m x y _ => fAdd m f.round.toNat (f.sat == 1) x y) s
def execFaddImm (f : IForm) (s : State) : Host.Outcome State Fault Refusal :=
  floatI (.faddImm f) f (fun m x _ k => fAdd m 0 false x k) s
def execFsub (f : RForm) (s : State) : Host.Outcome State Fault Refusal :=
  floatR (.fsub f) f (fun m x y _ => fAdd m f.round.toNat (f.sat == 1) x y.opp) s
def execFmul (f : RForm) (s : State) : Host.Outcome State Fault Refusal :=
  floatR (.fmul f) f (fun m x y _ => fMul m f.round.toNat (f.sat == 1) x y) s
def execFmulImm (f : IForm) (s : State) : Host.Outcome State Fault Refusal :=
  floatI (.fmulImm f) f (fun m x _ k => fMul m 0 false x k) s
def execFfma (f : RForm) (s : State) : Host.Outcome State Fault Refusal :=
  floatR (.ffma f) f (fun m x y z => fFma m f.round.toNat (f.sat == 1) x y z) s
def execFfmaImm (f : IForm) (s : State) : Host.Outcome State Fault Refusal :=
  floatI (.ffmaImm f) f (fun m x y k => fFma m 0 false x y k) s
def execFmin (f : RForm) (s : State) : Host.Outcome State Fault Refusal :=
  floatCode (.fmin f) f (tyW f.ty) (fun m x y => fMinMax m true x y) s
def execFmax (f : RForm) (s : State) : Host.Outcome State Fault Refusal :=
  floatCode (.fmax f) f (tyW f.ty) (fun m x y => fMinMax m false x y) s

/-! ### Compares and classes (R143, R144) -/

def execFsetp (f : RForm) (s : State) : Host.Outcome State Fault Refusal :=
  let t := f.ty.toNat
  perLane (form (.fsetp f)) (fun a s =>
    let (x, fl) := fSetp (ffmt t) (fld f.func 0 4) (s.fsrc a t f.mods 0 f.cm.a) (s.fsrc a t f.mods 1 f.cm.b)
    .done ((s.flag a fl).writeP a f.cm.d.num (combine (fld f.func 4 2) x (s.readPQ a f.pred2)))) s

def execFclass (f : RForm) (s : State) : Host.Outcome State Fault Refusal :=
  floatCode (.fclass f) f 32 (fun m x _ => (fClass m x, 0)) s

/-! ### Divider, seeds, defined algorithms (R145 to R150) -/

def execFdiv (f : RForm) (s : State) : Host.Outcome State Fault Refusal :=
  floatR (.fdiv f) f (fun m x y _ => fDiv m f.round.toNat (f.sat == 1) x y) s
def execFsqrt (f : RForm) (s : State) : Host.Outcome State Fault Refusal :=
  floatR (.fsqrt f) f (fun m x _ _ => fSqrt m f.round.toNat x) s
def execRcps (f : RForm) (s : State) : Host.Outcome State Fault Refusal := floatR (.rcps f) f (fun m x _ _ => fRcps m x) s
def execRsqs (f : RForm) (s : State) : Host.Outcome State Fault Refusal := floatR (.rsqs f) f (fun m x _ _ => fRsqs m x) s
def execFexp2 (f : RForm) (s : State) : Host.Outcome State Fault Refusal :=
  floatR (.fexp2 f) f (fun m x _ _ => fExp2 m f.round.toNat (f.sat == 1) x) s
def execFlog2 (f : RForm) (s : State) : Host.Outcome State Fault Refusal :=
  floatR (.flog2 f) f (fun m x _ _ => fLog2 m f.round.toNat x) s

/-! ### Rounding, scaling, exponent (R152 to R154) -/

def execFrnd (f : RForm) (s : State) : Host.Outcome State Fault Refusal :=
  floatCode (.frnd f) f (tyW f.ty) (fun m x _ => fRnd m f.round.toNat x) s

def execFscale (f : RForm) (s : State) : Host.Outcome State Fault Refusal :=
  let t := f.ty.toNat
  perLane (form (.fscale f)) (fun a s =>
    let x := unpackF (ffmt t) (s.fsrc a t f.mods 0 f.cm.a)
    .done (s.putF a f.cm.d (tyWn t) (fScale (ffmt t) f.round.toNat (f.sat == 1) x (s.val a true 32 f.cm.b)))) s

/-- `FEXPO` writes 32 bits, whatever the operand's type (R154). -/
def execFexpo (f : RForm) (s : State) : Host.Outcome State Fault Refusal :=
  let t := f.ty.toNat
  perLane (form (.fexpo f)) (fun a s =>
    let r := fExpo (unpackF (ffmt t) (s.fsrc a t f.mods 0 f.cm.a))
    .done (s.putF a f.cm.d 32 (toBits 32 r.1, r.2))) s

/-! ### Conversions (R155 to R157) -/

/-- Target type code of a conversion (R138). -/
def target (f : RForm) : Nat := fld f.func 0 4

def execF2i (f : RForm) (s : State) : Host.Outcome State Fault Refusal :=
  let t := f.ty.toNat
  let w := tyWn (target f)
  let sg := decide (target f < 4)
  let lo : Int := if sg then -(2 ^ (w - 1) : Nat) else 0
  let hi : Int := if sg then (2 ^ (w - 1) : Nat) - 1 else (2 ^ w : Nat) - 1
  perLane (form (.f2i f)) (fun a s =>
    let (v, fl) := fToInt f.round.toNat lo hi (unpackF (ffmt t) (s.fsrc a t f.mods 0 f.cm.a))
    .done ((s.flag a fl).putInt a f.cm.d sg w (toBits w v))) s

def execI2f (f : RForm) (s : State) : Host.Outcome State Fault Refusal :=
  perLane (form (.i2f f)) (fun a s =>
    let v := s.val a (tySigned f.ty) (tyW f.ty) f.cm.a
    .done (s.putF a f.cm.d (tyWn (target f)) (intToF (ffmt (target f)) f.round.toNat (f.sat == 1) v))) s

/-- With `.scl` the FP32 scale in B multiplies first, exactly; its source modifiers act on B (R138, R157). -/
def execFcvt (f : RForm) (s : State) : Host.Outcome State Fault Refusal :=
  let t := f.ty.toNat
  perLane (form (.fcvt f)) (fun a s =>
    let x := unpackF (ffmt t) (s.fsrc a t f.mods 0 f.cm.a)
    let m := ffmt (target f)
    let r := if f.func.getLsbD 4 then
        fConvScaled m f.round.toNat (f.sat == 1) x (unpackF (ffmt 9) (s.fsrc a 9 f.mods 1 f.cm.b))
      else fConv m f.round.toNat (f.sat == 1) x
    .done (s.putF a f.cm.d (tyWn (target f)) r)) s

end Sys2Proof.Machine
end

