-- ==== Sys2Proof/Machine/Matrix.lean ====
section
/-!
DEFINITION. The matrix array, the drain unit and the sequencer of a core (spec/04 R83 to R88, spec/16 R306 to R328): operand
layouts, the promotion rule, sets and signatures, drains, quantisation, and the operations of the sequencer.
-/

namespace Sys2Proof.Machine

/-! ### Format slot records (R84) -/

def fmtAccepted (r : BitVec 64) : Bool :=
  let a := fmtA r
  let b := fmtB r
  let narrow (t : Nat) : Bool := decide (12 ≤ t ∧ t ≤ 14)
  let int8 (t : Nat) : Bool := t == 0 || t == 4
  decide (r.toNat < 65536)
  && (if fmtAcc r = 9 then (narrow a && narrow b) || (a == b && (a == 10 || a == 11) && !fmtScale r) || (int8 a && int8 b)
      else fmtAcc r == 2 && int8 a && int8 b && !fmtScale r)

/-! ### Elements -/

/-- Bits of a stored element (R306). -/
def elemBits (code : Nat) : Nat := if code = 14 then 4 else tyWn code

/-- The value of an element of a format slot's type. -/
def elemVal (code raw : Nat) : FVal :=
  if code < 8 then
    let v := toVal (decide (code < 4)) (tyWn code) raw
    .fin (decide (v < 0)) v.natAbs 0
  else unpackF (ffmt code) raw

/-- The codes that bytes hold; the even one of an `.e2m1` pair is the low nibble (R306). -/
def unpackCodes (bits : Nat) : List Byte → List Nat
  | [] => []
  | [b] => if bits = 4 then [b.toNat % 16, b.toNat / 16] else [b.toNat]
  | b :: c :: r =>
    if bits = 4 then b.toNat % 16 :: b.toNat / 16 :: unpackCodes bits (c :: r)
    else if bits = 8 then b.toNat :: unpackCodes bits (c :: r)
    else (b.toNat + 256 * c.toNat) :: unpackCodes bits r

/-- Groups of four bytes as 32-bit codes. -/
def unpackWords : List Byte → List Nat
  | a :: b :: c :: d :: r => (a.toNat + 256 * b.toNat + 65536 * c.toNat + 16777216 * d.toNat) :: unpackWords r
  | _ => []

def unpackVals (code : Nat) (bs : List Byte) : List FVal :=
  if elemBits code = 32 then (unpackWords bs).map (elemVal code) else (unpackCodes (elemBits code) bs).map (elemVal code)

/-- The bytes of codes of a width. -/
def packCodes (bits : Nat) : List Nat → List Byte
  | [] => []
  | [x] => if bits = 4 then [BitVec.ofNat 8 (x % 16)] else leBytes (bits / 8) x
  | x :: y :: r =>
    if bits = 4 then BitVec.ofNat 8 (x % 16 + 16 * (y % 16)) :: packCodes bits r
    else leBytes (bits / 8) x ++ packCodes bits (y :: r)

/-! ### The promotion rule (R87) -/

/-- An exact product; ∞ × 0 is a NaN. -/
def mulExact (a b : FVal) : FVal :=
  match a, b with
  | .nan _, _ => .nan false
  | _, .nan _ => .nan false
  | .inf x, y => if y.isZero then .nan false else .inf (x ^^ y.neg)
  | x, .inf y => if x.isZero then .nan false else .inf (x.neg ^^ y)
  | .fin na ma ea, .fin nb mb eb => .fin (na ^^ nb) (ma * mb) (ea + eb)

/-- An exact sum. -/
def sumExact (a b : FVal) : FVal :=
  match a, b with
  | .nan _, _ => .nan false
  | _, .nan _ => .nan false
  | .inf x, .inf y => if x == y then .inf x else .nan false
  | .inf x, _ => .inf x
  | _, .inf y => .inf y
  | .fin na ma ea, .fin nb mb eb => let (n, m, e) := addExact 0 na ma ea nb mb eb; .fin n m e

/-- The block sum `P`: exact, +0 where it is 0 (DEDUCED, log 16). -/
def dotExact (xs ys : List FVal) : FVal := (xs.zip ys).foldl (fun s p => sumExact s (mulExact p.1 p.2)) (.fin false 0 0)

/-- The integer that an exact integral value is. -/
def FVal.toInt : FVal → Int
  | .fin n m e => (if n then -1 else 1) * ((m * 2 ^ e.toNat : Nat) : Int)
  | _ => 0

/-- One element of C after one block. -/
def promote (acc : Nat) (c : Nat) (p sa sb : FVal) : Nat :=
  if acc = 9 then (fAdd (ffmt 9) 0 false (unpackF (ffmt 9) c) (mulExact (mulExact p sa) sb)).1
  else toBits 32 (toVal true 32 c + p.toInt)

/-- All of a C-tile after one block: rows of C, of A with their scales, columns of B with their scale. -/
def promoteTile (acc : Nat) (c : List (List Nat)) (a : List (List FVal × FVal)) (b : List (List FVal)) (sb : FVal) :
    List (List Nat) :=
  (c.zip a).map (fun x => (x.1.zip b).map (fun y => promote acc y.1 (dotExact x.2.1 y.2) x.2.2 sb))

/-! ### Operand layouts (R306 to R309) -/

/-- Cut a list into rows of `n`. -/
def rowsOf {α : Type} (n : Nat) : Nat → List α → List (List α)
  | 0, _ => []
  | k + 1, xs => xs.take n :: rowsOf n k (xs.drop n)

/-- Row length and block length of A (R306). -/
def aRow (code : Nat) : Nat := 16 * elemBits code
def aBlock (code : Nat) : Nat := 64 * aRow code
/-- Block length of a dense B (R307). -/
def bBlock (code : Nat) : Nat := 2048 * elemBits code

/-- The 64 rows of a block of A. -/
def aRows (code : Nat) (bs : List Byte) : List (List FVal) := (rowsOf (aRow code) 64 bs).map (unpackVals code)

/-- The 16-byte chunks of column `n` in rows of the W-store. -/
def columnChunk (bs : List Byte) (row n : Nat) : List Byte := (bs.drop (2048 * row + 16 * n)).take 16

/-- The 128 columns of a dense block of B (R307). -/
def bColumns (code : Nat) (bs : List Byte) : List (List FVal) :=
  (List.range 128).map (fun n => unpackVals code ((List.range (elemBits code)).flatMap (fun r => columnChunk bs r n)))

/-- Spread kept values over a keep map, lowest bit first (R308). -/
def spreadKept : List Bool → List FVal → List FVal
  | [], _ => []
  | true :: ks, v :: vs => v :: spreadKept ks vs
  | true :: ks, [] => .fin false 0 0 :: spreadKept ks []
  | false :: ks, vs => .fin false 0 0 :: spreadKept ks vs

/-- N, M and the rows of kept values that the control word of a sparse block gives, where the block lies in the W-store and its
reserved bits are zero (R308). -/
def sparseHead (w : Mem) (code row : Nat) : Option (Nat × Nat × Nat) :=
  if 4096 < row + 2 then none
  else
    let line := w.slab (2048 * (row + 1)) 2048
    let ctl := leNat (line.take 16)
    let n := ctl % 64
    let m := 2 ^ (ctl / 64 % 4 + 2)
    let rows := ceilDiv (n * elemBits code) m
    if 256 ≤ ctl ∨ leNat (line.drop 16) ≠ 0 ∨ n = 0 ∨ m < n ∨ 4096 < row + 2 + rows then none else some (n, m, rows)

/-- Rows of the W-store that a sparse block makes the array read: two for one whose control word is not well formed. -/
def sparseRows (w : Mem) (code row : Nat) : Nat :=
  match sparseHead w code row with
  | some (_, _, rows) => 2 + rows
  | none => 2

/-- A sparse block from a W-store row up: its columns; none where it is not well formed or runs past the end (R308, R315). -/
def sparseBlock (w : Mem) (code row : Nat) : Option (List (List FVal)) :=
  match sparseHead w code row with
  | none => none
  | some (n, m, rows) =>
    let head := w.slab (2048 * row) 2048
    let maps := (List.range 128).map (fun c => (List.range 128).map (fun k => (leNat (columnChunk head 0 c)).testBit k))
    let good := maps.all (fun ks => (rowsOf m (128 / m) ks).all (fun g => (g.filter id).length == n))
    if !good then none
    else
      let body := w.slab (2048 * (row + 2)) (2048 * rows)
      some (maps.zipIdx.map (fun x =>
        spreadKept x.1 (unpackVals code ((List.range rows).flatMap (fun r => columnChunk body r x.2)))))

/-- A C-tile as 64 rows of 128 codes (R309). -/
def tileOfBytes (bs : List Byte) : List (List Nat) := rowsOf 128 64 (unpackWords bs)
def Core.tile (k : Core) (t : Nat) : List (List Nat) := tileOfBytes (k.cstore.slab (32768 * t) 32768)
def Core.setTile (k : Core) (t : Nat) (c : List (List Nat)) : Core :=
  k.cWrite (32768 * t) (packCodes 32 c.flatten)

/-- A C-tile that becomes undefined (R316, R317). -/
def State.freeTile (s : State) (core t : Nat) : State :=
  let (bs, s) := s.freeBytes 32768
  s.modCore core (fun k => k.cWrite (32768 * t) bs)

/-! ### Fields of the forms (R312) -/

def mmaTile (f : XForm) : Nat := fld f.flags 8 3
def mmaR (f : XForm) : Nat := fld f.flags 4 4 + 1
def mmaK (f : XForm) : Nat := fld f.flags 0 4 + 1
def drainSpace (f : XForm) : Nat := fld f.flags 9 2
def drainTile (f : XForm) : Nat := fld f.flags 4 3
def drainTy (f : XForm) : Nat := fld f.flags 0 4
def aOffset (v : DWord) : Nat := fld v 0 20
def wOffset (v : DWord) : Nat := fld v 20 23

/-- The format slot record that a form names. -/
def Grid.fmtOf (g : Grid) (f : XForm) : BitVec 64 := (lookupN g.fmts f.fslot.toNat).getD 0

/-- The C-tiles that an operation names. -/
def MxKind.tiles : MxKind → List Nat
  | .mma sn _ _ => [mmaTile sn.form]
  | .mzero m => (List.range 8).filter (fun t => m.testBit t)
  | .drain _ f _ _ _ => [drainTile f]
  | .qdual _ _ _ => []
  | .qscan f _ => [mmaTile f]

/-! ### Sets and signatures (R310, R314, R315) -/

/-- `MSET` (R314). -/
def execMset (f : XForm) (s : State) : Host.Outcome State Fault Refusal :=
  perLane (form (.mset f)) (fun a s =>
    let n := s.opVal a f.cm.a 32
    let r := (((s.wg? a).bind (fun w => lookupN w.cvs f.cv.toNat)).getD {})
    if r.signed = 0 ∧ n ≤ 4089 then
      .done ((s.modCore a.core (fun k => k.modWg (s.place a) (fun w =>
        { w with cvs := putN w.cvs f.cv.toNat { count := n } }))).writeP a f.cm.d.num true)
    else .done (s.writeP a f.cm.d.num false)) s

/-- The encoding that the signatures of a set share: guard and C do not count (R310). -/
def sigForm (f : XForm) : XForm := { f with cm := { f.cm with guard := 0, c := .g 0 } }

/-- The operand checks of the first signature. -/
def mmaCheck (fmt : BitVec 64) (sparse : Bool) (f : XForm) (av : DWord) (astore : Nat) : Option Trap :=
  let a := aOffset av
  let wb := wOffset av
  if a % 16 ≠ 0 ∨ wb % 2048 ≠ 0 then some ⟨.align, 0⟩
  else if astore < a + mmaK f * aBlock (fmtA fmt) then some ⟨.storeBound, 0⟩
  else if !sparse && decide (Config.wstoreBytes < wb + mmaK f * bBlock (fmtB fmt)) then some ⟨.storeBound, 0⟩
  else none

/-- Rows of the W-store that so many blocks of an operation take from a row up: a sparse block as many as its control word says, and
none after one that is not well formed (R307, R308). -/
def mmaRows (w : Mem) (fmt : BitVec 64) (sparse : Bool) : Nat → Nat → Nat
  | 0, _ => 0
  | n + 1, row =>
    if sparse then
      match sparseHead w (fmtB fmt) row with
      | some (_, _, rows) => 2 + rows + mmaRows w fmt sparse n (row + 2 + rows)
      | none => 2
    else bBlock (fmtB fmt) / 2048 + mmaRows w fmt sparse n (row + bBlock (fmtB fmt) / 2048)

/-- Bytes of the W-store that an operation reads, by the control words that stand there when it is signed (DEDUCED, log 32). -/
def mmaSpan (w : Mem) (fmt : BitVec 64) (sparse : Bool) (f : XForm) (at_ : Nat) : Nat :=
  2048 * mmaRows w fmt sparse (mmaK f) (at_ / 2048)

/-- The first B-scale registers (R315). -/
def State.bScales (s : State) (a : Agent) (f : XForm) : List DWord :=
  (List.range ((mmaR f + 1) / 2)).map (fun i =>
    match f.cm.b with
    | .s n => s.readS a (n.toNat + i)
    | _ => 0)

/-- A set with scales holds exactly one thread for each value of `sr.tid` mod 64 (R315). -/
def fullRows (signers : List (AgentId × Opnd)) : Bool :=
  let rows := signers.filterMap (fun x => match x.1 with
    | .thread _ _ t => some (t % 64)
    | _ => none)
  (List.range 64).all (fun i => (rows.filter (· == i)).length == 1)

/-- An operation counts in `mx` of its signer or issuer, which marks what it works on (R217, R327). -/
def State.markMx (s : State) (a : Agent) (m : MxMark) : State :=
  (s.countIn a .mx).modCtx a (fun c => { c with marks := c.marks ++ [m] })

/-- An operation enters the sequencer. -/
def State.pushMx (s : State) (a : Agent) (w : Wg) (id : Nat) (pc : DWord) (kind : MxKind) (inject : Bool) : State :=
  let op : MxOp := { id := id, agent := s.idOf a, wg := s.place a, via := s.viaOf a, grid := w.grid, pc := pc, kind := kind,
                     inject := inject }
  s.modCore a.core (fun k => { k with mxOps := k.mxOps ++ [op] })

/-- The sequencer has no room (R326). -/
def State.seqFull (s : State) (a : Agent) : Bool := decide (Config.seqOps ≤ (s.core a.core).mxOps.length)

/-- A signature (R310). It records which recent writes its signer has not observed and fenced (R216). -/
def mmaOut (sparse : Bool) (f : XForm) (a : Agent) (s : State) : LaneOut :=
  match s.wg? a, s.gridOf a with
  | some w, some g =>
    let r := (lookupN w.cvs f.cv.toNat).getD {}
    let av := BitVec.ofNat 64 (s.opVal a f.cm.a 64)
    let fmt := g.fmtOf f
    let first : Snapshot :=
      { form := sigForm f, sparse := sparse, aVal := av, bScales := if fmtScale fmt then s.bScales a f else [],
        pc := (s.ctx a).pc, since := s.clock, op := s.nextOp }
    let checked : Except Trap (Snapshot × State) :=
      match r.snap with
      | none =>
        match mmaCheck fmt sparse f av (s.astoreOf a) with
        | some t => .error t
        | none => .ok (first, { s with nextOp := s.nextOp + 1 })
      | some sn =>
        if sn.form = sigForm f ∧ sn.sparse = sparse ∧ sn.aVal = av then .ok (sn, s) else .error ⟨.mxFault, 0⟩
    if r.count = 0 then .trap ⟨.mxFault, 0⟩
    else
      match checked with
      | .error t => .trap t
      | .ok (sn, s1) =>
        let last := r.signed + 1 == r.count
        let signers := r.signers ++ [(s.idOf a, f.cm.c)]
        let unfenced := (r.unfenced ++ (s.core a.core).unfenced (s.idOf a)).eraseDups
        if last && s.seqFull a then .stay s
        else if last && fmtScale fmt && !fullRows signers then .trap ⟨.mxFault, 0⟩
        else
          let mark : MxMark :=
            { op := sn.op, tiles := [mmaTile f],
              spans := [(.store a.core (s.place a) (aOffset av), mmaK f * aBlock (fmtA fmt)),
                        (.wstore (wOffset av), mmaSpan (s.core a.core).wstore fmt sparse f (wOffset av))],
              regs := match f.cm.c with
                | .g i => if fmtScale fmt && !a.isLead then some (i.toNat, min (mmaR f) (mmaK f)) else none
                | _ => none }
          let s2 := s1.markMx a mark
          let setCv (r : ConvReg) (s : State) : State :=
            s.modCore a.core (fun k => k.modWg (s.place a) (fun w => { w with cvs := putN w.cvs f.cv.toNat r }))
          if last then
            let s3 := (s2.pushMx a w sn.op sn.pc (.mma sn signers unfenced) w.inject).modCore a.core (fun k =>
              k.modWg (s.place a) (fun w => { w with inject := false }))
            .done (setCv { count := r.count } s3)
          else .done (setCv { r with signed := r.signed + 1, snap := some sn, signers := signers, unfenced := unfenced } s2)
  | _, _ => .trap ⟨.perm, 0⟩

def execMma (f : XForm) (s : State) : Host.Outcome State Fault Refusal := perLane (form (.mma f)) (mmaOut false f) s
def execMmas (f : XForm) (s : State) : Host.Outcome State Fault Refusal := perLane (form (.mmas f)) (mmaOut true f) s

/-- An operation that one lane issues: it waits while the sequencer is full (R326; DEDUCED, log 50). -/
def issueMx (a : Agent) (kind : MxKind) (spans : List (Place × Nat)) (s : State) : LaneOut :=
  match s.wg? a with
  | some w =>
    if s.seqFull a then .stay s
    else
      let s1 := s.markMx a { op := s.nextOp, tiles := kind.tiles, spans := spans }
      .done (({ s1 with nextOp := s.nextOp + 1 } : State).pushMx a w s.nextOp (s.ctx a).pc kind false)
  | none => .trap ⟨.perm, 0⟩

/-- `MZERO` (R318). -/
def execMzero (f : XForm) (s : State) : Host.Outcome State Fault Refusal :=
  perLane (form (.mzero f)) (fun a s => issueMx a (.mzero (fld f.flags 0 8)) [] s) s

/-! ### `MDRAIN` (R319 to R321) -/

/-- Bytes of a row of a drained tile. -/
def drainRow (f : XForm) : Nat := 16 * elemBits (drainTy f)

/-- The checks of a drain in their order, with the first failing row. -/
def State.drainCheck (s : State) (a : Agent) (f : XForm) (mode d st order : Nat) : Option Trap :=
  let n := drainRow f
  let rows : List Nat := (List.range 64).map (fun i => d + st * i)
  if d % 16 ≠ 0 ∨ st % 16 ≠ 0 ∨ st < n then some ⟨.align, if drainSpace f = 0 then d else 0⟩
  else
    let bad := rows.findSome? (fun (r : Nat) =>
      if drainSpace f = 0 then s.checkGlobal a r n true false else s.checkLocal a (drainSpace f) r n)
    match bad with
    | some t => some t
    | none => if mode = 2 then s.checkGlobal a order 8 true true else none

/-- A drain, by mode: 0 store, 1 `.add`, 2 `.add.ord`. -/
def drainOut (mode : Nat) (f : XForm) (a : Agent) (s : State) : LaneOut :=
  let d := s.opVal a f.cm.a (if drainSpace f = 0 then 64 else 32)
  let b := s.opVal a f.cm.b 64
  let st := b % 2 ^ 32
  let order := if mode = 2 then s.opVal a f.cm.c 64 else 0
  match s.drainCheck a f mode d st order with
  | some t => .trap t
  | none =>
    let rows := (List.range 64).map (fun i => s.copyPlace a (drainSpace f) (d + st * i))
    issueMx a (.drain mode f rows (b / 2 ^ 32) order) (rows.map (·, drainRow f)) s

def execMdrain (f : XForm) (s : State) : Host.Outcome State Fault Refusal := perLane (form (.mdrain f)) (drainOut 0 f) s
def execMdrainAdd (f : XForm) (s : State) : Host.Outcome State Fault Refusal := perLane (form (.mdrainAdd f)) (drainOut 1 f) s
def execMdrainAddOrd (f : XForm) (s : State) : Host.Outcome State Fault Refusal :=
  perLane (form (.mdrainAddOrd f)) (drainOut 2 f) s

/-! ### `MCHK` (R322, R323) -/

/-- `MCHK` writes the status, clears it, and injects. -/
def State.readMstat (s : State) (a : Agent) (d : Opnd) (inject : Bool) : State :=
  let v := ((s.wg? a).map (·.mstat)).getD 0
  (s.putD a d 32 v.toNat).modCore a.core (fun k => k.modWg (s.place a) (fun w =>
    { w with mstat := 0, inject := w.inject || inject }))

/-- A wait of an `MCHK.inj`. -/
def Wait.injects : Wait → Bool
  | .mchk _ _ inject => inject
  | _ => false

/-- An injection of the workgroup waits for its comparison, in an operation, for the next one, or in an `MCHK.inj` that waits: a second
`MCHK.inj` adds none (R323). -/
def State.injecting (s : State) (a : Agent) : Bool :=
  let k := s.core a.core
  k.mxOps.any (fun o => o.wg == s.place a && o.inject && o.state == .waiting)
  || ((s.wg? a).map (·.inject)).getD false
  || (k.threadAgents a.core ++ k.leadAgents a.core).any (fun b => s.place b == s.place a && (s.ctx b).wait.injects)

def execMchk (f : XForm) (s : State) : Host.Outcome State Fault Refusal :=
  perLane (form (.mchk f)) (fun a s =>
    let inject := f.flags.getLsbD 0 && !s.injecting a
    let ids := ((s.core a.core).mxOps.filter (fun o => o.wg == s.place a)).map (·.id)
    if ids.isEmpty then .done (s.readMstat a f.cm.d inject)
    else .stay (s.modCtx a (fun c => { c with wait := .mchk ids f.cm.d inject }))) s

/-- Every `MCHK` whose operations are complete writes its result, in turn (DEDUCED, log 46). -/
def State.settleMchk (s : State) (core : Nat) : State :=
  ((s.core core).threadAgents core ++ (s.core core).leadAgents core).foldl (fun s a =>
    match (s.ctx a).wait with
    | .mchk ids d inject =>
      if (s.core core).mxOps.any (fun o => ids.contains o.id) then s
      else (s.readMstat a d inject).modCtx a (fun c => { c.advance with wait := .run })
    | _ => s) s

/-! ### `QDUAL`, `QSCAN` (R324, R325) -/

/-- The check of one quantisation range of the own A-store. -/
def State.quantCheck (s : State) (a : Agent) (ranges : List (Nat × Nat)) : Option Trap :=
  if ranges.any (fun r => r.1 % 16 != 0) then some ⟨.align, 0⟩
  else if ranges.any (fun r => decide (s.astoreOf a < r.1 + r.2)) then some ⟨.storeBound, 0⟩
  else none

/-- Bytes that `QDUAL` reads and writes; `Q` of R324. -/
def qdualRead (f : XForm) : Nat := 2048 * elemBits (fld f.flags 0 4)
def qdualQ (fmt : BitVec 64) : Nat := 2048 * elemBits (fmtA fmt)
def qdualWrite (fmt : BitVec 64) : Nat := 2 * qdualQ fmt + 1024
def qscanWrite (fmt : BitVec 64) : Nat := aBlock (fmtA fmt) + 256

def execQdual (f : XForm) (s : State) : Host.Outcome State Fault Refusal :=
  perLane (form (.qdual f)) (fun a s =>
    let src := s.opVal a f.cm.a 32
    let dst := s.opVal a f.cm.b 32
    let n := qdualWrite (((s.gridOf a).map (·.fmtOf f)).getD 0)
    match s.quantCheck a [(src, qdualRead f), (dst, n)] with
    | some t => .trap t
    | none =>
      let at_ (o : Nat) : Place := .store a.core (s.place a) o
      issueMx a (.qdual f src dst) [(at_ src, qdualRead f), (at_ dst, n)] s) s

def execQscan (f : XForm) (s : State) : Host.Outcome State Fault Refusal :=
  perLane (form (.qscan f)) (fun a s =>
    let dst := s.opVal a f.cm.a 32
    let n := qscanWrite (((s.gridOf a).map (·.fmtOf f)).getD 0)
    match s.quantCheck a [(dst, n)] with
    | some t => .trap t
    | none => issueMx a (.qscan f dst) [(.store a.core (s.place a) dst, n)] s) s

/-- Order of two magnitudes. -/
def magLess (x y : FVal) : Bool :=
  match x, y with
  | .fin _ m e, .fin _ n g => fCompare (.fin false m e) (.fin false n g) == .lt
  | _, _ => false

/-- `Mx`: the largest finite value of an element format. -/
def quantMax (code : Nat) : Nat := if code = 12 then 448 else if code = 13 then 57344 else 6

/-- `Quant` of a block: the scale, the codes, the flags (DEDUCED, log 17). -/
def quantBlock (code : Nat) (sat : Bool) (xs : List FVal) : Nat × List Nat × FFlags :=
  let f := ffmt code
  if xs.any (fun x => x.isNan || x.isInf) then
    ((ffmt 9).nanCode, xs.map (fun _ => (fConv f 0 sat (.nan false)).1), fInvalid)
  else
    match xs.foldl (fun m x => if magLess m x then x else m) (.fin false 0 0) with
    | .fin _ m e =>
      if m = 0 then (0, xs.map (fun x => zeroF f x.neg), 0)
      else
        let (sc, f1) := roundF (ffmt 9) 0 false false m (quantMax code) e
        let (g, f2) := roundF (ffmt 9) 0 false false (quantMax code) m (-e)
        let gv := unpackF (ffmt 9) g
        let rs := xs.map (fun x => if x.isZero then (zeroF f x.neg, (0 : FFlags)) else fConv f 0 sat (mulExact x gv))
        (sc, rs.map (·.1), rs.foldl (fun fl r => fl ||| r.2) (f1 ||| f2))
    | _ => (0, [], 0)

/-- Columns of equal rows. -/
def transpose {α : Type} (n : Nat) (d : α) (rows : List (List α)) : List (List α) :=
  (List.range n).map (fun i => rows.map (fun r => r.getD i d))

/-- The bytes of `QDUAL` (R324). -/
def qdualBytes (code srcTy : Nat) (sat : Bool) (src : List Byte) : List Byte × FFlags :=
  let rows := (rowsOf (16 * elemBits srcTy) 128 src).map (unpackVals srcTy)
  let rq := rows.map (quantBlock code sat)
  let cq := (transpose 128 (.fin false 0 0) rows).map (quantBlock code sat)
  let copy (q : List (Nat × List Nat × FFlags)) : List Byte := packCodes (elemBits code) (q.flatMap (·.2.1))
  let scales (q : List (Nat × List Nat × FFlags)) : List Byte := packCodes 32 (q.map (·.1))
  (copy rq ++ copy cq ++ scales rq ++ scales cq, (rq ++ cq).foldl (fun fl q => fl ||| q.2.2) 0)

/-- The bytes of `QSCAN` (R325). -/
def qscanBytes (code : Nat) (sat : Bool) (tile : List (List Nat)) : List Byte × FFlags :=
  let q := tile.map (fun r => quantBlock code sat (r.map (unpackF (ffmt 9))))
  (packCodes (elemBits code) (q.flatMap (·.2.1)) ++ packCodes 32 (q.map (·.1)), q.foldl (fun fl x => fl ||| x.2.2) 0)

/-! ### Running an operation (R316 to R321) -/

/-- Flags and reruns join `mstat` (R322). -/
def Wg.addMstat (fl : FFlags) (reruns : Nat) (w : Wg) : Wg :=
  let n := min (w.mstat.toNat / 65536 + reruns) 0xFFFF
  { w with mstat := BitVec.ofNat 32 (n * 65536 + (w.mstat ||| fl.setWidth 32).toNat % 65536) }

def State.noteMstat (s : State) (core : Nat) (o : MxOp) (fl : FFlags) (reruns : Nat) : State :=
  s.modCore core (fun k => k.modWg o.wg (Wg.addMstat fl reruns))

/-- The A scales of block `j` by row: FP32 register C + r of the signer with `sr.tid` mod 64 = row (R315). -/
def State.aScale (s : State) (signers : List (AgentId × Opnd)) (r row : Nat) : FVal :=
  match signers.find? (fun x => match x.1 with
    | .thread _ _ t => t % 64 == row
    | _ => false) with
  | some (id, .g i) =>
    unpackF (ffmt 9) (gWords ((((s.locate id).bind s.thread?).map (·.g)).getD []) (i.toNat + r) 1)
  | _ => .fin false 0 0

/-- `sb[j]` (R315). -/
def Snapshot.bScale (sn : Snapshot) (r : Nat) : FVal := unpackF (ffmt 9) (fld (sn.bScales.getD (r / 2) 0) (32 * (r % 2)) 32)

/-- Mismatches of the checksums of block `j`: one by the injection for block 0, others as the event names them, in base 3: 1 a
block that reruns, 2 a block that mismatches twice (R317, R323). -/
def blockMisses (o : MxOp) (mismatches j : Nat) : Nat :=
  let d := mismatches / 3 ^ j % 3
  if j = 0 ∧ o.inject then max d 1 else d

/-- A scale register of a signer whose parity has failed (R407). -/
def State.aScaleHurt (s : State) (signers : List (AgentId × Opnd)) (r : Nat) : Bool :=
  signers.any (fun x => match x.2 with
    | .g i => (((s.locate x.1).bind s.thread?).map (fun t => t.bad.contains (i.toNat + r))).getD false
    | _ => false)

/-! ### Bytes that the array may read in their old value (R216) -/

/-- The old values that a byte of a store may still be read in: those of the recent writes to it, the newest first, down to one
that every signer has fenced. -/
def Core.oldValues (k : Core) (unf : FreshWrite → Bool) (p : Place) : List Byte :=
  ((k.fresh.filter (fun w => w.place.overlaps w.old.length p 1)).takeWhile unf).map (fun w =>
    w.old.getD (p.addr - w.place.addr) 0)

/-- Put an old value into the view of a core. -/
def State.viewPut (v : State) (core : Nat) (p : Place) (b : Byte) : State :=
  match p with
  | .store c w off => v.modCore c (fun k => { k with astore := k.astore.write (v.regionBase c w + off) [b] })
  | .wstore off => v.modCore core (fun k => { k with wstore := k.wstore.write off [b] })
  | _ => v

/-- What the array sees of a core's stores: each byte of a recent write that some signer has not fenced in its new value or in an
old one, by `pick` (log 2). The view, and the state after the choices. -/
def State.arrayView (s : State) (core : Nat) (unf : FreshWrite → Bool) : State × State :=
  let k := s.core core
  let places := ((k.fresh.filter unf).flatMap (fun w => (List.range w.old.length).map w.place.shift)).eraseDups
  places.foldl (fun acc p =>
    let olds := k.oldValues unf p
    let (i, s1) := acc.2.pick (olds.length + 1)
    match i with
    | 0 => (acc.1, s1)
    | j + 1 => (acc.1.viewPut core p (olds.getD j 0), s1)) (s, s)

/-- The recent writes that an operation need not see: some signer had not fenced them when it signed, or they came after the first
signature. -/
def unseenBy (sn : Snapshot) (unfenced : List Nat) (w : FreshWrite) : Bool := unfenced.contains w.id || decide (sn.op < w.id)

/-- An `MMA` or `MMAS` runs its blocks in ascending order on a view of its core: the tile and the reruns, or why it fails after how
many. A poisoned operand byte is consumed with `ECC_UE` (R407). -/
def State.runBlocks (s : State) (core : Nat) (o : MxOp) (sn : Snapshot) (signers : List (AgentId × Opnd)) (fmt : BitVec 64)
    (mismatches : Nat) : Except (TrapCode × Nat) (List (List Nat) × Nat) :=
  let k := s.core core
  let one : FVal := .fin false 1 0
  let step (acc : List (List Nat) × Nat × Nat) (j : Nat) : Except (TrapCode × Nat) (List (List Nat) × Nat × Nat) :=
    let (c, row, n) := acc
    let aOff := aOffset sn.aVal + j * aBlock (fmtA fmt)
    let rows := if sn.sparse then sparseRows k.wstore (fmtB fmt) row else bBlock (fmtB fmt) / 2048
    let r := j % mmaR sn.form
    if s.storeHurt core o.wg aOff (aBlock (fmtA fmt)) || k.wHurt (2048 * row) (2048 * rows)
        || (fmtScale fmt && s.aScaleHurt signers r) then .error (.eccUe, n)
    else
      let a := aRows (fmtA fmt) (s.storeRead core o.wg aOff (aBlock (fmtA fmt)))
      match (if sn.sparse then sparseBlock k.wstore (fmtB fmt) row
        else some (bColumns (fmtB fmt) (k.wstore.slab (2048 * row) (2048 * rows)))) with
      | none => .error (.mxFault, n)
      | some cols =>
        let m := blockMisses o mismatches j
        if 2 ≤ m then .error (.mxFault, n + 1)
        else
          let sa (i : Nat) : FVal := if fmtScale fmt then s.aScale signers r i else one
          let sb := if fmtScale fmt then sn.bScale r else one
          .ok (promoteTile (fmtAcc fmt) c (a.zipIdx.map (fun x => (x.1, sa x.2))) cols sb, row + rows, n + m)
  if k.cHurt (32768 * mmaTile sn.form) 32768 then .error (.eccUe, 0)
  else ((List.range (mmaK sn.form)).foldlM step (k.tile (mmaTile sn.form), wOffset sn.aVal / 2048, 0)).map (fun x => (x.1, x.2.2))

/-- Read a row at a place of a drain. -/
def State.rowRead (s : State) (core : Nat) (o : MxOp) (p : Place) (n : Nat) : Except Trap (List Byte) :=
  match p with
  | .glob va => (s.homeRead core o.via va n).mapError (⟨·, va⟩)
  | .store c w off => if s.storeHurt c w off n then .error ⟨.eccUe, 0⟩ else .ok (s.storeRead c w off n)
  | _ => .error ⟨.perm, 0⟩

/-- Write a row at a place of a drain. -/
def State.rowWrite (s : State) (core : Nat) (o : MxOp) (p : Place) (bs : List Byte) : Except Trap State :=
  match p with
  | .glob va =>
    match s.pieces core o.via true (granules bs.length) va bs.length with
    | none => .error ⟨s.rangeCode (some (dieOf core)) (s.core core).tlb o.via true (granules bs.length) va bs.length, va⟩
    | some ps => .ok (ps.foldl (fun s p => s.modCore core (fun k => k.l1Drop p.1 p.2)) (s.writePieces ps bs))
  | .store c w off => .ok ((s.noteFresh c p (s.storeRead c w off bs.length) [] o.id).storeWrite c w off bs)
  | _ => .error ⟨.perm, 0⟩

/-- One drained element: the tile's value `c`, and the destination's `x` under `.add` (R319). -/
def drainElem (acc ty round : Nat) (sat add : Bool) (x c : Nat) : Nat × FFlags :=
  let cv : FVal := if acc = 9 then unpackF (ffmt 9) c else elemVal 2 c
  if ty = 2 then (if add then (x + c) % 2 ^ 32 else c, 0)
  else if add then fAdd (ffmt ty) round false (unpackF (ffmt ty) x) cv
  else fConv (ffmt ty) round sat cv

/-- A drain applies its tile, row by row, as one step (R319, R320). -/
def State.applyDrain (s : State) (core : Nat) (o : MxOp) (fmt : BitVec 64) (mode : Nat) (f : XForm) (rows : List Place) :
    Except Trap State := do
  let bits := elemBits (drainTy f)
  if o.held.isNone && (s.core core).cHurt (32768 * drainTile f) 32768 then .error ⟨.eccUe, 0⟩
  let tile := match o.held with
    | some bs => tileOfBytes bs
    | none => (s.core core).tile (drainTile f)
  let elem := drainElem (fmtAcc fmt) (drainTy f) (fmtRound fmt) (fmtSat fmt) (mode != 0)
  let (s1, fl) ← (rows.zip tile).foldlM (fun (acc : State × FFlags) x => do
    let old ← if mode = 0 then .ok (x.2.map (fun _ => 0)) else do
      let bs ← acc.1.rowRead core o x.1 (drainRow f)
      .ok (if bits = 32 then unpackWords bs else unpackCodes bits bs)
    let rs := (old.zip x.2).map (fun p => elem p.1 p.2)
    let s2 ← acc.1.rowWrite core o x.1 (packCodes bits (rs.map (·.1)))
    .ok (s2, rs.foldl (fun fl r => fl ||| r.2) acc.2)) (s, (0 : FFlags))
  let vf := match o.via with
    | .vf _ v => some v
    | _ => none
  let s2 := if rows.any (fun p => p.va?.isSome) then s1.perfEvent core 6 vf 1 else s1
  .ok (s2.noteMstat core o fl 0)

/-- The order word of an ordered drain. -/
def State.orderWord (s : State) (core : Nat) (o : MxOp) (va : Nat) : Except Trap Nat :=
  (s.rowRead core o (.glob va) 8).map leNat

/-- An ordered drain acquires its word, applies its tile, and releases the next number (R321). -/
def State.applyOrdered (s : State) (core : Nat) (o : MxOp) (fmt : BitVec 64) (f : XForm) (rows : List Place) (seq order : Nat) :
    Except Trap State := do
  let s1 ← (s.acquireAt core 4).applyDrain core o fmt 2 f rows
  s1.rowWrite core o (.glob order) (leBytes 8 (seq + 1))

/-! ### The sequencer (R326, R327) -/

def Core.findMx (k : Core) (id : Nat) : Option MxOp := k.mxOps.find? (fun o => o.id == id)
def Core.modMx (k : Core) (id : Nat) (f : MxOp → MxOp) : Core :=
  { k with mxOps := k.mxOps.map (fun o => if o.id == id then f o else o) }

/-- The operations before one, in issue order. -/
def Core.mxBefore (k : Core) (id : Nat) : List MxOp := k.mxOps.takeWhile (fun o => o.id != id)

/-- The C-tiles that an operation names, by which others are ordered after it (R326): those of an ordered drain that a restore issues
again too, though it brings the content of its tile (R328). -/
def MxOp.tiles (o : MxOp) : List Nat := o.kind.tiles

def MxKind.onArray : MxKind → Bool
  | .mma _ _ _ => true
  | .mzero _ => true
  | _ => false

/-- The signers of an operation: each counts it in `mx`. -/
def MxOp.signers (o : MxOp) : List AgentId :=
  match o.kind with
  | .mma _ sg _ => sg.map (·.1)
  | _ => [o.agent]

/-- An operation leaves the sequencer and its signers' counts (R327). -/
def State.retireMx (s : State) (core : Nat) (o : MxOp) : State :=
  let s1 := s.modCore core (fun k => { k with mxOps := k.mxOps.filter (fun x => x.id != o.id) })
  let s2 := o.signers.foldl (fun s id => s.onCtx id (fun c => c.setCount .mx (c.count .mx - 1))) s1
  s2.settleMchk core

/-- An operation that ends its grid. A firewall that dropped a request of it keeps its mark (R393). -/
def State.mxFails (s : State) (core : Nat) (o : MxOp) (t : Trap) : State :=
  let s1 := (if t.code = .perm then s.noteDrop core o.via t.va else s).retireMx core o
  match s1.locate o.agent with
  | some a => s1.failAt a t o.pc
  | none => s1.report (some o.grid) t o.pc core

/-- A range of the W-store lies in a region whose old contents are not saved yet (R201). -/
def Core.wHeld (k : Core) (off n : Nat) : Bool :=
  k.wOld.any (fun r => decide (r.1 * 1048576 < off + n ∧ off < (r.1 + 1) * 1048576))

/-- An `MMA` or `MMAS` reads no such region, block by block from a row up. -/
def Core.readsSaved (k : Core) (fmt : BitVec 64) (sparse : Bool) : Nat → Nat → Bool
  | 0, _ => true
  | n + 1, row =>
    let rows := if sparse then sparseRows k.wstore (fmtB fmt) row else bBlock (fmtB fmt) / 2048
    !k.wHeld (2048 * row) (2048 * rows) && k.readsSaved fmt sparse n (row + rows)

/-- The format slot record that an operation's form names. -/
def State.mxFmt (s : State) (o : MxOp) (f : XForm) : BitVec 64 := ((s.grid o.grid).map (·.fmtOf f)).getD 0

/-- An operation may start: those before it have started, and none before it names a tile of its own; the array runs one at a
time; the W-store that it reads is this team's (R201, R326). -/
def State.mayStart (s : State) (core : Nat) (o : MxOp) : Bool :=
  let k := s.core core
  let before := k.mxBefore o.id
  o.state == .waiting && before.all (fun x => x.state != .waiting)
  && before.all (fun x => x.tiles.all (fun t => !o.tiles.contains t))
  && (!o.kind.onArray || before.all (fun x => !x.kind.onArray))
  && (match o.kind with
      | .mma sn _ _ => k.readsSaved (s.mxFmt o sn.form) sn.sparse (mmaK sn.form) (wOffset sn.aVal / 2048)
      | .drain 2 _ _ seq order =>
        (match s.orderWord core o order with
          | .ok z => !(decide (z < seq) && (match s.drainDie core o with
              | some d => decide (Config.waitingDrains ≤ s.drainsAt d)
              | none => false))
          | .error _ => true)
      | _ => true)

/-- A quantisation writes its result (R216, R324, R325). -/
def State.quantWrite (s : State) (core : Nat) (o : MxOp) (dst : Nat) (bs : List Byte) : State :=
  (s.noteFresh core (.store core o.wg dst) (s.storeRead core o.wg dst bs.length) [] o.id).storeWrite core o.wg dst bs

/-- What an operation does when it starts. A poisoned byte that it reads is consumed with `ECC_UE` (R407). -/
def State.startMx (s : State) (core : Nat) (o : MxOp) (mismatches : Nat) : State :=
  let fmt := s.mxFmt o
  let run (s : State) : State := s.modCore core (fun k => k.modMx o.id (fun o => { o with state := .running }))
  let orFail (r : Except Trap State) : State :=
    match r with
    | .ok s1 => run s1
    | .error t => s.mxFails core o t
  match o.kind with
  | .mma sn sg unfenced =>
    let (v, s) := s.arrayView core (unseenBy sn unfenced)
    let vf := match o.via with
      | .vf _ v => some v
      | _ => none
    let rerun (s : State) (n : Nat) : State := (s.noteMstat core o 0 n).perfEvent core 9 vf n
    match v.runBlocks core o sn sg (fmt sn.form) mismatches with
    | .ok (c, n) => run (rerun (s.modCore core (fun k => k.setTile (mmaTile sn.form) c)) n)
    | .error (t, n) => ((rerun s n).freeTile core (mmaTile sn.form)).mxFails core o ⟨t, 0⟩
  | .mzero _ =>
    run (s.modCore core (fun k => (o.kind.tiles).foldl (fun k t =>
      { k with cstore := k.cstore.zero (32768 * t) 32768,
               badC := k.badC.filter (fun x => decide (x < 32768 * t ∨ 32768 * t + 32768 ≤ x)) }) k))
  | .drain 2 f rows seq order =>
    match s.orderWord core o order with
    | .error t => s.mxFails core o t
    | .ok z =>
      if z = seq then orFail (s.applyOrdered core o (fmt f) f rows seq order)
      else if z < seq then s.modCore core (fun k => k.modMx o.id (fun o => { o with state := .atWord s.clock }))
      else s.mxFails core o ⟨.mxFault, 0⟩
  | .drain mode f rows _ _ => orFail (s.applyDrain core o (fmt f) mode f rows)
  | .qdual f src dst =>
    if s.storeHurt core o.wg src (qdualRead f) then s.mxFails core o ⟨.eccUe, 0⟩
    else
    let (bs, fl) := qdualBytes (fmtA (fmt f)) (fld f.flags 0 4) (fmtSat (fmt f)) (s.storeRead core o.wg src (qdualRead f))
    let (free, s1) := if src < dst + bs.length ∧ dst < src + qdualRead f then s.freeBytes bs.length else ([], s)
    let out := bs.zipIdx.map (fun b =>
      if src ≤ dst + b.2 ∧ dst + b.2 < src + qdualRead f then free.getD b.2 0 else b.1)
    run ((s1.quantWrite core o dst out).noteMstat core o fl 0)
  | .qscan f dst =>
    if (s.core core).cHurt (32768 * mmaTile f) 32768 then s.mxFails core o ⟨.eccUe, 0⟩
    else
    let (bs, fl) := qscanBytes (fmtA (fmt f)) (fmtSat (fmt f)) ((s.core core).tile (mmaTile f))
    run ((s.quantWrite core o dst bs).noteMstat core o fl 0)

/-- The sequencer starts an operation (R326). -/
def execMatrixOpStart (core op mismatches : Nat) (s : State) : Host.Outcome State Fault Refusal :=
  match (s.core core).findMx op with
  | some o => if s.mayStart core o then .next (s.startMx core o mismatches) else .refused (.notEnabled "MATRIX_OP_START")
  | none => .refused (.notEnabled "MATRIX_OP_START")

/-- Rows of C whose scale registers a signer has written meanwhile are undefined (R315). -/
def State.spoilRows (s : State) (core : Nat) (o : MxOp) : State :=
  match o.kind with
  | .mma sn sg _ =>
    sg.foldl (fun s x =>
      match x.1 with
      | .thread _ _ t =>
        if (s.ctxOf x.1).marks.any (fun m => m.op == o.id && m.spoilt) then
          let (bs, s) := s.freeBytes 512
          s.modCore core (fun k => k.cWrite (32768 * mmaTile sn.form + 512 * (t % 64)) bs)
        else s
      | _ => s) s
  | _ => s

/-- An operation completes and leaves `mx` (R327). -/
def execMatrixOpComplete (core op : Nat) (s : State) : Host.Outcome State Fault Refusal :=
  match (s.core core).findMx op with
  | some o =>
    if o.state = .running then .next ((s.spoilRows core o).retireMx core o) else .refused (.notEnabled "MATRIX_OP_COMPLETE")
  | none => .refused (.notEnabled "MATRIX_OP_COMPLETE")

/-- A partly signed set reaches the limit of the collective watchdog (R311). -/
def execSetWatchdogTimeout (core wg cv : Nat) (s : State) : Host.Outcome State Fault Refusal :=
  match ((s.core core).wg wg).bind (fun w => (lookupN w.cvs cv).bind (fun r => r.snap.map (fun sn => (w, r, sn)))) with
  | some (w, r, sn) =>
    let lim := (s.core core).cwdog.toNat
    if lim ≠ 0 ∧ sn.since + lim ≤ s.clock then
      let s1 := s.modCore core (fun k => k.modWg wg (fun w => { w with cvs := putN w.cvs cv { count := r.count } }))
      .next (match (r.signers.head?).bind (fun x => s1.locate x.1) with
        | some a => s1.failAt a ⟨.timeout, 0⟩ sn.pc
        | none => s1.report (some w.grid) ⟨.timeout, 0⟩ sn.pc core)
    else .refused (.notEnabled "SET_WATCHDOG_TIMEOUT")
  | none => .refused (.notEnabled "SET_WATCHDOG_TIMEOUT")

/-- An operation waits at its order word, and waits no longer: its number stands there, or the word cannot be read (R321; DEDUCED,
log 47). -/
def State.wordMet (s : State) (core : Nat) (o : MxOp) : Bool :=
  match o.kind, o.state with
  | .drain 2 _ _ seq order, .atWord _ =>
    match s.orderWord core o order with
    | .ok z => z == seq
    | .error _ => true
  | _, _ => false

/-- What an ordered drain does once its number stands at its word (R321). -/
def State.applyAtWord (s : State) (core : Nat) (o : MxOp) : State :=
  match o.kind with
  | .drain _ f rows seq order =>
    match (s.orderWord core o order).bind (fun _ => s.applyOrdered core o (s.mxFmt o f) f rows seq order) with
    | .ok s1 => s1.modCore core (fun k => k.modMx o.id (fun o => { o with state := .running }))
    | .error t => s.mxFails core o t
  | _ => s

/-- A drain that waits at its order word finds its number there (R321). -/
def execOrderedDrainApply (core op : Nat) (s : State) : Host.Outcome State Fault Refusal :=
  match (s.core core).findMx op with
  | some o => if s.wordMet core o then .next (s.applyAtWord core o) else .refused (.notEnabled "ORDERED_DRAIN_APPLY")
  | none => .refused (.notEnabled "ORDERED_DRAIN_APPLY")

/-- A drain waits at its order word longer than the limit, counted in resident clocks (R321); one whose number stands there does not
wait any more. -/
def execOrderedDrainTimeout (core op : Nat) (s : State) : Host.Outcome State Fault Refusal :=
  match (s.core core).findMx op with
  | some o =>
    match o.state with
    | .atWord t =>
      let lim := (s.core core).cwdog.toNat
      if lim ≠ 0 ∧ t + lim ≤ s.clock + o.waited ∧ !s.wordMet core o then .next (s.mxFails core o ⟨.timeout, 0⟩)
      else .refused (.notEnabled "ORDERED_DRAIN_TIMEOUT")
    | _ => .refused (.notEnabled "ORDERED_DRAIN_TIMEOUT")
  | none => .refused (.notEnabled "ORDERED_DRAIN_TIMEOUT")

end Sys2Proof.Machine
end

