-- ==== Sys2Proof/Machine/Generation.lean ====
section
/-!
DEFINITION. The generation instructions (spec/18 R330 to R352). A step on a block is checked as it issues (R340) and is then pending
until the cast-off unit of the block's home takes it (R333, R352).
-/

namespace Sys2Proof.Machine

/-! ### Steps on blocks -/

/-- The rule that a form names. -/
def State.ruleOf (s : State) (a : Agent) (f : XForm) : BitVec 128 :=
  (lookupN (((s.gridOf a).map (·.rules)).getD []) f.rslot.toNat).getD 0

/-- The checks of a step before its home (R340): `slot` is the slot record that it touches. -/
def State.stepCheck (s : State) (a : Agent) (at_ : Nat) (slot : Option Nat) (write : Bool) : Option Trap :=
  if at_ % 64 ≠ 0 then some ⟨.align, at_⟩
  else
    match s.checkGlobal a at_ 64 write false, slot with
    | some t, _ => some t
    | none, some k => s.checkGlobal a (at_ + 64 + 8 * k : Nat) 8 write false
    | none, none => none

/-- A step on a block (R333): once its checks pass it is pending at the block's home, and counts in `ld` (R352). It is a release of what
its agent did before, and with a value to return an acquire. A header that does not translate traps at once. -/
def stepOut (a : Agent) (at_ : Nat) (slot : Option Nat) (write : Bool) (op : StepOp) (d : Opnd) (s : State) : LaneOut :=
  match s.stepCheck a at_ slot write with
  | some t => .trap t
  | none =>
    match s.xlate a.core (s.viaOf a) at_ false with
    | some pa => .done (s.post a (.glob at_) 64 (if d = .lit 0 then 3 else 4) 5 0 (.step op pa d) .ld)
    | none =>
      s.laneOf a (.error ⟨s.missCode (some (dieOf a.core)) (s.core a.core).tlb (s.viaOf a) at_ false, at_⟩)

/-- `CAST` (R339). -/
def execCast (f : XForm) (s : State) : Host.Outcome State Fault Refusal :=
  perLane (form (.cast f)) (fun a s =>
    let k := s.opVal a f.cm.b 32
    let c := s.opVal a f.cm.c 64
    stepOut a (s.opVal a f.cm.a 64) (some k) true (.cast k (c % 2 ^ 20) (c / 2 ^ 32 % 2 ^ 16) (s.ruleOf a f)) f.cm.d s) s

/-- `SLOTLD.rd`, `SLOTLD.mark` and `SLOTLD.hdr` (R344). -/
def execSlotldRd (f : XForm) (s : State) : Host.Outcome State Fault Refusal :=
  perLane (form (.slotldRd f)) (fun a s =>
    let k := s.opVal a f.cm.b 32
    stepOut a (s.opVal a f.cm.a 64) (some k) false (.slot false k) f.cm.d s) s
def execSlotldMark (f : XForm) (s : State) : Host.Outcome State Fault Refusal :=
  perLane (form (.slotldMark f)) (fun a s =>
    let k := s.opVal a f.cm.b 32
    stepOut a (s.opVal a f.cm.a 64) (some k) true (.slot true k) f.cm.d s) s
def execSlotldHdr (f : XForm) (s : State) : Host.Outcome State Fault Refusal :=
  perLane (form (.slotldHdr f)) (fun a s => stepOut a (s.opVal a f.cm.a 64) none false .header f.cm.d s) s

/-- `FRONT.open` and `FRONT.pass` (R341, R342): the slot records are checked at the home, where the header says how many there are. -/
def execFrontOpen (f : XForm) (s : State) : Host.Outcome State Fault Refusal :=
  perLane (form (.frontOpen f)) (fun a s => stepOut a (s.opVal a f.cm.a 64) none true .opening f.cm.d s) s
def execFrontPass (f : XForm) (s : State) : Host.Outcome State Fault Refusal :=
  perLane (form (.frontPass f)) (fun a s =>
    stepOut a (s.opVal a f.cm.a 64) none true (.pass (ruleKmin (s.ruleOf a f))) f.cm.d s) s

/-! ### `SMERGE` (R348) and `RNGK` (R350) -/

/-- The merge of two partials (m, s) of FP32 codes. -/
def mergePartials (round : Nat) (ma sa mb sb : Nat) : (Nat × Nat) × FFlags :=
  let f := ffmt 9
  let vs := [ma, sa, mb, sb].map (unpackF f)
  if vs.any (·.isNan) then ((f.nanCode, f.nanCode), flagIf (vs.any (·.isSnan)) fInvalid)
  else
    let m := (fMinMax f false ma mb).1
    let mv := unpackF f m
    let weight (x : Nat) : FVal × FFlags :=
      if fCompare (unpackF f x) mv == .eq then (.fin false 1 0, 0)
      else
        let d := (fAdd f 0 false (unpackF f x) mv.opp).1
        let r := fExp2 f 0 false (unpackF f d)
        (unpackF f r.1, r.2)
    let (wa, fa) := weight ma
    let (wb, fb) := weight mb
    let pa := mulExact (unpackF f sa) wa
    let pb := mulExact (unpackF f sb) wb
    let r : Nat × FFlags := if pa.isNan || pb.isNan then (f.nanCode, fInvalid) else fAdd f round false pa pb
    ((m, r.1), fa ||| fb ||| r.2)

def execSmerge (f : RForm) (s : State) : Host.Outcome State Fault Refusal :=
  perLane (form (.smerge f)) (fun a s =>
    let x := s.opVal a f.cm.a 64
    let y := s.opVal a f.cm.b 64
    let (r, fl) := mergePartials f.round.toNat (x % 2 ^ 32) (x / 2 ^ 32) (y % 2 ^ 32) (y / 2 ^ 32)
    .done ((s.flag a fl).putD a f.cm.d 64 (r.1 + 2 ^ 32 * r.2))) s

/-- One round of R350. -/
def rngRound (seed seq : DWord) (x : Word × Word) (r : Nat) : Word × Word :=
  let k : Word := if r % 4 < 2 then seed.extractLsb' (32 * (r % 4)) 32 else seq.extractLsb' (32 * (r % 4 - 2)) 32
  let rho := [7, 13, 17, 9, 11, 15].getD r 0
  let x0 := x.1 + x.2 + k + BitVec.ofNat 32 (r * 0x9E3779B9)
  (x0, x.2.rotateLeft rho ^^^ x0)

/-- The 64-bit value of R350. -/
def rngValue (seed seq : DWord) (ctr : Word) : DWord :=
  let x := (List.range 6).foldl (rngRound seed seq) (ctr, 0)
  x.2 ++ x.1

def execRngk (f : RForm) (s : State) : Host.Outcome State Fault Refusal :=
  perLane (form (.rngk f)) (fun a s =>
    let y := rngValue (BitVec.ofNat 64 (s.opVal a f.cm.a 64)) (BitVec.ofNat 64 (s.opVal a f.cm.b 64))
      (BitVec.ofNat 32 (s.opVal a f.cm.c 32))
    if f.ty = 7 then .done (s.putD a f.cm.d 64 y.toNat)
    else .done (s.putD a f.cm.d 32 (roundFin (ffmt 9) 0 false false (y.toNat / 2 ^ 40) (-24)).1)) s

end Sys2Proof.Machine
end

