-- ==== Sys2Proof/Machine/Groups.lean ====
section
/-!
DEFINITION. Group collectives (spec/08 R171 to R181) and `DQPOP` (spec/09 R188): the whole group issues, values go by position.
-/

namespace Sys2Proof.Machine

/-! ### The frame of a collective -/

/-- The key of an agent's group within a core. -/
def State.groupKey (s : State) (a : Agent) : Nat := if s.level a = .t then s.place a * 65536 + s.groupOf a else 0

/-- The agents of an issue by group. -/
def State.byGroup (s : State) (as : List Agent) : List (List Agent) :=
  ((as.map s.groupKey).eraseDups).map (fun k => as.filter (fun a => s.groupKey a == k))

/-- How a collective ends for its group. -/
inductive GroupOut where
  | done (s : State)
  /-- the group waits -/
  | stay (s : State)

/-- One group: the encoding checks, the guard, registers whose parity fails (R407), the effect on the present threads, then the
sequential PC for all (R172). -/
def State.collective (s : State) (f : Agent → Form) (body : List Agent → List Agent → State → GroupOut) (all : List Agent) : State :=
  if all.any (fun a => !s.issueOk a (f a)) then all.foldl (fun s a => s.raise a ⟨.illEnc, 0⟩) s
  else
    let present := sortBy s.posOf (all.filter (fun a => s.guardTrue a (f a).cm.guard))
    let hurt := present.filter (fun a => s.badOperand a (f a))
    if !hurt.isEmpty then hurt.foldl (fun s a => s.raise a ⟨.eccUe, 0⟩) s
    else
      let s1 := present.foldl (fun s a => (s.settle a (f a)).retain a (f a)) s
      match body present all s1 with
      | .done t => all.foldl (fun s a => s.advance a) t
      | .stay t => t

/-- A GROUP COLLECTIVE: every group of the issue (R161, R172). -/
def perGroup (f : Option Form) (body : List Agent → List Agent → State → GroupOut) (s : State) :
    Host.Outcome State Fault Refusal :=
  match f, s.cur with
  | some f, some i => .next (((s.byGroup i.agents).foldl (fun s g => s.collective (fun _ => f) body g) s).endIssue)
  | _, _ => .next s

/-- Bits of a mask by position. -/
def maskOf (ps : List Nat) : Nat := ps.eraseDups.foldl (fun m i => m + 2 ^ i) 0

/-! ### `VOTE`, `SHFL`, `MATCH` (R175 to R177) -/

def execVote (f : RForm) (s : State) : Host.Outcome State Fault Refusal :=
  perGroup (form (.vote f)) (fun present _ s =>
    let a (x : Agent) : Bool := s.readP x f.cm.a.num != f.func.getLsbD 2
    let vs := present.map a
    .done (match fld f.func 0 2 with
      | 3 =>
        let m := maskOf ((present.filter a).map s.posOf)
        present.foldl (fun s x => s.putD x f.cm.d 64 m) s
      | mode => present.foldl (fun s x => s.writeP x f.cm.d.num (voteResult mode vs)) s)) s

/-- The position that a shuffle names (R176). -/
def shflFrom (mode : Nat) (i b : Nat) : Int :=
  match mode with
  | 0 => b
  | 1 => (i : Int) - b
  | 2 => (i : Int) + b
  | _ => Nat.xor i b

def execShfl (f : RForm) (s : State) : Host.Outcome State Fault Refusal :=
  let w := tyW f.ty
  perGroup (form (.shfl f)) (fun present _ s =>
    let value (x : Agent) : Nat :=
      let j := shflFrom (fld f.func 0 2) (s.posOf x) (s.opVal x f.cm.b 32)
      match present.find? (fun y => ((s.posOf y : Nat) : Int) == j) with
      | some y => s.opVal y f.cm.a w
      | none => s.opVal x f.cm.a w
    .done ((present.map (fun x => (x, value x))).foldl (fun s p => s.putD p.1 f.cm.d w p.2) s)) s

def execMatchv (f : RForm) (s : State) : Host.Outcome State Fault Refusal :=
  let w := tyW f.ty
  perGroup (form (.matchv f)) (fun present _ s =>
    let mask (x : Agent) : Nat :=
      maskOf ((present.filter (fun y => s.opVal y f.cm.a w == s.opVal x f.cm.a w)).map s.posOf)
    .done ((present.map (fun x => (x, mask x))).foldl (fun s p => s.putD p.1 f.cm.d 64 p.2) s)) s

/-! ### Reductions and scans (R178 to R180) -/

/-- The A values of the present threads by position. -/
def State.values (s : State) (present : List Agent) (o : Opnd) (w : Nat) : List (Nat × Node) :=
  present.map (fun x => (s.posOf x, (s.opVal x o w, (0 : FFlags))))

/-- Write each present thread its value; all receive the flags of every tree (R82). -/
def State.giveNodes (s : State) (d : Opnd) (w : Nat) (rs : List (Agent × Node)) : State :=
  let fl := rs.foldl (fun f r => f ||| r.2.2) 0
  rs.foldl (fun s r => (s.flag r.1 fl).putD r.1 d w r.2.1) s

/-- A reduction in which the thread at a position combines the positions that a test lets in. -/
def reduceBy (i : Instr) (f : RForm) (keep : State → List Agent → Nat → Nat → Bool) (s : State) :
    Host.Outcome State Fault Refusal :=
  let op := fld f.func 0 3
  let ty := f.ty.toNat
  let w := tyW f.ty
  perGroup (form i) (fun present _ s =>
    let xs := s.values present f.cm.a w
    let tree (x : Agent) : Node :=
      (fixedTree (redOp op ty f.round.toNat) 6 (xs.filter (fun v => keep s present (s.posOf x) v.1))).getD (redIdentity op ty, 0)
    .done (s.giveNodes f.cm.d w (present.map (fun x => (x, tree x))))) s

def execGred (f : RForm) (s : State) : Host.Outcome State Fault Refusal := reduceBy (.gred f) f (fun _ _ _ _ => true) s

def execScan (f : RForm) (s : State) : Host.Outcome State Fault Refusal :=
  reduceBy (.scan f) f (fun _ _ i k => if f.func.getLsbD 3 then decide (k < i) else decide (k ≤ i)) s

/-- The first position of the segment that holds a position: the highest head at or below it, else the lowest present (R180). -/
def State.segStart (s : State) (present : List Agent) (head : Agent → Bool) (i : Nat) : Nat :=
  (present.filter (fun x => head x && decide (s.posOf x ≤ i))).foldl (fun m x => max m (s.posOf x)) 0

def execSegred (f : RForm) (s : State) : Host.Outcome State Fault Refusal :=
  reduceBy (.segred f) f (fun s present i k =>
    let start (j : Nat) : Nat := s.segStart present (fun x => s.readPQ x f.pred2) j
    start k == start i && (!f.func.getLsbD 3 || decide (k ≤ i))) s

/-! ### `REBAL` (R181) -/

/-- The running starts of the present counts. -/
def startsFrom : Nat → List (Nat × Nat) → List (Nat × Nat × Nat)
  | _, [] => []
  | p, (i, c) :: r => (i, p, c) :: startsFrom (p + c) r

def rebalWord (starts : List (Nat × Nat × Nat)) (total q : Nat) : Nat :=
  let tw := min total 0xFFFFFFFF
  let pack (a b c d : Nat) : Nat := a + 2 ^ 32 * b + 2 ^ 64 * c + 2 ^ 96 * d
  match starts.find? (fun x => decide (x.2.1 ≤ q ∧ q < x.2.1 + x.2.2)) with
  | some x => pack x.1 (q - x.2.1) tw x.2.1
  | none => pack 0xFFFFFFFF (q - total) tw tw

def execRebal (f : RForm) (s : State) : Host.Outcome State Fault Refusal :=
  perGroup (form (.rebal f)) (fun present _ s =>
    let counts := present.map (fun x => (s.posOf x, s.opVal x f.cm.a 32))
    let starts := startsFrom 0 counts
    let total := counts.foldl (fun t c => t + c.2) 0
    .done ((present.map (fun x => (x, rebalWord starts total (s.opVal x f.cm.b 32)))).foldl
      (fun s p => s.putD p.1 f.cm.d 128 p.2) s)) s

/-! ### `DQPOP` (R188) -/

/-- Every thread of a group waits in its `DQPOP`. -/
def State.waitPop (s : State) (f : RForm) (present all : List Agent) (lim : Nat) : State :=
  let until_ := if lim = 0 then none else some (s.clock + lim)
  all.foldl (fun s x => s.modCtx x (fun c =>
    { c with wait := .pop (present.contains x) f.cm.d until_ f.cm.c.num, waitFrom := s.clock })) s

def execDqpop (f : RForm) (s : State) : Host.Outcome State Fault Refusal :=
  perGroup (form (.dqpop f)) (fun present all s =>
    match present with
    | [] => .done s
    | first :: _ =>
      let c := first.core
      let p := s.place first
      let g := s.groupOf first
      let give (s : State) (v : DWord) (ok : Bool) : State :=
        present.foldl (fun s x => (s.putD x f.cm.d 64 v.toNat).writeP x f.cm.c.num ok) s
      if s.level first ≠ .t then .done (give s 0 false)
      else if s.hasEntry c p g then
        let (e, s1) := s.takeEntry c p g
        .done ((give s1 e true).settleQueue c p)
      else if s.leadDone c p then .done (give s 0 false)
      else .stay (s.waitPop f present all (s.opVal first f.cm.b 32))) s

end Sys2Proof.Machine
end

