-- ==== Sys2Proof/Machine/Issue.lean ====
section
/-!
DEFINITION. The operations of the issue unit: `LINE_FETCH_CHECK`, `LINE_REFETCH` (spec/03 R52), `ISSUE_BUNDLE`,
`THREAD_AGED`, `LEAD_ISSUE` (spec/08 R161 to R164).
-/

namespace Sys2Proof.Machine

/-- The running agents of a core whose PC lies in a line that they may fetch. -/
def State.wantsLine (s : State) (c : Nat) (line : DWord) : List Agent :=
  ((s.core c).threadAgents c ++ (s.core c).leadAgents c).filter (fun a =>
    (s.ctx a).wait == .run && lineOf (s.ctx a).pc == line && (s.fetchTrap a).isNone)

/-- The bytes of a line in L2, and whether its six parity bits and its bytes are sound (R51, R52, R407; DEDUCED, log 54). -/
def State.lineInL2 (s : State) (pa : Nat) : Line × Bool :=
  let l := lineOfBytes (s.phys.read pa 64)
  (l, parityOk l && !s.poisoned pa 64)

/-- The instruction cache takes a line; the oldest of its 2,048 leaves (R14, log 12). -/
def Core.icPut (k : Core) (pa : Nat) (l : ICLine) : Core :=
  { k with icache := ((pa, l) :: delN k.icache pa).take Config.icacheLines }

/-- A line that no cache holds is fetched and checked whole as it enters the issue stage (R52): a request to L2 (R388). -/
def execLineFetchCheck (core : Nat) (line : DWord) (s : State) : Host.Outcome State Fault Refusal :=
  match (s.wantsLine core line).filterMap (fun a => if (s.cachedLine a).isNone then (s.linePa a).map (a, ·) else none) with
  | (a, pa) :: _ =>
    let (l, ok) := s.lineInL2 pa
    let s1 := s.modCore core (fun k => k.icPut pa { data := l, failed := !ok })
    .next ((((s1.noteSoft [(pa, 64)]).perfEvent core 6 (s.vfOf a) 1).fillTlb core (s.fetchVia a) line.toNat).pass 1)
  | [] => .refused (.notEnabled "LINE_FETCH_CHECK")

/-- A line whose check failed is fetched once more from L2 and checked again: a second failure raises `ECC_UE`, reported as
every trap of a fetch is, and no slot of it issues (R52, R54). -/
def execLineRefetch (core : Nat) (line : DWord) (s : State) : Host.Outcome State Fault Refusal :=
  let waiting := (s.wantsLine core line).filter (fun a => ((s.cachedLine a).map (·.failed)).getD false)
  match waiting.filterMap s.linePa with
  | pa :: _ =>
    let (l, ok) := s.lineInL2 pa
    let s := s.perfEvent core 6 (waiting.head?.bind s.vfOf) 1
    if ok then
      .next ((s.modCore core (fun k => k.icPut pa { data := l, failed := false })).pass 1)
    else
      let s1 := s.modCore core (fun k => { k with icache := delN k.icache pa })
      .next ((waiting.foldl (fun s a => s.raiseAt a ⟨.eccUe, 0⟩ (s.ctx a).srcPc) s1).pass 1)
  | [] => .refused (.notEnabled "LINE_REFETCH")

/-- The issue unit forms one bundle and issues it, with its pair where the next slot permits one (R161, R162). It shares the clock of
the lead that has just issued beside it (R164). -/
def execIssueBundle (core : Nat) (s : State) : Host.Outcome State Fault Refusal :=
  if s.cur.isSome then .refused (.notEnabled "ISSUE_BUNDLE")
  else
    let taken := s.bundle core
    match taken with
    | [] => .refused (.notEnabled "ISSUE_BUNDLE")
    | first :: _ =>
      let pc := (s.ctx first).pc
      let coll := s.atCollective first
      let s2 := (s.pass (if (s.core core).leadLast then 0 else 1)).modCore core (fun k => { k with leadLast := false })
      let (s3, pass) := s2.passMatch taken
      let go := if coll then pass.filter (fun a => (s2.groupMates a).all pass.contains) else pass
      match go with
      | [] => .next s3
      | a :: _ =>
        let paired := s3.pairs go
        let vf := s3.vfOf a
        let old := (go.filter s3.agedOf).length
        let s4 := s3.takeNumbers core go
        let s5 := s4.perfEvent core 2 vf 1
        let s6 := if old = 0 then s5 else s5.perfEvent core 10 vf 1
        .next { s6 with cur := some { core := core, agents := go, pc := pc, paired := paired } }

/-- The next ready lead from the round-robin's turn on (R164). -/
def State.nextLead (s : State) (c : Nat) : Option Agent :=
  let k := s.core c
  let order := (List.range 32).map (fun i => (k.leadTurn + i) % 32)
  (order.filterMap (fun p => (k.wg p).bind (fun w => w.lead.map (fun _ => ({ core := c, who := .lead p } : Agent))))).find?
    s.ready

/-- One ready lead issues; the thread bundle beside it is next (R164). -/
def execLeadIssue (core : Nat) (s : State) : Host.Outcome State Fault Refusal :=
  if s.cur.isSome then .refused (.notEnabled "LEAD_ISSUE")
  else
    match s.nextLead core with
    | none => .refused (.notEnabled "LEAD_ISSUE")
    | some a =>
      let s1 := (s.modCore core (fun k => { k with leadTurn := (s.place a + 1) % 32, leadLast := true })).pass 1
      let (s2, go) := s1.passMatch [a]
      match go with
      | [] => .next s2
      | _ =>
        let s3 := (s2.perfEvent core 4 (s2.vfOf a) 1).modCtx a (fun c => { c with noMatch := false })
        .next { s3 with cur := some { core := core, agents := go, pc := (s3.ctx a).pc, paired := false } }

/-- A thread that was ready for 1,024 clocks without an issue is marked aged (R163). Supervisor threads never are (R370). -/
def execThreadAged (core slot : Nat) (s : State) : Host.Outcome State Fault Refusal :=
  match (s.core core).thread slot with
  | some t =>
    if t.level == .t && !t.aged && decide (Config.agedClocks ≤ t.readyFor) then
      .next (s.modCore core (fun k => k.modThread slot (fun t => { t with aged := true })))
    else .refused (.notEnabled "THREAD_AGED")
  | none => .refused (.notEnabled "THREAD_AGED")

end Sys2Proof.Machine
end

