-- ==== Sys2Proof/Machine/Launch.lean ====
section
/-!
DEFINITION. Launch records, launch queues and the lead's forms (spec/09 R186 to R204): what the distributor reads of a VF's
memory, the doorbell and its checks, validation, the start of a launch, `DQPUSH`, `LNCH`, `FWORK`, `WGDONE`.
-/

namespace Sys2Proof.Machine

/-! ### The distributor's accesses (R16) -/

/-- A range lies in one half of the canonical space (R195). -/
def oneHalf (base n : Nat) : Bool :=
  decide (base + n ≤ 2 ^ 55 ∨ (2 ^ 64 - 2 ^ 55 ≤ base ∧ base + n ≤ 2 ^ 64))

/-- Read bytes of a VF's memory; none where they cannot be read, or are poisoned (R407): a launch record or a ring entry is then not
readable, since no grid could end with `ECC_UE` (R197; DESIGN CHOICE, log 86). -/
def State.vfRead (s : State) (part vf va n : Nat) : Option (List Byte) :=
  if oneHalf va n then
    match s.readBy none [] (.vf part vf) va n with
    | .ok bs => some bs
    | .error _ => none
  else none

/-- The physical address of a write by the distributor, which needs no right to read there (R195). -/
def State.outAddr (s : State) (part vf va : Nat) : Option Nat :=
  match s.walkAny none part vf va with
  | some t =>
    let pa := t.pa + (va - t.va)
    if t.write && !s.foreign part pa then s.route part pa true else none
  | none => none

/-- The physical pieces of a range that the distributor writes, by 64 KiB granule. -/
def State.outPieces (s : State) (part vf : Nat) : Nat → Nat → Nat → Option (List (Nat × Nat))
  | 0, _, n => if n = 0 then some [] else none
  | fuel + 1, va, n =>
    if n = 0 then some []
    else
      let m := min n (65536 - va % 65536)
      match s.outAddr part vf va, s.outPieces part vf fuel (va + m) (n - m) with
      | some pa, some ps => some ((pa, m) :: ps)
      | _, _ => none

/-- Write bytes of a VF's memory; nothing where it cannot be reached. -/
def State.vfWrite (s : State) (part vf va : Nat) (bs : List Byte) : State :=
  match s.outPieces part vf (granules bs.length) va bs.length with
  | some ps => s.writePieces ps bs
  | none => s

/-- Every page of a range translates and gives some rights (R195, R398). -/
def State.reaches (s : State) (part vf : Nat) (ok : TlbEntry → Bool) : Nat → Nat → Nat → Bool
  | 0, _, n => n == 0
  | fuel + 1, va, n =>
    if n = 0 then true
    else
      match s.walkAny none part vf va with
      | some t =>
        let m := min n (t.va + t.size - va)
        ok t && s.reaches part vf ok fuel (va + m) (n - m)
      | none => false

/-- A range that a lease may name: readable, and writable for `rw` (R398). -/
def State.leasable (s : State) (part vf : Nat) (write : Bool) (base n : Nat) : Bool :=
  oneHalf base n && s.reaches part vf (fun t => t.read && (!write || t.write)) (granules n) base n

/-! ### Launch queues (R194, R195) -/

def Queue.size (q : Queue) : Nat := 2 ^ q.log.toNat
/-- Address of ring entry `i`. -/
def Queue.entryAt (q : Queue) (i : Nat) : Nat := q.base.toNat + 32 * (i % q.size)

/-- The first failing check of a doorbell of value `x` (R195; DEDUCED, log 23). A ring page that stage one does not let the VF write
gives cause 0x02 too (DESIGN CHOICE, log 69). -/
def State.ringCause (s : State) (part vf : Nat) (q : Queue) (x : Word) : Option Nat :=
  let d := (x - q.ridx).toNat
  if !oneHalf q.base.toNat (32 * q.size) then some 0x01
  else if !s.reaches part vf (·.write) (granules (32 * q.size)) q.base.toNat (32 * q.size) then some 0x02
  else if 15 < q.log.toNat then some 0x03
  else if q.size < d then some 0x04
  else if d < (q.widx - q.ridx).toNat then some 0x05
  else none

/-- The next `n` entries of a queue are accepted together (R195). -/
def State.acceptEntries (s : State) (part vf queue : Nat) (x : Word) : State :=
  let s1 := s.modQueue (vfKey part vf) queue (fun q =>
    { q with widx := x,
             pending := q.pending ++ List.replicate (x - q.widx).toNat { order := s.nextAccept, ceiling := q.priority.toNat } })
  { s1.modVf (vfKey part vf) (fun v => { v with launched := true }) with nextAccept := s.nextAccept + 1 }

/-- A queue stops (R195). -/
def State.stopQueue (s : State) (part vf queue cause : Nat) : State :=
  s.modQueue (vfKey part vf) queue (fun q => { q with qerr := true, cause := BitVec.ofNat 8 cause })

/-- A doorbell (R195). -/
def State.ring (s : State) (part vf queue : Nat) (x : Word) : State :=
  let q := (s.vf (vfKey part vf)).queue queue
  if !q.enable || q.qerr then s
  else
    match s.ringCause part vf q x with
    | some c => s.stopQueue part vf queue c
    | none => if x = q.widx then s else s.acceptEntries part vf queue x

/-- A write to `LQ_WIDX`: a doorbell, which a frozen partition holds (R408). -/
def State.doorbell (s : State) (part vf queue : Nat) (x : Word) : State :=
  if (s.part part).frozen then s.modPart part (fun p => { p with held := p.held ++ [(vf, queue, x)] })
  else s.ring part vf queue x

/-- A write to `LQ_WIDX`. A reset of the VF ignores it (R401). -/
def execDoorbell (part vf queue : Nat) (x : Word) (s : State) : Host.Outcome State Fault Refusal :=
  if !s.hasVf part vf || 64 ≤ queue then .refused (.notEnabled "DOORBELL")
  else if (s.vf (vfKey part vf)).resetting then .next s
  else .next (s.doorbell part vf queue x)

/-- A write to `LQ_CTL` with its reset bit (R194). A write during a reset of the VF is ignored (R401). -/
def execLqReset (part vf queue : Nat) (v : Word) (s : State) : Host.Outcome State Fault Refusal :=
  if !s.hasVf part vf || !v.getLsbD 8 || 64 ≤ queue then .refused (.notEnabled "LQ_RESET")
  else if (s.vf (vfKey part vf)).resetting then .next s
  else .next (s.resetQueue part vf queue v)

/-- A write to a register of the module (R4). A tenant's register takes writes once bring-up is done
(R413), and ignores them during a reset of its VF (R401). -/
def execRegisterWrite (r : RegName) (v : DWord) (s : State) : Host.Outcome State Fault Refusal :=
  if !regExists r then .refused (.notEnabled "REGISTER_WRITE")
  else
    match regTenant r with
    | some (p, f) =>
      if !s.hasVf p f then .refused (.notEnabled "REGISTER_WRITE")
      else if (s.vf (vfKey p f)).resetting then .next s
      else .next (s.writeReg r v)
    | none => .next (s.writeReg r v)

/-! ### Ring entries (R196) -/

/-- The number of a launch state (R196). -/
def LaunchState.num : LaunchState → Nat
  | .waiting => 1
  | .running => 2
  | .complete => 3
  | .refused => 4
  | .cancelled => 5
  | .ended => 6
  | .coopWait => 7

/-- The distributor writes a status with its cause or code. -/
def State.writeStatus (s : State) (part vf entry state code : Nat) : State :=
  s.vfWrite part vf (entry + 16) (leBytes 4 (state + 256 * code))

/-- A grid enters a state, and its ring entry says so. -/
def State.enterState (s : State) (g : Nat) (st : LaunchState) (code : Nat) : State :=
  match s.grid g with
  | some x => (s.modGrid g (fun x => { x with state := st })).writeStatus x.part x.vf x.entry st.num code
  | none => s

/-! ### Launch records (R190 to R192) -/

/-- Bits that are set in a mask of a record. -/
def maskBits (m n : Nat) : List Nat := (List.range n).filter m.testBit

/-- Addresses of the bound slots at an offset. -/
def slotAddrs (b : List Byte) (m n at_ : Nat) : NMap Nat := (maskBits m n).map (fun i => (i, leAt b (at_ + 8 * i) 8))

def leaseAt (b : List Byte) (i : Nat) : Lease :=
  { base := leAt b (0x2A0 + 16 * i) 8, size := leAt b (0x2A8 + 16 * i) 6 + 1, rw := leAt b (0x2AE + 16 * i) 1 % 2 == 1 }

def depAt (b : List Byte) (i : Nat) : Dep :=
  { addr := leAt b (0x3A0 + 16 * i) 8, kind := leAt b (0x3A8 + 16 * i) 1, phase := leAt b (0x3A9 + 16 * i) 1 % 16 }

/-- A launch record as its 1,024 bytes say it. -/
def Launch.ofBytes (b : List Byte) : Launch :=
  let lead := leAt b 0x0C 4
  let ctl := leAt b 0x28 1
  { text := leAt b 0 8, textLen := leAt b 8 4, leadEntry := if lead = 0xFFFFFFFF then none else some lead,
    threadEntry := leAt b 0x10 4, gx := leAt b 0x14 2, gy := leAt b 0x16 2, gz := leAt b 0x18 2,
    team := 2 ^ (leAt b 0x1A 1 % 8), group := 8 * 2 ^ (leAt b 0x1B 1 % 4), threads := leAt b 0x1C 2, regs := 8 * leAt b 0x1E 1,
    cvregs := leAt b 0x1F 1, astore := leAt b 0x20 4,
    levels := (List.range (leAt b 0x27 1 % 16)).map (fun i => leAt b 0x24 3 / 8 ^ i % 8),
    priority := ctl % 8, coop := ctl / 8 % 2 == 1, exclusive := ctl / 16 % 2 == 1,
    fmtAddr := slotAddrs b (leAt b 0x29 1) 8 0xC0, ruleAddr := slotAddrs b (leAt b 0x2A 1) 4 0x100,
    volAddr := slotAddrs b (leAt b 0x2C 2) 16 0x120, recAddr := slotAddrs b (leAt b 0x30 4) 32 0x1A0,
    args := (List.range 16).map (fun i => BitVec.ofNat 64 (leAt b (0x40 + 8 * i) 8)),
    leases := (List.range (leAt b 0x2B 1 % 32)).map (leaseAt b), deps := (List.range (leAt b 0x2E 1 % 8)).map (depAt b) }

/-- Unbound slots at an offset hold 0. -/
def unboundZero (b : List Byte) (m n at_ : Nat) : Bool :=
  (List.range n).all (fun i => m.testBit i || zeroAt b (at_ + 8 * i) 8)

/-- Reserved fields and unused entries are 0 (cause 0x11). -/
def recordZero (b : List Byte) : Bool :=
  let nl := leAt b 0x2B 1 % 32
  let nd := leAt b 0x2E 1 % 8
  leAt b 0x1A 1 / 8 == 0 && leAt b 0x1B 1 / 4 == 0 && leAt b 0x27 1 / 16 == 0 && leAt b 0x28 1 / 32 == 0
  && leAt b 0x2A 1 / 16 == 0 && leAt b 0x2B 1 / 32 == 0 && leAt b 0x2E 1 / 8 == 0 && zeroAt b 0x2F 1 && zeroAt b 0x34 12
  && zeroAt b 0x3E0 32
  && unboundZero b (leAt b 0x29 1) 8 0xC0 && unboundZero b (leAt b 0x2A 1) 4 0x100
  && unboundZero b (leAt b 0x2C 2) 16 0x120 && unboundZero b (leAt b 0x30 4) 32 0x1A0
  && (List.range 16).all (fun i => if i < nl then leAt b (0x2AE + 16 * i) 1 / 2 == 0 && zeroAt b (0x2AF + 16 * i) 1
      else zeroAt b (0x2A0 + 16 * i) 16)
  && (List.range 4).all (fun i => if i < nd then leAt b (0x3A9 + 16 * i) 1 / 16 == 0 && zeroAt b (0x3AA + 16 * i) 6
      else zeroAt b (0x3A0 + 16 * i) 16)

/-- No level domain is narrower than the one before it. -/
def rising : List Nat → Bool
  | x :: y :: r => decide (x ≤ y) && rising (y :: r)
  | _ => true

/-- Fields within their limits (cause 0x12; DEDUCED, log 22). -/
def Launch.inLimits (l : Launch) (levels : Nat) : Bool :=
  canonN l.text && decide (l.text % 64 = 0 ∧ l.textLen % 64 = 0 ∧ 64 ≤ l.textLen ∧ l.threadEntry % 64 = 0)
  && decide (l.leadEntry.getD 0 % 64 = 0)
  && decide (1 ≤ l.gx ∧ 1 ≤ l.gy ∧ 1 ≤ l.gz ∧ l.team ≤ 16 ∧ l.threads % l.group = 0 ∧ l.threads ≤ 4088)
  && decide (8 ≤ l.regs ∧ l.regs ≤ 512 ∧ l.cvregs ≤ 16 ∧ l.astore % 256 = 0 ∧ l.astore ≤ Config.astoreBytes)
  && decide (1 ≤ levels ∧ levels ≤ 8) && rising l.levels && decide (l.leases.length ≤ 16 ∧ l.deps.length ≤ 4)

/-- Bytes of a partition's HBM4E stacks (DEDUCED, log 24). -/
def Part.memory (p : Part) : Nat := 64000000000 * ((List.range 40).filter (fun d => p.dies.getLsbD d)).length
def Part.cores (p : Part) : Nat := 16 * ((List.range 40).filter (fun d => p.dies.getLsbD d)).length

/-- The records that a launch binds, as the memory holds them now; none where one cannot be read or is refused (cause 0x16). -/
structure Bound where
  fmts : NMap (BitVec 64)
  rules : NMap (BitVec 128)
  vols : NMap (List Byte)
  recs : NMap (List Byte)

/-- Read bound records of `n` bytes (DEDUCED, log 28). -/
def State.bindAll {α : Type} (s : State) (part vf n : Nat) (make : List Byte → Option α) : NMap Nat → Option (NMap α)
  | [] => some []
  | (i, a) :: r =>
    match (s.vfRead part vf a n).bind make, s.bindAll part vf n make r with
    | some x, some xs => some ((i, x) :: xs)
    | _, _ => none

def keepIf {α : Type} (ok : Bool) (x : α) : Option α := if ok then some x else none

def State.bound (s : State) (part vf : Nat) (l : Launch) : Option Bound :=
  let fmt (b : List Byte) : Option (BitVec 64) := let r := BitVec.ofNat 64 (leNat b); keepIf (fmtAccepted r) r
  let rule (b : List Byte) : Option (BitVec 128) := let r := BitVec.ofNat 128 (leNat b); keepIf (ruleAccepted r) r
  match s.bindAll part vf 8 fmt l.fmtAddr, s.bindAll part vf 16 rule l.ruleAddr,
      s.bindAll part vf 64 (fun b => keepIf (volAccepted b) b) l.volAddr,
      s.bindAll part vf 128 (fun b => keepIf (tensorAccepted b) b) l.recAddr with
  | some f, some r, some v, some t => some { fmts := f, rules := r, vols := v, recs := t }
  | _, _, _, _ => none

/-- The barrier object of a dependence of kind 2, where it is valid. An address that is not 16-byte aligned names the object that
holds it (DESIGN CHOICE, log 68). -/
def State.depObject (s : State) (part vf : Nat) (d : Dep) : Option Obj :=
  match s.vfRead part vf (d.addr / 16 * 16) 16 with
  | some b => let o := Obj.ofBytes b; keepIf o.valid o
  | none => none

/-- The lowest cause by which the distributor refuses a launch record (R197). Bytes that two leases hold count twice against the
partition's memory (DESIGN CHOICE, log 86). -/
def State.refusal (s : State) (part vf record : Nat) : Option Nat :=
  if !canonN record || record % 64 != 0 then some 0x10
  else
    match s.vfRead part vf record 1024 with
    | none => some 0x10
    | some b =>
      let l := Launch.ofBytes b
      if !recordZero b then some 0x11
      else if !l.inLimits (leAt b 0x27 1 % 16) then some 0x12
      else if Config.regFileBytes < l.threads * l.regs * 4 then some 0x13
      else if l.gx * l.gy * l.gz % l.team != 0 then some 0x14
      else if !s.leasable part vf false l.text l.textLen || decide (l.textLen ≤ l.threadEntry)
          || (match l.leadEntry with
              | some e => decide (l.textLen ≤ e)
              | none => false) then some 0x15
      else if (s.bound part vf l).isNone then some 0x16
      else if l.leases.any (fun x => !s.leasable part vf x.rw x.base x.size)
          || decide ((s.part part).memory < (l.leases.map (·.size)).sum) then some 0x17
      else if l.deps.any (fun d => d.kind != 1 && (d.kind != 2 || (s.depObject part vf d).isNone)) then some 0x18
      else if l.coop && decide ((s.part part).cores < l.gx * l.gy * l.gz) then some 0x19
      else none

/-- The distributor takes the next entry of a queue (R197). A cancelled entry only advances the read index (R200). -/
def execLaunchValidate (part vf queue : Nat) (s : State) : Host.Outcome State Fault Refusal :=
  let q := (s.vf (vfKey part vf)).queue queue
  match q.pending with
  | [] => .refused (.notEnabled "LAUNCH_VALIDATE")
  | e :: rest =>
    if q.qerr || (s.part part).frozen then .refused (.notEnabled "LAUNCH_VALIDATE")
    else
      let entry := q.entryAt q.ridx.toNat
      let s1 := s.modQueue (vfKey part vf) queue (fun q => { q with ridx := q.ridx + 1, pending := rest })
      if e.cancelled then .next s1
      else
        let record := match s.vfRead part vf entry 8 with
          | some b => leNat b
          | none => 1
        match s.refusal part vf record with
        | some c => .next (s1.writeStatus part vf entry LaunchState.refused.num c)
        | none =>
          let launch := Launch.ofBytes ((s.vfRead part vf record 1024).getD [])
          let g : Grid := { part := part, vf := vf, queue := queue, index := q.ridx.toNat, entry := entry, record := record,
                            launch := launch, accepted := e.order, ceiling := e.ceiling }
          let s2 := { s1 with grids := putN s1.grids s1.nextGrid g, nextGrid := s1.nextGrid + 1 }
          .next (s2.writeStatus part vf entry LaunchState.waiting.num 0)

/-! ### The start of a launch (R192, R193, R198) -/

/-- Has a launch reached complete, refused, cancelled or ended? -/
def LaunchState.over : LaunchState → Bool
  | .complete => true
  | .refused => true
  | .cancelled => true
  | .ended => true
  | _ => false

/-- A queue entry, not taken yet, names a record (R192): entries accepted before an order. -/
def State.queued (s : State) (part vf record order : Nat) : Bool :=
  (s.vf (vfKey part vf)).queues.any (fun q =>
    q.2.pending.zipIdx.any (fun e => !e.1.cancelled && decide (e.1.order < order)
      && s.vfRead part vf (q.2.entryAt (q.2.ridx.toNat + e.2)) 8 == some (leBytes 8 record)))

/-- A dependence is met (R192). One of kind 2 is read when the launch would start: a phase that has come back to `ph` by then does not
count (DESIGN CHOICE, log 85). -/
def State.depMet (s : State) (g : Grid) (d : Dep) : Bool :=
  if d.kind = 1 then
    !s.queued g.part g.vf d.addr g.accepted
    && s.grids.all (fun x => x.2.part != g.part || x.2.vf != g.vf || x.2.record != d.addr
        || decide (g.accepted ≤ x.2.accepted) || x.2.state.over)
  else
    match s.depObject g.part g.vf d with
    | some o => o.phase.toNat != d.phase
    | none => false

/-- A launch starts (R198): its bound records are copied (R193, R261, R285), its lease set takes a number (R196). A barrier
object that is no longer valid, or a record that is no longer accepted, refuses it (R192, R197; DEDUCED, log 56). One that has been
validated starts though its queue has gone into QERR since (R195; DESIGN CHOICE, log 83). -/
def execLaunchStart (grid : Nat) (s : State) : Host.Outcome State Fault Refusal :=
  match s.grid grid with
  | none => .refused (.notEnabled "LAUNCH_START")
  | some g =>
    if g.state ≠ .waiting then .refused (.notEnabled "LAUNCH_START")
    else if g.launch.deps.any (fun d => d.kind == 2 && (s.depObject g.part g.vf d).isNone) then
      .next (s.enterState grid .refused 0x18)
    else if !g.launch.deps.all (s.depMet g) then .refused (.notEnabled "LAUNCH_START")
    else
      match s.bound g.part g.vf g.launch with
      | none => .next (s.enterState grid .refused 0x16)
      | some b =>
        let s1 := s.modGrid grid (fun g => { g with fmts := b.fmts, rules := b.rules, vols := b.vols, recs := b.recs,
                                                    lease := s.nextLease, started := s.clock })
        let s2 := ({ s1 with nextLease := s1.nextLease + 1 } : State).vfWrite g.part g.vf (g.entry + 20) (leBytes 4 s.nextLease)
        .next (s2.enterState grid .running 0)

/-! ### DQPUSH, LNCH, FWORK, WGDONE -/

/-- `DQPUSH` (R187): a push into a full queue waits. -/
def execDqpush (f : RForm) (s : State) : Host.Outcome State Fault Refusal :=
  perLane (form (.dqpush f)) (fun a s =>
    let v : DWord := BitVec.ofNat 64 (s.opVal a f.cm.a 64)
    let lim := s.opVal a f.cm.b 32
    let p := s.place a
    let s := s.flush a.core
    if (s.ctx a).wait ≠ .run then .stay s
    else if s.queueFull a.core p then .stay (s.park a (.push v (if lim = 0 then none else some (s.clock + lim)) f.cm.c.num))
    else .done (((s.enqueue a.core p v).writeP a f.cm.c.num true).settleQueue a.core p)) s

/-- The write index that a queue will have once the doorbells held for it are taken (R408). -/
def Part.heldIndex (p : Part) (vf n : Nat) (widx : Word) : Word :=
  ((p.held.filter (fun h => h.1 == vf && h.2.1 == n)).getLast?.map (·.2.2)).getD widx

/-- `LNCH` (R202), as a doorbell of one entry: where a check of R195 fails, the queue stops (DEDUCED, log 25). A frozen partition
takes the entry and holds the doorbell (R408). -/
def execLnch (f : XForm) (s : State) : Host.Outcome State Fault Refusal :=
  perLane (form (.lnch f)) (fun a s =>
    let part := s.partOf a
    let vf := (s.vfOf a).getD 0
    let n := fld f.flags 0 6
    let q := (s.vf (vfKey part vf)).queue n
    let record := s.opVal a f.cm.a 64
    let tag := s.opVal a f.cm.b 64
    let ret (s : State) (v : Nat) : LaneOut := .done (s.putD a f.cm.d 64 v)
    if !q.enable then ret s (2 ^ 63 + 3)
    else if q.qerr then ret s (2 ^ 63 + 2)
    else if ((s.part part).heldIndex vf n q.widx - q.ridx).toNat = q.size then ret s (2 ^ 63 + 1)
    else if (s.part part).frozen then
      let i := (s.part part).heldIndex vf n q.widx
      let s1 := (s.flush a.core).vfWrite part vf (q.entryAt i.toNat) (leBytes 8 record ++ leBytes 8 tag ++ leBytes 16 0)
      ret (s1.modPart part (fun p => { p with held := p.held ++ [(vf, n, i + 1)] })) i.toNat
    else
      match s.ringCause part vf q (q.widx + 1) with
      | some c => ret (s.stopQueue part vf n c) (2 ^ 63 + 2)
      | none =>
        let s1 := (s.flush a.core).vfWrite part vf (q.entryAt q.widx.toNat) (leBytes 8 record ++ leBytes 8 tag ++ leBytes 16 0)
        ret (s1.acceptEntries part vf n (q.widx + 1)) q.widx.toNat) s

/-- `FWORK` (R203): the mailbox is checked and the request goes to the distributor. Its arrival is a release: what the lead has pending
is performed before (R219). -/
def execFwork (f : XForm) (s : State) : Host.Outcome State Fault Refusal :=
  perLane (form (.fwork f)) (fun a s =>
    let m := s.opVal a f.cm.a 32
    match checkOwn (s.astoreOf a) m 32 with
    | some t => .trap t
    | none =>
      let s := s.flush a.core
      if (s.ctx a).wait ≠ .run then .stay s
      else
        match s.gridNo a with
        | some g => .done ((s.publish a (some (.at_ (.store a.core (s.place a) m))) 0).modGrid g (fun x =>
            { x with fwork := x.fwork ++ [(s.idOf a, m, (s.ctx a).pc)] }))
        | none => .done s) s

/-- The lowest workgroup that is neither placed nor handed out (R203). -/
def Grid.remaining (g : Grid) : Option Nat :=
  if g.nextTeam * g.launch.team < g.launch.wgs then some (g.nextTeam * g.launch.team) else none

/-- The distributor answers the oldest `FWORK` request of a grid (R203); a poisoned object ends it (R407). Where
none is handed out, the coordinates that it writes are not defined (DEDUCED, log 26). -/
def execFworkServe (grid : Nat) (s : State) : Host.Outcome State Fault Refusal :=
  match s.grid grid with
  | none => .refused (.notEnabled "FWORK_SERVE")
  | some g =>
    match g.fwork with
    | [] => .refused (.notEnabled "FWORK_SERVE")
    | (id, m, pc) :: rest =>
      match s.locate id with
      | none => .refused (.notEnabled "FWORK_SERVE")
      | some a =>
        let p := s.place a
        let s1 := s.modGrid grid (fun g => { g with fwork := rest })
        let l := g.launch
        let none_ (status : Nat) : State :=
          let (bs, s2) := s1.freeBytes 12
          s2.storeWrite a.core p (m + 16) (bs ++ leBytes 4 status)
        let s2 : State :=
          if l.team ≠ 1 then none_ 2
          else
            match g.remaining with
            | none => none_ 1
            | some lin =>
              let by_ := ((s.wg? a).map (·.lin)).getD 0
              (s1.modGrid grid (fun g => { g with nextTeam := g.nextTeam + 1, handed := g.handed ++ [(lin, by_)] })).storeWrite
                a.core p (m + 16) (leBytes 4 (lin % l.gx) ++ leBytes 4 (lin / l.gx % l.gy) ++ leBytes 4 (lin / (l.gx * l.gy))
                  ++ leBytes 4 0)
        let r : ObjRef := .store a.core p m
        let o := s2.objRead r
        if s2.objHurt r then .next (s2.failAt a ⟨.eccUe, 0⟩ pc)
        else if o.consistent then
          let (o1, adv, _) := o.arrive 1
          .next (s2.objDone a.core r o1 adv)
        else .next (s2.failAt a ⟨.barBad, 0⟩ pc)

/-- A lead ends (R204): it departs its circles (R249), and pops of an empty queue return (R188). -/
def State.endLead (s : State) (a : Agent) : State :=
  let id := s.idOf a
  let s1 := s.modCtx a (fun c => { c with wait := .exited, opBuf := none })
  (s1.departAll (s.partOf a) id false).endPops a.core (s.place a)

def execWgdone (f : XForm) (s : State) : Host.Outcome State Fault Refusal :=
  perLane (form (.wgdone f)) (fun a s => .stay (s.endLead a)) s

end Sys2Proof.Machine
end

