-- ==== Sys2Proof/Machine/Teams.lean ====
section
/-!
DEFINITION. Teams and grids (spec/09 R183, R198 to R201, R204, spec/15 R304, spec/16 R328, spec/21 R376, R389, R390, spec/23
R402): room on a cluster, placement, seasons and pre-emption, the save of a team as a skein and its restore, the clearing of a
core, and the ends of a grid.
-/

namespace Sys2Proof.Machine

/-! ### What a core has room for (R12 to R14, R158, R170, R198) -/

/-- An agent has an operation under way on a core. -/
def State.busy (s : State) (a : Agent) : Bool :=
  let k := s.core a.core
  let id := s.idOf a
  k.pend.any (fun p => p.agent == a) || k.copies.any (fun c => c.agent == a) || k.mxOps.any (fun o => o.signers.contains id)

/-- A thread has exited and its operations have drained. -/
def State.gone (s : State) (a : Agent) : Bool := (s.ctx a).wait == .exited && !s.busy a

/-- Octet slots in use, and the registers of a thread in each. -/
def State.octets (s : State) (c : Nat) : NMap Nat :=
  (s.core c).threads.foldl (fun m t =>
    let a : Agent := { core := c, who := .thread t.1 }
    if t.2.level == .t && !s.gone a then putN m (t.1 / 8) (s.regsOf a) else m) []

/-- Octet slots for one group of `k` octets: their numbers mod 8 are consecutive from a multiple of `k` (R158). Of the free ones, whose
numbers mod 8 set the group's home lanes, the lowest are taken (DESIGN CHOICE, log 75). -/
def pickGroup (used : List Nat) (k : Nat) : Option (List Nat) :=
  (List.range (8 / k)).findSome? (fun r =>
    (List.range k).mapM (fun j => ((List.range 64).map (fun b => 8 * b + r * k + j)).find? (fun o =>
      decide (o < 511) && !used.contains o)))

/-- Octet slots for `n` groups, in the order of their threads. -/
def pickOctets : Nat → List Nat → Nat → Option (List Nat)
  | 0, _, _ => some []
  | n + 1, used, k =>
    match pickGroup used k with
    | none => none
    | some os => (pickOctets n (os ++ used) k).map (os ++ ·)

/-- Octet slots that a workgroup of a launch takes on a core. -/
def State.octetsFor (s : State) (l : Launch) (c : Nat) : Option (List Nat) :=
  pickOctets (l.threads / l.group) ((s.octets c).map (·.1)) (l.group / 8)

/-- The lowest base for an A-store region of `n` bytes. -/
def Core.regionFor (k : Core) (n : Nat) : Option Nat :=
  let ends := sortBy id (0 :: k.wgs.map (fun w => w.2.aBase + w.2.aSize))
  ends.find? (fun b => decide (b + n ≤ Config.astoreBytes)
    && k.wgs.all (fun w => decide (w.2.aSize = 0 ∨ n = 0 ∨ b + n ≤ w.2.aBase ∨ w.2.aBase + w.2.aSize ≤ b)))

/-- A core has room for one workgroup of a grid (R198, R200, R391). -/
def State.roomOn (s : State) (gid : Nat) (g : Grid) (c : Nat) : Bool :=
  let k := s.core c
  let l := g.launch
  let regs := (s.octets c).foldl (fun n o => n + 32 * o.2) 0
  let cvs := k.wgs.foldl (fun n w => n + ((s.grid w.2.grid).map (·.launch.cvregs)).getD 0) 0
  s.partOfDie (dieOf c) == some g.part && !(s.die (dieOf c)).held && !s.panicked
  && k.threads.all (fun t => t.2.level != .s || t.2.entered)
  && (k.wgs.isEmpty || (k.vf == some (g.part, g.vf) && !l.exclusive && !s.exclusiveOn c))
  && (!l.coop || k.wgs.all (fun w => w.2.grid != gid))
  && (freeN k.wgs 32).isSome && (s.octetsFor l c).isSome && (k.regionFor l.astore).isSome
  && decide (regs + 4 * l.threads * l.regs ≤ Config.regFileBytes ∧ cvs + l.cvregs ≤ 16)

/-- An aligned cluster of one die has room for a team (R12, R198). -/
def State.roomAt (s : State) (gid : Nat) (g : Grid) (core : Nat) : Bool :=
  decide (core % g.launch.team = 0 ∧ core + g.launch.team ≤ 640)
  && (List.range g.launch.team).all (fun m => s.roomOn gid g (core + m))

/-! ### Teams that wait (R198, R199) -/

/-- A waiting team: fresh, or saved in a skein; since when it waits. -/
structure Waiting where
  grid : Nat
  team : Nat
  saved : Bool
  since : Nat
deriving DecidableEq, Repr

/-- The waiting teams of a grid: its next fresh team, and its skeins. -/
def Grid.waitingTeams (gid : Nat) (g : Grid) : List Waiting :=
  if g.state ≠ .running then []
  else
    (if g.nextTeam * g.launch.team < g.launch.wgs then [{ grid := gid, team := g.nextTeam, saved := false, since := g.started }]
      else [])
    ++ g.skeins.map (fun k => { grid := gid, team := k.1, saved := true, since := k.2.savedAt })

def State.waitingTeams (s : State) (part : Nat) : List Waiting :=
  s.grids.flatMap (fun g => if g.2.part = part then g.2.waitingTeams g.1 else [])

/-- A launch's priority (R198). -/
def Grid.priority (g : Grid) : Nat := min g.launch.priority g.ceiling
def State.priorityOf (s : State) (gid : Nat) : Nat := ((s.grid gid).map (·.priority)).getD 0

/-- The priority of a waiting team for rotation: 7 after 16 seasons (R199). -/
def State.rotationPriority (s : State) (part : Nat) (w : Waiting) : Nat :=
  if w.since + 16 * (s.part part).season.toNat ≤ s.clock then 7 else s.priorityOf w.grid

/-- The order of waiting teams by a priority, then by the pair whose turn it is, then by grid number, which is the order of validation,
then by team number (R198). The spec orders no two launches of one pair and priority (DESIGN CHOICE, log 84). -/
def State.orderKey (s : State) (part priority : Nat) (w : Waiting) : Nat :=
  let pair := ((s.grid w.grid).map (fun g => g.vf * 64 + g.queue)).getD 0
  let dist := (pair + 4096 - (s.part part).turn) % 4096
  (((7 - priority) * 4096 + dist) * 2 ^ 48 + w.grid) * 2 ^ 48 + w.team

/-- The order of placement (R198). -/
def State.placeKey (s : State) (part : Nat) (w : Waiting) : Nat := s.orderKey part (s.priorityOf w.grid) w

/-- Claims on clusters whose team still waits. -/
def State.owedOn (s : State) (part : Nat) : List Owed :=
  let ws := s.waitingTeams part
  (s.part part).owed.filter (fun o => ws.any (fun w => w.grid == o.grid && w.team == o.team))

/-- A cluster that no other team has a claim on. -/
def State.unclaimed (s : State) (part gid team core n : Nat) : Bool :=
  (s.owedOn part).all (fun o => (o.grid == gid && o.team == team) || decide (core + n ≤ o.core ∨ o.core + o.n ≤ core))

/-- Clusters of a partition on which a team may be placed now, the lowest first. -/
def State.clusters (s : State) (gid : Nat) (g : Grid) (team : Nat) : List Nat :=
  let n := g.launch.team
  ((List.range (640 / n)).map (· * n)).filter (fun c =>
    s.partOfDie (dieOf c) == some g.part && s.unclaimed g.part gid team c n && s.roomAt gid g c)

/-- Clusters that a waiting team needs: one, or one for each team of a cooperative grid (R200). -/
def Grid.clustersNeeded (g : Grid) : Nat := if g.launch.coop then g.launch.wgs / g.launch.team else 1

/-- A waiting team can be placed now. -/
def State.placeable (s : State) (w : Waiting) : Bool :=
  match s.grid w.grid with
  | some g => decide (g.clustersNeeded ≤ (s.clusters w.grid g w.team).length)
  | none => false

/-- No team ahead of a waiting team in the order of placement can be placed now (R198). -/
def State.firstToPlace (s : State) (part : Nat) (w : Waiting) : Bool :=
  (s.waitingTeams part).all (fun x => decide (s.placeKey part w ≤ s.placeKey part x) || !s.placeable x)

/-! ### Clearing (R390) -/

/-- Refill a range of a store with cells whose offsets lie in it. -/
def Mem.refill (m : Mem) (base size : Nat) (cells : List (Nat × Byte)) : Mem :=
  cells.foldl (fun m c => if c.1 < size then m.write (base + c.1) [c.2] else m) (m.zero base size)

/-- Offsets outside a range, and those in it counted from its base. -/
def offOut (base size : Nat) (l : List Nat) : List Nat := l.filter (fun x => decide (x < base ∨ base + size ≤ x))
def offIn (base size : Nat) (l : List Nat) : List Nat :=
  (l.filter (fun x => decide (base ≤ x ∧ x < base + size))).map (· - base)

/-- A range of a store of a core takes new contents; of them, the bytes at `bad` are poisoned (R407). -/
def Core.fillA (k : Core) (base size : Nat) (cells : List (Nat × Byte)) (bad : List Nat) : Core :=
  { k with astore := k.astore.refill base size cells, badA := offOut base size k.badA ++ bad.map (base + ·) }
def Core.fillC (k : Core) (cells : List (Nat × Byte)) (bad : List Nat) : Core :=
  { k with cstore := k.cstore.refill 0 Config.cstoreBytes cells, badC := bad }
def Core.fillW (k : Core) (region : Nat) (cells : List (Nat × Byte)) (bad : List Nat) : Core :=
  { k with wstore := k.wstore.refill (1048576 * region) 1048576 cells,
           badW := offOut (1048576 * region) 1048576 k.badW ++ bad.map (1048576 * region + ·) }

/-- What a store holds for a workgroup that comes to it new (R183, log 5). -/
def State.freshStore (s : State) : List (Nat × Byte) × State :=
  (Config.freeStore s.freeCount, { s with freeCount := s.freeCount + 1 })

/-- Bytes of a range, counted from its base. -/
def Mem.slice (m : Mem) (base size : Nat) : Mem :=
  (m.filter (fun p => decide (base ≤ p.1 ∧ p.1 < base + size))).map (fun p => (p.1 - base, p.2))

/-- Change member `i` of a list. -/
def modAt {α : Type} (f : α → α) : List α → Nat → List α
  | [], _ => []
  | x :: xs, 0 => f x :: xs
  | x :: xs, i + 1 => x :: modAt f xs i

/-- A W-store region whose old contents wait is saved to the skein that owns them, and cleared (R201). For a team that came new
to the core meanwhile, it then holds what R183 leaves open. -/
def State.saveRegion (s : State) (core region : Nat) : State :=
  match lookupN (s.core core).wOld region with
  | none => s
  | some owner =>
    let old := (s.core core).wstore.slice (1048576 * region) 1048576
    let bad := offIn (1048576 * region) 1048576 (s.core core).badW
    let s1 := match owner with
      | some (g, t) => s.modGrid g (fun x => { x with skeins := modN x.skeins t (fun k =>
          { k with wstores := modAt (fun m => m ++ old.map (fun (p : Host.Cell) => (p.1 + 1048576 * region, p.2))) k.wstores
                                (core % x.launch.team),
                   badW := modAt (fun m => m ++ bad.map (1048576 * region + ·)) k.badW (core % x.launch.team) }) })
      | none => s
    let (cells, s2) := if s1.exclusiveOn core then s1.freshStore else ([], s1)
    s2.modCore core (fun k => { k.fillW region cells [] with wOld := delN k.wOld region })

def State.saveRegions (s : State) (core : Nat) : State := (List.range 8).foldl (fun s r => s.saveRegion core r) s

def execWstoreRegionSave (core region : Nat) (s : State) : Host.Outcome State Fault Refusal :=
  if (lookupN (s.core core).wOld region).isSome then .next (s.saveRegion core region)
  else .refused (.notEnabled "WSTORE_REGION_SAVE")

/-- A core goes to a VF: at a switch between VFs the clearing sequencer runs and charges the outgoing VF (R390). -/
def State.switchCore (s : State) (c part vf : Nat) : State :=
  match (s.core c).vf with
  | none => s.modCore c (fun k => { k with vf := some (part, vf) })
  | some old =>
    if old = (part, vf) then s
    else
      let n := Config.clearClocks s.freeCount
      ({ s with freeCount := s.freeCount + 1 } : State).modCore c (fun k0 =>
        let k := k0.mapCtx (fun x => { x with opBuf := none })
        { k with
          vf := some (part, vf), astore := [], cstore := [], badA := [], badC := [], fresh := [], tlb := [], walkAhead := [],
          clb := [], l1 := [], pcnt := [], copyRest := 0,
          wOld := (List.range 8).map (fun r => (r, (lookupN k.wOld r).getD none)),
          bpm := k.bpm.filter (fun b => (b.2.extractLsb' 56 6).toNat != old.2),
          vfclk := setR k.vfclk old.2 (getR k.vfclk old.2 + BitVec.ofNat 64 n) })

/-- The clearing of a core that holds no workgroup, outside a switch (R401 step 5). -/
def State.clearIdle (s : State) (c : Nat) : State :=
  match (s.core c).vf with
  | some (p, _) =>
    if (s.core c).wgs.isEmpty then (s.switchCore c p 64).modCore c (fun k => { k with vf := none }) else s
  | none => s

/-! ### Placement (R183, R198) -/

/-- The threads of a workgroup on the octet slots that it takes. No instruction has produced a first PC: a fetch trap there is reported
at that PC itself (R54; DESIGN CHOICE, log 73). -/
def newThreads (l : Launch) (place first : Nat) (octets : List Nat) : NMap Thread :=
  (List.range l.threads).map (fun i =>
    let pc := BitVec.ofNat 64 (l.text + l.threadEntry)
    (octets.getD (i / 8) 0 * 8 + i % 8,
      { ctx := { pc := pc, srcPc := pc }, level := .t, wg := place, tid := i, arrival := first + i }))

/-- Put a list of threads into a core, in ascending home lane for their arrival numbers (R159). -/
def Core.addThreads (k : Core) (ts : NMap Thread) : Core :=
  let ts := sortBy (fun t => homeLane t.1 * 4096 + t.1) ts
  ts.zipIdx.foldl (fun k t => { k with threads := putN k.threads t.1.1 { t.1.2 with arrival := k.nextArrival + t.2 } })
    k |> fun r => { r with nextArrival := k.nextArrival + ts.length }

/-- The lead of a workgroup that comes new (R182); its first PC stands for what produced it (DESIGN CHOICE, log 73). -/
def newLead (l : Launch) : Option Lead :=
  l.leadEntry.map (fun e =>
    let pc := BitVec.ofNat 64 (l.text + e)
    let s := l.args.zipIdx.foldl (fun r x => setR r x.2 x.1) ([] : Regs 64)
    { ctx := { pc := pc, srcPc := pc }, s := s, s0 := s })

/-- A team that comes to a core finds no L1 copy there: its launch's stores, and its own before a save, are older than its first
load (R207, R208, R215, R219; DESIGN CHOICE, log 63). -/
def State.dropL1 (s : State) (c : Nat) : State := s.modCore c (fun k => { k with l1 := [] })

/-- One workgroup comes new to a core: its place, the lowest that is free (R14; DESIGN CHOICE, log 75), and the state. -/
def State.addWg (s : State) (gid : Nat) (g : Grid) (lin c : Nat) : Nat × State :=
  let l := g.launch
  let s1 := (s.switchCore c g.part g.vf).dropL1 c
  let k := s1.core c
  let place := (freeN k.wgs 32).getD 0
  let base := (k.regionFor l.astore).getD 0
  let octets := (s1.octetsFor l c).getD []
  let (cells, s2) := s1.freshStore
  let s3 := s2.modCore c (fun k =>
    (({ k with wgs := putN k.wgs place { grid := gid, lin := lin, aBase := base, aSize := l.astore,
                                            dies := (s.part g.part).dies, lead := newLead l } } : Core).fillA
      base l.astore cells []).addThreads (newThreads l place 0 octets))
  if l.exclusive then
    let (cs, s4) := s3.freshStore
    let (ws, s5) := s4.freshStore
    (place, s5.modCore c (fun k =>
      (List.range 8).foldl (fun k r => if (lookupN k.wOld r).isSome then k
        else k.fillW r ((ws.filter (fun x => decide (x.1 / 1048576 = r))).map (fun x => (x.1 % 1048576, x.2))) []) (k.fillC cs [])))
  else (place, s3)

/-- The key of a cluster in the table of seasons. -/
def clusterKey (core n : Nat) : Nat := core * 32 + n

/-- A team comes to a cluster. The seasons of a cluster on which none was resident count from then (R199; DESIGN CHOICE, log 2). -/
def State.startSeasons (s : State) (part core n : Nat) : State :=
  if s.grids.any (fun g => g.2.part == part && g.2.launch.team == n && g.2.placed.any (fun p => p.2.core == core)) then s
  else s.modPart part (fun p => { p with seasons := putN p.seasons (clusterKey core n) s.clock })

/-- Put a fresh team on a cluster that has room for it. The partition keeps one turn for all priorities (R198; DESIGN CHOICE, log 84). -/
def State.putTeam (s : State) (gid : Nat) (g : Grid) (team core : Nat) : State :=
  let n := g.launch.team
  let (places, s1) := (List.range n).foldl (fun (acc : List Nat × State) m =>
    let (p, t) := acc.2.addWg gid g (team * n + m) (core + m)
    (acc.1 ++ [p], t)) ([], s.startSeasons g.part core n)
  (s1.modGrid gid (fun g => { g with placed := putN g.placed team { core := core, places := places, since := s.clock },
                                     nextTeam := team + 1 })).modPart g.part (fun p =>
    { p with turn := (g.vf * 64 + g.queue + 1) % 4096, owed := p.owed.filter (fun o => !(o.grid == gid && o.team == team)) })

/-! ### Complete teams (R204) -/

/-- A workgroup of a place is complete and drained. -/
def State.wgComplete (s : State) (c p : Nat) : Bool :=
  s.leadDone c p && !s.busy { core := c, who := .lead p }
  && ((s.core c).threadsOf p).all (fun t => s.gone { core := c, who := .thread t.1 })

def State.teamComplete (s : State) (p : Placed) : Bool :=
  p.places.zipIdx.all (fun x => s.wgComplete (p.core + x.2) x.1)

/-- Take the workgroups of a team off their cores. -/
def State.dropTeam (s : State) (p : Placed) : State :=
  p.places.zipIdx.foldl (fun s x => s.modCore (p.core + x.2) (fun k =>
    { k with wgs := delN k.wgs x.1, threads := k.threads.filter (fun t => !(t.2.level == .t && t.2.wg == x.1)), fresh := [] })) s

/-- Complete teams leave their cores. -/
def State.sweep (s : State) (part : Nat) : State :=
  s.grids.foldl (fun s g =>
    if g.2.part = part ∧ g.2.state = .running then
      g.2.placed.foldl (fun s p =>
        if g.2.fwork.isEmpty && s.teamComplete p.2 then
          (s.dropTeam p.2).modGrid g.1 (fun x => { x with placed := delN x.placed p.1 })
        else s) s
    else s) s

/-- The distributor places a fresh team on a cluster (R198). A cooperative grid is placed whole: the named team on the named
cluster, the others on the lowest clusters that are left (R200). -/
def execTeamPlace (grid team core : Nat) (s0 : State) : Host.Outcome State Fault Refusal :=
  match s0.grid grid with
  | none => .refused (.notEnabled "TEAM_PLACE")
  | some g0 =>
    let s := s0.sweep g0.part
    match s.grid grid with
    | none => .refused (.notEnabled "TEAM_PLACE")
    | some g =>
      let w : Waiting := { grid := grid, team := team, saved := false, since := g.started }
      let free := s.clusters grid g team
      if !(g.waitingTeams grid).contains w || !free.contains core || !s.placeable w || !s.firstToPlace g.part w then
        .refused (.notEnabled "TEAM_PLACE")
      else if g.launch.coop then
        let order := (core :: free.filter (· != core)).take g.clustersNeeded
        .next (order.zipIdx.foldl (fun s x => s.putTeam grid g x.2 x.1) s)
      else .next (s.putTeam grid g team core)

/-! ### Seasons and pre-emption (R199, R200, R382) -/

/-- Two clusters share a core. -/
def clustersMeet (a n b m : Nat) : Bool := decide (a < b + m ∧ b < a + n)

/-- The state without the resident teams of which something holds. -/
def State.without (s : State) (p : Nat → Grid → Placed → Bool) : State :=
  s.grids.foldl (fun s g => g.2.placed.foldl (fun s t => if p g.1 g.2 t.2 then s.dropTeam t.2 else s) s) s

/-- The clusters that a waiting team takes when a resident team leaves: those it already claims, or where it fits once the
teams that have to give way are gone; none where the resident team's cluster is not among them. -/
def State.claims (s : State) (yields : Nat → Grid → Placed → Bool) (w : Waiting) (core n : Nat) : Option (List Nat) :=
  match s.grid w.grid with
  | none => none
  | some g =>
    let m := g.launch.team
    let mine := ((s.part g.part).owed.filter (fun o => o.grid == w.grid && o.team == w.team)).map (·.core)
    let fit := (s.without yields).clusters w.grid g w.team
    let l := if !mine.isEmpty then mine
      else if g.launch.coop then (if fit.length < g.clustersNeeded then [] else fit.take g.clustersNeeded)
      else (fit.filter (fun c => clustersMeet c m core n)).take 1
    if l.any (fun c => clustersMeet c m core n) then some l else none

/-- Teams of a grid that stop together: one, or all of a cooperative grid (R200). -/
def Grid.stopsWith (g : Grid) (team : Nat) : List Nat := if g.launch.coop then g.placed.map (·.1) else [team]

/-- A resident team is asked to stop for a waiting one (R389). -/
def State.askStop (s : State) (gid : Nat) (g : Grid) (team : Nat) (w : Waiting) (claim : List Nat) : State :=
  let n := ((s.grid w.grid).map (·.launch.team)).getD 1
  let stop := g.stopsWith team
  (s.modGrid gid (fun g => { g with placed := g.placed.map (fun p =>
    if stop.contains p.1 && p.2.stopping.isNone then (p.1, { p.2 with stopping := some s.clock }) else p) })).modPart g.part
    (fun p =>
      let others := p.owed.filter (fun o => !(o.grid == w.grid && o.team == w.team))
      { p with owed := others ++ claim.map (fun c => { core := c, n := n, grid := w.grid, team := w.team }) })

/-- The season end of a team's cluster that has come last: the clock from which the seasons count, with whole seasons after it
(R199). A `YIELD` ends the season at once (R382). -/
def State.lastEnd (s : State) (g : Grid) (p : Placed) : Nat :=
  let n := (s.part g.part).season.toNat
  let base := (lookupN (s.part g.part).seasons (clusterKey p.core g.launch.team)).getD 0
  if p.yielded || n == 0 then s.clock else base + (s.clock - base) / n * n

/-- A season of a resident team's cluster has ended, at which the team has run a full season and has not been let stay, or the team
has issued `YIELD` (R199, R382). -/
def State.seasonOver (s : State) (g : Grid) (p : Placed) : Bool :=
  !g.launch.coop && p.stopping.isNone && (p.yielded ||
    decide (p.stayed < s.lastEnd g p ∧ p.since + (s.part g.part).season.toNat ≤ s.lastEnd g p))

/-- A cluster's season ends: its team stops when a waiting team of at least its priority can use the cluster; else the team stays
for the cluster's next season (R199). -/
def execSeasonEnd (grid team : Nat) (s : State) : Host.Outcome State Fault Refusal :=
  match (s.grid grid).bind (fun g => (lookupN g.placed team).map (fun p => (g, p))) with
  | none => .refused (.notEnabled "SEASON_END")
  | some (g, p) =>
    if !s.seasonOver g p then .refused (.notEnabled "SEASON_END")
    else
      let rank (w : Waiting) : Nat := (7 - s.rotationPriority g.part w) * 2 ^ 128 + w.since
      let ws := sortBy rank ((s.waitingTeams g.part).filter (fun w =>
        decide (w.since ≤ s.lastEnd g p ∧ g.priority ≤ s.rotationPriority g.part w) && (w.grid != grid || w.team != team)))
      let found := ws.findSome? (fun w =>
        (s.claims (fun _ x q => s.seasonOver x q && decide (x.priority ≤ s.rotationPriority g.part w)) w p.core g.launch.team).map
          (w, ·))
      match found with
      | some (w, c) => .next (s.askStop grid g team w c)
      | none => .next (s.modGrid grid (fun g => { g with placed := modN g.placed team (fun p =>
          { p with yielded := false, stayed := max p.stayed (s.lastEnd g p) }) }))

/-- A waiting team of higher priority pre-empts a resident team at once; one that has waited 16 seasons has priority 7 (R199). -/
def execPreempt (grid team : Nat) (s : State) : Host.Outcome State Fault Refusal :=
  match (s.grid grid).bind (fun g => (lookupN g.placed team).map (fun p => (g, p))) with
  | none => .refused (.notEnabled "PREEMPT")
  | some (g, p) =>
    if p.stopping.isSome then .refused (.notEnabled "PREEMPT")
    else
      let ws := sortBy (fun w => s.orderKey g.part (s.rotationPriority g.part w) w) ((s.waitingTeams g.part).filter (fun w =>
        decide (g.priority < s.rotationPriority g.part w) && !s.placeable w))
      let found := ws.findSome? (fun w =>
        (s.claims (fun _ x _ => decide (x.priority < s.rotationPriority g.part w)) w p.core g.launch.team).map (w, ·))
      match found with
      | some (w, c) => .next (s.askStop grid g team w c)
      | none => .refused (.notEnabled "PREEMPT")

/-- The groups of a team have stopped: reconverged, or by force (R389). -/
def State.teamStopped (s : State) (p : Placed) : Bool :=
  p.forced || p.places.zipIdx.all (fun x =>
    ((s.core (p.core + x.2)).threadsOf x.1).all (fun t => s.reconverged { core := p.core + x.2, who := .thread t.1 }))

/-- `rctmo` runs out: what still runs stops at its next instruction (R389). -/
def execReconvergenceTimeout (grid team : Nat) (s : State) : Host.Outcome State Fault Refusal :=
  match (s.grid grid).bind (fun g => (lookupN g.placed team).map (fun p => (g, p))) with
  | none => .refused (.notEnabled "RECONVERGENCE_TIMEOUT")
  | some (g, p) =>
    match p.stopping with
    | none => .refused (.notEnabled "RECONVERGENCE_TIMEOUT")
    | some t =>
      if !s.teamStopped p && decide (t + (s.part g.part).rctmo.toNat ≤ s.clock) then
        .next (s.modGrid grid (fun g => { g with placed := modN g.placed team (fun p =>
          { p with forced := true, draining := some s.clock }) }))
      else .refused (.notEnabled "RECONVERGENCE_TIMEOUT")

/-! ### The save of a team (R304, R328, R389) -/

/-- The agents of a placed team. -/
def State.teamAgents (s : State) (p : Placed) : List Agent :=
  p.places.zipIdx.flatMap (fun x =>
    let c := p.core + x.2
    (((s.core c).wg x.1).bind (·.lead)).toList.map (fun _ => ({ core := c, who := .lead x.1 } : Agent))
    ++ ((s.core c).threadsOf x.1).map (fun t => ({ core := c, who := .thread t.1 } : Agent)))

/-- The cores of a placed team. -/
def Placed.cores (p : Placed) : List Nat := p.places.zipIdx.map (fun x => p.core + x.2)

/-- A chunk of a command has begun to land and is not whole. -/
def CopyCmd.begun (c : CopyCmd) (chunk : Nat) : Bool :=
  !c.landed.contains chunk && (c.rest chunk).length != (c.chunk chunk).length

/-- Chunks of the commands that a property picks land whole. -/
def State.landAll (s : State) (core : Nat) (cmds : List CopyCmd) (which : CopyCmd → Nat → Bool) : State :=
  cmds.foldl (fun s c => (List.range c.chunks).foldl (fun s i =>
    match (s.core core).findCopy c.id with
    | some x => if which x i then s.landChunk core x i else s
    | none => s) s) s

/-- The commands of some agents whose chunks have all landed are complete (R299, R304). -/
def State.endLanded (s : State) (core : Nat) (as : List Agent) : State :=
  ((s.core core).copies.filter (fun x => as.contains x.agent && x.accepted && x.landed.length == x.chunks)).foldl (fun s x =>
    (s.modCore core (fun k => k.dropCopy x.id)).countOut x.agent .cp) s

/-- The copies of a team that are not done are suspended at a chunk boundary: a chunk that has begun lands whole (R304). -/
def State.suspendCopies (s : State) (p : Placed) : State :=
  let as := s.teamAgents p
  p.cores.foldl (fun s c =>
    ((s.landAll c ((s.core c).copies.filter (fun x => as.contains x.agent)) CopyCmd.begun).endLanded c as).modCore c (fun k =>
      { k with copies := k.copies.map (fun x => if as.contains x.agent then { x with suspended := true } else x) })) s

def State.copiesRun (s : State) (p : Placed) : Bool :=
  let as := s.teamAgents p
  p.cores.any (fun c => (s.core c).copies.any (fun x => as.contains x.agent && x.accepted && !x.suspended))

/-- The copy drain of a stopped team: it begins, and ends 8 µs later at the most (R304; DEDUCED, log 33). -/
def execCopySuspend (grid team : Nat) (s : State) : Host.Outcome State Fault Refusal :=
  match (s.grid grid).bind (fun g => lookupN g.placed team) with
  | none => .refused (.notEnabled "COPY_SUSPEND")
  | some p =>
    if p.stopping.isNone || !s.teamStopped p || !s.copiesRun p then .refused (.notEnabled "COPY_SUSPEND")
    else
      match p.draining with
      | none => .next (s.modGrid grid (fun g => { g with placed := modN g.placed team (fun p =>
          { p with draining := some s.clock }) }))
      | some t =>
        if t + Config.copyDrainClocks ≤ s.clock then .next (s.suspendCopies p) else .refused (.notEnabled "COPY_SUSPEND")

/-- Names of stores: a team's own to a skein's, and back. -/
abbrev StoreNames := Nat → Nat → Nat × Nat

def Placed.toSkein (p : Placed) : StoreNames := fun c w =>
  if p.core ≤ c ∧ c < p.core + p.places.length then (100000 + (c - p.core), 0) else (c, w)
def Placed.fromSkein (p : Placed) : StoreNames := fun c w =>
  if 100000 ≤ c then (p.core + (c - 100000), p.places.getD (c - 100000) 0) else (c, w)

def Place.rename (f : StoreNames) : Place → Place
  | .store c w off => let (d, v) := f c w; .store d v off
  | x => x

def ObjRef.rename (f : StoreNames) : ObjRef → ObjRef
  | .store c w off => let (d, v) := f c w; .store d v off
  | x => x

/-- A wait under other names of stores and another count of clocks. -/
def Wait.rename (f : StoreNames) (t : Nat → Nat) : Wait → Wait
  | .barrier o k l p sc => .barrier (o.rename f) k (l.map t) p sc
  | .push v l p => .push v (l.map t) p
  | .pop b d l p => .pop b d (l.map t) p
  | .circle h ph l d p => .circle h ph (l.map t) d p
  | w => w

/-- A context under other names; `t` moves a clock to come, `u` a clock gone by. A restored PC needs no bit of a target mask
(R54). -/
def Ctx.rename (f : StoreNames) (t u : Nat → Nat) (c : Ctx) : Ctx :=
  { c with wait := c.wait.rename f t, waitFrom := u c.waitFrom, opBuf := none, byBranch := false,
           marks := c.marks.map (fun m => { m with spans := m.spans.map (fun x => (x.1.rename f, x.2)) }) }

def Thread.rename (f : StoreNames) (t u : Nat → Nat) (wg : Nat) (h : Thread) : Thread :=
  { h with ctx := h.ctx.rename f t u, wg := wg, readyFor := 0, heldFrom := h.heldFrom.map u }

def Wg.rename (f : StoreNames) (t u : Nat → Nat) (w : Wg) : Wg :=
  { w with lead := w.lead.map (fun l => { l with ctx := l.ctx.rename f t u }),
           cvs := w.cvs.map (fun r => (r.1, { r.2 with snap := r.2.snap.map (fun x => { x with since := u x.since }) })) }

def CopyCmd.rename (f : StoreNames) (c : CopyCmd) : CopyCmd :=
  { c with src := c.src.map (·.rename f), dsts := c.dsts.map (·.rename f), bars := c.bars.map (·.rename f),
           undefs := c.undefs.map (fun x => (x.1.rename f, x.2)) }

def MxKind.rename (f : StoreNames) : MxKind → MxKind
  | .drain m x rows s o => .drain m x (rows.map (·.rename f)) s o
  | k => k

/-- A pending request is withdrawn, to be posted again (R389): its record's resume PC stands, its number is kept. -/
def Core.withdraw (k : Core) (a : Agent) (c : Ctx) : Ctx :=
  match k.mail.find? (fun m => m.2.agent == a), c.wait with
  | some m, .reply r =>
    { c with wait := .posting { r with resume := m.2.record.getD 6 0, at_ := some (m.2.record.getD 0 0),
                                       seq := some ((m.2.record.getD 1 0).extractLsb' 48 16) } }
  | _, _ => c

def Core.dropMail (k : Core) (as : List Agent) : Core := { k with mail := k.mail.filter (fun m => !as.contains m.2.agent) }

/-- The workgroup places of placed teams, each with its core. -/
def placesOf (ps : List Placed) : List (Nat × Nat) := ps.flatMap (fun p => p.places.zipIdx.map (fun x => (p.core + x.2, x.1)))

/-- The operations of a grid on some places, in issue order, each with its core. -/
def State.opsOn (s : State) (gid : Nat) (at_ : List (Nat × Nat)) : List (Nat × MxOp) :=
  at_.flatMap (fun x => ((s.core x.1).mxOps.filter (fun o => o.grid == gid && o.wg == x.2)).map (x.1, ·))

/-- An ordered drain waits at its word. -/
def MxOp.waits (o : MxOp) : Bool :=
  match o.state with
  | .atWord _ => true
  | _ => false

/-- An ordered drain that waits at its word keeps a later operation from a tile whose content it has not put aside (R326). -/
def MxOp.blocks (x o : MxOp) : Bool := x.waits && x.held.isNone && x.tiles.any o.tiles.contains

/-- The content of its tile is put aside with an ordered drain that waits (R328). -/
def State.putAside (s : State) (core : Nat) (o : MxOp) : State :=
  match o.kind with
  | .drain _ f _ _ _ =>
    let tile := (s.core core).cstore.slab (32768 * drainTile f) 32768
    s.modCore core (fun k => k.modMx o.id (fun x => { x with held := some (x.held.getD tile) }))
  | _ => s

/-- The next thing that the operations of a team do before its save (R328): one that runs completes, an ordered drain whose number stands
at its word is applied, the next one starts, or a drain that keeps it from its tile has the tile's content put aside. -/
def State.quietStep (s : State) (ops : List (Nat × MxOp)) : Option State :=
  match ops.find? (fun x => x.2.state == .running), ops.find? (fun x => s.wordMet x.1 x.2),
      ops.find? (fun x => x.2.state == .waiting && ((s.core x.1).mxBefore x.2.id).all (fun y => y.state != .waiting)) with
  | some x, _, _ => some ((s.spoilRows x.1 x.2).retireMx x.1 x.2)
  | none, some x, _ => some (s.applyAtWord x.1 x.2)
  | none, none, some x =>
    match ((s.core x.1).mxBefore x.2.id).find? (fun y => y.blocks x.2) with
    | some y => some (s.putAside x.1 y)
    | none => some (s.startMx x.1 x.2 0)
  | none, none, none => none

/-- Every operation of a grid on some places completes, but for ordered drains whose numbers do not come (R328). -/
def State.quietMx (gid : Nat) (at_ : List (Nat × Nat)) : Nat → State → State
  | 0, s => s
  | n + 1, s =>
    match s.quietStep (s.opsOn gid at_) with
    | none => s
    | some t => State.quietMx gid at_ n t

/-- What placed teams of a grid still have under way on their cores is performed, but for copies and for ordered drains that wait at
their words. An operation takes four steps at the most. -/
def State.quietTeams (s : State) (gid : Nat) (ps : List Placed) : State :=
  let at_ := placesOf ps
  let s1 := at_.foldl (fun s x => (s.flush x.1).saveRegions x.1) s
  State.quietMx gid at_ (4 * (s1.opsOn gid at_).length + 1) s1

/-- The ordered drains of a place that still wait are withdrawn, each with its tile and the clocks that it has waited (R321, R328). Until
then they stay among the others, so that no `MCHK` that waits for them ends (R323). -/
def State.withdrawDrains (s : State) (gid core wg : Nat) : State × List MxOp :=
  let ds := (s.opsOn gid [(core, wg)]).filterMap (fun x =>
    match x.2.state with
    | .atWord since => some { ((s.putAside core x.2).core core).findMx x.2.id |>.getD x.2 with
                                state := .waiting, waited := x.2.waited + (s.clock - since) }
    | _ => none)
  (s.modCore core (fun k => { k with mxOps := k.mxOps.filter (fun y => ds.all (fun x => x.id != y.id)) }), ds)

/-- What a resident team still has under way on its cores is performed or withdrawn. -/
def State.drainTeam (s : State) (gid : Nat) (p : Placed) : State × List (Nat × MxOp) :=
  p.places.zipIdx.foldl (fun (acc : State × List (Nat × MxOp)) x =>
    let (s1, ds) := acc.1.withdrawDrains gid (p.core + x.2) x.1
    (s1, acc.2 ++ ds.map (x.2, ·))) (s.quietTeams gid [p], [])

/-- A team is saved as a skein and leaves its cores (R389). -/
def State.saveTeam (s : State) (gid team : Nat) : State :=
  match (s.grid gid).bind (fun g => (lookupN g.placed team).map (fun p => (g, p))) with
  | none => s
  | some (g, p) =>
    let (s1, drains) := s.drainTeam gid p
    let f := p.toSkein
    let now := s1.clock
    let t (x : Nat) : Nat := x - now
    let u (x : Nat) : Nat := now - x
    let as := s1.teamAgents p
    let members := p.places.zipIdx.map (fun x => (p.core + x.2, x.1, x.2))
    let wgs := members.filterMap (fun m => ((s1.core m.1).wg m.2.1).map (fun w =>
      let fix (l : Lead) : Lead := { l with ctx := (s1.core m.1).withdraw { core := m.1, who := .lead m.2.1 } l.ctx }
      ({ w with lead := w.lead.map fix } : Wg).rename f t u))
    let threads := members.flatMap (fun m => ((s1.core m.1).threadsOf m.2.1).map (fun h =>
      let c := (s1.core m.1).withdraw { core := m.1, who := .thread h.1 } h.2.ctx
      ({ member := m.2.2, thread := ({ h.2 with ctx := c } : Thread).rename f t u 0 } : SavedThread)))
    let region (m : Nat × Nat × Nat) : Mem := match (s1.core m.1).wg m.2.1 with
      | some w => (s1.core m.1).astore.slice w.aBase w.aSize
      | none => []
    let copies := members.flatMap (fun m => ((s1.core m.1).copies.filter (fun c => as.contains c.agent)).map (fun c =>
      (s1.idOf c.agent, c.rename f)))
    let badOf (m : Nat × Nat × Nat) : List Nat := match (s1.core m.1).wg m.2.1 with
      | some w => offIn w.aBase w.aSize (s1.core m.1).badA
      | none => []
    let ex := g.launch.exclusive
    let skein : Skein :=
      { wgs := wgs, threads := threads, stores := members.map region,
        cstores := if ex then members.map (fun m => (s1.core m.1).cstore) else [],
        wstores := if ex then members.map (fun _ => []) else [],
        badA := members.map badOf, badC := if ex then members.map (fun m => (s1.core m.1).badC) else [],
        badW := if ex then members.map (fun _ => []) else [],
        copies := copies, drains := drains.map (fun d => (d.1, { d.2 with kind := d.2.kind.rename f })), savedAt := now }
    let s2 := p.cores.foldl (fun s c => s.modCore c (fun k =>
      let k := k.dropMail as
      { k with copies := k.copies.filter (fun x => !as.contains x.agent),
                           wOld := if ex then (List.range 8).map (fun r => (r, some (gid, team))) else k.wOld })) s1
    (s2.dropTeam p).modGrid gid (fun g =>
      { g with placed := delN g.placed team, skeins := putN g.skeins team skein })

/-- The save of a stopped team whose copies are done or suspended. A cooperative grid is saved whole (R200). -/
def execTeamSave (grid team : Nat) (s : State) : Host.Outcome State Fault Refusal :=
  match (s.grid grid).bind (fun g => (lookupN g.placed team).map (fun _ => g)) with
  | none => .refused (.notEnabled "TEAM_SAVE")
  | some g =>
    let together := g.stopsWith team
    if s.cur.isNone && together.all (fun t => match lookupN g.placed t with
        | some p => p.stopping.isSome && s.teamStopped p && !s.copiesRun p
        | none => false) then
      .next (together.foldl (fun s t => s.saveTeam grid t) (s.quietTeams grid (together.filterMap (lookupN g.placed))))
    else .refused (.notEnabled "TEAM_SAVE")

/-- Every resident team of which something holds is saved at once, its groups stopped by force (DESIGN CHOICE, log 42). -/
def State.saveAll (s : State) (which : Nat → Grid → Bool) : State :=
  s.grids.foldl (fun s g =>
    if which g.1 g.2 then
      g.2.placed.foldl (fun s p => (s.suspendCopies p.2).saveTeam g.1 p.1)
        (({ s with cur := none } : State).quietTeams g.1 (g.2.placed.map (·.2)))
    else s) s

/-! ### The restore of a team (R389) -/

/-- A skein goes back to a cluster that has room for it. Its threads keep the arrival numbers that they had among themselves; how they
rank against threads that the core holds already, the spec does not say: the numbers are compared as they are, and the new ones come after
all of them (R159; DESIGN CHOICE, log 81). A restore moves the turn of R198 too (DESIGN CHOICE, log 84). -/
def State.restoreTeam (s : State) (gid : Nat) (g : Grid) (team core : Nat) (k : Skein) : State :=
  let l := g.launch
  let n := l.team
  let owners := s.cores.filter (fun c => c.2.wOld.any (fun r => r.2 == some (gid, team)))
  let s := owners.foldl (fun s c => s.saveRegions c.1) s
  let k := (((s.grid gid).bind (fun g => lookupN g.skeins team))).getD k
  let s := (List.range n).foldl (fun s m => (s.switchCore (core + m) g.part g.vf).dropL1 (core + m)) s
  let s := if l.exclusive then (List.range n).foldl (fun s m => s.saveRegions (core + m)) s else s
  let places := (List.range n).map (fun m => (freeN (s.core (core + m)).wgs 32).getD 0)
  let p : Placed := { core := core, places := places, since := s.clock }
  let f := p.fromSkein
  let now := s.clock
  let t (x : Nat) : Nat := now + x
  let u (x : Nat) : Nat := now - x
  let s := (List.range n).foldl (fun (s : State) m =>
    let c := core + m
    let place := places.getD m 0
    let base := ((s.core c).regionFor l.astore).getD 0
    let octets := (s.octetsFor l c).getD []
    match k.wgs[m]? with
    | none => s
    | some w =>
      let ts := (k.threads.filter (fun x => x.member == m)).map (fun x =>
        (octets.getD (x.thread.tid / 8) 0 * 8 + x.thread.tid % 8, x.thread.rename f t u place))
      let w1 := w.rename f t u
      s.modCore c (fun j =>
        let j : Core :=
          { j with wgs := putN j.wgs place { w1 with aBase := base, aSize := l.astore, dies := (s.part g.part).dies },
                   threads := ts.foldl (fun r x => putN r x.1 x.2) j.threads,
                   nextArrival := ts.foldl (fun r x => max r (x.2.arrival + 1)) j.nextArrival }
        let j : Core := j.fillA base l.astore (k.stores.getD m []) (k.badA.getD m [])
        if l.exclusive then
          { j with cstore := k.cstores.getD m [], badC := k.badC.getD m [], wstore := k.wstores.getD m [],
                   badW := k.badW.getD m [] }
        else j)) s
  let s := (s.startSeasons g.part core n).modGrid gid (fun g => { g with placed := putN g.placed team p, skeins := delN g.skeins team })
  let s := k.copies.foldl (fun (s : State) c =>
    match s.locate c.1 with
    | some a => s.modCore a.core (fun j => let x := c.2.rename f
      { j with copies := j.copies ++ [{ x with agent := a, suspended := false }] })
    | none => s) s
  let s := k.drains.foldl (fun (s : State) d => s.modCore (core + d.1) (fun j =>
    { j with mxOps := j.mxOps ++ [{ d.2 with wg := places.getD d.1 0, kind := d.2.kind.rename f }] })) s
  s.modPart g.part (fun q =>
    { q with turn := (g.vf * 64 + g.queue + 1) % 4096, owed := q.owed.filter (fun o => !(o.grid == gid && o.team == team)) })

/-- The distributor restores a skein on a cluster; one that fails its check ends its grid (R389). A cooperative grid comes back
whole (R23, R200): its further teams, in ascending number, take the lowest clusters that are left, where R199 lets each go to any that has
room (DESIGN CHOICE, log 80). -/
def execTeamRestore (grid team core : Nat) (s0 : State) : Host.Outcome State Fault Refusal :=
  match s0.grid grid with
  | none => .refused (.notEnabled "TEAM_RESTORE")
  | some g0 =>
    let s := s0.sweep g0.part
    match (s.grid grid).bind (fun g => (lookupN g.skeins team).map (fun k => (g, k))) with
    | none => .refused (.notEnabled "TEAM_RESTORE")
    | some (g, k) =>
      let w : Waiting := { grid := grid, team := team, saved := true, since := k.savedAt }
      let free := s.clusters grid g team
      if g.state ≠ .running || (g.launch.coop && !g.placed.isEmpty) || !free.contains core || !s.placeable w
          || !s.firstToPlace g.part w then
        .refused (.notEnabled "TEAM_RESTORE")
      else
        let todo := if g.launch.coop then g.skeins else [(team, k)]
        if todo.any (fun x => !x.2.intact) then
          .next ((s.modGrid grid (fun g => { g with skeins := g.skeins.filter (fun x => x.2.intact) })).report (some grid)
            ⟨.eccUe, 0⟩ 0 core)
        else
          let order := (core :: free.filter (· != core)).take todo.length
          .next ((todo.zip order).foldl (fun s x => s.restoreTeam grid g x.1.1 x.2 x.1.2) s)

/-! ### Cooperative grids (R200) -/

/-- A cooperative grid that its partition can no longer hold is saved whole, in state 7. -/
def execCoopWait (grid : Nat) (s : State) : Host.Outcome State Fault Refusal :=
  match s.grid grid with
  | none => .refused (.notEnabled "COOP_WAIT")
  | some g =>
    if g.launch.coop && g.state == .running && decide ((s.part g.part).cores < g.launch.wgs) then
      .next ((s.saveAll (fun i _ => i == grid)).enterState grid .coopWait TrapCode.coopWait.num)
    else .refused (.notEnabled "COOP_WAIT")

/-- Capacity returns. -/
def execCoopResume (grid : Nat) (s : State) : Host.Outcome State Fault Refusal :=
  match s.grid grid with
  | none => .refused (.notEnabled "COOP_RESUME")
  | some g =>
    if g.state == .coopWait && decide (g.launch.wgs ≤ (s.part g.part).cores) then .next (s.enterState grid .running 0)
    else .refused (.notEnabled "COOP_RESUME")

/-! ### The ends of a grid (R200, R204, R376, R402) -/

/-- The grid of an agent's name. -/
def AgentId.grid : AgentId → Option Nat
  | .thread g _ _ => some g
  | .lead g _ => some g
  | _ => none

/-- The copies of a team complete (R376). -/
def State.finishCopies (s : State) (p : Placed) : State :=
  let as := s.teamAgents p
  p.cores.foldl (fun s core =>
    ((s.core core).copies.filter (fun c => as.contains c.agent)).foldl (fun s c =>
      let s1 := s.landAll core [c] (fun x i => !x.landed.contains i)
      match (s1.core core).findCopy c.id with
      | some x =>
        let s2 := s1.modCore core (fun k => k.dropCopy c.id)
        if x.accepted then s2.countOut c.agent .cp else s2
      | none => s1) s) s

/-- Members of a grid depart every circle (R249). -/
def State.departGrid (s : State) (part gid : Nat) : State :=
  let ids := ((s.part part).circles.flatMap (fun c => c.2.members.map (·.id))).filter (fun i => i.grid == some gid) |>.eraseDups
  ids.foldl (fun s id => s.departAll part id true) s

/-- A GRID ENDS other than by completion (R376, R200): what it has issued completes, its threads and leads stop, its requests
are withdrawn, its circle members depart, and its work is discarded; its ring entry takes the state and code (DESIGN CHOICE, log 36). -/
def State.endGrid (s : State) (gid : Nat) (st : LaunchState) (code : Nat) : State :=
  match s.grid gid with
  | none => s
  | some g =>
    let s1 := g.placed.foldl (fun s p => ((s.drainTeam gid p.2).1.finishCopies p.2)) (s.quietTeams gid (g.placed.map (·.2)))
    let as := g.placed.flatMap (fun p => s1.teamAgents p.2)
    let objs := ((as.map s1.ctx) ++ g.skeins.flatMap (fun k => k.2.ctxs)).filterMap (fun c => match c.wait with
      | .barrier (.glob pa) _ _ _ _ => some (ObjRef.glob pa)
      | _ => none)
    let s2 := as.foldl (fun s a => s.modCtx a (fun c => { c with wait := if c.wait = .exited then .exited else .stopped,
                                                                 opBuf := none })) s1
    let cur := match s2.cur with
      | some i => let rest := i.agents.filter (fun a => !as.contains a)
        if rest.isEmpty then none else some { i with agents := rest }
      | none => none
    let s3 := ({ s2 with cur := cur } : State).departGrid g.part gid
    let s4 := g.placed.foldl (fun s p => (p.2.cores.foldl (fun s c => s.modCore c (fun k => k.dropMail as)) s).dropTeam p.2) s3
    let s5 := s4.modGrid gid (fun g => { g with placed := [], skeins := [], fwork := [] })
    let s6 := objs.eraseDups.foldl (fun s r => s.refreshWaiters ((g.placed.map (·.2.core)).headD 0) r) s5
    let disown (k : Core) : Core :=
      { k with wOld := k.wOld.map (fun r => if (r.2.map (·.1)) = some gid then (r.1, none) else r) }
    let s7 : State := { s6 with cores := s6.cores.map (fun c => (c.1, disown c.2)) }
    s7.enterState gid st code

/-- The 32 bytes of a fault-log entry (R402; what byte 9 says, DEDUCED, log 41). -/
def faultEntry (r : Report) (index queue further : Nat) : List Byte :=
  leBytes 8 r.pc.toNat ++ leBytes 1 r.code.num ++ leBytes 1 r.late.toNat ++ leBytes 2 r.core ++ leBytes 4 index ++ leBytes 8 r.va
    ++ leBytes 4 further ++ leBytes 2 queue ++ leBytes 2 0

/-- A grid ends by a trap: state 6, and an entry of its VF's fault log (R376, R402). -/
def State.endByTrap (s : State) (gid : Nat) (g : Grid) (r : Report) : State :=
  let key := vfKey g.part g.vf
  let ix := (s.vf key).flhead.toNat
  let s1 := (s.endGrid gid .ended r.code.num).modVf key (fun v =>
    { v with faults := putN v.faults (ix % 64) (faultEntry r g.index g.queue 0), flhead := v.flhead + 1 })
  s1.modGrid gid (fun g => { g with endCode := some r.code, faultIx := some ix })

/-- A further trap of a grid that has ended is counted (R376, R402). -/
def State.countFurther (s : State) (gid : Nat) (g : Grid) : State :=
  let n := g.further + 1
  let key := vfKey g.part g.vf
  let s1 := s.modGrid gid (fun g => { g with further := n })
  match g.faultIx with
  | none => s1
  | some ix =>
    if (s.vf key).flhead.toNat - ix ≤ 64 then
      s1.modVf key (fun v => { v with faults := modN v.faults (ix % 64) (fun b => b.take 24 ++ leBytes 4 n ++ b.drop 28) })
    else s1

/-- Two traps of one issue of a grid. -/
def Report.sameIssue (q r : Report) : Bool := q.grid == r.grid && q.core == r.core && q.at_ == r.at_ && q.since == r.since

/-- A home lane comes before a trap's, where both have one. -/
def Report.after (r : Report) (lane : Option Nat) : Bool :=
  match lane, r.lane with
  | some x, some y => decide (x < y)
  | _, _ => false

/-- A lower home lane of the issue that raised a trap has an access or a copy on its way, so that a trap of it may still come. -/
def State.lowerLane (s : State) (r : Report) : Bool :=
  let k := s.core r.core
  let mine (a : Agent) (pc : DWord) (at_ : Nat) : Bool :=
    pc == r.at_ && at_ == r.since && s.gridNo a == some r.grid && r.after (homeLaneOf a)
  k.pend.any (fun p => mine p.agent p.pc p.issued) || k.copies.any (fun c => mine c.agent c.pc c.issued)

/-- A trap of the same issue goes before: one of a lower home lane, or an earlier one of no higher lane. -/
def State.trapsBefore (s : State) (report : Nat) (r : Report) : Bool :=
  s.reports.any (fun q => q.sameIssue r && r.after q.lane)
  || (s.reports.take report).any (fun q => q.sameIssue r && !q.after r.lane)

/-- The distributor receives a trap. The traps of one issue come in ascending home lane (R376). -/
def execGridEndTrap (report : Nat) (s : State) : Host.Outcome State Fault Refusal :=
  match s.reports[report]? with
  | none => .refused (.notEnabled "GRID_END_TRAP")
  | some r =>
    if s.trapsBefore report r || s.lowerLane r then .refused (.notEnabled "GRID_END_TRAP")
    else
      let s1 := { s with reports := s.reports.eraseIdx report }
      match s.grid r.grid with
      | none => .next s1
      | some g =>
        if g.state.over then .next (s1.countFurther r.grid g) else .next (s1.endByTrap r.grid g r)

/-- Every workgroup of a grid is complete, or was handed out to one that is (R204). -/
def execGridComplete (grid : Nat) (s0 : State) : Host.Outcome State Fault Refusal :=
  match s0.grid grid with
  | none => .refused (.notEnabled "GRID_COMPLETE")
  | some g0 =>
    let s := s0.sweep g0.part
    match s.grid grid with
    | none => .refused (.notEnabled "GRID_COMPLETE")
    | some g =>
      if g.state == .running && g.placed.isEmpty && g.skeins.isEmpty && decide (g.launch.wgs ≤ g.nextTeam * g.launch.team)
          && s.reports.all (fun r => r.grid != grid) then
        .next (s.enterState grid .complete 0)
      else .refused (.notEnabled "GRID_COMPLETE")

/-- What a write to `LQ_CANCEL` does (R200). -/
def State.cancelAt (s : State) (part vf queue : Nat) (index : Word) : State :=
  let q := (s.vf (vfKey part vf)).queue queue
  let at_ := (index - q.ridx).toNat
  if at_ < q.pending.length then
    ((s.modQueue (vfKey part vf) queue (fun q =>
      { q with pending := modAt (fun e => { e with cancelled := true }) q.pending at_ })).writeStatus part vf
        (q.entryAt index.toNat) LaunchState.cancelled.num 0)
  else
    match (s.grids.filter (fun g => g.2.part == part && g.2.vf == vf && g.2.queue == queue && g.2.index == index.toNat
        && !g.2.state.over)).getLast? with
    | some g => s.endGrid g.1 .cancelled 0
    | none => s

/-- A write to `LQ_CANCEL` (R200). A write during a reset of the VF is ignored (R401). -/
def execLqCancel (part vf queue : Nat) (index : Word) (s : State) : Host.Outcome State Fault Refusal :=
  if !s.hasVf part vf || 64 ≤ queue then .refused (.notEnabled "LQ_CANCEL")
  else if (s.vf (vfKey part vf)).resetting then .next s
  else .next (s.cancelAt part vf queue index)

end Sys2Proof.Machine
end

