-- ==== Sys2Proof/Machine/System.lean ====
section
/-!
DEFINITION. The mailbox, control registers and the system instructions (spec/21 R369 to R388): the post of a resumable trap and of
a supervisor's trap, `TRAP`, `SRET`, `YIELD`, `BRK`, `CRD`, `CWR`, `PERF`, `SCLEAR`.
-/

namespace Sys2Proof.Machine

/-! ### The mailbox (R373, R374, R377) -/

/-- The record of a request (R374), as eight words (DEDUCED, log 39). -/
def State.record (s : State) (a : Agent) (r : Request) (seq : BitVec 16) : List DWord :=
  let lead := a.isLead
  let w1 := r.code.num + 2 ^ 8 * (lead.toNat + 2 * r.seq.isSome.toNat) + 2 ^ 16 * (if lead then 0xFF else homeLane (slotNum a))
    + 2 ^ 24 * (s.vfOf a).getD 0 + 2 ^ 32 * (if lead then 0xFFFF else s.tidOf a) + 2 ^ 48 * seq.toNat
  let w2 := ((s.gridOf a).map (·.lease)).getD 0 % 2 ^ 32 + 2 ^ 32 * (if s.level a = .t then s.place a else 0)
  [r.at_.getD (s.ctx a).pc, BitVec.ofNat 64 w1, BitVec.ofNat 64 w2, r.arg0, r.arg1, r.arg2, r.resume, 0]

/-- The request that an agent waits to post. -/
def Ctx.request (c : Ctx) : Option Request :=
  match c.wait with
  | .posting r => some r
  | _ => none

/-- Another lane of the same issue posts to the same mailbox before this one (R377). -/
def State.postsLater (s : State) (a : Agent) : Bool :=
  ((s.core a.core).threadAgents a.core).any (fun b =>
    b != a && (s.ctx b).request.isSome && (s.ctx b).waitFrom == (s.ctx a).waitFrom && !a.isLead
    && s.mailboxOf b == s.mailboxOf a && decide (homeLane (slotNum b) < homeLane (slotNum a)))

/-- The arrival of R377 on the object at `mbnote`, by the tables of the module's operating system (R391), or by the monitor's
addresses for its own mailbox. -/
def State.notifyMail (s : State) (box : Nat) : State :=
  let note := (s.core box).mbnote
  if note = 0 then s
  else
    match s.notify (if box < 640 then .os else .phys) note.toNat with
    | some t => t
    | none => s.modCore box (fun k => { k with noterr := true })

/-- A resumable trap takes the lowest free slot, posts its record and notifies (R377). A reposted request keeps its number. Where an
access performed for the release ends the agent's grid, it posts nothing; a supervisor thread's trap there is reported after this
request (R373). A supervisor thread that posts has entered `WaitPhase` (R391). -/
def execResumableTrapPost (a : Agent) (s : State) : Host.Outcome State Fault Refusal :=
  let box := s.mailboxOf a
  match (s.ctx a).request, freeN (s.core box).mail Config.mailSlots with
  | some r, some slot =>
    if s.postsLater a then .refused (.notEnabled "RESUMABLE_TRAP_POST")
    else
      let s1 := s.flush a.core
      let c := s1.ctx a
      if c.request ≠ some r then .next s1
      else
        let rec_ := s1.record a r (r.seq.getD c.seq)
        let s2 := s1.modCtx a (fun c => { c with wait := .reply r, seq := if r.seq.isSome then c.seq else c.seq + 1 })
        let s3 := s2.modCore box (fun k => { k with mail := putN k.mail slot { agent := a, record := rec_, code := r.code } })
        .next ((((s3.publish a (some (.mail box))).notifyMail box).perfEvent box 12 (s3.vfOf a) 1).enterWait a)
  | _, _ => .refused (.notEnabled "RESUMABLE_TRAP_POST")

/-- A supervisor thread's trap, which has ended the grid that the thread served as it was taken (`State.raiseAt`), is reported to the
monitor (R373; DEDUCED, log 38). -/
def execSupervisorTrap (a : Agent) (s : State) : Host.Outcome State Fault Refusal :=
  match (s.ctx a).wait with
  | .supTrap code _ pc =>
    .next (s.modCtx a (Ctx.ask s.clock { code := code, arg0 := 0, arg1 := 0, arg2 := 0, resume := nextPc pc, at_ := some pc }))
  | _ => .refused (.notEnabled "SUPERVISOR_TRAP")

/-- `TRAP` (R380): the lane waits to post, and D will take the reply. -/
def execTrap (f : RForm) (s : State) : Host.Outcome State Fault Refusal :=
  perLane (form (.trap f)) (fun a s =>
    .stay (s.raiseResumable a { code := .trap, arg0 := BitVec.ofNat 64 (s.opVal a f.cm.a 64),
                                arg1 := BitVec.ofNat 64 (s.opVal a f.cm.b 64), arg2 := BitVec.ofNat 64 (fld f.func 0 8),
                                resume := nextPc (s.ctx a).pc, dst := f.cm.d })) s

/-- `BRK` (R380). -/
def execBrk (f : RForm) (s : State) : Host.Outcome State Fault Refusal :=
  perLane (form (.brk f)) (fun a s =>
    .stay (s.raiseResumable a { code := .brk, arg0 := BitVec.ofNat 64 (fld f.func 0 8), arg1 := 0, arg2 := 0,
                                resume := nextPc (s.ctx a).pc })) s

/-! ### SRET (R381) -/

/-- The code with which action 11 ends a grid. -/
def endCodeOf (v : Nat) : TrapCode :=
  match v % 256 with
  | 0x01 => .illEnc | 0x02 => .illPc | 0x03 => .align | 0x04 => .lease | 0x05 => .noncanon | 0x06 => .crossTop
  | 0x07 => .perm | 0x08 => .storeBound | 0x0A => .volRank | 0x0B => .barBad | 0x0C => .circleBad | 0x0D => .mxFault
  | 0x0E => .eccUe | 0x11 => .timeout | 0x13 => .vfReset | _ => .trap

/-- A supervisor thread starts at its image's thread entry (R373, R391), which stands for what produced it (DESIGN CHOICE, log 73).
Traps of it that are not reported yet are reported first (R373). -/
def State.startSup (s : State) (a : Agent) : State :=
  match a.who with
  | .thread n => s.modCore a.core (fun k => k.modThread n (fun t =>
      { t with g := [], bad := [], stran := 0x40, sSeen := [],
               ctx := ({ t.ctx with pc := s.supEntry, srcPc := s.supEntry, byBranch := false, pcOver := false, preds := 0,
                                    handles := [], opBuf := none, wait := .run, reply := t.ctx.reply + 1 } : Ctx).nextTrap s.clock }))
  | .lead _ => s

/-- Action 11 restarts a supervisor thread, which departs every circle (R246, R373). -/
def State.restartSup (s : State) (a : Agent) : State := (s.departAll (s.partOf a) (s.idOf a) true).startSup a

/-- What an action does to the agent of a request. -/
def State.answer (s : State) (act : Nat) (m : Mail) (v : Nat) (core : Nat) : State :=
  let t := m.agent
  let pc := m.record.getD 0 0
  match act with
  | 0 =>
    let d : Opnd := match (s.ctx t).wait with
      | .reply r => r.dst
      | _ => .lit 0
    let s1 := s.resume t pc (m.record.getD 6 0) false
    if m.code = .trap then s1.putD t d 64 v else s1
  | 1 => s.resume t pc pc false
  | 2 => s.resume t pc pc true
  | _ =>
    match s.level t with
    | .t => (s.modCtx t (fun c => { c with wait := .stopped, reply := c.reply + 1 })).report (s.gridNo t) ⟨endCodeOf v, 0⟩ pc core
    | _ => s.restartSup t

/-- `SRET`: a release of the supervisor's accesses, the answer, and the resumption, which acquires them (R378, R381). -/
def sretOut (act : Nat) (f : RForm) (a : Agent) (s : State) : LaneOut :=
  let slot := s.opVal a f.cm.a 32 % 64
  let v := s.opVal a f.cm.b 64
  match lookupN (s.core a.core).mail slot with
  | none => .done (s.writeP a f.cm.d.num false)
  | some m =>
    let s1 := ((s.flush a.core).collect a (some (.mail a.core))).publish a (some (.mail a.core))
    let s2 := (s1.answer act m v a.core).acquire m.agent 4 (some (.mail a.core))
    .done ((s2.modCore a.core (fun k => { k with mail := delN k.mail slot })).writeP a f.cm.d.num true)

def execSretResume (f : RForm) (s : State) : Host.Outcome State Fault Refusal := perLane (form (.sretResume f)) (sretOut 0 f) s
def execSretReissue (f : RForm) (s : State) : Host.Outcome State Fault Refusal := perLane (form (.sretReissue f)) (sretOut 1 f) s
def execSretReissueNomatch (f : RForm) (s : State) : Host.Outcome State Fault Refusal :=
  perLane (form (.sretReissueNomatch f)) (sretOut 2 f) s
def execSretEndGrid (f : RForm) (s : State) : Host.Outcome State Fault Refusal := perLane (form (.sretEndGrid f)) (sretOut 3 f) s

/-! ### YIELD (R382) -/

/-- The team of an agent counts as having run its season. -/
def State.askYield (s : State) (a : Agent) : State :=
  match s.gridNo a, s.gridOf a, s.wg? a with
  | some i, some g, some w =>
    if g.launch.coop then s
    else s.modGrid i (fun g => { g with placed := modN g.placed (w.lin / g.launch.team) (fun p => { p with yielded := true }) })
  | _, _, _ => s

def execYield (f : RForm) (s : State) : Host.Outcome State Fault Refusal :=
  perLane (form (.yield f)) (fun a s => .done (s.askYield a)) s

/-! ### Control registers (R383, R385, R386) -/

/-- A control register as an agent reads it. -/
def State.readCtl (s : State) (a : Agent) (i : Nat) : Nat :=
  let k := s.core a.core
  let p := s.part (s.partOf a)
  if i = 0x000 then (s.ctx a).fstat.toNat
  else if i = 0x010 then k.cwdog.toNat
  else if i = 0x011 then k.bwdog.toNat
  else if i = 0x012 then p.rctmo.toNat
  else if i = 0x013 then p.season.toNat
  else if i = 0x014 then ((s.thread? a).map (·.stran.toNat)).getD 0
  else if i = 0x020 then k.mbnote.toNat
  else if i = 0x021 then k.mail.length + 128 * k.noterr.toNat
  else if i = 0x022 then k.tsel.toNat
  else if 0x030 ≤ i ∧ i ≤ 0x033 then (getR k.bpm (i - 0x030)).toNat
  else if 0x040 ≤ i ∧ i ≤ 0x047 then (getR k.pcsel (i - 0x040)).toNat
  else if 0x048 ≤ i ∧ i ≤ 0x04F then (getR k.pcnt (i - 0x048)).toNat
  else if i = 0x080 then (s.level a).num
  else if 0x100 ≤ i ∧ i ≤ 0x13F then (getR k.vfclk (i - 0x100)).toNat
  else if 0x200 ≤ i ∧ i ≤ 0x3FF then
    (((lookupN k.mail ((i - 0x200) / 8)).map (fun (m : Mail) => m.record.getD ((i - 0x200) % 8) 0)).getD 0).toNat
  else
    match s.selected a.core with
    | none => 0
    | some m =>
      if 0x800 ≤ i ∧ i ≤ 0x9FF then
        (if decide (i - 0x800 < s.regsOf m.agent) then (((s.thread? m.agent).map (fun t => getR t.g (i - 0x800))).getD 0).toNat
          else 0)
      else if i = 0xA00 then (s.ctx m.agent).preds.toNat
      else if i = 0xA01 then (m.record.getD 6 0).toNat
      else if i = 0xA02 then (s.ctx m.agent).fstat.toNat
      else 0

/-- Write a control register: fields that read as zero or are read-only keep their value, a one-to-clear field loses the bits
written as 1 (R383). -/
def State.writeCtl (s : State) (a : Agent) (i v : Nat) : State :=
  let c := a.core
  let w : DWord := BitVec.ofNat 64 v
  if i = 0x000 then s.modCtx a (fun x => { x with fstat := x.fstat &&& ~~~(BitVec.ofNat 5 v) })
  else if i = 0x010 then s.modCore c (fun k => { k with cwdog := BitVec.ofNat 32 v })
  else if i = 0x011 then s.modCore c (fun k => { k with bwdog := BitVec.ofNat 32 v })
  else if i = 0x012 then s.modPart (s.partOf a) (fun p => { p with rctmo := BitVec.ofNat 32 v })
  else if i = 0x013 then s.modPart (s.partOf a) (fun p => { p with season := BitVec.ofNat 32 v })
  else if i = 0x014 then s.modCore c (fun k => k.modThread (slotNum a) (fun t => { t with stran := BitVec.ofNat 7 v }))
  else if i = 0x020 then s.modCore c (fun k => { k with mbnote := w &&& ~~~15#64 })
  else if i = 0x021 then s.modCore c (fun k => { k with noterr := k.noterr && !w.getLsbD 7 })
  else if i = 0x022 then s.modCore c (fun k => { k with tsel := BitVec.ofNat 6 v })
  else if 0x030 ≤ i ∧ i ≤ 0x033 then s.modCore c (fun k => { k with bpm := setR k.bpm (i - 0x030) (w &&& ~~~0x38#64) })
  else if 0x040 ≤ i ∧ i ≤ 0x047 then
    s.modCore c (fun k => { k with pcsel := setR k.pcsel (i - 0x040) (BitVec.ofNat 32 v &&& 0x007F01FF#32) })
  else if 0x048 ≤ i ∧ i ≤ 0x04F then s.modCore c (fun k => { k with pcnt := setR k.pcnt (i - 0x048) w })
  else if 0x100 ≤ i ∧ i ≤ 0x13F then s.modCore c (fun k => { k with vfclk := setR k.vfclk (i - 0x100) w })
  else
    match s.selected c with
    | none => s
    | some m =>
      if 0x800 ≤ i ∧ i ≤ 0x9FF then
        (if i - 0x800 < s.regsOf m.agent then s.writeG m.agent (i - 0x800) 32 v else s)
      else if i = 0xA00 then s.modCtx m.agent (fun x => { x with preds := BitVec.ofNat 7 v })
      else if i = 0xA01 then
        s.modCore c (fun k => { k with mail := modN k.mail k.tsel.toNat (fun m => { m with record := m.record.set 6 w }) })
      else if i = 0xA02 then s.modCtx m.agent (fun x => { x with fstat := BitVec.ofNat 5 v })
      else s

/-- `CRD` (R383): a 64-bit register read at 32 bits gives its low half. -/
def execCrd (f : RForm) (s : State) : Host.Outcome State Fault Refusal :=
  perLane (form (.crd f)) (fun a s => .done (s.putD a f.cm.d (tyW f.ty) (s.readCtl a (fld f.func 0 12) % 2 ^ tyW f.ty))) s

/-- `CWR` (R383). -/
def execCwr (f : RForm) (s : State) : Host.Outcome State Fault Refusal :=
  perLane (form (.cwr f)) (fun a s => .done (s.writeCtl a (fld f.func 0 12) (s.opVal a f.cm.a (tyW f.ty)))) s

/-- `PERF` (R384). -/
def execPerf (f : RForm) (s : State) : Host.Outcome State Fault Refusal :=
  perLane (form (.perf f)) (fun a s =>
    let n := fld f.func 0 3
    let k := s.core a.core
    let sel := getR k.pcsel n
    let shown := sel.getLsbD 8 && (!sel.getLsbD 22 || s.vfOf a == some (sel.extractLsb' 16 6).toNat)
    .done (s.putD a f.cm.d (tyW f.ty) (if shown then (getR k.pcnt n).toNat % 2 ^ tyW f.ty else 0))) s

/-! ### SCLEAR (R390) -/

/-- Clear the units of a mask on a core that holds no workgroup. Saved W-store regions are kept for their skeins. -/
def State.clearUnits (s : State) (c mask : Nat) : State :=
  let on (i : Nat) : Bool := mask.testBit i
  let s1 := if on 3 then s.saveRegions c else s
  s1.modCore c (fun k0 =>
    let k := if on 4 then k0.mapCtx (fun x => { x with opBuf := none }) else k0
    { k with
      threads := if on 0 then k.threads.map (fun t => if t.2.level == .t then (t.1, { t.2 with g := [], bad := [] }) else t) else k.threads,
      astore := if on 1 then [] else k.astore, cstore := if on 2 then [] else k.cstore, wstore := if on 3 then [] else k.wstore,
      badA := if on 1 then [] else k.badA, badC := if on 2 then [] else k.badC, badW := if on 3 then [] else k.badW,
      tlb := if on 5 then [] else k.tlb, walkAhead := if on 5 then [] else k.walkAhead, clb := if on 5 then [] else k.clb,
      l1 := if on 6 then [] else k.l1, pcnt := if on 7 then [] else k.pcnt })

/-- `SCLEAR`: the clocks that the sequencer takes are not stated (log 4). -/
def execSclear (f : RForm) (s : State) : Host.Outcome State Fault Refusal :=
  perLane (form (.sclear f)) (fun a s =>
    let mask := s.opVal a f.cm.a 32
    if 256 ≤ mask then .trap ⟨.illEnc, 0⟩
    else if !(s.core a.core).wgs.isEmpty then .done (s.putD a f.cm.d 32 0xFFFFFFFF)
    else
      let n := Config.clearClocks s.freeCount
      let s1 : State := { s with freeCount := s.freeCount + 1 }
      .done ((s1.clearUnits a.core mask).putD a f.cm.d 32 (n % 2 ^ 32))) s

end Sys2Proof.Machine
end

