-- ==== Sys2Proof/Machine/Text.lean ====
section
/-!
DEFINITION. The text engines of the edge dies (spec/20 R353 to R368): packets and frames, request queues and streams, the
tokeniser, vocabularies, the detokeniser, and the text instructions.
-/

namespace Sys2Proof.Machine

/-! ### Packets (R353, R357) -/

/-- The VFs (partition × 64 + VF) of an edge die whose address and port a packet names. -/
def Edge.named (e : Edge) (p : Packet) : List Nat :=
  (e.tx.filter (fun t => t.2.addr == p.dstAddr && t.2.port == p.dstPort && t.2.port != 0)).map (·.1)

/-- A `TX_PEER` entry admits a source address: its first bits agree (R357). -/
def peerAdmits (e : BitVec 137) (src : BitVec 128) : Bool :=
  let len := fld e 128 8
  e.getLsbD 136 && decide (len ≤ 128) && fld e (128 - len) len == fld src (128 - len) len

/-- Requests of a VF that hold a place of its queue: queued, or on their way. -/
def Edge.heldFor (e : Edge) (k : Nat) : Nat :=
  (e.txOf k).queue.length + (e.texts.filter (fun t => vfKey t.part t.vf == k)).length
    + (e.inbox.filter (fun m => vfKey m.part m.vf == k && leAt m.bytes 3 1 == 1)).length

/-- The bytes that a context has received of a message that is not whole. -/
def Edge.sofar (e : Edge) (context : Nat) : List Byte := ((lookupN e.partial_ context).map (·.2)).getD []

/-- A VF drops a packet to its address and port and counts it: a part of the transport that is not supported, or no admission (R353,
R357). -/
def packetDropped (p : Packet) (t : TxRegs) : Bool :=
  !p.supported || decide (4096 < p.payload.length) || !t.enable || !t.peers.any (fun x => peerAdmits x.2 p.srcAddr)

/-- Every VF whose address and port a packet names counts it where it drops it. -/
def State.countDrops (s : State) (edge : Nat) (p : Packet) : State :=
  ((s.edge edge).named p).foldl (fun s k =>
    if packetDropped p ((s.edge edge).txOf k) then s.modTx edge k (fun t => { t with drop := t.drop + 1 }) else s) s

/-- A packet arrives: dropped and counted, left unacknowledged, or taken; the last packet of a message makes it whole, with the
bindings of that moment (R359). Of two VFs with one address and port neither receives it (R357), and a packet on a context that a
reset of its VF has closed goes nowhere (R368). -/
def execUetPacket (edge : Nat) (p : Packet) (s : State) : Host.Outcome State Fault Refusal :=
  let e := s.edge edge
  if !s.up || decide (4 ≤ edge) then .refused (.notEnabled "UET_PACKET")
  else
  match e.named p with
  | [k] =>
    let t := e.txOf k
    if packetDropped p t || e.closedCtx.contains p.context then .next (s.countDrops edge p)
    else
      let sofar := e.sofar p.context ++ p.payload
      if p.last && leAt sofar 3 1 == 1 && decide (Config.requestsPerQueue ≤ e.heldFor k) then
        .next (s.modTx edge k (fun t => { t with withheld := t.withheld + 1 }))
      else if p.last then
        .next (s.modEdge edge (fun e => { e with
          partial_ := delN e.partial_ p.context, contexts := putN e.contexts p.context k,
          inbox := e.inbox ++ [{ part := k / 64, vf := k % 64, peer := p.srcAddr, context := p.context, bytes := sofar,
                                 vocab := t.vocab }] }))
      else .next (s.modEdge edge (fun e => { e with
        partial_ := putN e.partial_ p.context (k, sofar), contexts := putN e.contexts p.context k }))
  | _ => .next (s.countDrops edge p)

/-! ### Frames (R354, R355) -/

def frameMagic : Nat := 0x7A31

/-- The 32-byte header of a frame. -/
def frameHeader (type : Nat) (request : DWord) (w3 w4 w5 : Nat) : List Byte :=
  leBytes 2 frameMagic ++ [1, BitVec.ofNat 8 type] ++ leBytes 8 request.toNat ++ leBytes 4 w3 ++ leBytes 4 w4 ++ leBytes 4 w5
    ++ List.replicate 8 0

def closeFrame (request : DWord) (seq status code : Nat) : List Byte := frameHeader 3 request seq status code

/-- A message is a cancel frame. -/
def isCancel (m : Message) : Bool :=
  leAt m.bytes 0 2 == frameMagic && leAt m.bytes 2 1 == 1 && leAt m.bytes 3 1 == 4 && m.bytes.length == 32

/-- Magic number, version, type, lengths and slot of a request frame are right (R354; DEDUCED, log 48). -/
def requestOk (m : Message) : Bool :=
  let l := leAt m.bytes 20 4
  leAt m.bytes 0 2 == frameMagic && leAt m.bytes 2 1 == 1 && leAt m.bytes 3 1 == 1
  && decide (1 ≤ l ∧ l ≤ 262144 ∧ m.bytes.length = 32 + l) && decide (leAt m.bytes 12 4 < 16)
  && (lookupN m.vocab (leAt m.bytes 12 4)).isSome

/-- Streams that are not closed. -/
def Edge.openStreams (e : Edge) : NMap Stream := e.streams.filter (fun k => !k.2.closed)

/-- The lowest free stream number, while fewer than 16,384 streams are open (R356). -/
def Edge.freeStream (e : Edge) : Option Nat :=
  let live := e.openStreams
  if Config.streamsPerEdge ≤ live.length then none else freeN live 65536

/-- The oldest message of an edge die, where it is not a cancel frame, is checked as a request: its stream opens and its text waits
for the tokeniser, or a close frame refuses it. -/
def State.requestHead (s : State) (edge : Nat) : Option State :=
  let e := s.edge edge
  match e.inbox with
  | [] => none
  | m :: rest =>
    if isCancel m then none
    else
      let id := BitVec.ofNat 64 (leAt m.bytes 4 8)
      let refuse (status : Nat) : State := s.modEdge edge (fun e => { e with inbox := rest, frames := e.frames ++
        [{ peer := m.peer, context := m.context, bytes := closeFrame id 0 status 0 }] })
      if !requestOk m then some (refuse 3)
      else
        match e.freeStream with
        | none => some (refuse 4)
        | some n =>
          let slot := leAt m.bytes 12 4
          some (s.modEdge edge (fun e => { e with
            inbox := rest,
            streams := putN e.streams n { vf := m.vf, part := m.part, request := id, peer := m.peer, context := m.context, slot := slot },
            texts := e.texts ++ [{ part := m.part, vf := m.vf, request := id, stream := n, slot := slot,
                                   image := (lookupN m.vocab slot).getD 0, maxNew := BitVec.ofNat 32 (leAt m.bytes 16 4),
                                   text := m.bytes.drop 32 }] }))

def execRequestFrame (edge : Nat) (s : State) : Host.Outcome State Fault Refusal :=
  match s.requestHead edge with
  | some t => .next t
  | none => .refused (.notEnabled "REQUEST_FRAME")

/-- The oldest message, where it is a cancel frame, closes the request's stream with status 5 and removes the request where it is
queued. -/
def State.cancelHead (s : State) (edge : Nat) : Option State :=
  let e := s.edge edge
  match e.inbox with
  | [] => none
  | m :: rest =>
    if !isCancel m then none
    else
      let id := BitVec.ofNat 64 (leAt m.bytes 4 8)
      let mine (k : Stream) : Bool := k.part == m.part && k.vf == m.vf && k.request == id && k.peer == m.peer && !k.closed
        && k.closing.isNone
      match e.streams.find? (fun k => mine k.2) with
      | none => some (s.modEdge edge (fun e => { e with inbox := rest }))
      | some (n, _) =>
        some ((s.modEdge edge (fun e => { e with
          inbox := rest, texts := e.texts.filter (fun t => t.stream != n),
          streams := modN e.streams n (fun k => { k with closing := some (5, 0), held := [] }) })).modTx edge (vfKey m.part m.vf)
            (fun t => { t with queue := t.queue.filter (fun r => r.stream != n) }))

def execCancelFrame (edge : Nat) (s : State) : Host.Outcome State Fault Refusal :=
  match s.cancelHead edge with
  | some t => .next t
  | none => .refused (.notEnabled "CANCEL_FRAME")

/-- The image that a text is tokenised by: every edge die of the partition reads it the same, and this one reads it now (R359). -/
def TextIn.imageOn (t : TextIn) (edge : Nat) : Image := { via := .vf t.part t.vf, base := t.image, edges := [edge] }

/-- The first text of a list whose image can be read, with its number and its tokens. -/
def State.tokenisable (s : State) (edge : Nat) : Nat → List TextIn → Option (Nat × TextIn × List Word)
  | _, [] => none
  | i, t :: ts =>
    match s.tokens (t.imageOn edge) t.text with
    | .ok ws => some (i, t, ws)
    | .error _ => s.tokenisable edge (i + 1) ts

/-- A running grid of a VF leases the image at an address, and no trap of it is on its way. -/
def State.imageGrid (s : State) (t : TextIn) (g : Nat × Grid) : Bool :=
  g.2.part == t.part && g.2.vf == t.vf && g.2.state == .running && leased g.2.launch.allLeases false t.image 64
  && g.2.endCode.isNone && !s.reports.any (fun r => r.grid == g.1)

/-- A text whose image cannot be read, and which a running grid of its VF still leases: the read ends those grids, with `PERM` for a walk
or a firewall and `ECC_UE` for poison (R393, R398, R407; DESIGN CHOICE, log 92). -/
def State.imageFails (s : State) (edge : Nat) (t : TextIn) : Option State :=
  match s.tokens (t.imageOn edge) t.text with
  | .ok _ => none
  | .error e =>
    match s.grids.filter (s.imageGrid t) with
    | [] => none
    | gs => some (gs.foldl (fun s g => s.report (some g.1) e 0 0) (s.imgDrop (t.imageOn edge) e.va))

/-- The oldest text whose image can be read is tokenised and its request becomes takeable; a request that enters an empty queue
notifies (R358, R359). -/
def State.tokeniseHead (s : State) (edge : Nat) : Option State :=
  let e := s.edge edge
  match e.texts.findSome? (s.imageFails edge) with
  | some s1 => some s1
  | none =>
  match s.tokenisable edge 0 e.texts with
  | none => none
  | some (i, t, tokens) =>
    let k := vfKey t.part t.vf
    let was := (e.txOf k).queue
    let s1 := (s.modEdge edge (fun e => { e with texts := e.texts.eraseIdx i })).modTx edge k (fun x => { x with queue := x.queue ++
      [{ request := t.request, stream := t.stream, slot := t.slot, maxNew := t.maxNew, tokens := tokens }] })
    let note := (e.txOf k).note
    if was.isEmpty && note != 0 then
      match s1.notify (.vf t.part t.vf) note.toNat with
      | some s2 => some s2
      | none => some (s1.modTx edge k (fun x => { x with noterr := true }))
    else some s1

def execTokenise (edge : Nat) (s : State) : Host.Outcome State Fault Refusal :=
  match s.tokeniseHead edge with
  | some t => .next t
  | none => .refused (.notEnabled "TOKENISE")

/-- Sendable bytes leave in a data frame (R354, R355, R362). -/
def execReplyDataFrame (edge stream : Nat) (s : State) : Host.Outcome State Fault Refusal :=
  match lookupN (s.edge edge).streams stream with
  | some k =>
    if k.closed || k.ready.isEmpty then .refused (.notEnabled "REPLY_DATA_FRAME")
    else
      let out := k.ready.take 4064
      .next (s.modEdge edge (fun e => { e with
        streams := modN e.streams stream (fun k => { k with ready := k.ready.drop 4064, frame := k.frame + 1,
                                                            bytes := k.bytes + out.length }),
        frames := e.frames ++ [{ peer := k.peer, context := k.context,
                                 bytes := frameHeader 2 k.request k.frame out.length 0 ++ out }] }))
  | none => .refused (.notEnabled "REPLY_DATA_FRAME")

/-- The close frame leaves after the last byte, and the stream's number is free again (R355, R356). -/
def execCloseFrameSent (edge stream : Nat) (s : State) : Host.Outcome State Fault Refusal :=
  match lookupN (s.edge edge).streams stream with
  | some k =>
    match k.closing with
    | some (status, code) =>
      if k.closed || !k.ready.isEmpty then .refused (.notEnabled "CLOSE_FRAME_SENT")
      else
        .next (s.modEdge edge (fun e => { e with
          streams := modN e.streams stream (fun k => { k with closed := true }),
          frames := e.frames ++ [{ peer := k.peer, context := k.context, bytes := closeFrame k.request k.frame status code.toNat }] }))
    | none => .refused (.notEnabled "CLOSE_FRAME_SENT")
  | none => .refused (.notEnabled "CLOSE_FRAME_SENT")

/-! ### The instructions (R361 to R365) -/

/-- A text form whose checks before its edge die pass is pending, and counts in `ld` (R366). It names bytes from an address up, and
`TXEMIT` is an acquire (R362). -/
def textOut (a : Agent) (at_ n : Nat) (order : BitVec 3) (op : TextOp) (d : Opnd) (s : State) : LaneOut :=
  .done (s.post a (.glob at_) n order 5 0 (.text op d) .ld)

/-- `TXTAKE` (R364). -/
def execTxtake (f : RForm) (s : State) : Host.Outcome State Fault Refusal :=
  perLane (form (.txtake f)) (fun a s =>
    let dst := s.opVal a f.cm.a 64
    let cap := s.opVal a f.cm.b 32
    if dst % 16 ≠ 0 then .trap ⟨.align, dst⟩
    else
      match s.checkGlobal a dst (32 + 4 * cap) true false with
      | some t => .trap t
      | none => if (s.vfOf a).isNone then .trap ⟨.perm, 0⟩ else textOut a dst 0 0 (.take (fld f.func 0 2) cap) f.cm.d s) s

/-- `TXEMIT` (R362, R365). -/
def execTxemit (f : RForm) (s : State) : Host.Outcome State Fault Refusal :=
  perLane (form (.txemit f)) (fun a s =>
    let at_ := s.opVal a f.cm.a 64
    if at_ % 64 ≠ 0 then .trap ⟨.align, at_⟩
    else
      match s.checkGlobal a at_ 64 false false with
      | some t => .trap t
      | none => if (s.vfOf a).isNone then .trap ⟨.perm, 0⟩ else textOut a at_ 64 2 (.emit (s.opVal a f.cm.b 32)) f.cm.d s) s

/-- `TXCLOSE` and `TXSTAT` (R363): a stream id of another VF traps. -/
def sidOut (a : Agent) (sid : Nat) (op : TextOp) (d : Opnd) (s : State) : LaneOut :=
  if s.vfOf a ≠ some (sidVf sid) then .trap ⟨.perm, 0⟩ else textOut a 0 0 0 op d s

def execTxclose (f : RForm) (s : State) : Host.Outcome State Fault Refusal :=
  perLane (form (.txclose f)) (fun a s =>
    let sid := s.opVal a f.cm.a 32
    sidOut a sid (.close sid (s.opVal a f.cm.b 32)) f.cm.d s) s

def execTxstat (f : RForm) (s : State) : Host.Outcome State Fault Refusal :=
  perLane (form (.txstat f)) (fun a s =>
    let sid := s.opVal a f.cm.a 32
    sidOut a sid (.stat sid) f.cm.d s) s

/-- A whole request of a VF has been received that uses a vocabulary slot's binding: a text, or a message not yet checked (R359). -/
def Edge.usesSlot (e : Edge) (part vf slot : Nat) : Bool :=
  e.texts.any (fun t => t.part == part && t.vf == vf && t.slot == slot)
  || e.inbox.any (fun m => m.part == part && m.vf == vf && !isCancel m && leAt m.bytes 12 4 == slot)

/-- Every request of a VF that uses a vocabulary slot is tokenised before its binding changes: the messages received are checked and
the texts tokenised, in order (R361). -/
def State.finishTexts (s : State) (part vf slot : Nat) : State :=
  (List.range 4).foldl (fun s e =>
    if (s.edge e).usesSlot part vf slot then
      let s1 := (List.range (s.edge e).inbox.length).foldl (fun s _ => ((s.requestHead e) <|> (s.cancelHead e)).getD s) s
      (List.range (s1.edge e).texts.length).foldl (fun s _ => (s.tokeniseHead e).getD s) s1
    else s) s

/-- Bind a vocabulary slot of a VF on all edge dies, or unbind it (R361). -/
def State.bindVocab (s : State) (part vf slot : Nat) (image : Option Nat) : State :=
  (List.range 4).foldl (fun s e => s.modTx e (vfKey part vf) (fun t =>
    { t with vocab := match image with
        | some a => putN t.vocab slot a
        | none => delN t.vocab slot })) (s.finishTexts part vf slot)

/-- A firewall drops the request of a text form to an edge die: the grid ends with `PERM` (R393). -/
def State.textDrop (s : State) (a : Agent) (edge : Nat) : LaneOut := .stay ((s.edgeDrop (dieOf a.core) edge).raise a ⟨.perm, 0⟩)

/-- What `VOCLOAD` finds of an image: its status (R361). -/
def State.vocabCheck (s : State) (a : Agent) (m : Image) : VolRes Nat := do
  s.blockCheck (s.homeOf a) m.base 64 false
  let h ← s.vocab m
  if h.length ≤ 2 ^ 32 then s.blockCheck (s.homeOf a) m.base h.length false
  s.vocabStatus m h

/-- `VOCLOAD` (R361): every edge die reads the image. A walk that meets an entry made invalid, a firewall or a poisoned byte ends the grid
(R393, R398, R407). -/
def execVocload (f : XForm) (s : State) : Host.Outcome State Fault Refusal :=
  let slot := fld f.flags 0 4
  perLane (form (.vocload f)) (fun a s =>
    let at_ := s.opVal a f.cm.a 64
    if at_ % 64 ≠ 0 then .trap ⟨.align, at_⟩
    else
      match s.vfOf a with
      | none => .trap ⟨.perm, 0⟩
      | some vf =>
        let part := s.partOf a
        match (List.range 4).find? (fun e => !s.edgePath (dieOf a.core) e) with
        | some e => s.textDrop a e
        | none =>
          if at_ = 0 then .done ((s.bindVocab part vf slot none).putD a f.cm.d 64 4)
          else
            let m : Image := { via := s.viaOf a, base := at_, edges := List.range 4 }
            match s.vocabCheck a m with
            | .error t => (s.imgDrop m t.va).laneOf a (.error t)
            | .ok st => .done ((if st = 0 then s.bindVocab part vf slot (some at_) else s).putD a f.cm.d 64 st)) s

/-- The packet delivery contexts of a VF: those of the packets taken, of messages and of streams (R353). -/
def Edge.contextsOf (e : Edge) (part vf : Nat) : List Nat :=
  (e.contexts.filter (fun c => c.2 == vfKey part vf)).map (·.1)
  ++ (e.partial_.filter (fun p => p.2.1 == vfKey part vf)).map (·.1)
  ++ (e.inbox.filter (fun m => m.part == part && m.vf == vf)).map (·.context)
  ++ (e.streams.filter (fun k => k.2.part == part && k.2.vf == vf && !k.2.closed)).map (·.2.context)

/-- What a VF reset does on the edge dies (R368). -/
def State.resetText (s : State) (part vf : Nat) : State :=
  (List.range 4).foldl (fun s e =>
    let k := vfKey part vf
    (s.modEdge e (fun d => { d with
      closedCtx := (d.closedCtx ++ d.contextsOf part vf).eraseDups, contexts := d.contexts.filter (fun c => c.2 != k),
      streams := d.streams.map (fun x => if x.2.part == part && x.2.vf == vf && !x.2.closed then
        (x.1, { x.2 with held := [], ready := [], closing := some (2, 0) }) else x),
      inbox := d.inbox.filter (fun m => !(m.part == part && m.vf == vf)),
      texts := d.texts.filter (fun t => !(t.part == part && t.vf == vf)),
      partial_ := d.partial_.filter (fun p => p.2.1 != k) })).modTx e k (fun t => { t with queue := [], vocab := [] })) s

end Sys2Proof.Machine
end

