-- ==== Sys2Proof/Machine/Surroundings.lean ====
section
/-!
DEFINITION. What surrounds the cores (spec/23 R391 to R413): VF reset, TLB invalidation, partitions and firewalls, the Chasko
Link, peer modules, scrub, the monitor pairs, the serving kernel, the module's operating system, throttling, bring-up, and the
roots of trust.
-/

namespace Sys2Proof.Machine

/-- The cores of a partition that the state lists. -/
def State.coresOf (s : State) (part : Nat) : List Nat :=
  (s.cores.map (·.1)).filter (fun c => decide (c < 640) && s.partOfDie (dieOf c) == some part)

/-! ### VF reset (R401) -/

/-- Step 1: the queues stop; entries not taken yet are cancelled. -/
def State.resetQueues (s : State) (part vf : Nat) : State :=
  let key := vfKey part vf
  let s1 := (s.vf key).queues.foldl (fun s q =>
    q.2.pending.zipIdx.foldl (fun s e => if e.1.cancelled then s
      else s.writeStatus part vf (q.2.entryAt (q.2.ridx.toNat + e.2)) LaunchState.cancelled.num 0) s) s
  s1.modVf key (fun v => { v with queues := v.queues.map (fun q =>
    (q.1, { q.2 with enable := false, qerr := false, widx := 0, ridx := 0, pending := [] })) })

/-- Step 2: running grids end with `VF_RESET`, the others are cancelled; the VF's circles are freed (R247). -/
def State.resetGrids (s : State) (part vf : Nat) : State :=
  let s1 := s.grids.foldl (fun s g =>
    if g.2.part = part ∧ g.2.vf = vf ∧ !g.2.state.over then
      if g.2.state = .running then
        s.endByTrap g.1 g.2 { grid := g.1, code := .vfReset, pc := 0, core := 0, va := 0, since := s.clock }
      else s.endGrid g.1 .cancelled 0
    else s) s
  s1.modPart part (fun p => p.circles.foldl (fun p c => if c.2.vf = some vf then p.freeCircle c.1 else p) p)

/-- Step 5: no look-aside buffer keeps an entry of the VF, and its cores are cleared. -/
def State.resetCores (s : State) (part vf : Nat) : State :=
  (s.coresOf part).foldl (fun s c =>
    let s1 := (s.flush c).modCore c (fun k => { k with clb := k.clb.filter (fun e => e.vf != vf) })
    if (s1.core c).vf = some (part, vf) then s1.clearIdle c else s1) s

/-- Step 6: the serving kernel's object. -/
def State.resetNote (s : State) (part : Nat) : State :=
  let p := s.part part
  if p.serveVf.getLsbD 7 && p.rstnote != 0 then
    match s.notify (.vf part (p.serveVf.toNat % 64)) p.rstnote.toNat with
    | some t => t
    | none => s.modPart part (fun p => { p with rstnoterr := true })
  else s

/-- What each of the six steps of a reset does, the first 0. -/
def State.resetPart (s : State) (part vf : Nat) : Nat → State
  | 0 => s.resetQueues part vf
  | 1 => s.resetGrids part vf
  | 2 => s.modVf (vfKey part vf) (fun v => { v with epoch := v.epoch + 1 })
  | 3 => s.resetText part vf
  | 4 => s.resetCores part vf
  | _ => s.resetNote part

/-- The next step of a reset: a write of 1 takes the first, and resetting reads 1 from it to the sixth. -/
def State.resetStep (s : State) (part vf : Nat) : State :=
  let n := (s.vf (vfKey part vf)).resetAt
  (s.resetPart part vf n).modVf (vfKey part vf) (fun v => { v with resetAt := if n = 5 then 0 else n + 1 })

/-- A write of 1 to `VF_CTL` reset, and then, while resetting reads 1, the next step of that reset (DESIGN CHOICE, log 37). -/
def execVfReset (part vf : Nat) (s : State) : Host.Outcome State Fault Refusal :=
  if s.hasVf part vf then .next (s.resetStep part vf) else .refused (.notEnabled "VF_RESET")

/-! ### TLB invalidation (R399) -/

/-- The translations of a VF that a removal names leave every TLB of the partition. -/
def State.removeTlb (s : State) (part vf : Nat) (page : Option Nat) : State :=
  let keep (t : TlbEntry) : Bool := !(t.part == part && t.vf == vf && (match page with
    | some va => decide (t.va % 2 ^ 56 ≤ va ∧ va < t.va % 2 ^ 56 + t.size)
    | none => true))
  (s.coresOf part).foldl (fun s c => s.modCore c (fun k =>
    { k with tlb := k.tlb.filter keep, walkAhead := k.walkAhead.filter keep })) s

/-- The removal that a VF has under way is done. -/
def State.endRemoval (s : State) (part vf : Nat) : State :=
  match (s.vf (vfKey part vf)).removing with
  | some page => (s.removeTlb part vf page).modVf (vfKey part vf) (fun v => { v with busy := false, removing := none })
  | none => s

/-- A removal begins; one that is under way is done first. -/
def State.beginRemoval (s : State) (part vf : Nat) (page : Option Nat) : State :=
  (s.endRemoval part vf).modVf (vfKey part vf) (fun v => { v with busy := true, removing := some page })

/-- A write to `VF_TLBINV`; a reset of the VF ignores it (R401). -/
def State.tlbinv (s : State) (part vf : Nat) (page : Option Nat) : State :=
  if (s.vf (vfKey part vf)).resetting then s else s.beginRemoval part vf page

def execTlbinvAddress (part vf : Nat) (page : BitVec 40) (s : State) : Host.Outcome State Fault Refusal :=
  if s.hasVf part vf then .next (s.tlbinv part vf (some (page.toNat * 65536))) else .refused (.notEnabled "TLBINV_ADDRESS")

def execTlbinvVf (part vf : Nat) (s : State) : Host.Outcome State Fault Refusal :=
  if s.hasVf part vf then .next (s.tlbinv part vf none) else .refused (.notEnabled "TLBINV_VF")

def execTlbinvComplete (part vf : Nat) (s : State) : Host.Outcome State Fault Refusal :=
  if (s.vf (vfKey part vf)).busy then .next (s.endRemoval part vf) else .refused (.notEnabled "TLBINV_COMPLETE")

/-! ### Partitions and firewalls (R392, R393, R396) -/

/-- A write of `PT_DIES`. -/
def execPartitionForm (part : Nat) (dies : BitVec 40) (s : State) : Host.Outcome State Fault Refusal :=
  if part < 40 then .next (s.formPartition part dies) else .refused (.notEnabled "PARTITION_FORM")

/-- A closed link end drops a transaction that is not of the edge class; a dropped request ends its grid. -/
def execFirewallDrop (die k : Nat) (request : Option Nat) (s : State) : Host.Outcome State Fault Refusal :=
  let f := (s.die die).fwOf k
  if !f.closed || !hasEnd die k then .refused (.notEnabled "FIREWALL_DROP")
  else
    let s1 := s.modDie die (fun d => { d with fw := putN d.fw k { f with violation := true } })
    match request with
    | some g => .next (s1.report (some g) ⟨.perm, 0⟩ 0 (16 * die))
    | none => .next s1

/-- The write of the highest word of a stage-two entry. -/
def execStageTwoEntryWrite (part vf index : Nat) (hi : DWord) (s : State) : Host.Outcome State Fault Refusal :=
  if part < 40 ∧ vf < 64 ∧ index < 48 then .next (s.monWrite (rangeOffset part vf index + 8) hi)
  else .refused (.notEnabled "STAGE_TWO_ENTRY_WRITE")

/-! ### The Chasko Link (R403, R404) -/

/-- The physical pieces of a range of IPAs of a VF, by 64 KiB granule. -/
def State.ipaPieces (s : State) (part vf : Nat) (write : Bool) : Nat → Nat → Nat → Option (List (Nat × Nat))
  | 0, _, n => if n = 0 then some [] else none
  | fuel + 1, ipa, n =>
    if n = 0 then some []
    else
      let m := min n (65536 - ipa % 65536)
      match ((s.vf (vfKey part vf)).ipaToPa ipa write).bind (fun pa => s.route part pa write) with
      | none => none
      | some pa => (s.ipaPieces part vf write fuel (ipa + m) (n - m)).map ((pa, m) :: ·)

/-- The edge die of a host tray (log 13). -/
def trayEdge (tray : Nat) : Nat := tray % 4

/-- The tray may name the VF: it is bound to it, and the VF exists. -/
def State.bindsTray (s : State) (tray part vf : Nat) : Bool :=
  s.hasVf part vf && ((lookupN s.trays tray).getD []).contains (vfKey part vf)

/-- The link of a tray is up, and the part takes tenant accesses (R404, R413). -/
def State.linkOpen (s : State) (tray : Nat) : Bool := s.up && (s.edge (trayEdge tray)).linkUp

/-- A link accepts a transaction of `n` bytes at an address. -/
def State.linkTakes (s : State) (tray ipa n : Nat) : Bool :=
  s.linkOpen tray && decide (ipa % 16 = 0 ∧ n % 16 = 0 ∧ 16 ≤ n ∧ n ≤ 4096)

/-- A request is aborted and logged (R403). -/
def State.abort (s : State) (tray : Nat) : State :=
  s.modEdge (trayEdge tray) (fun e => { e with aborts := e.aborts + 1, retries := 0 })

/-- A completion goes back to the host. -/
def State.completes (s : State) (tray tag status : Nat) (bs : List Byte) : State :=
  s.modEdge (trayEdge tray) (fun e => { e with completions := e.completions ++ [(tag, status, bs)], retries := 0 })

/-- The register window of a VF stands above its 52-bit IPAs (log 13). -/
abbrev windowIpa : Nat := 2 ^ 52

/-- A range of IPAs lies in the register window. -/
def inVfWindow (ipa n : Nat) : Bool := decide (windowIpa ≤ ipa ∧ ipa + n ≤ windowIpa + 2 ^ 20)

/-- 8 bytes are written at an 8-byte offset of a VF's register window: the register there, or the two of 4 bytes in the order of
their offsets (R194, R357, R400; DESIGN CHOICE, log 13). What is read-only stays (R4). -/
def State.vfWindowPut (s : State) (p f o : Nat) (w : DWord) : State :=
  let lo : Word := w.extractLsb' 0 32
  let hi : Word := w.extractLsb' 32 32
  if (s.vf (vfKey p f)).resetting then s
  else if o < 0x1000 then
    let q := o / 64
    match o % 64 with
    | 0x00 => s.writeReg (.lqBase p f q) w
    | 0x08 =>
      let s1 := s.writeReg (.lqSize p f q) (lo.setWidth 64)
      if hi.getLsbD 8 then s1.resetQueue p f q hi else s1.writeReg (.lqCtl p f q) (hi.setWidth 64)
    | 0x10 => s.doorbell p f q lo
    | 0x18 => s.cancelAt p f q hi
    | _ => s
  else if o = 0x1000 then (if w.getLsbD 0 then s.resetStep p f else s)
  else if o = 0x1008 then s.writeReg (.vfPtRoot p f) w
  else if o = 0x1010 then
    match fld w 0 2 with
    | 0 => s.tlbinv p f (some (fld w 16 40 * 65536))
    | 1 => s.tlbinv p f none
    | _ => s
  else if 0x10000 ≤ o ∧ o < 0x14000 then
    match o % 0x1000 with
    | 0x00 => s.writeReg (.txCtl p f (o / 0x1000 % 4)) (lo.setWidth 64)
    | 0x08 => s.writeReg (.txNote p f (o / 0x1000 % 4)) w
    | _ => s
  else s

/-- Bytes written to a VF's register window, 8 at a time. -/
def State.vfWindowWrite (s : State) (p f o : Nat) (bs : List Byte) : State :=
  (List.range (bs.length / 8)).foldl (fun s i =>
    s.vfWindowPut p f (o + 8 * i) (BitVec.ofNat 64 (leAt bs (8 * i) 8))) s

/-- What a transaction of the Chasko Link meets at the part: the VF's memory, its registers, an abort (R403), or a firewall that
drops it (R393). -/
inductive Reached where
  | memory (pieces : List (Nat × Nat))
  | registers
  | abort
  | dropped
deriving DecidableEq, Repr

def State.chaskoReach (s : State) (tray part vf ipa n : Nat) (write : Bool) : Reached :=
  if !s.bindsTray tray part vf then .abort
  else if inVfWindow ipa n then .registers
  else
    match s.ipaPieces part vf write (granules n) ipa n with
    | none => .abort
    | some ps => if ps.all (fun p => s.edgeReach (trayEdge tray) p.1) then .memory ps else .dropped

/-- The link carries a transaction on. -/
def State.carried (s : State) (tray : Nat) : State := s.modEdge (trayEdge tray) (fun e => { e with retries := 0 })

/-- A transaction of a tray that a firewall drops. -/
def State.chaskoDrop (s : State) (tray : Nat) : State := (s.edgeDrop (corners.getD (trayEdge tray) 0) (trayEdge tray)).carried tray

/-- The bytes of a write, each with its physical address. -/
def cellsOf (ps : List (Nat × Nat)) (bs : List Byte) : List (Nat × Byte) :=
  (ps.flatMap (fun p => (List.range p.2).map (p.1 + ·))).zip bs

/-- Of the bytes of a write over a link that are left, all land, and the write is done, or first one of them does (R214, log 2). -/
def State.landWrite (s : State) (what : Instr) (rest : List (Nat × Byte)) (done : State → State) : State :=
  let (i, s1) := s.pick (if rest.length ≤ 1 then 1 else rest.length + 1)
  let s2 : State := { s1 with landing := s1.landing.filter (fun l => l.what != what) }
  match i with
  | 0 => done (rest.foldl (fun s c => s.physWrite c.1 [c.2]) s2)
  | k + 1 =>
    let s3 := (rest[k]?.toList).foldl (fun s c => s.physWrite c.1 [c.2]) s2
    { s3 with landing := s3.landing ++ [{ what := what, rest := rest.eraseIdx k }] }

/-- A write over a link that has begun to land. -/
def State.begun (s : State) (what : Instr) : Option Landing := s.landing.find? (fun l => l.what == what)

/-- The bytes that earlier posted writes of a VF have still to land in the 16-byte units of a later one land first: a window's writes
to one unit land in issue order (R404; log 91). -/
def State.landEarlier (s : State) (part vf : Nat) (cells : List (Nat × Byte)) : State :=
  let shared (c : Nat × Byte) : Bool := cells.any (fun x => x.1 / 16 == c.1 / 16)
  let mine (l : Landing) : Bool := match l.what with
    | .chaskoPostedWrite _ p f _ _ => p == part && f == vf
    | _ => false
  let first := (s.landing.filter mine).flatMap (fun l => l.rest.filter shared)
  let s1 := first.foldl (fun s c => s.physWrite c.1 [c.2]) s
  { s1 with landing := s.landing.map (fun l => if mine l then { l with rest := l.rest.filter (fun c => !shared c) } else l) }

/-- A posted write of the host, to memory by the VF's stage two, where its bytes land in no order (R214), or to the VF's registers.
The same operation once more is that write going on (log 13). -/
def execChaskoPostedWrite (tray part vf ipa : Nat) (data : List Byte) (s : State) : Host.Outcome State Fault Refusal :=
  let what : Instr := .chaskoPostedWrite tray part vf ipa data
  match s.begun what with
  | some l => .next (s.landWrite what l.rest (fun s => s.carried tray))
  | none =>
  if !s.linkTakes tray ipa data.length then .refused (.notEnabled "CHASKO_POSTED_WRITE")
  else
    match s.chaskoReach tray part vf ipa data.length true with
    | .memory ps =>
      let cells := cellsOf ps data
      .next ((s.landEarlier part vf cells).landWrite what cells (fun s => s.carried tray))
    | .registers => .next ((s.vfWindowWrite part vf (ipa - windowIpa) data).carried tray)
    | .abort => .next (s.abort tray)
    | .dropped => .next (s.chaskoDrop tray)

/-- A read of the host, of memory or of the VF's register window. Poisoned bytes are not delivered (DESIGN CHOICE, log 13). -/
def execChaskoRead (tray part vf ipa n tag : Nat) (s : State) : Host.Outcome State Fault Refusal :=
  if !s.linkTakes tray ipa n then .refused (.notEnabled "CHASKO_READ")
  else
    match s.chaskoReach tray part vf ipa n false with
    | .memory ps =>
      if ps.any (fun p => s.poisoned p.1 p.2) then .next (s.completes tray tag 1 [])
      else .next ((s.noteSoft ps).completes tray tag 0 (ps.flatMap (fun p => s.phys.read p.1 p.2)))
    | .registers => .next (s.completes tray tag 0 ((List.range (n / 8)).flatMap (fun i =>
        leBytes 8 (s.vfWindow part vf (ipa - windowIpa + 8 * i)).toNat)))
    | .abort => .next ((s.abort tray).completes tray tag 1 [])
    | .dropped => .next (s.chaskoDrop tray)

/-- The types that an operation of R223 takes, and whether they are integers. -/
def atomTypeOk (op ty : Nat) : Bool :=
  match op with
  | 0 => [2, 3, 6, 7, 8, 9].contains ty
  | 1 => [2, 3, 6, 7, 8, 9].contains ty
  | 2 => [2, 3, 6, 7, 8, 9].contains ty
  | 3 => [2, 3, 6, 7].contains ty
  | 4 => [2, 3, 6, 7].contains ty
  | 5 => [2, 3, 6, 7].contains ty
  | 6 => [2, 3, 6, 7, 8, 9].contains ty
  | 7 => [6, 7].contains ty
  | 8 => [6, 7].contains ty
  | _ => false

/-- An atomic on `n` bytes at a physical address: the state, and the bytes returned. -/
def State.atomicAt (s : State) (pa n : Nat) (k : PendKind) : State × List Byte :=
  let (new, ret) := atomResult k (leNat (s.phys.read pa n))
  ((s.noteSoft [(pa, n)]).physWrite pa (leBytes n new), leBytes n ret)

/-- An atomic of the host: an integer operation of R223, at the home. -/
def execChaskoAtomic (tray part vf ipa : Nat) (op ty : BitVec 4) (b : DWord) (tag : Nat) (s : State) :
    Host.Outcome State Fault Refusal :=
  let n := tyWn ty.toNat / 8
  if !s.linkOpen tray || !atomTypeOk op.toNat ty.toNat || 8 ≤ ty.toNat || ipa % n ≠ 0 then
    .refused (.notEnabled "CHASKO_ATOMIC")
  else
    match s.chaskoReach tray part vf ipa n true with
    | .memory ((pa, _) :: _) =>
      if s.poisoned pa n then .next (s.completes tray tag 1 [])
      else
        let (s1, old) := s.atomicAt pa n (.atom (.lit 0) op.toNat ty.toNat b)
        .next (s1.completes tray tag 0 old)
    | .dropped => .next (s.chaskoDrop tray)
    | _ => .next ((s.abort tray).completes tray tag 1 [])

/-- A flit fails its check and is sent again, up to 8 times. -/
def execChaskoFlitRetry (edge : Nat) (s : State) : Host.Outcome State Fault Refusal :=
  if edge < 4 ∧ (s.edge edge).linkUp ∧ (s.edge edge).retries < 8 then
    .next (s.modEdge edge (fun e => { e with retries := e.retries + 1 }))
  else .refused (.notEnabled "CHASKO_FLIT_RETRY")

/-- A write is one that goes over a link. -/
def overLink (edge : Nat) (l : Landing) : Bool :=
  match l.what with
  | .chaskoPostedWrite tray _ _ _ _ => trayEdge tray == edge
  | _ => false

/-- After 8 retries the link goes down, and what is in flight on it is discarded, a write that has begun to land too. No access of a
grid goes over it (R396; log 13). -/
def execChaskoLinkDown (edge : Nat) (s : State) : Host.Outcome State Fault Refusal :=
  if edge < 4 ∧ (s.edge edge).linkUp ∧ 8 ≤ (s.edge edge).retries then
    let s1 : State := { s with landing := s.landing.filter (fun l => !overLink edge l) }
    .next (s1.modEdge edge (fun e => { e with linkUp := false, completions := [] }))
  else .refused (.notEnabled "CHASKO_LINK_DOWN")

/-! ### Peer modules (R406) -/

/-- The bytes of a peer's access, and whether it writes. A drain names its rows itself. -/
def peerSize : PeerKind → Nat
  | .read n => n
  | .write d => d.length
  | .atomic _ ty _ => tyWn ty.toNat / 8
  | .cas ty _ _ => tyWn ty.toNat / 8
  | .ticket _ _ => 8
  | .drain _ _ _ _ _ _ => 0

def peerWrites : PeerKind → Bool
  | .read _ => false
  | _ => true

/-- What an indivisible access of a peer does at its location (R223 to R225). -/
def peerAtom : PeerKind → Option PendKind
  | .atomic op ty b => some (.atom (.lit 0) op.toNat ty.toNat b)
  | .cas _ b c => some (.cas (.lit 0) b c)
  | .ticket n l => some (.ticket (.lit 0) n l)
  | _ => none

/-- The access is one that a form makes (R221, R223, R318). -/
def peerOk (offset : Nat) (k : PeerKind) : Bool :=
  match k with
  | .atomic op ty _ => atomTypeOk op.toNat ty.toNat && decide (offset % peerSize k = 0)
  | .cas ty _ _ => [2, 3, 6, 7].contains ty.toNat && decide (offset % peerSize k = 0)
  | .ticket _ _ => decide (offset % 8 = 0)
  | .drain acc ty _ _ rows ord =>
    (acc == 9 || acc == 2) && addType ty.toNat && decide (1 ≤ rows.length ∧ rows.length ≤ 64)
    && rows.all (fun r => decide (r.2.length = 128 ∧ r.1 % 16 = 0)) && (ord.map (fun o => decide (o.1 % 8 = 0))).getD true
  | _ => true

/-- The physical pieces of an admitted access, byte ranges by 64 KiB unit. -/
def State.peerPieces (s : State) (m part : Nat) (write : Bool) : Nat → Nat → Nat → Option (List (Nat × Nat))
  | 0, _, n => if n = 0 then some [] else none
  | fuel + 1, off, n =>
    if n = 0 then some []
    else
      let k := min n (65536 - off % 65536)
      match (s.admitted m part off write).bind (fun p => (s.vf (vfKey p.1 p.2)).ipaToPa off write) with
      | none => none
      | some pa => if isHbm pa || isCxl pa then (s.peerPieces m part write fuel (off + k) (n - k)).map ((pa, k) :: ·) else none

/-- The pieces of an access that is admitted and that some edge die's traffic reaches; none where it ends its grid with `PERM`. -/
def State.peerReach (s : State) (m part : Nat) (write : Bool) (off n : Nat) : Option (List (Nat × Nat)) :=
  match s.peerPieces m part write (granules n) off n with
  | some ps => if (List.range 4).any (fun e => ps.all (fun p => s.edgeReach e p.1)) then some ps else none
  | none => none

/-- Of the ranges of a peer's access, the first that a firewall drops leaves its mark (R393), at one of the edge dies (log 2). -/
def State.peerDrop (s : State) (m part : Nat) (write : Bool) (rs : List (Nat × Nat)) : State :=
  match rs.find? (fun r => (s.peerReach m part write r.1 r.2).isNone) with
  | some r =>
    if (s.peerPieces m part write (granules r.2) r.1 r.2).isSome then
      let (e, s1) := s.pick 4
      s1.edgeDrop (corners.getD e 0) e
    else s
  | none => s

/-- This module's answer to a peer: the bytes, or the trap that ends the issuer's grid. -/
def State.answerPeer (s : State) (m : Nat) (r : Except TrapCode (List Byte)) : State :=
  { s with peerReplies := s.peerReplies ++ [match r with
      | .ok bs => { module := m, admitted := true, data := bs }
      | .error c => { module := m, admitted := c != .perm, data := [], code := some c }] }

/-- One row of a peer's drain is added at its home (R319): the bytes that it becomes, and where they stand. -/
def State.peerRow (s : State) (m part : Nat) (acc ty round : Nat) (sat : Bool) (row : Nat × List Word) :
    Except TrapCode (List (Nat × Nat) × List Byte) :=
  let bits := elemBits ty
  match s.peerReach m part true row.1 (16 * bits) with
  | none => .error .perm
  | some ps =>
    if ps.any (fun p => s.poisoned p.1 p.2) then .error .eccUe
    else
      let bs := ps.flatMap (fun p => s.phys.read p.1 p.2)
      let old := if bits = 32 then unpackWords bs else unpackCodes bits bs
      .ok (ps, packCodes bits ((old.zip row.2).map (fun x => (drainElem acc ty round sat true x.1 x.2.toNat).1)))

/-- A peer's drain applies its whole tile, or nothing of it (R320). -/
def State.peerDrain (s : State) (m part : Nat) (acc ty round : Nat) (sat : Bool) (rows : List (Nat × List Word)) :
    Except TrapCode State :=
  rows.foldlM (fun s row => (s.peerRow m part acc ty round sat row).map (fun x => s.writePieces x.1 x.2)) s

/-- Another module's access to this one: checked against the admission table, performed at its home, answered (R406). The bytes of
a write land in no order (R214). An ordered drain waits until its order word reaches its number (R321). -/
def execPeerAccess (m part offset target : Nat) (k : PeerKind) (s : State) : Host.Outcome State Fault Refusal :=
  let what : Instr := .peerAccess m part offset target k
  match (match k with | .write _ => s.begun what | _ => none) with
  | some l => .next (s.landWrite what l.rest (fun s => s.answerPeer m (.ok [])))
  | none =>
  if !s.up || target ≠ s.mdId.toNat || 1024 ≤ m || m = target || !peerOk offset k then .refused (.notEnabled "PEER_ACCESS")
  else
    match k with
    | .drain acc ty round sat rows ord =>
      let apply_ (s1 : Except TrapCode State) : Host.Outcome State Fault Refusal := match s1 with
        | .ok s1 => .next (s1.answerPeer m (.ok []))
        | .error c => .next ((s.peerDrop m part true (rows.map (fun r => (r.1, 16 * elemBits ty.toNat)))).answerPeer m (.error c))
      let drained := s.peerDrain m part acc.toNat ty.toNat round.toNat sat rows
      match ord with
      | none => apply_ drained
      | some (at_, q) =>
        match s.peerReach m part true at_ 8 with
        | none => .next ((s.peerDrop m part true [(at_, 8)]).answerPeer m (.error .perm))
        | some ps =>
          let z := leNat (ps.flatMap (fun p => s.phys.read p.1 p.2))
          if ps.any (fun p => s.poisoned p.1 p.2) then .next (s.answerPeer m (.error .eccUe))
          else if z < q.toNat then .refused (.notEnabled "PEER_ACCESS")
          else if q.toNat < z then .next (s.answerPeer m (.error .mxFault))
          else apply_ (drained.map (fun s1 => s1.writePieces ps (leBytes 8 (q.toNat + 1))))
    | _ =>
      match s.peerReach m part (peerWrites k) offset (peerSize k) with
      | none => .next ((s.peerDrop m part (peerWrites k) [(offset, peerSize k)]).answerPeer m (.error .perm))
      | some ps =>
        match k, peerAtom k, ps with
        | .write d, _, _ => .next (s.landWrite what (cellsOf ps d) (fun s => s.answerPeer m (.ok [])))
        | _, some x, (pa, n) :: _ =>
          if s.poisoned pa n then .next (s.answerPeer m (.error .eccUe))
          else
            let (s1, ret) := s.atomicAt pa n x
            .next (s1.answerPeer m (.ok ret))
        | _, _, _ =>
          if ps.any (fun p => s.poisoned p.1 p.2) then .next (s.answerPeer m (.error .eccUe))
          else .next ((s.noteSoft ps).answerPeer m (.ok (ps.flatMap (fun p => s.phys.read p.1 p.2))))

/-! ### Errors, the monitor pairs, the serving kernel (R201, R407, R408) -/

/-- The correctable errors of the stacks are rewritten and counted. -/
def State.scrub (s : State) : State :=
  { s with soft := s.soft.filter (fun p => !isHbm p), corrected := s.corrected + (s.soft.filter isHbm).length }

/-- One of the saved teams, where there is one, no longer passes its integrity check (R389). -/
def State.spoilSkein (s : State) : State :=
  let all := s.grids.flatMap (fun g => g.2.skeins.map (fun k => (g.1, k.1)))
  let (i, s1) := s.pick all.length
  match all[i]? with
  | some (gid, team) => s1.modGrid gid (fun g => { g with skeins := g.skeins.map (fun k =>
      if k.1 = team then (k.1, { k.2 with intact := false }) else k) })
  | none => s

/-- An error arises in a store, or none does (R405, R407; DESIGN CHOICE, log 2): in a stack a byte that can be corrected or 32 bytes
that cannot, in a device a line, in a core 8 bytes of the A-store, C-store or W-store or a register, in a saved team, or an error of
a store or path that is corrected at once. -/
def State.strike (s : State) : State :=
  let (kind, s0) := s.pick 10
  if kind = 0 then s0
  else
    let (at_, s1) := s0.pick (2 ^ 52)
    let (core, s2) := s1.pick 640
    let unit (n size : Nat) : List Nat := (List.range n).map (at_ % size / n * n + ·)
    match kind with
    | 1 => if isHbm at_ && !s2.soft.contains at_ then { s2 with soft := at_ :: s2.soft } else s2
    | 2 => if isHbm at_ then { s2 with poison := unit 32 (2 ^ 52) ++ s2.poison } else s2
    | 3 => if isCxl at_ then { s2 with poison := unit 64 (2 ^ 52) ++ s2.poison } else s2
    | 4 => s2.modCore core (fun k => { k with badA := unit 8 Config.astoreBytes ++ k.badA })
    | 5 => s2.modCore core (fun k => { k with badC := unit 8 Config.cstoreBytes ++ k.badC })
    | 6 => s2.modCore core (fun k => { k with badW := unit 8 Config.wstoreBytes ++ k.badW })
    | 7 => s2.modCore core (fun k => k.modThread (at_ / 512 % 4096) (fun t => { t with bad := at_ % 512 :: t.bad }))
    | 8 => s2.spoilSkein
    | _ => { s2 with corrected := s2.corrected + 1 }

/-- Refresh and scrub; what has failed since the last one shows (R201, R407). -/
def execRefreshScrub (s : State) : Host.Outcome State Fault Refusal := .next s.scrub.strike

/-- The running grids with a team on a die. -/
def State.gridsOnDie (s : State) (die : Nat) : List Nat :=
  (s.grids.filter (fun g => g.2.placed.any (fun p => p.2.core / 16 == die))).map (·.1)

/-- A monitor pair mismatches: its die's cores are held and the grids there end. -/
def execMonitorLockstepMismatch (die : Nat) (s : State) : Host.Outcome State Fault Refusal :=
  if 40 ≤ die then .refused (.notEnabled "MONITOR_LOCKSTEP_MISMATCH")
  else .next ((s.gridsOnDie die).foldl (fun s g => s.report (some g) ⟨.eccUe, 0⟩ 0 (16 * die))
    (s.modDie die (fun d => { d with held := true })))

/-- The monitor thread of a die as it starts (log 9); its first PC stands for what produced it (DESIGN CHOICE, log 73). -/
def State.monThread (s : State) : Thread := { ctx := { pc := s.monEntry, srcPc := s.monEntry }, level := .m }

/-- One of the monitor pairs that mismatched has reloaded. -/
def execMonitorReload (s : State) : Host.Outcome State Fault Refusal :=
  let held := (s.dies.filter (fun d => d.2.held)).map (·.1)
  if held.isEmpty then .refused (.notEnabled "MONITOR_RELOAD")
  else
    let (i, s1) := s.pick held.length
    let die := held.getD i 0
    .next ((s1.modDie die (fun d => { d with held := false })).modCore (640 + die) (fun k => { k with threads := [(0, s1.monThread)] }))

/-- A range of a VF's memory holds a poisoned byte. -/
def State.hurt (s : State) (part vf : Nat) : Nat → Nat → Nat → Bool
  | 0, _, _ => false
  | fuel + 1, va, n =>
    if n = 0 then false
    else
      match s.walk none part vf va with
      | some t =>
        let m := min n (t.va + t.size - va)
        s.poisoned (t.pa + (va - t.va)) m || s.hurt part vf fuel (va + m) (n - m)
      | none => false

/-- The serving kernel of a partition: the latest grid of the record and VF that its registers name, where it runs, or where an
uncorrectable error that it consumed has ended it already (R407, R408). -/
def State.servingGrid (s : State) (part : Nat) : Option (Nat × Grid) :=
  let p := s.part part
  if p.serveVf.getLsbD 7 then
    let mine := s.grids.filter (fun g => g.2.part == part && g.2.vf == p.serveVf.toNat % 64 && g.2.record == p.serve.toNat)
    (mine.find? (fun g => mine.all (fun x => decide (x.1 ≤ g.1)))).filter (fun g =>
      g.2.state == .running || g.2.endCode == some .eccUe)
  else none

/-- The memory of a grid's launch holds an uncorrectable error. -/
def State.memoryHurt (s : State) (g : Grid) : Bool :=
  !(s.poison.isEmpty && s.soft.isEmpty) && g.launch.allLeases.any (fun l => s.hurt g.part g.vf (granules l.size) l.base l.size)

/-- A serving kernel is launched again from its record, into the same ring entry (DEDUCED, log 43). -/
def State.relaunch (s : State) (part : Nat) (g : Grid) : State :=
  match s.vfRead part g.vf g.record 1024 with
  | none => s
  | some b =>
    let l := Launch.ofBytes b
    match s.refusal part g.vf g.record, s.bound part g.vf l with
    | none, some bd =>
      let n : Grid := { part := part, vf := g.vf, queue := g.queue, index := g.index, entry := g.entry, record := g.record,
                        launch := l, accepted := s.nextAccept, ceiling := g.ceiling, lease := s.nextLease,
                        fmts := bd.fmts, rules := bd.rules, vols := bd.vols, recs := bd.recs, started := s.clock }
      let s1 : State := { s with grids := putN s.grids s.nextGrid n, nextGrid := s.nextGrid + 1,
                                 nextLease := s.nextLease + 1, nextAccept := s.nextAccept + 1 }
      (s1.enterState s.nextGrid .running 0).modPart part (fun p => { p with serving := some s.nextGrid })
    | _, _ => s

/-- An uncorrectable error in a serving kernel's memory: its partition's queues freeze, its grid ends where it has not ended by that
error already, and it is launched again. -/
def State.restartServing (s : State) (part i : Nat) (g : Grid) : State :=
  let s1 := s.modPart part (fun p => { p with frozen := true })
  let s2 := if g.state = .running then
      s1.endByTrap i g { grid := i, code := .eccUe, pc := 0, core := 0, va := 0, since := s.clock }
    else s1
  s2.relaunch part g

def execServingKernelRestart (s : State) : Host.Outcome State Fault Refusal :=
  let hit := s.parts.filterMap (fun p => ((s.servingGrid p.1).filter (fun g => s.memoryHurt g.2)).map (p.1, ·))
  if hit.isEmpty then .refused (.notEnabled "SERVING_KERNEL_RESTART")
  else .next (hit.foldl (fun s h => s.restartServing h.1 h.2.1 h.2.2) s)

/-- A lead of a grid has issued a `DQPUSH`. -/
def State.gridPushed (s : State) (gid : Nat) : Bool :=
  s.cores.any (fun k => k.2.wgs.any (fun w => w.2.grid == gid && decide (0 < w.2.pushes)))
  || ((s.grid gid).map (fun g => g.skeins.any (fun k => k.2.wgs.any (fun w => decide (0 < w.pushes))))).getD false

/-- A frozen partition whose new serving kernel's lead has pushed. -/
def State.mayUnfreeze (s : State) (p : Part) : Bool :=
  p.frozen && (match p.serving with
    | some g => s.gridPushed g
    | none => false)

/-- The new serving kernel's lead has pushed: the queues unfreeze, and the doorbells held meanwhile take effect. -/
def execQueueUnfreeze (s : State) : Host.Outcome State Fault Refusal :=
  let ps := s.parts.filter (fun p => s.mayUnfreeze p.2)
  if ps.isEmpty then .refused (.notEnabled "QUEUE_UNFREEZE")
  else .next (ps.foldl (fun s p => p.2.held.foldl (fun s h => s.ring p.1 h.1 h.2.1 h.2.2)
    (s.modPart p.1 (fun q => { q with frozen := false, held := [], serving := none }))) s)

/-! ### The module's operating system (R409) -/

/-- The datagrams of the crash image: numbered, at most 4,096 bytes each, 256 MiB in all, to the collector. -/
def State.crashDatagrams (s : State) : List Datagram :=
  (List.range (min Config.crashCount 65536)).map (fun i =>
    { number := i, addr := s.mdCollect, port := s.mdCport, bytes := (Config.crashImage i).take 4096 })

/-- The operating system panics: every core stops, every resident team is saved, and the crash image goes out. -/
def execOsPanic (s : State) : Host.Outcome State Fault Refusal :=
  if s.panicked then .refused (.notEnabled "OS_PANIC")
  else
    let s1 := s.saveAll (fun _ _ => true)
    .next { s1 with panicked := true, crash := s.crashDatagrams }

/-- The operating system restarts and takes over what it finds; a grid whose skein fails its check ends. -/
def execOsRestart (s : State) : Host.Outcome State Fault Refusal :=
  if !s.panicked then .refused (.notEnabled "OS_RESTART")
  else
    let bad := (s.grids.filter (fun g => g.2.skeins.any (fun k => !k.2.intact))).map (·.1)
    .next (bad.foldl (fun s g => s.report (some g) ⟨.eccUe, 0⟩ 0 0) { s with panicked := false })

/-! ### Power and bring-up (R412, R413) -/

/-- Every die lowers its clock by a sixteenth, down to half rate (DEDUCED, log 44). -/
def execThermalThrottle (s : State) : Host.Outcome State Fault Refusal :=
  .next { s with throttle := min 8 (s.throttle + 1) }

/-- The supervisor octet of a core as it starts (R391); a first PC stands for what produced it (DESIGN CHOICE, log 73). -/
def State.supThreads (s : State) : NMap Thread :=
  (List.range 8).map (fun k => (Config.supSlot + k, { ctx := { pc := s.supEntry, srcPc := s.supEntry }, level := .s, tid := k }))

/-- Some bits of the 16 bytes at an offset are replaced. -/
def patch (bs : List Byte) (at_ bit n v : Nat) : List Byte :=
  let w := leNat ((bs.drop at_).take 16)
  let old := w / 2 ^ bit % 2 ^ n
  bs.take at_ ++ leBytes (min 16 (bs.length - at_)) (w - old * 2 ^ bit + v % 2 ^ n * 2 ^ bit) ++ bs.drop (at_ + 16)

/-- A section with one relocation applied (R47, R48). The line offset of a branch counts from the line that holds it (R168). The parity
bits of the slot and of its line stand as the image holds them (DESIGN CHOICE, log 74). -/
def SupSection.relocate (x : SupSection) (r : SupReloc) : SupSection :=
  { x with bytes := match r.kind with
      | 0 => patch x.bytes r.at_ r.bit r.n r.value
      | 1 => patch x.bytes r.at_ r.bit r.n (r.value % 2 ^ 32)
      | 2 => patch x.bytes r.at_ r.bit r.n (r.value / 2 ^ 32)
      | 3 => patch x.bytes r.at_ r.bit r.n (r.value / 64 * 64)
      | 4 => patch x.bytes r.at_ r.bit r.n (r.value % 8)
      | _ =>
        let lines : Int := ((r.value / 64 : Nat) : Int) - ((x.va + r.at_) / 64 : Nat)
        patch (patch x.bytes r.at_ 0 28 (BitVec.ofInt 28 lines).toNat) r.at_ 31 3 (r.value % 8) }

/-- The sections of an image with its relocations applied. -/
def SupImage.loaded (m : SupImage) : List SupSection :=
  m.sections.zipIdx.map (fun x => (m.relocs.filter (fun r => r.section_ == x.2)).foldl SupSection.relocate x.1)

/-- The monitor loads the supervisor image (R391): its sections stand in memory and in the operating system's tables. -/
def State.loadSup (s : State) : State :=
  let ss := s.supImage.loaded
  let s1 := ss.foldl (fun (s : State) x => s.physWrite x.pa x.bytes) s
  let text := ((ss.find? (·.text)).map (fun x => (x.va, x.bytes.length))).getD (0, 0)
  { s1 with osPages := ss.map (fun x => (x.va, x.bytes.length, x.pa, x.writable)) ++ s1.osPages,
            supEntry := s.supImage.entry, supText := text }

/-- One step of bring-up. -/
def execBringUp (s : State) : Host.Outcome State Fault Refusal :=
  let s1 : State := { s with stage := s.stage + 1 }
  match s.stage with
  | 3 => .next { s1 with phys := [] }
  | 5 => .next ((List.range 40).foldl (fun s d => s.modCore (640 + d) (fun k => { k with threads := [(0, s.monThread)] })) s1)
  | 6 =>
    let s2 := s1.loadSup
    .next { s2 with cores := (List.range 640).map (fun c => (c, { s2.core c with threads := s2.supThreads }))
                          ++ s2.cores.filter (fun k => decide (640 ≤ k.1)) }
  | n => if n < 8 then .next s1 else .refused (.notEnabled "BRING_UP")

/-! ### The roots of trust (R410) -/

/-- A root of trust answers, where its port is not 0. -/
def State.attest (s : State) (edge : Nat) (f : Spdm → Spdm) : Host.Outcome State Fault Refusal :=
  if (s.edge edge).spdmPort = 0 then .next s else .next (s.modEdge edge (fun e => { e with spdm := f e.spdm }))

def Spdm.say (p : Spdm) (a : SpdmAnswer) : Spdm := { p with sent := p.sent ++ [a] }

def execGetVersion (edge : Nat) (s : State) : Host.Outcome State Fault Refusal := s.attest edge (·.say .version)
def execGetCapabilities (edge : Nat) (s : State) : Host.Outcome State Fault Refusal := s.attest edge (·.say .capabilities)

/-- A negotiation without ML-DSA-65, ML-KEM-768 and SHAKE256 is refused. -/
def execNegotiateAlgorithms (edge : Nat) (o : AlgOffer) (s : State) : Host.Outcome State Fault Refusal :=
  s.attest edge (fun p =>
    if o.mlDsa65 && o.mlKem768 && o.shake256 then { p with algorithms := true }.say .algorithms else p.say .refused)

def execGetDigests (edge : Nat) (s : State) : Host.Outcome State Fault Refusal :=
  s.attest edge (fun p => p.say (.digests (Config.spdmBytes 0 p.sent.length)))
def execGetCertificate (edge : Nat) (s : State) : Host.Outcome State Fault Refusal :=
  s.attest edge (fun p => p.say (.certificate (Config.spdmBytes 1 p.sent.length)))
def execChallenge (edge : Nat) (nonce : BitVec 256) (s : State) : Host.Outcome State Fault Refusal :=
  s.attest edge (fun p => p.say (.challengeAuth nonce (Config.spdmBytes 2 p.sent.length)))

/-- A supervisor image as bytes: its entry, its sections and its relocations (R391). -/
def SupImage.measure (m : SupImage) : List Byte :=
  leBytes 8 m.entry.toNat
    ++ m.sections.flatMap (fun x => leBytes 8 x.va ++ leBytes 1 (x.writable.toNat + 2 * x.text.toNat) ++ leBytes 8 x.bytes.length ++ x.bytes)
    ++ m.relocs.flatMap (fun r => leBytes 1 r.kind ++ leBytes 8 r.section_ ++ leBytes 8 r.at_ ++ leBytes 1 r.bit ++ leBytes 1 r.n
      ++ leBytes 8 r.value)

/-- What measurement 5 measures, the supervisor image, and measurement 6, the attesting VF's `VF_CTL` and stage-two entries. The
contents of the others are no state of the machine (log 14). -/
def State.measured (s : State) (k part vf : Nat) : List Byte :=
  if k = 6 then
    let v := s.vf (vfKey part vf)
    leBytes 4 (v.confidential.toNat * 4 + v.resetting.toNat * 2)
      ++ (List.range 48).flatMap (fun i => leBytes 16 ((lookupN v.ranges i).getD 0).toNat)
  else if k = 5 then s.supImage.measure
  else []

def execGetMeasurements (edge k part vf : Nat) (s : State) : Host.Outcome State Fault Refusal :=
  if 1 ≤ k ∧ k ≤ 6 then s.attest edge (fun p => p.say (.measurement k (Config.measurement k (s.measured k part vf))))
  else .refused (.notEnabled "GET_MEASUREMENTS")

/-- A key exchange other than ML-KEM-768 is refused. -/
def execKeyExchange (edge : Nat) (kem : Kem) (s : State) : Host.Outcome State Fault Refusal :=
  s.attest edge (fun p =>
    match kem with
    | .mlKem768 => { p with keyed := true }.say (.keyExchange (Config.spdmBytes 3 p.sent.length))
    | .other => p.say .refused)

def execFinish (edge : Nat) (s : State) : Host.Outcome State Fault Refusal :=
  s.attest edge (fun p => { p with session := p.keyed }.say .finish)
def execEndSession (edge : Nat) (s : State) : Host.Outcome State Fault Refusal :=
  s.attest edge (fun p => { p with session := false, keyed := false }.say .endSession)

end Sys2Proof.Machine
end

