-- ==== Sys2Proof/Machine/Dispatch.lean ====
section
/-!
DEFINITION. What every instruction and every operation does: one arm for each constructor of `Instr`, a call of its meaning.
-/

namespace Sys2Proof.Machine

def exec (i : Instr) (s : State) : Host.Outcome State Fault Refusal :=
  match i with
  | .iadd f => Sys2Proof.Machine.execIadd f s
  | .iaddImm f => Sys2Proof.Machine.execIaddImm f s
  | .isub f => Sys2Proof.Machine.execIsub f s
  | .imul f => Sys2Proof.Machine.execImul f s
  | .imulImm f => Sys2Proof.Machine.execImulImm f s
  | .imulh f => Sys2Proof.Machine.execImulh f s
  | .imad f => Sys2Proof.Machine.execImad f s
  | .imadw f => Sys2Proof.Machine.execImadw f s
  | .idiv f => Sys2Proof.Machine.execIdiv f s
  | .irem f => Sys2Proof.Machine.execIrem f s
  | .iabs f => Sys2Proof.Machine.execIabs f s
  | .ineg f => Sys2Proof.Machine.execIneg f s
  | .imin f => Sys2Proof.Machine.execImin f s
  | .iminImm f => Sys2Proof.Machine.execIminImm f s
  | .imax f => Sys2Proof.Machine.execImax f s
  | .imaxImm f => Sys2Proof.Machine.execImaxImm f s
  | .and f => Sys2Proof.Machine.execAnd f s
  | .andImm f => Sys2Proof.Machine.execAndImm f s
  | .or f => Sys2Proof.Machine.execOr f s
  | .orImm f => Sys2Proof.Machine.execOrImm f s
  | .xor f => Sys2Proof.Machine.execXor f s
  | .xorImm f => Sys2Proof.Machine.execXorImm f s
  | .andn f => Sys2Proof.Machine.execAndn f s
  | .andnImm f => Sys2Proof.Machine.execAndnImm f s
  | .shl f => Sys2Proof.Machine.execShl f s
  | .shlImm f => Sys2Proof.Machine.execShlImm f s
  | .shr f => Sys2Proof.Machine.execShr f s
  | .shrImm f => Sys2Proof.Machine.execShrImm f s
  | .sra f => Sys2Proof.Machine.execSra f s
  | .sraImm f => Sys2Proof.Machine.execSraImm f s
  | .rot f => Sys2Proof.Machine.execRot f s
  | .rotImm f => Sys2Proof.Machine.execRotImm f s
  | .bfx f => Sys2Proof.Machine.execBfx f s
  | .bfi f => Sys2Proof.Machine.execBfi f s
  | .popc f => Sys2Proof.Machine.execPopc f s
  | .clz f => Sys2Proof.Machine.execClz f s
  | .brev f => Sys2Proof.Machine.execBrev f s
  | .isetp f => Sys2Proof.Machine.execIsetp f s
  | .sel f => Sys2Proof.Machine.execSel f s
  | .plog f => Sys2Proof.Machine.execPlog f s
  | .mov f => Sys2Proof.Machine.execMov f s
  | .movi f => Sys2Proof.Machine.execMovi f s
  | .movh f => Sys2Proof.Machine.execMovh f s
  | .lea f => Sys2Proof.Machine.execLea f s
  | .leaImm f => Sys2Proof.Machine.execLeaImm f s
  | .nop f => Sys2Proof.Machine.execNop f s
  | .sread f => Sys2Proof.Machine.execSread f s
  | .ld f => Sys2Proof.Machine.execLd f s
  | .st f => Sys2Proof.Machine.execSt f s
  | .lda f => Sys2Proof.Machine.execLda f s
  | .sta f => Sys2Proof.Machine.execSta f s
  | .ldcs f => Sys2Proof.Machine.execLdcs f s
  | .stcs f => Sys2Proof.Machine.execStcs f s
  | .ldx f => Sys2Proof.Machine.execLdx f s
  | .stx f => Sys2Proof.Machine.execStx f s
  | .ldga f => Sys2Proof.Machine.execLdga f s
  | .prefL1 f => Sys2Proof.Machine.execPrefL1 f s
  | .prefL2 f => Sys2Proof.Machine.execPrefL2 f s
  | .cctlIc f => Sys2Proof.Machine.execCctlIc f s
  | .cctlDl f => Sys2Proof.Machine.execCctlDl f s
  | .cctlDa f => Sys2Proof.Machine.execCctlDa f s
  | .fadd f => Sys2Proof.Machine.execFadd f s
  | .faddImm f => Sys2Proof.Machine.execFaddImm f s
  | .fsub f => Sys2Proof.Machine.execFsub f s
  | .fmul f => Sys2Proof.Machine.execFmul f s
  | .fmulImm f => Sys2Proof.Machine.execFmulImm f s
  | .ffma f => Sys2Proof.Machine.execFfma f s
  | .ffmaImm f => Sys2Proof.Machine.execFfmaImm f s
  | .fmin f => Sys2Proof.Machine.execFmin f s
  | .fmax f => Sys2Proof.Machine.execFmax f s
  | .fsetp f => Sys2Proof.Machine.execFsetp f s
  | .fclass f => Sys2Proof.Machine.execFclass f s
  | .fdiv f => Sys2Proof.Machine.execFdiv f s
  | .fsqrt f => Sys2Proof.Machine.execFsqrt f s
  | .rcps f => Sys2Proof.Machine.execRcps f s
  | .rsqs f => Sys2Proof.Machine.execRsqs f s
  | .fexp2 f => Sys2Proof.Machine.execFexp2 f s
  | .flog2 f => Sys2Proof.Machine.execFlog2 f s
  | .frnd f => Sys2Proof.Machine.execFrnd f s
  | .fscale f => Sys2Proof.Machine.execFscale f s
  | .fexpo f => Sys2Proof.Machine.execFexpo f s
  | .f2i f => Sys2Proof.Machine.execF2i f s
  | .i2f f => Sys2Proof.Machine.execI2f f s
  | .fcvt f => Sys2Proof.Machine.execFcvt f s
  | .bra f => Sys2Proof.Machine.execBra f s
  | .call f => Sys2Proof.Machine.execCall f s
  | .brx f => Sys2Proof.Machine.execBrx f s
  | .callx f => Sys2Proof.Machine.execCallx f s
  | .ret f => Sys2Proof.Machine.execRet f s
  | .exit f => Sys2Proof.Machine.execExit f s
  | .vote f => Sys2Proof.Machine.execVote f s
  | .shfl f => Sys2Proof.Machine.execShfl f s
  | .matchv f => Sys2Proof.Machine.execMatchv f s
  | .gred f => Sys2Proof.Machine.execGred f s
  | .scan f => Sys2Proof.Machine.execScan f s
  | .segred f => Sys2Proof.Machine.execSegred f s
  | .rebal f => Sys2Proof.Machine.execRebal f s
  | .lds f => Sys2Proof.Machine.execLds f s
  | .dqpush f => Sys2Proof.Machine.execDqpush f s
  | .dqpop f => Sys2Proof.Machine.execDqpop f s
  | .lnch f => Sys2Proof.Machine.execLnch f s
  | .fwork f => Sys2Proof.Machine.execFwork f s
  | .wgdone f => Sys2Proof.Machine.execWgdone f s
  | .atom f => Sys2Proof.Machine.execAtom f s
  | .cas f => Sys2Proof.Machine.execCas f s
  | .atoma f => Sys2Proof.Machine.execAtoma f s
  | .ticket f => Sys2Proof.Machine.execTicket f s
  | .fence f => Sys2Proof.Machine.execFence f s
  | .binit f => Sys2Proof.Machine.execBinit f s
  | .barv f => Sys2Proof.Machine.execBarv f s
  | .bexp f => Sys2Proof.Machine.execBexp f s
  | .bwait f => Sys2Proof.Machine.execBwait f s
  | .btest f => Sys2Proof.Machine.execBtest f s
  | .bexit f => Sys2Proof.Machine.execBexit f s
  | .binval f => Sys2Proof.Machine.execBinval f s
  | .cmake f => Sys2Proof.Machine.execCmake f s
  | .cjoin f => Sys2Proof.Machine.execCjoin f s
  | .cleave f => Sys2Proof.Machine.execCleave f s
  | .cfree f => Sys2Proof.Machine.execCfree f s
  | .cquery f => Sys2Proof.Machine.execCquery f s
  | .cbar f => Sys2Proof.Machine.execCbar f s
  | .cvote f => Sys2Proof.Machine.execCvote f s
  | .cred f => Sys2Proof.Machine.execCred f s
  | .vld f => Sys2Proof.Machine.execVld f s
  | .vst f => Sys2Proof.Machine.execVst f s
  | .vred f => Sys2Proof.Machine.execVred f s
  | .vprobe f => Sys2Proof.Machine.execVprobe f s
  | .vtouch f => Sys2Proof.Machine.execVtouch f s
  | .vfree f => Sys2Proof.Machine.execVfree f s
  | .vfreeAll f => Sys2Proof.Machine.execVfreeAll f s
  | .vpool f => Sys2Proof.Machine.execVpool f s
  | .vinv f => Sys2Proof.Machine.execVinv f s
  | .cpy f => Sys2Proof.Machine.execCpy f s
  | .cpym f => Sys2Proof.Machine.execCpym f s
  | .cpys f => Sys2Proof.Machine.execCpys f s
  | .cpyr f => Sys2Proof.Machine.execCpyr f s
  | .owait f => Sys2Proof.Machine.execOwait f s
  | .ofence f => Sys2Proof.Machine.execOfence f s
  | .mset f => Sys2Proof.Machine.execMset f s
  | .mzero f => Sys2Proof.Machine.execMzero f s
  | .mma f => Sys2Proof.Machine.execMma f s
  | .mmas f => Sys2Proof.Machine.execMmas f s
  | .mdrain f => Sys2Proof.Machine.execMdrain f s
  | .mdrainAdd f => Sys2Proof.Machine.execMdrainAdd f s
  | .mdrainAddOrd f => Sys2Proof.Machine.execMdrainAddOrd f s
  | .mchk f => Sys2Proof.Machine.execMchk f s
  | .qdual f => Sys2Proof.Machine.execQdual f s
  | .qscan f => Sys2Proof.Machine.execQscan f s
  | .cast f => Sys2Proof.Machine.execCast f s
  | .slotldRd f => Sys2Proof.Machine.execSlotldRd f s
  | .slotldMark f => Sys2Proof.Machine.execSlotldMark f s
  | .slotldHdr f => Sys2Proof.Machine.execSlotldHdr f s
  | .frontOpen f => Sys2Proof.Machine.execFrontOpen f s
  | .frontPass f => Sys2Proof.Machine.execFrontPass f s
  | .smerge f => Sys2Proof.Machine.execSmerge f s
  | .rngk f => Sys2Proof.Machine.execRngk f s
  | .txtake f => Sys2Proof.Machine.execTxtake f s
  | .txemit f => Sys2Proof.Machine.execTxemit f s
  | .txclose f => Sys2Proof.Machine.execTxclose f s
  | .txstat f => Sys2Proof.Machine.execTxstat f s
  | .vocload f => Sys2Proof.Machine.execVocload f s
  | .trap f => Sys2Proof.Machine.execTrap f s
  | .sretResume f => Sys2Proof.Machine.execSretResume f s
  | .sretReissue f => Sys2Proof.Machine.execSretReissue f s
  | .sretReissueNomatch f => Sys2Proof.Machine.execSretReissueNomatch f s
  | .sretEndGrid f => Sys2Proof.Machine.execSretEndGrid f s
  | .yield f => Sys2Proof.Machine.execYield f s
  | .brk f => Sys2Proof.Machine.execBrk f s
  | .crd f => Sys2Proof.Machine.execCrd f s
  | .cwr f => Sys2Proof.Machine.execCwr f s
  | .perf f => Sys2Proof.Machine.execPerf f s
  | .sclear f => Sys2Proof.Machine.execSclear f s
  | .lineFetchCheck core line => Sys2Proof.Machine.execLineFetchCheck core line s
  | .lineRefetch core line => Sys2Proof.Machine.execLineRefetch core line s
  | .issueBundle core => Sys2Proof.Machine.execIssueBundle core s
  | .leadIssue core => Sys2Proof.Machine.execLeadIssue core s
  | .threadAged core slot => Sys2Proof.Machine.execThreadAged core slot s
  | .loadReturn core op => Sys2Proof.Machine.execLoadReturn core op s
  | .storePerformed core op => Sys2Proof.Machine.execStorePerformed core op s
  | .atomicAtHome core op => Sys2Proof.Machine.execAtomicAtHome core op s
  | .tlbMissWalk core walkAhead va => Sys2Proof.Machine.execTlbMissWalk core walkAhead va s
  | .ldgaLanding core op => Sys2Proof.Machine.execLdgaLanding core op s
  | .waitPhaseTimeout a => Sys2Proof.Machine.execWaitPhaseTimeout a s
  | .collectiveWatchdogTimeout a => Sys2Proof.Machine.execCollectiveWatchdogTimeout a s
  | .barrierWaitWatchdog a => Sys2Proof.Machine.execBarrierWaitWatchdog a s
  | .copyCommandAccept core cmd => Sys2Proof.Machine.execCopyCommandAccept core cmd s
  | .copyChunkLand core cmd chunk => Sys2Proof.Machine.execCopyChunkLand core cmd chunk s
  | .copyCommandComplete core cmd => Sys2Proof.Machine.execCopyCommandComplete core cmd s
  | .matrixOpStart core op mismatches => Sys2Proof.Machine.execMatrixOpStart core op mismatches s
  | .matrixOpComplete core op => Sys2Proof.Machine.execMatrixOpComplete core op s
  | .setWatchdogTimeout core wg cv => Sys2Proof.Machine.execSetWatchdogTimeout core wg cv s
  | .orderedDrainApply core op => Sys2Proof.Machine.execOrderedDrainApply core op s
  | .orderedDrainTimeout core op => Sys2Proof.Machine.execOrderedDrainTimeout core op s
  | .doorbell part vf queue x => Sys2Proof.Machine.execDoorbell part vf queue x s
  | .lqReset part vf queue v => Sys2Proof.Machine.execLqReset part vf queue v s
  | .lqCancel part vf queue index => Sys2Proof.Machine.execLqCancel part vf queue index s
  | .registerWrite r v => Sys2Proof.Machine.execRegisterWrite r v s
  | .launchValidate part vf queue => Sys2Proof.Machine.execLaunchValidate part vf queue s
  | .launchStart grid => Sys2Proof.Machine.execLaunchStart grid s
  | .teamPlace grid team core => Sys2Proof.Machine.execTeamPlace grid team core s
  | .seasonEnd grid team => Sys2Proof.Machine.execSeasonEnd grid team s
  | .preempt grid team => Sys2Proof.Machine.execPreempt grid team s
  | .reconvergenceTimeout grid team => Sys2Proof.Machine.execReconvergenceTimeout grid team s
  | .copySuspend grid team => Sys2Proof.Machine.execCopySuspend grid team s
  | .teamSave grid team => Sys2Proof.Machine.execTeamSave grid team s
  | .teamRestore grid team core => Sys2Proof.Machine.execTeamRestore grid team core s
  | .wstoreRegionSave core region => Sys2Proof.Machine.execWstoreRegionSave core region s
  | .coopWait grid => Sys2Proof.Machine.execCoopWait grid s
  | .coopResume grid => Sys2Proof.Machine.execCoopResume grid s
  | .fworkServe grid => Sys2Proof.Machine.execFworkServe grid s
  | .gridEndTrap report => Sys2Proof.Machine.execGridEndTrap report s
  | .gridComplete grid => Sys2Proof.Machine.execGridComplete grid s
  | .resumableTrapPost a => Sys2Proof.Machine.execResumableTrapPost a s
  | .supervisorTrap a => Sys2Proof.Machine.execSupervisorTrap a s
  | .uetPacket edge p => Sys2Proof.Machine.execUetPacket edge p s
  | .requestFrame edge => Sys2Proof.Machine.execRequestFrame edge s
  | .cancelFrame edge => Sys2Proof.Machine.execCancelFrame edge s
  | .tokenise edge => Sys2Proof.Machine.execTokenise edge s
  | .replyDataFrame edge stream => Sys2Proof.Machine.execReplyDataFrame edge stream s
  | .vfReset part vf => Sys2Proof.Machine.execVfReset part vf s
  | .tlbinvAddress part vf page => Sys2Proof.Machine.execTlbinvAddress part vf page s
  | .tlbinvVf part vf => Sys2Proof.Machine.execTlbinvVf part vf s
  | .tlbinvComplete part vf => Sys2Proof.Machine.execTlbinvComplete part vf s
  | .partitionForm part dies => Sys2Proof.Machine.execPartitionForm part dies s
  | .firewallDrop die k request => Sys2Proof.Machine.execFirewallDrop die k request s
  | .chaskoPostedWrite tray part vf ipa data => Sys2Proof.Machine.execChaskoPostedWrite tray part vf ipa data s
  | .chaskoRead tray part vf ipa n tag => Sys2Proof.Machine.execChaskoRead tray part vf ipa n tag s
  | .chaskoAtomic tray part vf ipa op ty b tag => Sys2Proof.Machine.execChaskoAtomic tray part vf ipa op ty b tag s
  | .chaskoFlitRetry edge => Sys2Proof.Machine.execChaskoFlitRetry edge s
  | .chaskoLinkDown edge => Sys2Proof.Machine.execChaskoLinkDown edge s
  | .peerAccess m part offset target k => Sys2Proof.Machine.execPeerAccess m part offset target k s
  | .refreshScrub => Sys2Proof.Machine.execRefreshScrub s
  | .monitorLockstepMismatch die => Sys2Proof.Machine.execMonitorLockstepMismatch die s
  | .monitorReload => Sys2Proof.Machine.execMonitorReload s
  | .servingKernelRestart => Sys2Proof.Machine.execServingKernelRestart s
  | .queueUnfreeze => Sys2Proof.Machine.execQueueUnfreeze s
  | .osPanic => Sys2Proof.Machine.execOsPanic s
  | .osRestart => Sys2Proof.Machine.execOsRestart s
  | .thermalThrottle => Sys2Proof.Machine.execThermalThrottle s
  | .bringUp => Sys2Proof.Machine.execBringUp s
  | .getVersion edge => Sys2Proof.Machine.execGetVersion edge s
  | .getCapabilities edge => Sys2Proof.Machine.execGetCapabilities edge s
  | .negotiateAlgorithms edge o => Sys2Proof.Machine.execNegotiateAlgorithms edge o s
  | .getDigests edge => Sys2Proof.Machine.execGetDigests edge s
  | .getCertificate edge => Sys2Proof.Machine.execGetCertificate edge s
  | .challenge edge nonce => Sys2Proof.Machine.execChallenge edge nonce s
  | .getMeasurements edge k part vf => Sys2Proof.Machine.execGetMeasurements edge k part vf s
  | .keyExchange edge kem => Sys2Proof.Machine.execKeyExchange edge kem s
  | .finish edge => Sys2Proof.Machine.execFinish edge s
  | .endSession edge => Sys2Proof.Machine.execEndSession edge s
  | .stageTwoEntryWrite part vf index hi => Sys2Proof.Machine.execStageTwoEntryWrite part vf index hi s
  | .closeFrameSent edge stream => Sys2Proof.Machine.execCloseFrameSent edge stream s

end Sys2Proof.Machine
end

