-- ==== Sys2Proof/Machine/Place.lean ====
section
/-!
DEFINITION. An instruction word placed for the next step (log 7): a kernel of one line on core 0, with one workgroup of one
group and its lead, as a launch of VF 0 of partition 0 would leave them.
-/

namespace Sys2Proof.Machine

/-- The parity bits of a line whose parity bits are 0 (R51). -/
def withParity (l : Line) : Line :=
  let p := (List.range 5).foldl (fun v k => v + onesN (slotWord l k).toNat 96 % 2 * 2 ^ (9 + k)) 0
  let w := (lineWord l).toNat + p
  let w := w + onesN w 32 % 2 * 2 ^ 14
  l ||| (BitVec.ofNat 512 w <<< 480)

/-- A line with one instruction in slot 0 and `NOP` in the others. -/
def lineWith (w : IWord) (lead : Bool) : Line :=
  let nop := encode (.nop { cm := { guard := 7, retain := 0, d := .g 0, a := .g 0, b := .g 0, c := .g 0 }, ty := 0, round := 0,
                            sat := 0, mods := 0, pred2 := 0, func := 0 })
  let slots := (List.range 4).foldl (fun (l : Line) k => l ||| (nop.setWidth 512 <<< (96 * (k + 1)))) (w.setWidth 512)
  withParity (slots ||| ((if lead then 0x8000#512 else 0#512) <<< 480))

/-- Virtual and physical address of the placed line. -/
abbrev placedPc : Nat := 0x10000

/-- The stream and level that may issue the word: a lead for a lead-only form, a supervisor thread for a form of level S, a
task thread otherwise. -/
def placedStream (w : IWord) : Bool × Level :=
  match decode w with
  | .ok i =>
    match form i with
    | some f => if !f.thread then (true, .t) else if !f.lvl.has .t then (false, .s) else (false, .t)
    | none => (false, .t)
  | .error _ => (false, .t)

/-- The machine with the word in the line at `placedPc`, the line in memory and in the instruction cache, and its issue in
progress. -/
def State.placeWord (s : State) (w : Nat) : State :=
  let iw : IWord := BitVec.ofNat 96 w
  let (lead, lv) := placedStream iw
  let line := lineWith iw lead
  let ctx : Ctx := { pc := BitVec.ofNat 64 placedPc, srcPc := BitVec.ofNat 64 placedPc }
  let launch : Launch := { text := placedPc, textLen := 64, leadEntry := some 0, threadEntry := 0,
                           regs := 256, threads := 8, group := 8, cvregs := 16, exclusive := true, astore := 65536 }
  let grid : Grid := { part := 0, vf := 0, queue := 0, index := 0, entry := 0, record := 0, launch := launch,
                       lease := s.nextLease, state := .running, placed := [(0, { core := 0, places := [0], since := s.clock })] }
  let wg : Wg := { grid := s.nextGrid, lin := 0, aBase := 0, aSize := 65536, dies := (s.part 0).dies, lead := some { ctx := ctx } }
  let slots := if lv == .s then [(Config.supSlot, ({ ctx := ctx, level := .s } : Thread))]
    else [(0, ({ ctx := ctx, level := .t, wg := 0, tid := 0 } : Thread))]
  let k : Core := { s.core 0 with
    vf := some (0, 0), threads := slots, wgs := if lv == .s then [] else [(0, wg)],
    icache := [(placedPc, { data := line, failed := false })],
    tlb := [{ part := 0, vf := 0, va := 0, size := 2 ^ 21, pa := 0, read := true, write := true }] }
  let who : Who := if lead then .lead 0 else .thread (if lv == .s then Config.supSlot else 0)
  { s with
    phys := s.phys.write placedPc (leBytes 64 line.toNat), cores := putN s.cores 0 k,
    grids := if lv == .s then s.grids else putN s.grids s.nextGrid grid, nextGrid := s.nextGrid + 1, nextLease := s.nextLease + 1,
    osPages := (0, 2 ^ 21, 0, true) :: s.osPages, supText := if lv == .s then (placedPc, 64) else s.supText, agenda := [],
    cur := some { core := 0, agents := [{ core := 0, who := who }], pc := BitVec.ofNat 64 placedPc, paired := false } }

end Sys2Proof.Machine
end

