-- ==== Sys2Proof/Machine/Schedule.lean ====
section
/-!
DEFINITION. Which operation moves next where the agenda names none (log 1), and how the clock goes on where none can (log 3).
Operations that come from outside the module (a host's write, a packet, a fault, a reset) are never scheduled: they happen only
when the agenda names them, but for a write whose first bytes have landed (R214).
-/

namespace Sys2Proof.Machine

/-- The lines that the running agents of a core stand at. -/
def State.linesOf (s : State) (c : Nat) : List DWord :=
  (((s.core c).threadAgents c ++ (s.core c).leadAgents c).filter (fun a => (s.ctx a).wait == .run)).map
    (fun a => lineOf (s.ctx a).pc) |>.eraseDups

/-- Operations of an agent that waits. -/
def waitOps (a : Agent) (w : Wait) : List Instr :=
  match w with
  | .posting _ => [.resumableTrapPost a]
  | .supTrap _ _ _ => [.supervisorTrap a]
  | .barrier _ _ _ _ _ => [.waitPhaseTimeout a, .barrierWaitWatchdog a]
  | .push _ _ _ => [.waitPhaseTimeout a, .barrierWaitWatchdog a]
  | .pop _ _ _ _ => [.waitPhaseTimeout a, .barrierWaitWatchdog a]
  | .circle _ _ _ _ _ => [.waitPhaseTimeout a, .barrierWaitWatchdog a]
  | .run => [.collectiveWatchdogTimeout a]
  | _ => []

/-- Operations of a core's engines and waits. -/
def State.coreOps (s : State) (c : Nat) (k : Core) : List Instr :=
  k.pend.flatMap (fun p => [.storePerformed c p.id, .loadReturn c p.id, .atomicAtHome c p.id, .ldgaLanding c p.id])
  ++ k.wOld.map (fun r => .wstoreRegionSave c r.1)
  ++ k.copies.flatMap (fun x => .copyCommandAccept c x.id
      :: ((List.range x.chunks).find? (fun i => !x.landed.contains i)).toList.map (fun i => .copyChunkLand c x.id i)
      ++ [.copyCommandComplete c x.id])
  ++ k.mxOps.flatMap (fun o => [.matrixOpStart c o.id 0, .orderedDrainApply c o.id, .orderedDrainTimeout c o.id,
      .matrixOpComplete c o.id])
  ++ k.wgs.flatMap (fun w => w.2.cvs.map (fun r => .setWatchdogTimeout c w.1 r.1))
  ++ (k.threadAgents c ++ k.leadAgents c).flatMap (fun a => waitOps a (s.ctx a).wait)

/-- Operations of the distributor on a partition's grids. -/
def State.gridOps (s : State) (gid : Nat) (g : Grid) : List Instr :=
  if g.state.over then []
  else
    [.launchStart gid, .fworkServe gid, .coopWait gid, .coopResume gid]
    ++ g.placed.flatMap (fun p => [.reconvergenceTimeout gid p.1, .copySuspend gid p.1, .teamSave gid p.1, .preempt gid p.1,
        .seasonEnd gid p.1])
    ++ (g.waitingTeams gid).flatMap (fun w => (s.clusters gid g w.team).map (fun c =>
        if w.saved then .teamRestore gid w.team c else .teamPlace gid w.team c))
    ++ [.gridComplete gid]

/-- Text that an edge die can work on. -/
def edgeOps (e : Nat) (d : Edge) : List Instr :=
  (if d.inbox.isEmpty then [] else [.requestFrame e, .cancelFrame e]) ++ (if d.texts.isEmpty then [] else [.tokenise e])
  ++ d.streams.flatMap (fun k => if k.2.closed then [] else [.replyDataFrame e k.1, .closeFrameSent e k.1])

/-- A part of the machine whose operations the default schedule tries together. -/
inductive Phase where
  | reports
  | queues
  | grids
  | core (c : Nat)
  | edge (e : Nat)
deriving DecidableEq, Repr

/-- The operations of a part that may be able to happen, in the order in which they are tried. -/
def State.phaseOps (s : State) : Phase → List Instr
  | .reports => (List.range s.reports.length).map (fun i => .gridEndTrap i)
  | .queues =>
    s.landing.map (·.what)
    ++ s.vfs.flatMap (fun v => v.2.queues.filterMap (fun q =>
      if q.2.pending.isEmpty then none else some (.launchValidate (v.1 / 64) (v.1 % 64) q.1)))
    ++ s.vfs.filterMap (fun v => if v.2.busy then some (.tlbinvComplete (v.1 / 64) (v.1 % 64)) else none)
    ++ s.vfs.filterMap (fun v => if v.2.resetting then some (.vfReset (v.1 / 64) (v.1 % 64)) else none)
    ++ (if s.parts.any (fun p => p.2.frozen) then [.queueUnfreeze] else [])
  | .grids => s.grids.flatMap (fun g => s.gridOps g.1 g.2)
  | .core c =>
    let k := s.core c
    (s.linesOf c).flatMap (fun l => [.lineRefetch c l, .lineFetchCheck c l])
    ++ s.coreOps c k
    ++ k.threads.filterMap (fun t => if Config.agedClocks ≤ t.2.readyFor then some (.threadAged c t.1) else none)
    ++ (if k.leadLast then [.issueBundle c, .leadIssue c] else [.leadIssue c, .issueBundle c])
  | .edge e => edgeOps e (s.edge e)

/-- Turn a list by some places. -/
def turnBy {α : Type} (n : Nat) (l : List α) : List α := l.drop (n % l.length) ++ l.take (n % l.length)

/-- The order of the parts: traps first; the distributor's grids first at every 32nd clock and last at the others; the cores take
turns by the clock. -/
def State.phases (s : State) : List Phase :=
  let cores := turnBy s.clock (s.cores.map (fun k => Phase.core k.1)) ++ s.edges.map (fun e => Phase.edge e.1)
  .reports :: .queues :: (if s.clock % 32 = 0 then .grids :: cores else cores ++ [.grids])

/-- With nothing else to do, the clock goes on. -/
def State.idle (s : State) : State := s.pass 1

end Sys2Proof.Machine
end

