-- ==== Sys2Proof/Machine/Step.lean ====
section
/-!
DEFINITION. One step of the machine: the operation that the agenda names, else the instruction of the issue in progress,
else the first operation of the default schedule that can happen, else the clock (log 1, log 3).
-/

namespace Sys2Proof.Machine

/-- The first operation of a list that can happen. -/
def firstEnabled : List Instr → State → Option State
  | [], _ => none
  | i :: is, s =>
    match exec i s with
    | .next t => some t
    | _ => firstEnabled is s

/-- The first operation that can happen, part by part. -/
def firstOf : List Phase → State → Option State
  | [], _ => none
  | p :: ps, s =>
    match firstEnabled (s.phaseOps p) s with
    | some t => some t
    | none => firstOf ps s

/-- ONE STEP. -/
def step (s : State) : Host.Outcome State Fault Refusal :=
  match s.agenda with
  | i :: rest => exec i { s with agenda := rest }
  | [] =>
    match s.cur with
    | some iss =>
      match s.nextInstr iss with
      | (s1, some i) => exec i s1
      | (s1, none) => .next s1
    | none =>
      match firstOf s.phases s with
      | some t => .next t
      | none => .next s.idle

/-- The state with an instruction where the next step fetches it (log 7). -/
def State.withFetchWord (s : State) (nbits w : Nat) : State := s.placeWord (w % 2 ^ nbits)

end Sys2Proof.Machine
end

