-- ==== Sys2Proof/Safety.lean ====
section
/-!
DEFINITION. What a safe run is, and the terms in which the statements are written: when an instruction issues and passes its
checks (spec/03 R71), from which state its effect starts, and how it goes on after its effect.
-/

namespace Sys2Proof.Safety

open Sys2Proof.Machine

/-- A step that answers a next state. -/
def Goes (s : State) : Prop := ∃ t, step s = .next t

/-- `n` steps, each of which answers a next state. -/
def SafeRun : Nat → State → Prop
  | 0, _ => True
  | n + 1, s => ∃ t, step s = .next t ∧ SafeRun n t

/-- Memory is in its one canonical form. -/
def MemoryOk (s : State) : Prop := s.phys.wf = true

/-! ### One lane -/

/-- The issue in progress is of one thread or lead, which passes steps 2 to 4 of R71 for the instruction: stream, level and
fields, a true guard, spaces that it may name, an exclusive launch where it needs one, and no source register whose parity has
failed (R407). -/
def runs (s : State) (a : Agent) (i : Instr) : Bool :=
  match form i, s.cur with
  | some f, some x => x.agents == [a] && s.issueOk a f && s.guardTrue a f.cm.guard && f.space && (!f.excl || s.exclusive a)
      && !s.badOperand a f
  | _, _ => false

/-- The state from which the effect starts: a thread has settled which of its lead's writes it reads (R92), and the retained
operand is kept (R62). -/
def began (s : State) (a : Agent) (i : Instr) : State :=
  match form i with
  | some f => (s.settle a f).retain a f
  | none => s

/-- The lane goes on to `Next(PC)`, and the issue is over (R71 step 6). -/
def goesOn (a : Agent) (t : State) : State := (t.advance a).endIssue

/-- The lane goes to a PC, and the issue is over (R168). -/
def goesTo (a : Agent) (pc : Int) (t : State) : State := (t.jumpTo a pc).endIssue

/-- The instruction's next state is that of its effect, and the lane goes on to `Next(PC)`. -/
def Completes (s : State) (a : Agent) (i : Instr) (effect : State → State) : Prop :=
  runs s a i = true → exec i s = .next (goesOn a (effect (began s a i)))

/-- The same, to a PC of the instruction's own. -/
def Jumps (s : State) (a : Agent) (i : Instr) (pc : State → Int) (effect : State → State) : Prop :=
  runs s a i = true → exec i s = .next (goesTo a (pc (began s a i)) (effect (began s a i)))

/-- The same, where the effect leaves the lane at its PC: it waits or has ended. -/
def Stays (s : State) (a : Agent) (i : Instr) (effect : State → State) : Prop :=
  runs s a i = true → exec i s = .next (effect (began s a i)).endIssue

/-- The lane takes a trap at its PC, with none of the instruction's effect. -/
def Traps (s : State) (a : Agent) (i : Instr) (t : Trap) : Prop :=
  runs s a i = true → exec i s = .next ((began s a i).raise a t).endIssue

/-! ### One group -/

/-- The issue in progress is of one whole group, whose threads pass the encoding checks of a collective (R172), and no present
thread reads a register whose parity has failed (R407). -/
def runsGroup (s : State) (as : List Agent) (i : Instr) : Bool :=
  match form i, s.cur with
  | some f, some x => x.agents == as && s.byGroup as == [as] && as.all (fun a => s.issueOk a f)
      && as.all (fun a => !s.guardTrue a f.cm.guard || !s.badOperand a f)
  | _, _ => false

/-- The present threads: those whose guard is true, by position (R172). -/
def present (s : State) (as : List Agent) (i : Instr) : List Agent :=
  match form i with
  | some f => sortBy s.posOf (as.filter (fun a => s.guardTrue a f.cm.guard))
  | none => []

/-- The state from which the effect starts. -/
def groupBegan (s : State) (as : List Agent) (i : Instr) : State := (present s as i).foldl (fun s a => began s a i) s

/-- Every thread of the group goes on to `Next(PC)`. -/
def groupGoesOn (as : List Agent) (t : State) : State := (as.foldl (fun s a => s.advance a) t).endIssue

/-- The collective's next state is that of its effect on the present threads, and the whole group goes on. -/
def GroupCompletes (s : State) (as : List Agent) (i : Instr) (effect : List Agent → State → State) : Prop :=
  runsGroup s as i = true → exec i s = .next (groupGoesOn as (effect (present s as i) (groupBegan s as i)))

/-! ### Operands and results of a form -/

/-- `Val` of an operand of an R form at its type (R96). -/
def valOf (s : State) (a : Agent) (f : RForm) (o : Opnd) : Int := s.val a (tySigned f.ty) (tyW f.ty) o

/-- The bits of an operand of an R form at its type (R99). -/
def bitsOf (s : State) (a : Agent) (f : RForm) (o : Opnd) : Nat := s.opVal a o (tyW f.ty)

/-- `Put(D, Fit(e))` of R96. -/
def putFit (a : Agent) (f : RForm) (e : Int) (s : State) : State :=
  s.putInt a f.cm.d (tySigned f.ty) (tyW f.ty) (toBits (tyW f.ty) (fit (f.sat == 1) (tySigned f.ty) (tyW f.ty) e))

/-- `Put(D, x)` of a bit pattern (R99). -/
def putBits (a : Agent) (f : RForm) (x : Nat) (s : State) : State :=
  s.putInt a f.cm.d (tySigned f.ty) (tyW f.ty) (x % 2 ^ tyW f.ty)

/-- `Val` of operand A of an I form, and its immediate (R65, R96). -/
def valOfI (s : State) (a : Agent) (f : IForm) : Int := s.val a (itySigned f.ity) (ityW f.ity) f.cm.a

/-- The bits of operand A of an I form. -/
def bitsOfI (s : State) (a : Agent) (f : IForm) : Nat := s.opVal a f.cm.a (ityW f.ity)

/-- `Put(D, e)` of an I form: wrapped at its type (R65). -/
def putFitI (a : Agent) (f : IForm) (e : Int) (s : State) : State :=
  s.putInt a f.cm.d (itySigned f.ity) (ityW f.ity) (toBits (ityW f.ity) (fit false (itySigned f.ity) (ityW f.ity) e))

def putBitsI (a : Agent) (f : IForm) (x : Nat) (s : State) : State :=
  s.putInt a f.cm.d (itySigned f.ity) (ityW f.ity) (x % 2 ^ ityW f.ity)

/-- The value of floating operand `k` of an R form after its source modifiers (R140). -/
def floatOf (s : State) (a : Agent) (f : RForm) (k : Nat) (o : Opnd) : FVal :=
  unpackF (ffmt f.ty.toNat) (s.fsrc a f.ty.toNat f.mods k o)

/-- The value of a floating operand of an I form, and of its immediate. -/
def floatOfI (s : State) (a : Agent) (f : IForm) (o : Opnd) : FVal :=
  unpackF (ffmt (fImmType f.ity.toNat)) (s.opVal a o (tyWn (fImmType f.ity.toNat)))
def floatImm (f : IForm) : FVal := unpackF (ffmt (fImmType f.ity.toNat)) (widenImm f.ity.toNat f.imm.toNat)

/-- Write a floating result at the type of an R form, and OR its flags into `fstat` (R81, R140). -/
def putFloat (a : Agent) (f : RForm) (r : Nat × FFlags) (s : State) : State := s.putF a f.cm.d (tyWn f.ty.toNat) r
def putFloatI (a : Agent) (f : IForm) (r : Nat × FFlags) (s : State) : State :=
  s.putF a f.cm.d (tyWn (fImmType f.ity.toNat)) r

/-! ### What stays the same -/

/-- Every byte of physical memory and of the stores of every core reads as before. -/
def SameBytes (s t : State) : Prop :=
  (∀ pa, t.phys.byte pa = s.phys.byte pa)
  ∧ ∀ c off, (t.core c).astore.byte off = (s.core c).astore.byte off
    ∧ (t.core c).cstore.byte off = (s.core c).cstore.byte off ∧ (t.core c).wstore.byte off = (s.core c).wstore.byte off

/-- Every byte reads as before but those of physical memory, of the A-stores and of the C-stores that are named. -/
def SameBytesBut (s t : State) (phys : Nat → Prop) (astore cstore : Nat → Nat → Prop) : Prop :=
  (∀ pa, ¬ phys pa → t.phys.byte pa = s.phys.byte pa)
  ∧ ∀ c off, (¬ astore c off → (t.core c).astore.byte off = (s.core c).astore.byte off)
    ∧ (¬ cstore c off → (t.core c).cstore.byte off = (s.core c).cstore.byte off)
    ∧ (t.core c).wstore.byte off = (s.core c).wstore.byte off

/-- An agent waits on an object: where an operation that it issued earlier traps, its wait is over, and the object's field of
waiters follows (R230). -/
def waitedOn (s : State) (a : Agent) (r : ObjRef) : Prop := ∃ ph l d sc, (s.ctx a).wait = .barrier r ph l d sc

/-- A physical byte, and a byte of an A-store, of one of some objects. -/
def atGlobObj (objs : ObjRef → Prop) (pa : Nat) : Prop := ∃ h, objs (.glob h) ∧ h ≤ pa ∧ pa < h + 16
def atStoreObj (s : State) (objs : ObjRef → Prop) (c off : Nat) : Prop :=
  ∃ w o, objs (.store c w o) ∧ s.regionBase c w + o ≤ off ∧ off < s.regionBase c w + o + 16

/-- Every register of a core that is no thread's or lead's, its mailbox and the work of its units, and every register outside the
cores, are as before. -/
def SameSpecial (s t : State) : Prop :=
  (∀ c, (t.core c).cwdog = (s.core c).cwdog ∧ (t.core c).bwdog = (s.core c).bwdog ∧ (t.core c).mbnote = (s.core c).mbnote
    ∧ (t.core c).noterr = (s.core c).noterr ∧ (t.core c).tsel = (s.core c).tsel ∧ (t.core c).bpm = (s.core c).bpm
    ∧ (t.core c).pcsel = (s.core c).pcsel ∧ (t.core c).pcnt = (s.core c).pcnt ∧ (t.core c).vfclk = (s.core c).vfclk
    ∧ (t.core c).mail = (s.core c).mail ∧ (t.core c).pend = (s.core c).pend ∧ (t.core c).copies = (s.core c).copies
    ∧ (t.core c).mxOps = (s.core c).mxOps)
  ∧ t.parts = s.parts ∧ t.vfs = s.vfs ∧ t.edges = s.edges ∧ t.dies = s.dies ∧ t.grids = s.grids
  ∧ t.mdId = s.mdId ∧ t.mdCollect = s.mdCollect ∧ t.mdCport = s.mdCport ∧ t.clock = s.clock

/-- A `g` register of a thread, and an `s` register of a lead. -/
def gReg (s : State) (b : Agent) (n : Nat) : Word := getR (((s.thread? b).map (·.g)).getD []) n
def sReg (s : State) (b : Agent) (n : Nat) : DWord := getR (((s.lead? b).map (·.s)).getD []) n

/-- The numbered registers, predicates, handles, flags and place of a thread or lead are as before. -/
def SameRegs (s t : State) (b : Agent) : Prop :=
  (∀ n, gReg t b n = gReg s b n ∧ sReg t b n = sReg s b n)
  ∧ (t.ctx b).preds = (s.ctx b).preds ∧ (t.ctx b).handles = (s.ctx b).handles ∧ (t.ctx b).fstat = (s.ctx b).fstat
  ∧ t.level b = s.level b ∧ t.place b = s.place b ∧ t.tidOf b = s.tidOf b

/-- A thread but for its operand buffer, which a write of its lead's `s` register may empty (R62). -/
def bare (t : Thread) : Thread := { t with ctx := { t.ctx with opBuf := none } }

/-- The register that a number of a kind names lies in none of the spans. -/
def outside (spans : List Span) (isS : Bool) (n : Nat) : Prop := ∀ x ∈ spans, ¬ (x.s = isS ∧ x.i ≤ n ∧ n < x.i + x.n)

/-- An instruction that writes only registers of its own threads: integer, floating-point, moves, branches, group exchange, `SMERGE`,
`RNGK`, `CRD`, `PERF`; and `TRAP` and `BRK`, whose replies come later. -/
def registerOnly (f : Form) : Bool :=
  [1, 2, 3, 4, 5, 6, 12, 13, 14, 15, 16, 17, 20, 21, 24, 25, 26, 55, 56].contains f.major
  || (f.major == 60 && (f.minor == 0 || f.minor == 3)) || (f.major == 61 && f.minor != 1)

/-- An instruction of which flags of `fstat` may come: floating-point, `GRED`, `SCAN`, `SEGRED`, `SMERGE`. -/
def raisesFlags (f : Form) : Bool := [12, 13, 14, 15, 16, 17, 25, 55].contains f.major

/-- An instruction that changes no byte and no register when it issues: a load, a store, an atomic, a step on a block, a text form, whose
access is performed later; a prefetch; a cache control. -/
def issuesAccess (f : Form) : Bool := [8, 9, 10, 11, 28, 32, 33, 34, 54, 58].contains f.major

end Sys2Proof.Safety
end

