-- ==== Sys2Proof/Certificates/Slice0/Obligations.lean ====
section
/-!
DEFINITION. The statements for the provers. `Completes s a i e` says: where lane `a` runs `i` in `s`, `exec i s` answers the next
state of the effect `e`, with the lane at `Next(PC)` (`Sys2Proof/Safety.lean`).
-/

open Sys2Proof Sys2Proof.Machine Sys2Proof.Safety

/-! ### Integer instructions (spec/05) -/

/-- R96 to R98: arithmetic computes the exact value of its operands and puts it, saturated or wrapped at the type. -/
def Obligations.IntegerArithmetic : Prop :=
  ∀ (s : State) (a : Agent) (f : RForm),
    Completes s a (.iadd f) (fun t => putFit a f (valOf t a f f.cm.a + valOf t a f f.cm.b) t)
    ∧ Completes s a (.isub f) (fun t => putFit a f (valOf t a f f.cm.a - valOf t a f f.cm.b) t)
    ∧ Completes s a (.imul f) (fun t => putFit a f (valOf t a f f.cm.a * valOf t a f f.cm.b) t)
    ∧ Completes s a (.imad f) (fun t => putFit a f (valOf t a f f.cm.a * valOf t a f f.cm.b + valOf t a f f.cm.c) t)
    ∧ Completes s a (.iabs f) (fun t => putFit a f ((valOf t a f f.cm.a).natAbs : Int) t)
    ∧ Completes s a (.ineg f) (fun t => putFit a f (-(valOf t a f f.cm.a)) t)
    ∧ Completes s a (.imin f) (fun t => putFit a f (min (valOf t a f f.cm.a) (valOf t a f f.cm.b)) t)
    ∧ Completes s a (.imax f) (fun t => putFit a f (max (valOf t a f f.cm.a) (valOf t a f f.cm.b)) t)
    ∧ Completes s a (.imulh f) (fun t =>
        putFit a f (Int.fdiv (valOf t a f f.cm.a * valOf t a f f.cm.b) ((2 ^ tyW f.ty : Nat) : Int)) t)
    ∧ Completes s a (.imadw f) (fun t => t.putInt a f.cm.d (tySigned f.ty) 64 (toBits 64 (fit (f.sat == 1) (tySigned f.ty) 64
        (t.val a (tySigned f.ty) 32 f.cm.a * t.val a (tySigned f.ty) 32 f.cm.b + t.val a (tySigned f.ty) 64 f.cm.c))))
    ∧ Completes s a (.idiv f) (fun t => putFit a f
        (if valOf t a f f.cm.b = 0 then (if tySigned f.ty then -1 else (2 ^ tyW f.ty : Nat) - 1)
          else Int.tdiv (valOf t a f f.cm.a) (valOf t a f f.cm.b)) t)
    ∧ Completes s a (.irem f) (fun t => putFit a f
        (if valOf t a f f.cm.b = 0 then valOf t a f f.cm.a
          else valOf t a f f.cm.a - valOf t a f f.cm.b * Int.tdiv (valOf t a f f.cm.a) (valOf t a f f.cm.b)) t)

/-- R65, R96: the immediate forms wrap, with the immediate as their second operand. -/
def Obligations.IntegerImmediates : Prop :=
  ∀ (s : State) (a : Agent) (f : IForm),
    Completes s a (.iaddImm f) (fun t => putFitI a f (valOfI t a f + immInt f) t)
    ∧ Completes s a (.imulImm f) (fun t => putFitI a f (valOfI t a f * immInt f) t)
    ∧ Completes s a (.iminImm f) (fun t => putFitI a f (min (valOfI t a f) (immInt f)) t)
    ∧ Completes s a (.imaxImm f) (fun t => putFitI a f (max (valOfI t a f) (immInt f)) t)
    ∧ Completes s a (.andImm f) (fun t => putBitsI a f (Nat.land (bitsOfI t a f) (immVal f.ity f.imm)) t)
    ∧ Completes s a (.orImm f) (fun t => putBitsI a f (Nat.lor (bitsOfI t a f) (immVal f.ity f.imm)) t)
    ∧ Completes s a (.xorImm f) (fun t => putBitsI a f (Nat.xor (bitsOfI t a f) (immVal f.ity f.imm)) t)
    ∧ Completes s a (.andnImm f) (fun t =>
        putBitsI a f (Nat.land (bitsOfI t a f) (2 ^ ityW f.ity - 1 - immVal f.ity f.imm % 2 ^ ityW f.ity)) t)
    ∧ Completes s a (.shlImm f) (fun t => putBitsI a f (shlBits (ityW f.ity) (bitsOfI t a f) (immVal f.ity f.imm)) t)
    ∧ Completes s a (.shrImm f) (fun t => putBitsI a f (shrBits (ityW f.ity) (bitsOfI t a f) (immVal f.ity f.imm)) t)
    ∧ Completes s a (.sraImm f) (fun t => putBitsI a f (sraBits (ityW f.ity) (bitsOfI t a f) (immVal f.ity f.imm)) t)
    ∧ Completes s a (.rotImm f) (fun t => putBitsI a f (rotBits (ityW f.ity) (bitsOfI t a f) (immVal f.ity f.imm)) t)
    ∧ Completes s a (.movi f) (fun t => t.putInt a f.cm.d (itySigned f.ity) (ityW f.ity) (immVal f.ity f.imm))
    ∧ Completes s a (.movh f) (fun t => t.putHigh a f.cm.d f.imm)

/-- R99 to R101: logic, shifts by the count B[7:0], bit fields and counts. -/
def Obligations.LogicAndBits : Prop :=
  ∀ (s : State) (a : Agent) (f : RForm),
    Completes s a (.and f) (fun t => putBits a f (Nat.land (bitsOf t a f f.cm.a) (bitsOf t a f f.cm.b)) t)
    ∧ Completes s a (.or f) (fun t => putBits a f (Nat.lor (bitsOf t a f f.cm.a) (bitsOf t a f f.cm.b)) t)
    ∧ Completes s a (.xor f) (fun t => putBits a f (Nat.xor (bitsOf t a f f.cm.a) (bitsOf t a f f.cm.b)) t)
    ∧ Completes s a (.andn f) (fun t =>
        putBits a f (Nat.land (bitsOf t a f f.cm.a) (2 ^ tyW f.ty - 1 - bitsOf t a f f.cm.b % 2 ^ tyW f.ty)) t)
    ∧ Completes s a (.shl f) (fun t => putBits a f (shlBits (tyW f.ty) (bitsOf t a f f.cm.a) (t.opVal a f.cm.b 32)) t)
    ∧ Completes s a (.shr f) (fun t => putBits a f (shrBits (tyW f.ty) (bitsOf t a f f.cm.a) (t.opVal a f.cm.b 32)) t)
    ∧ Completes s a (.sra f) (fun t => putBits a f (sraBits (tyW f.ty) (bitsOf t a f f.cm.a) (t.opVal a f.cm.b 32)) t)
    ∧ Completes s a (.rot f) (fun t => putBits a f (rotBits (tyW f.ty) (bitsOf t a f f.cm.a) (t.opVal a f.cm.b 32)) t)
    ∧ Completes s a (.bfx f) (fun t =>
        putBits a f (bfxBits (tySigned f.ty) (tyW f.ty) (bitsOf t a f f.cm.a) (t.opVal a f.cm.b 32)) t)
    ∧ Completes s a (.bfi f) (fun t => t.putInt a f.cm.d false (tyW f.ty)
        (bfiBits (tyW f.ty) (bitsOf t a f f.cm.a) (t.opVal a f.cm.b 32) (bitsOf t a f f.cm.c)))
    ∧ Completes s a (.popc f) (fun t => t.putInt a f.cm.d false 32 (popcBits (tyW f.ty) (bitsOf t a f f.cm.a)))
    ∧ Completes s a (.clz f) (fun t => t.putInt a f.cm.d false 32 (clzBits (tyW f.ty) (bitsOf t a f f.cm.a)))
    ∧ Completes s a (.brev f) (fun t => t.putInt a f.cm.d false (tyW f.ty) (brevBits (tyW f.ty) (bitsOf t a f f.cm.a)))

/-- R102 to R105, R108, R109: compares, selects, predicate logic, moves, `SREAD` and `NOP`. What `SREAD` reads of a launch in a
thread that has none, and of the clocks of two dies, is the model's choice (logs 59, 60). -/
def Obligations.PredicatesAndMoves : Prop :=
  ∀ (s : State) (a : Agent) (f : RForm),
    Completes s a (.isetp f) (fun t => t.writeP a f.cm.d.num (combine (fld f.func 3 2)
        (compareInt (fld f.func 0 3) (valOf t a f f.cm.a) (valOf t a f f.cm.b)) (t.readPQ a f.pred2)))
    ∧ Completes s a (.sel f) (fun t => t.putInt a f.cm.d false (tyW f.ty)
        (if t.readPQ a f.pred2 then bitsOf t a f f.cm.a else bitsOf t a f f.cm.b))
    ∧ Completes s a (.plog f) (fun t => t.writeP a f.cm.d.num (f.func.getLsbD
        (4 * (t.readP a f.cm.a.num).toNat + 2 * (t.readP a f.cm.b.num).toNat + (t.readP a f.cm.c.num).toNat)))
    ∧ Completes s a (.mov f) (fun t => t.putInt a f.cm.d false (tyW f.ty) (bitsOf t a f f.cm.a))
    ∧ Completes s a (.sread f) (fun t => t.putInt a f.cm.d false (tyW f.ty) (t.srVal a f.cm.a.num % 2 ^ tyW f.ty))
    ∧ Completes s a (.nop f) id

/-- R106: `LEA` writes a canonical sum; another sum traps `NONCANON` and writes nothing. That the trap carries the sum as its address
is the model's reading (log 21).
The model's choices and readings in it: log 21. -/
def Obligations.AddressFormation : Prop :=
  ∀ (s : State) (a : Agent),
    (∀ f : RForm,
      let e := (began s a (.lea f)).val a true 64 f.cm.a
        + valOf (began s a (.lea f)) a f f.cm.b * ((2 ^ fld f.func 0 3 : Nat) : Int)
      (-(2 ^ 55 : Int) ≤ e ∧ e < 2 ^ 55 → Completes s a (.lea f) (fun t => t.putInt a f.cm.d true 64 (toBits 64 e)))
      ∧ (¬ (-(2 ^ 55 : Int) ≤ e ∧ e < 2 ^ 55) → Traps s a (.lea f) ⟨.noncanon, toBits 64 e⟩))
    ∧ (∀ f : IForm,
      let e := (began s a (.leaImm f)).val a true 64 f.cm.a + immInt f
      (-(2 ^ 55 : Int) ≤ e ∧ e < 2 ^ 55 → Completes s a (.leaImm f) (fun t => t.putInt a f.cm.d true 64 (toBits 64 e)))
      ∧ (¬ (-(2 ^ 55 : Int) ≤ e ∧ e < 2 ^ 55) → Traps s a (.leaImm f) ⟨.noncanon, toBits 64 e⟩))

/-! ### Floating-point instructions (spec/07) -/

/-- R65, R139, R141, R145 to R150, R152 to R154: the exact result of the operands after their source modifiers, rounded once, is
written, and its flags join `fstat`; `FEXPO` writes 32 bits at every type; the immediate forms round to nearest even and do not
saturate.
The model's choices and readings in it: logs 70, 71. -/
def Obligations.FloatArithmetic : Prop :=
  ∀ (s : State) (a : Agent),
    (∀ f : RForm,
    let m := ffmt f.ty.toNat
    let r := f.round.toNat
    let sat := f.sat == 1
    Completes s a (.fadd f) (fun t => putFloat a f (fAdd m r sat (floatOf t a f 0 f.cm.a) (floatOf t a f 1 f.cm.b)) t)
    ∧ Completes s a (.fsub f) (fun t => putFloat a f (fAdd m r sat (floatOf t a f 0 f.cm.a) (floatOf t a f 1 f.cm.b).opp) t)
    ∧ Completes s a (.fmul f) (fun t => putFloat a f (fMul m r sat (floatOf t a f 0 f.cm.a) (floatOf t a f 1 f.cm.b)) t)
    ∧ Completes s a (.ffma f) (fun t =>
        putFloat a f (fFma m r sat (floatOf t a f 0 f.cm.a) (floatOf t a f 1 f.cm.b) (floatOf t a f 2 f.cm.c)) t)
    ∧ Completes s a (.fdiv f) (fun t => putFloat a f (fDiv m r sat (floatOf t a f 0 f.cm.a) (floatOf t a f 1 f.cm.b)) t)
    ∧ Completes s a (.fsqrt f) (fun t => putFloat a f (fSqrt m r (floatOf t a f 0 f.cm.a)) t)
    ∧ Completes s a (.rcps f) (fun t => putFloat a f (fRcps m (floatOf t a f 0 f.cm.a)) t)
    ∧ Completes s a (.rsqs f) (fun t => putFloat a f (fRsqs m (floatOf t a f 0 f.cm.a)) t)
    ∧ Completes s a (.fexp2 f) (fun t => putFloat a f (fExp2 m r sat (floatOf t a f 0 f.cm.a)) t)
    ∧ Completes s a (.flog2 f) (fun t => putFloat a f (fLog2 m r (floatOf t a f 0 f.cm.a)) t)
    ∧ Completes s a (.fscale f) (fun t => putFloat a f (fScale m r sat (floatOf t a f 0 f.cm.a) (t.val a true 32 f.cm.b)) t)
    ∧ Completes s a (.fexpo f) (fun t => t.putF a f.cm.d 32
        (toBits 32 (fExpo (floatOf t a f 0 f.cm.a)).1, (fExpo (floatOf t a f 0 f.cm.a)).2)))
    ∧ (∀ f : IForm,
    let m := ffmt (fImmType f.ity.toNat)
    Completes s a (.faddImm f) (fun t => putFloatI a f (fAdd m 0 false (floatOfI t a f f.cm.a) (floatImm f)) t)
    ∧ Completes s a (.fmulImm f) (fun t => putFloatI a f (fMul m 0 false (floatOfI t a f f.cm.a) (floatImm f)) t)
    ∧ Completes s a (.ffmaImm f) (fun t =>
        putFloatI a f (fFma m 0 false (floatOfI t a f f.cm.a) (floatOfI t a f f.cm.b) (floatImm f)) t))

/-- R142 to R144, R152, R155 to R157: minima, compares, classes, rounding and conversions.
The model's choices and readings in it: logs 18, 58. -/
def Obligations.FloatCompareConvert : Prop :=
  ∀ (s : State) (a : Agent) (f : RForm),
    let t0 := f.ty.toNat
    let dst := fld f.func 0 4
    let r := f.round.toNat
    let x (t : State) : Nat := t.fsrc a t0 f.mods 0 f.cm.a
    let y (t : State) : Nat := t.fsrc a t0 f.mods 1 f.cm.b
    Completes s a (.fmin f) (fun t => t.putF a f.cm.d (tyW f.ty) (fMinMax (ffmt t0) true (x t) (y t)))
    ∧ Completes s a (.fmax f) (fun t => t.putF a f.cm.d (tyW f.ty) (fMinMax (ffmt t0) false (x t) (y t)))
    ∧ Completes s a (.fsetp f) (fun t => (t.flag a (fSetp (ffmt t0) (fld f.func 0 4) (x t) (y t)).2).writeP a f.cm.d.num
        (combine (fld f.func 4 2) (fSetp (ffmt t0) (fld f.func 0 4) (x t) (y t)).1 (t.readPQ a f.pred2)))
    ∧ Completes s a (.fclass f) (fun t => t.putF a f.cm.d 32 (fClass (ffmt t0) (x t), 0))
    ∧ Completes s a (.frnd f) (fun t => t.putF a f.cm.d (tyW f.ty) (fRnd (ffmt t0) r (x t)))
    ∧ (let sg := decide (dst < 4)
       let w := tyWn dst
       let lo : Int := if sg then -(2 ^ (w - 1) : Nat) else 0
       let hi : Int := if sg then (2 ^ (w - 1) : Nat) - 1 else (2 ^ w : Nat) - 1
       Completes s a (.f2i f) (fun t => (t.flag a (fToInt r lo hi (floatOf t a f 0 f.cm.a)).2).putInt a f.cm.d sg w
         (toBits w (fToInt r lo hi (floatOf t a f 0 f.cm.a)).1)))
    ∧ Completes s a (.i2f f) (fun t => t.putF a f.cm.d (tyWn dst) (intToF (ffmt dst) r (f.sat == 1) (valOf t a f f.cm.a)))
    ∧ (f.func.getLsbD 4 = false → Completes s a (.fcvt f) (fun t =>
        t.putF a f.cm.d (tyWn dst) (fConv (ffmt dst) r (f.sat == 1) (floatOf t a f 0 f.cm.a))))
    ∧ (f.func.getLsbD 4 = true → Completes s a (.fcvt f) (fun t => t.putF a f.cm.d (tyWn dst)
        (fConvScaled (ffmt dst) r (f.sat == 1) (floatOf t a f 0 f.cm.a) (unpackF (ffmt 9) (t.fsrc a 9 f.mods 1 f.cm.b)))))

/-! ### Control flow and groups (spec/08) -/

/-- R168, R170: a branch goes to its exact target, a call also writes `Next(PC)` into D, and `EXIT` ends the thread: it waits no
more for anything, its operand buffer is empty, and it goes nowhere. -/
def Obligations.ControlFlow : Prop :=
  ∀ (s : State) (a : Agent),
    (∀ f : BForm,
      let target (t : State) : Int := (lineOf (t.ctx a).pc).toNat + 64 * toVal true 28 f.offset.toNat + f.slot.toNat
      Jumps s a (.bra f) target id
      ∧ Jumps s a (.call f) target (fun t => t.putD a f.cm.d 64 (nextPc (t.ctx a).pc).toNat))
    ∧ (∀ f : RForm,
      let target (t : State) : Int := (t.opVal a f.cm.a 64 : Nat)
      Jumps s a (.brx f) target id
      ∧ Jumps s a (.ret f) target id
      ∧ Jumps s a (.callx f) target (fun t => t.putD a f.cm.d 64 (nextPc (t.ctx a).pc).toNat)
      ∧ Stays s a (.exit f) (fun t => t.exitThread a))

/-- R175 to R177: votes, shuffles and matches over the present threads of the group. -/
def Obligations.GroupExchange : Prop :=
  ∀ (s : State) (as : List Agent) (f : RForm),
    let vote (t : State) (x : Agent) : Bool := t.readP x f.cm.a.num != f.func.getLsbD 2
    (fld f.func 0 2 = 3 → GroupCompletes s as (.vote f) (fun ps t =>
      ps.foldl (fun u x => u.putD x f.cm.d 64 (maskOf ((ps.filter (vote t)).map t.posOf))) t))
    ∧ (fld f.func 0 2 ≠ 3 → GroupCompletes s as (.vote f) (fun ps t =>
      ps.foldl (fun u x => u.writeP x f.cm.d.num (voteResult (fld f.func 0 2) (ps.map (vote t)))) t))
    ∧ GroupCompletes s as (.shfl f) (fun ps t =>
      let from_ (x : Agent) : Option Agent := ps.find? (fun y =>
        ((t.posOf y : Nat) : Int) == shflFrom (fld f.func 0 2) (t.posOf x) (t.opVal x f.cm.b 32))
      (ps.map (fun x => (x, t.opVal ((from_ x).getD x) f.cm.a (tyW f.ty)))).foldl
        (fun u p => u.putD p.1 f.cm.d (tyW f.ty) p.2) t)
    ∧ GroupCompletes s as (.matchv f) (fun ps t =>
      (ps.map (fun x => (x, maskOf ((ps.filter (fun y =>
        t.opVal y f.cm.a (tyW f.ty) == t.opVal x f.cm.a (tyW f.ty))).map t.posOf)))).foldl
        (fun u p => u.putD p.1 f.cm.d 64 p.2) t)

/-- R178 to R181: each present thread receives the fixed tree over the values of the positions that its form lets in, and the
flags of every tree; `REBAL` receives its owner, offset, total and start. -/
def Obligations.GroupReductions : Prop :=
  ∀ (s : State) (as : List Agent) (f : RForm),
    let op := fld f.func 0 3
    let tree (t : State) (ps : List Agent) (keep : Nat → Bool) : Node :=
      (fixedTree (redOp op f.ty.toNat f.round.toNat) 6
        ((ps.map (fun y => (t.posOf y, (t.opVal y f.cm.a (tyW f.ty), (0 : FFlags))))).filter (fun v => keep v.1))).getD
        (redIdentity op f.ty.toNat, 0)
    let head (t : State) (y : Agent) : Bool := t.readPQ y f.pred2
    let start (t : State) (ps : List Agent) (j : Nat) : Nat :=
      (ps.filter (fun x => head t x && decide (t.posOf x ≤ j))).foldl (fun m x => max m (t.posOf x)) 0
    GroupCompletes s as (.gred f) (fun ps t =>
      t.giveNodes f.cm.d (tyW f.ty) (ps.map (fun x => (x, tree t ps (fun _ => true)))))
    ∧ GroupCompletes s as (.scan f) (fun ps t =>
      t.giveNodes f.cm.d (tyW f.ty) (ps.map (fun x => (x, tree t ps (fun k =>
        if f.func.getLsbD 3 then decide (k < t.posOf x) else decide (k ≤ t.posOf x))))))
    ∧ GroupCompletes s as (.segred f) (fun ps t =>
      t.giveNodes f.cm.d (tyW f.ty) (ps.map (fun x => (x, tree t ps (fun k =>
        start t ps k == start t ps (t.posOf x) && (!f.func.getLsbD 3 || decide (k ≤ t.posOf x)))))))
    ∧ GroupCompletes s as (.rebal f) (fun ps t =>
      let counts := ps.map (fun x => (t.posOf x, t.opVal x f.cm.a 32))
      (ps.map (fun x => (x, rebalWord (startsFrom 0 counts) (counts.foldl (fun n c => n + c.2) 0) (t.opVal x f.cm.b 32)))).foldl
        (fun u p => u.putD p.1 f.cm.d 128 p.2) t)

/-! ### The lead and the launch (spec/09) -/

/-- R188: where its group has an entry to take, a present thread of a `DQPOP` receives it with true, and the whole group goes on.
The model's choices and readings in it: log 64. -/
def Obligations.QueuePop : Prop :=
  ∀ (s : State) (as : List Agent) (f : RForm) (x : Agent) (xs : List Agent),
    present s as (.dqpop f) = x :: xs →
    (groupBegan s as (.dqpop f)).level x = .t →
    (groupBegan s as (.dqpop f)).hasEntry x.core ((groupBegan s as (.dqpop f)).place x) ((groupBegan s as (.dqpop f)).groupOf x)
      = true →
    GroupCompletes s as (.dqpop f) (fun ps t =>
      let e := t.takeEntry x.core (t.place x) (t.groupOf x)
      (ps.foldl (fun u y => (u.putD y f.cm.d 64 e.1.toNat).writeP y f.cm.c.num true) e.2).settleQueue x.core (t.place x))

/-- R187, R202 to R204, R408: a push into a queue that is not full enters it with true; `LNCH` into an enabled queue with room whose
doorbell passes its checks writes the ring entry, accepts it and returns its index, or leaves the doorbell held in a frozen
partition; `FWORK`, a release (R219), hands its request to the distributor; `WGDONE` ends the lead.
The model's choices and readings in it: logs 10, 25, 43. -/
def Obligations.LeadForms : Prop :=
  ∀ (s : State) (a : Agent),
    (∀ f : RForm,
      let t := (began s a (.dqpush f)).flush a.core
      (t.ctx a).wait = .run → t.queueFull a.core ((began s a (.dqpush f)).place a) = false →
      Completes s a (.dqpush f) (fun b =>
        (((t.enqueue a.core (b.place a) (BitVec.ofNat 64 (b.opVal a f.cm.a 64))).writeP a f.cm.c.num true).settleQueue a.core
          (b.place a))))
    ∧ (∀ f : XForm,
      let b := began s a (.lnch f)
      let n := fld f.flags 0 6
      let q := (b.vf (vfKey (b.partOf a) ((b.vfOf a).getD 0))).queue n
      let end_ := (b.part (b.partOf a)).heldIndex ((b.vfOf a).getD 0) n q.widx
      let written (t : State) (at_ : Nat) : State := (t.flush a.core).vfWrite (t.partOf a) ((t.vfOf a).getD 0) (q.entryAt at_)
        (leBytes 8 (t.opVal a f.cm.a 64) ++ leBytes 8 (t.opVal a f.cm.b 64) ++ leBytes 16 0)
      q.enable = true → q.qerr = false → (end_ - q.ridx).toNat ≠ q.size →
      ((b.part (b.partOf a)).frozen = false → b.ringCause (b.partOf a) ((b.vfOf a).getD 0) q (q.widx + 1) = none →
        Completes s a (.lnch f) (fun t => ((written t q.widx.toNat).acceptEntries (t.partOf a) ((t.vfOf a).getD 0) n
          (q.widx + 1)).putD a f.cm.d 64 q.widx.toNat))
      ∧ ((b.part (b.partOf a)).frozen = true → Completes s a (.lnch f) (fun t =>
          ((written t end_.toNat).modPart (t.partOf a) (fun p =>
            { p with held := p.held ++ [((t.vfOf a).getD 0, n, end_ + 1)] })).putD a f.cm.d 64 end_.toNat)))
    ∧ (∀ (f : XForm) (g : Nat),
      let b := began s a (.fwork f)
      checkOwn (b.astoreOf a) (b.opVal a f.cm.a 32 : Nat) 32 = none → ((b.flush a.core).ctx a).wait = .run →
      (b.flush a.core).gridNo a = some g →
      Completes s a (.fwork f) (fun b =>
        let t := b.flush a.core
        (t.publish a (some (.at_ (.store a.core (t.place a) (b.opVal a f.cm.a 32)))) 0).modGrid g (fun x =>
          { x with fwork := x.fwork ++ [(t.idOf a, b.opVal a f.cm.a 32, (t.ctx a).pc)] })))
    ∧ (∀ f : XForm, Stays s a (.wgdone f) (fun t => t.endLead a))

/-! ### Memory instructions (spec/06, spec/09 R185, spec/10) -/

/-- R116, R126, R130, R185: a load whose address passes its checks is pending and counts in `ld`. -/
def Obligations.Loads : Prop :=
  ∀ (s : State) (a : Agent) (f : MForm),
    let load (ea : State → Int) (t : State) : State := t.post a (t.spot a f.space (ea t)) (sizeBytes f.size) f.order f.scope
      f.cache (.load f.cm.d (tySigned f.size)) .ld
    let fine (ea : State → Int) (i : Instr) : Prop := (began s a i).checkSpace a f.space.toNat (ea (began s a i))
      (sizeBytes f.size) false (f.order != 0) = none
    let plain (t : State) : Int := t.base a f.space f.cm.a + toVal true 20 f.offset.toNat
    let indexed (t : State) : Int := t.base a f.space f.cm.a
      + toVal (f.offset.getLsbD 16) 32 (t.opVal a f.cm.b 32) * ((2 ^ fld f.offset 17 3 : Nat) : Int)
      + toVal true 16 (fld f.offset 0 16)
    (fine plain (.ld f) → Completes s a (.ld f) (load plain))
    ∧ (fine plain (.lda f) → Completes s a (.lda f) (load plain))
    ∧ (fine plain (.lds f) → Completes s a (.lds f) (load plain))
    ∧ (fine indexed (.ldx f) → Completes s a (.ldx f) (load indexed))

/-- R116, R117, R126, R130: a store whose address passes its checks is pending with the data read at issue, and counts in
`st`. No byte of memory changes before it is performed.
The model's choices and readings in it: log 57. -/
def Obligations.Stores : Prop :=
  ∀ (s : State) (a : Agent) (f : MForm),
    let store (ea : State → Int) (d : Opnd) (t : State) : State := t.post a (t.spot a f.space (ea t)) (sizeBytes f.size)
      f.order f.scope f.cache (.store (leBytes (sizeBytes f.size) (t.opVal a d (8 * sizeBytes f.size)))) .st
    let fine (ea : State → Int) (i : Instr) : Prop := (began s a i).checkSpace a f.space.toNat (ea (began s a i))
      (sizeBytes f.size) true (f.order != 0) = none
    let plain (t : State) : Int := t.base a f.space f.cm.a + toVal true 20 f.offset.toNat
    let indexed (t : State) : Int := t.base a f.space f.cm.a
      + toVal (f.offset.getLsbD 16) 32 (t.opVal a f.cm.b 32) * ((2 ^ fld f.offset 17 3 : Nat) : Int)
      + toVal true 16 (fld f.offset 0 16)
    (fine plain (.st f) → Completes s a (.st f) (store plain f.cm.b))
    ∧ (fine plain (.sta f) → Completes s a (.sta f) (store plain f.cm.b))
    ∧ (fine indexed (.stx f) → Completes s a (.stx f) (store indexed f.cm.c))

/-- R127, R131: C-store accesses, and `LDGA`, whose ranges pass their checks are pending. -/
def Obligations.StoreSpaceForms : Prop :=
  ∀ (s : State) (a : Agent) (f : MForm),
    let n := sizeBytes f.size
    (checkCstore ((began s a (.ldcs f)).ea a f (off20 f)) n = none →
      Completes s a (.ldcs f) (fun t =>
        t.post a (.cstore (t.ea a f (off20 f)).toNat) n 0 0 0 (.load f.cm.d (tySigned f.size)) .ld))
    ∧ (checkCstore ((began s a (.stcs f)).ea a f (off20 f)) n = none →
      Completes s a (.stcs f) (fun t =>
        t.post a (.cstore (t.ea a f (off20 f)).toNat) n 0 0 0 (.store (leBytes n (t.opVal a f.cm.b (8 * n)))) .st))
    ∧ (let b := began s a (.ldga f)
       let ga : Int := (b.opVal a f.cm.a 64 : Nat) + off20 f
       let da := b.opVal a f.cm.b 32
       let ba := b.opVal a f.cm.c 32
       ∀ c w d x y z, b.checkGlobal a ga n false true = none → b.checkSpace a f.space.toNat da n true false = none →
        b.checkSpace a f.space.toNat ba 16 true false = none → ¬ (da < ba + 16 ∧ ba < da + n) →
        b.placeOf a f.space.toNat da = .store c w d → b.placeOf a f.space.toNat ba = .store x y z →
        Completes s a (.ldga f) (fun t =>
          t.post a (.glob (BitVec.ofInt 64 ga).toNat) n 0 0 f.cache (.ldga c w d x y z) .ld))

/-- R119, R122, R123, R127, R131, R135, R223: an address that fails its checks traps, the three of an `LDGA` in their order and its
overlap of destination and object with `BAR_BAD`; nothing is pending. A `CCTL.dl` traps only for a range that is not canonical or
passes the top.
The model's choices and readings in it: log 21. -/
def Obligations.AccessTraps : Prop :=
  ∀ (s : State) (a : Agent) (f : MForm) (t : Trap),
    let bad (i : Instr) (write : Bool) : Prop := (began s a i).checkSpace a f.space.toNat ((began s a i).ea a f (off20 f))
      (sizeBytes f.size) write (f.order != 0) = some t
    let n := sizeBytes f.size
    let badIx (i : Instr) (write : Bool) : Prop := (began s a i).checkSpace a f.space.toNat ((began s a i).eaIndexed a f) n write
      (f.order != 0) = some t
    let badAt (i : Instr) (n : Nat) : Prop := (began s a i).checkSpace a f.space.toNat ((began s a i).ea a f (off16 f)) n true true
      = some t
    (bad (.ld f) false → Traps s a (.ld f) t)
    ∧ (bad (.lda f) false → Traps s a (.lda f) t)
    ∧ (bad (.lds f) false → Traps s a (.lds f) t)
    ∧ (bad (.st f) true → Traps s a (.st f) t)
    ∧ (bad (.sta f) true → Traps s a (.sta f) t)
    ∧ (badIx (.ldx f) false → Traps s a (.ldx f) t)
    ∧ (badIx (.stx f) true → Traps s a (.stx f) t)
    ∧ (checkCstore ((began s a (.ldcs f)).ea a f (off20 f)) n = some t → Traps s a (.ldcs f) t)
    ∧ (checkCstore ((began s a (.stcs f)).ea a f (off20 f)) n = some t → Traps s a (.stcs f) t)
    ∧ (∀ i ∈ [Instr.atom f, .atoma f, .cas f], badAt i n → Traps s a i t)
    ∧ (badAt (.ticket f) 8 → Traps s a (.ticket f) t)
    ∧ (let b := began s a (.ldga f)
       let ga : Int := (b.opVal a f.cm.a 64 : Nat) + off20 f
       let da := b.opVal a f.cm.b 32
       let ba := b.opVal a f.cm.c 32
       (b.checkGlobal a ga n false true = some t → Traps s a (.ldga f) t)
       ∧ (b.checkGlobal a ga n false true = none → b.checkSpace a f.space.toNat da n true false = some t → Traps s a (.ldga f) t)
       ∧ (b.checkGlobal a ga n false true = none → b.checkSpace a f.space.toNat da n true false = none →
          b.checkSpace a f.space.toNat ba 16 true false = some t → Traps s a (.ldga f) t)
       ∧ (b.checkGlobal a ga n false true = none → b.checkSpace a f.space.toNat da n true false = none →
          b.checkSpace a f.space.toNat ba 16 true false = none → da < ba + 16 → ba < da + n →
          Traps s a (.ldga f) ⟨.barBad, 0⟩))
    ∧ ((began s a (.cctlDl f)).checkGlobal a ((began s a (.cctlDl f)).ea a f (off20 f)) 1 false false = some t →
      (t.code = .noncanon ∨ t.code = .crossTop → Traps s a (.cctlDl f) t)
      ∧ (¬ (t.code = .noncanon ∨ t.code = .crossTop) → Completes s a (.cctlDl f) id))

/-- R121, R134, R135, R393, R398, R407: a prefetch of an address that fails a check of R119 is dropped; another fills L1 from the block of
128 bytes, unless that is poisoned, or fills L2, and counts as a request to L2; cache controls drop the core's L1 copies, all or those
of an address, or its instruction cache. The walk of a prefetch or a `CCTL.dl` that meets an invalid entry or a firewall ends the grid
with `PERM`, one that meets a poisoned entry with `ECC_UE`.
The model's choices and readings in it: logs 12, 52. -/
def Obligations.CacheForms : Prop :=
  ∀ (s : State) (a : Agent) (f : MForm),
    let at_ (i : Instr) : Nat := (BitVec.ofInt 64 ((began s a i).ea a f (off20 f))).toNat
    let check (i : Instr) : Option Trap := (began s a i).checkGlobal a ((began s a i).ea a f (off20 f)) 1 false false
    let fails (i : Instr) (va : Nat) : Prop := ∀ t, (began s a i).viaOf a ≠ .phys → (began s a i).cacheAddr a va = .error t →
      (t.code = .perm → Stays s a i (fun u => (u.noteDrop a.core (u.viaOf a) t.va).raise a t)) ∧ (t.code ≠ .perm → Traps s a i t)
    (∀ i ∈ [Instr.prefL1 f, .prefL2 f], ((check i).isSome = true → Completes s a i id)
      ∧ (check i = none → fails i (at_ i / 128 * 128)))
    ∧ (∀ pa, let i := Instr.prefL1 f
      check i = none → (began s a i).cacheAddr a (at_ i / 128 * 128) = .ok pa → Completes s a i (fun t =>
        ((if t.poisoned pa 128 then t else t.l1Fill a.core pa 128 true 0).perfEvent a.core 6 (t.vfOf a) 1).fillTlb a.core (t.viaOf a)
          (at_ i / 128 * 128)))
    ∧ (∀ pa, let i := Instr.prefL2 f
      check i = none → (began s a i).cacheAddr a (at_ i / 128 * 128) = .ok pa → Completes s a i (fun t =>
        (t.perfEvent a.core 6 (t.vfOf a) 1).fillTlb a.core (t.viaOf a) (at_ i / 128 * 128)))
    ∧ Completes s a (.cctlIc f) (fun t => t.modCore a.core (fun k => { k with icache := [] }))
    ∧ Completes s a (.cctlDa f) (fun t => t.modCore a.core (fun k => { k with l1 := [] }))
    ∧ (let i := Instr.cctlDl f
       check i = none → fails i (at_ i) ∧ ∀ pa, (began s a i).cacheAddr a (at_ i) = .ok pa →
        Completes s a i (fun t => (t.modCore a.core (fun k => k.l1Drop pa 1)).fillTlb a.core (t.viaOf a) (at_ i)))

/-- R223 to R226: an atomic whose address passes its checks, write and aligned, is pending; a fence has everything that its core
has pending performed, and an acquire at `.team` or wider discards the L1 copies (R215).
The model's choices and readings in it: logs 10, 64. -/
def Obligations.AtomicsAndFences : Prop :=
  ∀ (s : State) (a : Agent) (f : MForm),
    let n := sizeBytes f.size
    let fine (i : Instr) (n : Nat) : Prop :=
      (began s a i).checkSpace a f.space.toNat ((began s a i).ea a f (off16 f)) n true true = none
    let post (n : Nat) (k : PendKind) (c : Ctr) (t : State) : State :=
      t.post a (t.spot a f.space (t.ea a f (off16 f))) n f.order f.scope 0 k c
    (fine (.atom f) n → Completes s a (.atom f) (fun t => post n
      (.atom f.cm.d (fld f.offset 16 4) f.size.toNat (BitVec.ofNat 64 (t.opVal a f.cm.b (8 * n)))) .ld t))
    ∧ (fine (.atoma f) n → Completes s a (.atoma f) (fun t => post n
      (.atom (.lit 0) (fld f.offset 16 4) f.size.toNat (BitVec.ofNat 64 (t.opVal a f.cm.b (8 * n)))) .st t))
    ∧ (fine (.cas f) n → Completes s a (.cas f) (fun t => post n
      (.cas f.cm.d (BitVec.ofNat 64 (t.opVal a f.cm.b (8 * n))) (BitVec.ofNat 64 (t.opVal a f.cm.c (8 * n)))) .ld t))
    ∧ (fine (.ticket f) 8 → Completes s a (.ticket f) (fun t => post 8
      (.ticket f.cm.d (BitVec.ofNat 32 (t.opVal a f.cm.b 32))
        (BitVec.ofNat 64 (if f.cm.c = .lit 0 then 2 ^ 64 - 1 else t.opVal a f.cm.c 64))) .ld t))
    ∧ (let seen (t : State) : State := (t.flush a.core).fenceSeen a (isRelease f.order) (isAcquire f.order)
       (f.order = 3 → Completes s a (.fence f) seen)
       ∧ (f.order ≠ 3 → Completes s a (.fence f) (fun t => (seen t).acquireAt a.core f.scope.toNat)))

/-- R112, R116, R120, R121, R131, R211, R232, R245, R333, R366: an access that may be performed now is performed. The loads of one issue
that share bytes return together, whole or first one of their atomic units; a store is written, whole or unit by unit; the `LDGA`s of
one issue that read a byte together land together; the atomics of one issue on one location, and the barrier forms of one issue on one
object, go together, whatever addresses name the object; a step on a block or a text form acts at its home.
The model's choices and readings in it: logs 1, 2, 57, 64, 76. -/
def Obligations.PerformedAccesses : Prop :=
  ∀ (s : State) (core op : Nat) (p : Pending), s.readyOp core op = some p →
    let together : Prop := ((s.core p.agent.core).atomicSet p).all (s.core p.agent.core).opReady = true
    let applied : State := ((s.core p.agent.core).atomicSet p).foldl (fun t q => t.perform q) s
    (p.isLoad = true → ((s.core core).loadSet p).all (s.core core).opReady = true →
      exec (.loadReturn core op) s = .next (s.performLoads ((s.core core).loadSet p)))
    ∧ (∀ d x, p.kind = .load d x → p.agent.core = core → (s.core core).loadSet p = [p] → p.rest.length ≤ 1 →
      exec (.loadReturn core op) s = .next (s.performLoad p d x))
    ∧ (∀ bs, p.kind = .store bs → exec (.storePerformed core op) s = .next (s.performStoreStep p bs)
      ∧ (p.rest.length ≤ 1 → exec (.storePerformed core op) s = .next (s.performStore p bs)))
    ∧ (p.isLdga = true → ((s.core core).loadSet p).all (s.core core).opReady = true →
      exec (.ldgaLanding core op) s = .next (((s.core core).loadSet p).foldl (fun t q => t.perform q) s))
    ∧ (p.isStep = true ∨ p.isText = true → exec (.loadReturn core op) s = .next (s.perform p))
    ∧ (∀ q : Pending, p.sameObject q = true → q ∈ (s.core p.agent.core).pend → q.sameIssue p = true →
      q ∈ (s.core p.agent.core).atomicSet p)
    ∧ (p.isAtomic = true → together → exec (.atomicAtHome core op) s = .next applied)
    ∧ (p.isBar = true → together →
      (p.ctr = .ld → exec (.loadReturn core op) s = .next applied)
      ∧ (p.ctr = .st → exec (.storePerformed core op) s = .next applied))

/-- R121, R302, R398, R407: a walk fills the TLB that misses, or meets an entry by which the access or the copy ends its grid: with
`PERM`, also where an `rw` lease stands over a page or a range without write access, or with `ECC_UE` where the entry is poisoned.
The model's choices and readings in it: logs 1, 12. -/
def Obligations.TableWalks : Prop :=
  ∀ (s : State) (core : Nat) (va : DWord) (part vf : Nat),
    (∀ q, s.missOp core va.toNat = some q → q.via = .vf part vf →
      exec (.tlbMissWalk core false va) s
        = .next (if s.deniedAt (some (dieOf core)) (s.core core).tlb q.via (s.leasesOf q.agent) va.toNat then
              s.opFails q ⟨.perm, va.toNat⟩
            else if (s.walk (some (dieOf core)) part vf va.toNat).isSome then s.fillTlb core q.via va.toNat
            else s.opFails q ⟨s.missCode (some (dieOf core)) [] q.via va.toNat false, va.toNat⟩))
    ∧ (∀ c, s.missCopy core va.toNat = some c → c.via = .vf part vf →
      exec (.tlbMissWalk core true va) s
        = .next (if s.deniedAt (some (dieOf core)) (s.core core).walkAhead c.via (s.leasesOf c.agent) va.toNat then
              s.copyFails core c ⟨.perm, va.toNat⟩
            else if (s.walk (some (dieOf core)) part vf va.toNat).isSome then s.fillWalkAhead core c.via va.toNat
            else s.copyFails core c ⟨s.missCode (some (dieOf core)) [] c.via va.toNat false, va.toNat⟩))

/-! ### Barrier objects (spec/00 R9, spec/11) -/

/-- R9, R230, R231: the four operations on an object, for every object: an arrival of at most `pend` lowers it, and the phase
advances exactly when nothing is expected any more and the bytes landed are the bytes expected; a larger arrival only sets
`aovr`. The bytes of an object whose fields fit hold the object. -/
def Obligations.BarrierObjects : Prop :=
  ∀ (o : Obj) (n : Nat),
    (o.pend < n → o.arrive n = ({ o with aovr := true }, false, false))
    ∧ (n ≤ o.pend → (o.arrive n).2.2 = true
      ∧ ((o.arrive n).2.1 = true ↔ o.pend = n ∧ o.bland = o.bexp)
      ∧ ((o.arrive n).2.1 = true → (o.arrive n).1 = { o with phase := o.phase + 1, pend := o.expa, bexp := 0, bland := 0 })
      ∧ ((o.arrive n).2.1 = false → (o.arrive n).1 = { o with pend := o.pend - n }))
    ∧ (o.bexp + n ≤ 0xFFFFFFFF → (o.expect n).2 = false → (o.expect n).1 = { o with bexp := o.bexp + n })
    ∧ (0xFFFFFFFF < o.bexp + n → (o.expect n).1.bovr = true)
    ∧ (0 < o.pend → o.bland + n ≤ 0xFFFFFFFF → o.credit n = ({ o with bland := o.bland + n }, false))
    ∧ (o.pend = 0 → o.bland + n = o.bexp → o.bexp ≤ 0xFFFFFFFF →
      o.credit n = ({ o with phase := o.phase + 1, pend := o.expa, bexp := 0, bland := 0 }, true))
    ∧ (o.pend = 0 → o.bexp < o.bland + n → (o.credit n).1.bovr = true)
    ∧ (o.expa < 4096 → o.pend < 4096 → o.bexp < 2 ^ 32 → o.bland < 2 ^ 32 → o.waiters < 2 ^ 16 → o.rsv < 2 ^ 16 →
      Obj.ofBytes o.bytes = o)

/-- R217, R219, R236 to R243, R245: a barrier form whose object passes its checks is pending, and counts in `st` or in `ld`; where it
may act, it acts on the object at its home, whose bytes are undefined where a matrix operation works on them, and its results are
written; `BINIT`, `BARV` and `BEXIT` release, and a `BTEST` that returns true and a `BWAIT` acquire, at that object. A `BWAIT` has
what its core has pending performed; it goes on at once where the object's phase is another, and waits where it is the phase that
it names.
The model's choices and readings in it: logs 1, 10, 64. -/
def Obligations.BarrierForms : Prop :=
  (∀ (s : State) (a : Agent) (f : MForm) (r : ObjRef),
    let named (i : Instr) : Prop := (began s a i).barObject a f = .ok r
    let n (t : State) : Nat := t.opVal a f.cm.b 32
    let ph (t : State) : BitVec 4 := BitVec.ofNat 4 (n t)
    let pends (i : Instr) (k : State → BarKind) (d : Opnd) (pred : Nat) (c : Ctr) : Prop :=
      named i → Completes s a i (fun t =>
        t.post a (t.spot a f.space (t.ea a f (off20 f))) 16 f.order f.scope 0 (.bar (k t) r d pred) c)
    (1 ≤ n (began s a (.binit f)) → n (began s a (.binit f)) ≤ 4095 → pends (.binit f) (fun t => .binit (n t)) (.lit 0) 7 .st)
    ∧ pends (.barv f) (fun t => .barv (n t)) f.cm.d f.cm.c.num .ld
    ∧ pends (.bexp f) (fun t => .bexp (n t)) (.lit 0) 7 .st
    ∧ pends (.btest f) (fun t => .btest (ph t)) f.cm.d f.cm.c.num .ld
    ∧ pends (.bexit f) (fun _ => .bexit) (.lit 0) f.cm.c.num .ld
    ∧ pends (.binval f) (fun _ => .binval) (.lit 0) f.cm.c.num .ld
    ∧ (let home (t : State) : State := ((t.flush a.core).barEvent a.core (t.viaOf a) r).spoilObj a.core r
         ((t.ctx a).marked (t.spot a f.space (t.ea a f (off20 f))) 16)
       let u := home (began s a (.bwait f))
       named (.bwait f) → (u.ctx a).wait = .run → u.objHurt r = false → (u.objRead r).consistent = true →
       ((u.objRead r).phase ≠ ph (began s a (.bwait f)) → Completes s a (.bwait f) (fun t =>
          (((home t).enterWait a).acquire a f.scope.toNat (some (.at_ r))).writeP a f.cm.d.num true))
       ∧ ((u.objRead r).phase = ph (began s a (.bwait f)) → Stays s a (.bwait f) (fun t =>
          let lim := t.opVal a f.cm.c 32
          (((home t).enterWait a).park a
            (.barrier r (ph t) (if lim = 0 then none else some (t.clock + lim)) f.cm.d.num f.scope.toNat)).refreshWaiters a.core r))))
  ∧ ∀ (s : State) (op : Nat) (p : Pending) (r : ObjRef) (d : Opnd) (pred : Nat),
    let c := p.agent.core
    let u : State := s.spoilObj c r p.undef
    let freed : State := u.publish p.agent (some (.at_ r)) p.scope.toNat
    let o := u.objRead r
    s.readyOp c op = some p → (s.core c).atomicSet p = [p] → u.objHurt r = false →
    let gives (t : State) (v : Bool) : State := (if (t.ctx p.agent).alive then t.writeP p.agent pred v else t).retire p
    let acts (k : BarKind) (t : State) : Prop := p.kind = .bar k r d pred →
      (p.ctr = .ld → exec (.loadReturn c op) s = .next t) ∧ (p.ctr = .st → exec (.storePerformed c op) s = .next t)
    (∀ n, (o.valid = false ∨ u.waitersOn r = 0) → acts (.binit n) ((freed.objWrite c r (Obj.fresh n)).retire p))
    ∧ (∀ n, o.consistent = true →
      acts (.barv n) (gives ((freed.objDone c r (o.arrive n).1 (o.arrive n).2.1).giveBack p d 32 o.phase.toNat) (o.arrive n).2.2)
      ∧ acts (.bexp n) ((u.objDone c r (o.expect n).1 (o.expect n).2).retire p))
    ∧ (∀ ph, ((o.valid = false ∨ o.phase = ph) → acts (.btest ph) (gives (u.giveBack p d 32 o.low) false))
      ∧ (o.valid = true → o.phase ≠ ph →
        acts (.btest ph) (gives ((u.acquire p.agent p.scope.toNat (some (.at_ r))).giveBack p d 32 o.low) true)))
    ∧ (o.consistent = true →
      (o.expa = 1 ∨ o.pend = 0 → acts .bexit (gives (freed.objWrite c r { o with aovr := true }) false))
      ∧ (o.expa ≠ 1 → o.pend ≠ 0 → acts .bexit (gives (freed.objDone c r ({ o with expa := o.expa - 1 }.arrive 1).1
          ({ o with expa := o.expa - 1 }.arrive 1).2.1) true))
      ∧ (u.waitersOn r = 0 → acts .binval (gives (u.objWrite c r { o with valid := false }) true))
      ∧ (u.waitersOn r ≠ 0 → acts .binval (gives u false)))

/-- R232, R236, R237, R393, R398, R407: an address that fails its checks, and a `BINIT` count outside 1 to 4,095, trap when the form
issues; an object of the global space that does not translate ends the grid with `PERM`, a firewall that drops the request keeping its
mark, or with `ECC_UE` where the walk meets a poisoned entry; an object that is not valid or not consistent ends the grid with
`BAR_BAD` when the form acts on it, and so does a `BINIT` of a valid object with waiters; a poisoned object ends it with `ECC_UE`. The
model's choices and readings in it: logs 1, 2, 10, 21. -/
def Obligations.BarrierTraps : Prop :=
  (∀ (s : State) (a : Agent) (f : MForm),
    (∀ t, ∀ i ∈ [Instr.binit f, .barv f, .bexp f, .bwait f, .btest f, .bexit f, .binval f],
      let b := began s a i
      let ea := b.ea a f (off20 f)
      (b.checkSpace a f.space.toNat ea 16 true true = some t → Traps s a i t)
      ∧ (∀ va, b.checkSpace a f.space.toNat ea 16 true true = none → b.spot a f.space ea = .glob va →
        b.globObj a.core (b.viaOf a) va = none →
        Stays s a i (fun u => (u.noteDrop a.core (u.viaOf a) va).raise a
          ⟨u.missCode (some (dieOf a.core)) (u.core a.core).tlb (u.viaOf a) va true, va⟩))
      ∧ (b.barObject a f = .error t → (∀ va, b.spot a f.space ea ≠ .glob va) → Traps s a i t))
    ∧ (∀ r, (began s a (.binit f)).barObject a f = .ok r →
      ((began s a (.binit f)).opVal a f.cm.b 32 = 0 ∨ 4095 < (began s a (.binit f)).opVal a f.cm.b 32) →
      Traps s a (.binit f) ⟨.barBad, 0⟩)
    ∧ (∀ r, let b := began s a (.bwait f)
      let u := ((b.flush a.core).barEvent a.core (b.viaOf a) r).spoilObj a.core r
        ((b.ctx a).marked (b.spot a f.space (b.ea a f (off20 f))) 16)
      (began s a (.bwait f)).barObject a f = .ok r → (u.ctx a).wait = .run →
      (u.objHurt r = true → Traps s a (.bwait f) ⟨.eccUe, 0⟩)
      ∧ (u.objHurt r = false → (u.objRead r).consistent = false → Traps s a (.bwait f) ⟨.barBad, 0⟩)))
  ∧ ∀ (s : State) (op : Nat) (p : Pending) (k : BarKind) (r : ObjRef) (d : Opnd) (pred : Nat),
    s.readyOp p.agent.core op = some p → (s.core p.agent.core).atomicSet p = [p] → p.kind = .bar k r d pred →
    let u : State := s.spoilObj p.agent.core r p.undef
    let fails (c : TrapCode) : Prop :=
      (p.ctr = .ld → exec (.loadReturn p.agent.core op) s = .next (u.opFails p ⟨c, 0⟩))
      ∧ (p.ctr = .st → exec (.storePerformed p.agent.core op) s = .next (u.opFails p ⟨c, 0⟩))
    (u.objHurt r = true → fails .eccUe)
    ∧ (u.objHurt r = false → (u.objRead r).consistent = false →
      (∃ n, k = .barv n ∨ k = .bexp n ∨ k = .bexit ∨ k = .binval) → fails .barBad)
    ∧ (∀ n, u.objHurt r = false → k = .binit n → (u.objRead r).valid = true → u.waitersOn r ≠ 0 → fails .barBad)

/-- R10, R173, R187, R188, R242, R244, R407: a bounded wait that has run out returns false, or on a poisoned object ends its grid with
`ECC_UE`; an unbounded one of `bwdog` clocks, and a thread held for `cwdog` clocks at a collective whose PC not every thread of its group
holds, trap `TIMEOUT`.
The model's choices and readings in it: logs 3, 65, 87. -/
def Obligations.WaitsRunOut : Prop :=
  ∀ (s : State) (a : Agent),
    (∀ r ph lim p sc, (s.ctx a).wait = .barrier r ph (some lim) p sc → lim ≤ s.clock →
      (s.objHurt r = false →
        exec (.waitPhaseTimeout a) s = .next ((s.modCtx a (fun c => c.proceed p false)).refreshWaiters a.core r))
      ∧ (s.objHurt r = true → exec (.waitPhaseTimeout a) s = .next (s.raise a ⟨.eccUe, 0⟩)))
    ∧ (∀ v lim p, (s.ctx a).wait = .push v (some lim) p → lim ≤ s.clock →
      exec (.waitPhaseTimeout a) s = .next (s.modCtx a (fun c => c.proceed p false)))
    ∧ (∀ b d lim p, (s.ctx a).wait = .pop b d (some lim) p → lim ≤ s.clock →
      exec (.waitPhaseTimeout a) s
        = .next (s.onGroup a.core (s.place a) (s.groupOf a) (Thread.leavePop none false)))
    ∧ (∀ h ph lim d p k, (s.ctx a).wait = .circle h ph (some lim) d p → lim ≤ s.clock → s.circleOf a h = some k →
      exec (.waitPhaseTimeout a) s = .next ((s.putInt a d false 32
        (barStatus ph k.fault (mixedPhase (if k.phase = ph then k.now else k.next)))).modCtx a (fun c => c.proceed p false)))
    ∧ (∀ h ph lim d p, (s.ctx a).wait = .circle h ph (some lim) d p → lim ≤ s.clock → s.circleOf a h = none →
      exec (.waitPhaseTimeout a) s = .next (s.modCtx a (fun c => c.proceed p false)))
    ∧ (∀ t at_, s.thread? a = some t → t.heldFrom = some at_ → (s.ctx a).wait = .run → (s.core a.core).cwdog.toNat ≠ 0 →
      at_ + (s.core a.core).cwdog.toNat ≤ s.clock → s.reconverged a = false →
      exec (.collectiveWatchdogTimeout a) s = .next (s.raise a ⟨.timeout, 0⟩))
    ∧ ((s.ctx a).wait.unbounded = true → (s.core a.core).bwdog.toNat ≠ 0 →
      (s.ctx a).waitFrom + (s.core a.core).bwdog.toNat ≤ s.clock →
      exec (.barrierWaitWatchdog a) s = .next (match (s.ctx a).wait with
        | .barrier r _ _ _ _ => (s.raise a ⟨.timeout, 0⟩).refreshWaiters a.core r
        | _ => s.raise a ⟨.timeout, 0⟩))

/-! ### Circles (spec/11 R246 to R258) -/

/-- R247 to R258, R219, R393: making, joining, leaving, freeing and asking complete at once; an arrival is recorded in the current phase
or the next, and the issuer waits for that phase. An arrival and a `CLEAVE` are releases and have what their core has pending performed
first (log 10). Where a firewall closes the way to the circle's home, a form takes `PERM` and an end keeps its mark.
The model's choices and readings in it: logs 2, 10, 27, 64, 66. -/
def Obligations.CircleForms : Prop :=
  ∀ (s : State) (a : Agent) (f : RForm),
    let ret (t : State) (h : Word) (ok : Bool) : State := (t.writeH a f.cm.d.num h).writeP a f.cm.c.num ok
    let key (t : State) : Word := BitVec.ofNat 32 (t.opVal a f.cm.a 32)
    let rank (t : State) : Nat := t.opVal a f.cm.b 32
    (∀ ix c, key (began s a (.cmake f)) ≠ 0 →
      ((began s a (.cmake f)).part ((began s a (.cmake f)).partOf a)).byKey ((began s a (.cmake f)).circleVf a)
        (key (began s a (.cmake f))) = some (ix, c) → (began s a (.cmake f)).circleReach a c = true →
      Completes s a (.cmake f) (fun t => ret t (c.handle ix) false))
    ∧ (∀ ix, let b := began s a (.cmake f)
      (key b = 0 ∨ (b.part (b.partOf a)).byKey (b.circleVf a) (key b) = none) →
      (b.part (b.partOf a)).freeIndex = some ix → rank b ≤ 65535 →
      (b.part (b.partOf a)).belongs (b.idOf a) < Config.circlesPerAgent →
      Completes s a (.cmake f) (fun t =>
        let c : Machine.Circle := {
          gen := (lookupN (t.part (t.partOf a)).gens ix).getD 1, key := key t, vf := t.circleVf a, home := dieOf a.core,
          members := [{ id := t.idOf a, rank := rank t, counted := true }] }
        ret (t.modPart (t.partOf a) (fun p => { p with circles := putN p.circles ix c })) (c.handle ix) true))
    ∧ (∀ c, let b := began s a (.cjoin f)
      b.foreignCircle a (key b) = false → b.circleOf a (key b) = some c → b.circleReach a c = true →
      rank b ≤ 65535 → c.members.any (fun m => m.rank == rank b) = false → c.member (b.idOf a) = none →
      c.members.length < Config.circleMembers → (b.part (b.partOf a)).belongs (b.idOf a) < Config.circlesPerAgent →
      Completes s a (.cjoin f) (fun t =>
        let k : Machine.Circle := { c with members := c.members ++ [{ id := t.idOf a, rank := rank t, counted := false }] }
        ret (t.modPart (t.partOf a) (fun p => { p with circles := putN p.circles (handleIx (key t)) k })) (key t) true))
    ∧ (∀ c, let b := began s a (.cleave f)
      b.circleOf a (b.readH a f.cm.d.num) = some c → b.circleReach a c = true → c.member (b.idOf a) = none →
      Completes s a (.cleave f) (fun t => t.writeP a f.cm.c.num false))
    ∧ (∀ c m, let b := began s a (.cleave f)
      b.circleOf a (b.readH a f.cm.d.num) = some c → b.circleReach a c = true → c.member (b.idOf a) = some m →
      m.counted = true →
      Completes s a (.cleave f) (fun t => ret (((t.flush a.core).publish a
        (some (.circle (t.partOf a) (handleIx (t.readH a f.cm.d.num)) c.gen c.phase.toNat)) 3).setCircle (t.partOf a) (handleIx (t.readH a f.cm.d.num))
        { c with now := if arrived c.now (t.idOf a) then c.now else c.now ++ [(t.idOf a, .quiet)],
                 members := c.members.map (fun x => if x.id == t.idOf a then { x with leaving := true } else x) }) 0 true))
    ∧ (∀ c m, let b := began s a (.cfree f)
      b.circleOf a (b.readH a f.cm.d.num) = some c → b.circleReach a c = true → c.members = [m] → m.id = b.idOf a → m.counted = true →
      Completes s a (.cfree f) (fun t => ret (t.modPart (t.partOf a) (fun p => p.freeCircle (handleIx (t.readH a f.cm.d.num))))
        0 true))
    ∧ (∀ c, let b := began s a (.cquery f)
      b.foreignCircle a (b.readH a f.cm.a.num) = false → b.circleOf a (b.readH a f.cm.a.num) = some c →
      b.circleReach a c = true →
      Completes s a (.cquery f) (fun t =>
        (t.putInt a f.cm.d false 64 (c.query (t.idOf a) (t.readH a f.cm.a.num))).writeP a f.cm.c.num true))
    ∧ (let waits (i : Instr) (lim : State → Nat) (k : State → ArriveKind) : Prop := ∀ c m,
        (began s a i).circleOf a ((began s a i).readH a f.cm.a.num) = some c → (began s a i).circleReach a c = true → c.member ((began s a i).idOf a) = some m →
        c.slotFor m ≠ .held → (((began s a i).flush a.core).ctx a).wait = .run →
        Stays s a i (fun t =>
          let h := t.readH a f.cm.a.num
          let u := (((t.flush a.core).publish a (some (.circle (t.partOf a) (handleIx h) c.gen
            (c.phaseOf (c.slotFor m)).toNat)) 3).enterWait a).park a (.circle h (c.phaseOf (c.slotFor m))
            (if lim t = 0 then none else some (t.clock + lim t)) f.cm.d f.cm.c.num)
          u.setCircle (t.partOf a) (handleIx h) (c.record (t.idOf a) (c.slotFor m) (k t)))
      waits (.cbar f) (fun t => t.opVal a f.cm.b 32) (fun _ => .bar)
      ∧ waits (.cvote f) (fun _ => 0) (fun t => .vote (fld f.func 0 2) (t.readPQ a f.pred2))
      ∧ waits (.cred f) (fun _ => 0) (fun t =>
          .red (fld f.func 0 3) f.ty f.round (BitVec.ofNat 64 (t.opVal a f.cm.b (tyW f.ty)))))
    ∧ (∀ c, ∀ x ∈ [(Instr.cleave f, f.cm.d.num), (.cfree f, f.cm.d.num), (.cquery f, f.cm.a.num), (.cbar f, f.cm.a.num),
        (.cvote f, f.cm.a.num), (.cred f, f.cm.a.num)],
      let b := began s a x.1
      (x.1 = .cquery f → b.foreignCircle a (b.readH a x.2) = false) →
      b.circleOf a (b.readH a x.2) = some c → b.circleReach a c = false →
      Stays s a x.1 (fun t => (t.markDrop (t.closedEnds false (dieOf a.core))).raise a ⟨.perm, 0⟩))
    ∧ (∀ ix c, let b := began s a (.cmake f)
      key b ≠ 0 → (b.part (b.partOf a)).byKey (b.circleVf a) (key b) = some (ix, c) → b.circleReach a c = false →
      Stays s a (.cmake f) (fun t => (t.markDrop (t.closedEnds false (dieOf a.core))).raise a ⟨.perm, 0⟩))
    ∧ (∀ c, let b := began s a (.cjoin f)
      b.foreignCircle a (key b) = false → b.circleOf a (key b) = some c → b.circleReach a c = false →
      Stays s a (.cjoin f) (fun t => (t.markDrop (t.closedEnds false (dieOf a.core))).raise a ⟨.perm, 0⟩))

/-! ### Coordinate volumes (spec/14) -/

/-- R266 to R269, R274, R275, R280, R282: an element access whose coordinates are in extent. Where the tile's leaf is in the
look-aside buffer, or a walk finds it dense, the access is pending like a weak access of the global space, a `VRED` like an
`ATOMA.rlx.dev`; a compact leaf is read or written at its home at once; an absent leaf reads as the background value, and a `VST`
or `VRED` allocates it, dense, or compact where the volume has a budget. In append mode a `VST` appends a record. The model's
choices and readings in it: logs 29, 67. -/
def Obligations.VolumeElements : Prop :=
  ∀ (s : State) (a : Agent) (f : XForm),
    let d (i : Instr) : VolDesc := (began s a i).volDesc a f
    let c (i : Instr) : List Nat := (began s a i).volCoords a f (d i)
    let tile (i : Instr) : Nat := (d i).tileOf (c i)
    let e (i : Instr) : Nat := (d i).elemOf (c i)
    let miss (i : Instr) : State := (began s a i).volMiss a
    let cached (i : Instr) (leaf : Nat) (t : State) : State := t.volCached a ((began s a i).volName a f) (tile i) leaf
    let held (i : Instr) (leaf : Nat) : Prop :=
      ((began s a i).core a.core).clbFind ((began s a i).volName a f) (tile i) = some leaf
    let walked (i : Instr) (w : Walked) : Prop :=
      ((began s a i).core a.core).clbFind ((began s a i).volName a f) (tile i) = none
      ∧ (miss i).volFind a (d i) (tile i) = .ok w
    let data (i : Instr) : Nat := (began s a i).opVal a f.cm.b (8 * (d i).elem)
    let op : Nat := fld f.flags 4 4
    let ty : Nat := fld f.flags 0 4
    let load : PendKind := .load f.cm.d false
    let store : PendKind := .store (leBytes (d (.vst f)).elem (data (.vst f)))
    let red : PendKind := .atom (.lit 0) op ty (BitVec.ofNat 64 (data (.vred f)))
    let dense (t : State) (i : Instr) (leaf : Nat) (w o : Bool) (ord sc : BitVec 3) (k : PendKind) (n : Ctr) (u : State) : Prop :=
      t.volDense a (d i) leaf (e i) w o ord sc k n = .ok u
    let writes (i : Instr) (o : Bool) (ord sc : BitVec 3) (k : PendKind) (new : Nat → Nat) : Prop :=
      (∀ leaf u, held i leaf → dense (cached i leaf (began s a i)) i leaf true o ord sc k .st u → Completes s a i (fun _ => u))
      ∧ (∀ w leaf u, walked i w → w.entry = .leaf leaf false → dense (cached i leaf (miss i)) i leaf true o ord sc k .st u →
        Completes s a i (fun _ => u))
      ∧ (∀ w leaf x u, walked i w → w.entry = .leaf leaf true → (miss i).volGet a (d i) leaf (e i) = .ok x →
        (miss i).volPut a (d i) w leaf (e i) (new x) = .ok u → Completes s a i (fun _ => u))
      ∧ (∀ w t w2 leaf u, walked i w → w.entry = .absent → (miss i).volAllocate a (d i) (tile i) w = .ok (.ok t w2) →
        w2.entry = .leaf leaf false → dense (cached i leaf t) i leaf true o ord sc k .st u → Completes s a i (fun _ => u))
      ∧ (∀ w t w2 leaf x u, walked i w → w.entry = .absent → (miss i).volAllocate a (d i) (tile i) w = .ok (.ok t w2) →
        w2.entry = .leaf leaf true → t.volGet a (d i) leaf (e i) = .ok x → t.volPut a (d i) w2 leaf (e i) (new x) = .ok u →
        Completes s a i (fun _ => u))
    ((d (.vld f)).check (c (.vld f)) false = none →
      (∀ leaf u, held (.vld f) leaf → dense (cached (.vld f) leaf (began s a (.vld f))) (.vld f) leaf false false 0 0 load .ld u →
        Completes s a (.vld f) (fun _ => u))
      ∧ (∀ w leaf u, walked (.vld f) w → w.entry = .leaf leaf false →
        dense (cached (.vld f) leaf (miss (.vld f))) (.vld f) leaf false false 0 0 load .ld u → Completes s a (.vld f) (fun _ => u))
      ∧ (∀ w leaf x, walked (.vld f) w → w.entry = .leaf leaf true →
        (miss (.vld f)).volGet a (d (.vld f)) leaf (e (.vld f)) = .ok x →
        Completes s a (.vld f) (fun t => (t.volMiss a).putD a f.cm.d (max 32 (8 * (d (.vld f)).elem)) x))
      ∧ (∀ w, walked (.vld f) w → w.entry = .absent → Completes s a (.vld f) (fun t =>
        (t.volMiss a).putD a f.cm.d (max 32 (8 * (d (.vld f)).elem))
          ((d (.vld f)).background % 2 ^ (8 * (d (.vld f)).elem)))))
    ∧ ((d (.vst f)).check (c (.vst f)) true = none → (d (.vst f)).append = false →
      writes (.vst f) false 0 0 store (fun _ => data (.vst f)))
    ∧ ((d (.vst f)).check (c (.vst f)) true = none → (d (.vst f)).append = true → ∀ region count i first u,
      let b := (began s a (.vst f)).volAsk a
      b.volAppend a (d (.vst f)) = .ok (region, count, i, first) → 32 * (i - first + 1) ≤ 4096 * count →
      b.volWrites a [(region + 32 * (i - first), (List.range 4).flatMap (fun k => leBytes 4 ((c (.vst f)).getD k 0))
        ++ leBytes 8 (b.opVal a f.cm.b (8 * (d (.vst f)).elem)) ++ List.replicate 8 0),
        ((d (.vst f)).pool + 0x30, leBytes 8 (i + 1))] = .ok u →
      Completes s a (.vst f) (fun _ => u))
    ∧ ((d (.vred f)).check (c (.vred f)) false = none →
      writes (.vred f) true 1 4 red (fun x => atomOp op ty x (data (.vred f))))

/-- R273: coordinates out of extent trap `VOL_RANK`, and a form that an append-mode volume does not take traps `PERM`.
The model's choices and readings in it: log 21. -/
def Obligations.VolumeTraps : Prop :=
  ∀ (s : State) (a : Agent) (f : XForm),
    let d (i : Instr) : VolDesc := (began s a i).volDesc a f
    let c (i : Instr) : List Nat := (began s a i).volCoords a f (d i)
    (∀ i ∈ [Instr.vld f, .vred f, .vprobe f, .vtouch f, .vfree f],
      ((d i).append = true → Traps s a i ⟨.perm, 0⟩)
      ∧ ((d i).append = false → (∃ p ∈ (c i).zip (d i).ext, p.2 ≤ p.1) → Traps s a i ⟨.volRank, 0⟩))
    ∧ ((∃ p ∈ (c (.vst f)).zip (d (.vst f)).ext, p.2 ≤ p.1) → Traps s a (.vst f) ⟨.volRank, 0⟩)
    ∧ ((d (.vfreeAll f)).append = true → Traps s a (.vfreeAll f) ⟨.perm, 0⟩)

/-- R276 to R279: `VPROBE` and `VTOUCH` give the entry of the leaf, `VFREE` of an absent tile and `VINV` shoot down and perform what
is pending, `VFREE` of a present tile clears its entry and frees its block, `VFREE.all` empties the tree, `VPOOL` gives a pool a
region. A shoot-down has everything that its core has pending performed (log 10).
The model's choices and readings in it: logs 10, 29, 67. -/
def Obligations.VolumeManagement : Prop :=
  ∀ (s : State) (a : Agent) (f : XForm),
    let d (i : Instr) : VolDesc := (began s a i).volDesc a f
    let tile (i : Instr) : Nat := (d i).tileOf ((began s a i).volCoords a f (d i))
    let fits (i : Instr) : Prop := (d i).check ((began s a i).volCoords a f (d i)) false = none
    let asked (i : Instr) : State := (began s a i).volAsk a
    (∀ w leaf k, fits (.vprobe f) → (asked (.vprobe f)).volFind a (d (.vprobe f)) (tile (.vprobe f)) = .ok w →
      w.entry = .leaf leaf k → Completes s a (.vprobe f) (fun t => (t.volAsk a).putD a f.cm.d 64 w.raw))
    ∧ (∀ w, fits (.vprobe f) → (asked (.vprobe f)).volFind a (d (.vprobe f)) (tile (.vprobe f)) = .ok w →
      w.entry = .absent → Completes s a (.vprobe f) (fun t => (t.volAsk a).putD a f.cm.d 64 0))
    ∧ (∀ w leaf, fits (.vtouch f) → ((began s a (.vtouch f)).volMiss a).volFind a (d (.vtouch f)) (tile (.vtouch f)) = .ok w →
      w.entry = .leaf leaf false → Completes s a (.vtouch f) (fun t =>
        ((t.volMiss a).volCached a (t.volName a f) (tile (.vtouch f)) leaf).putD a f.cm.d 64 w.raw))
    ∧ (∀ w leaf, fits (.vtouch f) → ((began s a (.vtouch f)).volMiss a).volFind a (d (.vtouch f)) (tile (.vtouch f)) = .ok w →
      w.entry = .leaf leaf true → Completes s a (.vtouch f) (fun t => (t.volMiss a).putD a f.cm.d 64 w.raw))
    ∧ (∀ w w2 leaf u, fits (.vtouch f) →
      ((began s a (.vtouch f)).volMiss a).volFind a (d (.vtouch f)) (tile (.vtouch f)) = .ok w → w.entry = .absent →
      ((began s a (.vtouch f)).volMiss a).volAllocate a (d (.vtouch f)) (tile (.vtouch f)) w = .ok (.ok u w2) →
      w2.entry = .leaf leaf false → Completes s a (.vtouch f) (fun t =>
        (u.volCached a (t.volName a f) (tile (.vtouch f)) leaf).putD a f.cm.d 64 w2.raw))
    ∧ (∀ w w2 leaf u, fits (.vtouch f) →
      ((began s a (.vtouch f)).volMiss a).volFind a (d (.vtouch f)) (tile (.vtouch f)) = .ok w → w.entry = .absent →
      ((began s a (.vtouch f)).volMiss a).volAllocate a (d (.vtouch f)) (tile (.vtouch f)) w = .ok (.ok u w2) →
      w2.entry = .leaf leaf true → Completes s a (.vtouch f) (fun _ => u.putD a f.cm.d 64 w2.raw))
    ∧ (∀ w, fits (.vfree f) → (asked (.vfree f)).volFind a (d (.vfree f)) (tile (.vfree f)) = .ok w → w.entry = .absent →
      Completes s a (.vfree f) (fun t => (t.volAsk a).volShoot a f (some (tile (.vfree f)))))
    ∧ (∀ w leaf k s1 p s3 head s4, fits (.vfree f) →
      (asked (.vfree f)).volFind a (d (.vfree f)) (tile (.vfree f)) = .ok w → w.entry = .leaf leaf k →
      (asked (.vfree f)).volWrite a w.at_ (leBytes 8 0) = .ok s1 →
      (s1.volShoot a f (some (tile (.vfree f)))).volPool a (d (.vfree f)) = .ok p →
      (s1.volShoot a f (some (tile (.vfree f)))).pushBlocks a [leaf] p.free = .ok (s3, head) →
      s3.volWrites a [((d (.vfree f)).pool, leBytes 8 head),
        ((d (.vfree f)).pool + 0x24, leBytes 4 (p.tilesLive + 2 ^ 32 - 1))] = .ok s4 →
      Completes s a (.vfree f) (fun _ => s4))
    ∧ (let v := d (.vfreeAll f)
       ∀ leaves nodes p s1 s3 head s4, v.append = false →
        (asked (.vfreeAll f)).volTree a v 8 0 v.root = .ok (leaves, nodes) →
        (asked (.vfreeAll f)).volPool a v = .ok p →
        (asked (.vfreeAll f)).volWrites a [(v.root, List.replicate 512 0), (v.pool + 0x18, leBytes 8 0),
          (v.pool + 0x20, leBytes 4 0), (v.pool + 0x2C, leBytes 4 0)] = .ok s1 →
        (s1.volShoot a f none).pushBlocks a (leaves ++ sortBy id
          (((nodes.map (fun n => n / 4096 * 4096)).filter (· != v.pool)).eraseDups)) p.free = .ok (s3, head) →
        s3.volWrites a [(v.pool, leBytes 8 head),
          (v.pool + 0x24, leBytes 4 ((p.tilesLive + 2 ^ 32 - leaves.length % 2 ^ 32) % 2 ^ 32)),
          (v.pool + 0x28, leBytes 4 ((p.nodesLive + 2 ^ 32 - nodes.length % 2 ^ 32) % 2 ^ 32))] = .ok s4 →
        Completes s a (.vfreeAll f) (fun _ => s4))
    ∧ Completes s a (.vinv f) (fun t => t.volShoot a f none)
    ∧ (let b := began s a (.vpool f)
       let h := b.opVal a f.cm.a 64
       let base := b.opVal a f.cm.b 64
       let n := b.opVal a f.cm.c 32
       ∀ r, h % 4096 = 0 → base % 4096 = 0 → b.poolRights a h base n = none → (b.volAsk a).volRead a h 0x40 = .ok r →
        ((leAt r 8 8 = 0 ∨ leAt r 0x14 4 < leAt r 0x10 4 ∨ n = 0) →
          Completes s a (.vpool f) (fun t => (t.volAsk a).writeP a f.cm.d.num false))
        ∧ (∀ u, leAt r 8 8 ≠ 0 → leAt r 0x10 4 ≤ leAt r 0x14 4 → n ≠ 0 →
          (b.volAsk a).volWrites a [(h + 8, leBytes 8 base ++ leBytes 4 n ++ leBytes 4 0), (h + 0x38, leBytes 8 (leAt r 0x30 8))] = .ok u →
          Completes s a (.vpool f) (fun _ => u.writeP a f.cm.d.num true)))

/-! ### The copy engine (spec/15) -/

/-- R216, R217, R283, R288 to R296, R300, R301: a copy form whose checks pass is handed to the engine of its core, after its
expectation where it makes one; while the engine's queue is full the form stays at its PC; `OWAIT` goes on when its counts are low
enough and waits otherwise; `OFENCE` has what is pending performed. A form that fails a check traps it, and no command is made.
The model's choices and readings in it: logs 10, 30, 31, 64. -/
def Obligations.CopyForms : Prop :=
  ∀ (s : State) (a : Agent),
    (∀ f : XForm,
      let handed (op : Nat) (i : Instr) : Prop :=
        ((began s a i).core a.core).copiesFull = false → (began s a i).copyCheck op f a ((began s a i).copyCmd op f a) = none →
        let c := (began s a i).copyCmd op f a
        let out (u : State) : State := ({ u with nextOp := u.nextOp + 1 } : State).modCore a.core (fun k => { k with copies := k.copies ++ [c] })
        (copyExp f = false → Completes s a i (fun t => out t))
        ∧ (∀ u, copyExp f = true → (began s a i).copyCount c a.core false (c.credits (List.range c.n)) = (u, none) →
          Completes s a i (fun _ => out u))
      let held (i : Instr) : Prop := ((began s a i).core a.core).copiesFull = true → Stays s a i id
      handed 0 (.cpy f) ∧ handed 1 (.cpym f) ∧ handed 2 (.cpys f) ∧ handed 3 (.cpyr f)
      ∧ held (.cpy f) ∧ held (.cpym f) ∧ held (.cpys f) ∧ held (.cpyr f))
    ∧ (∀ f : RForm,
      (((began s a (.owait f)).ctx a).owaitMet f.func = true → Completes s a (.owait f) (fun t =>
        let u := t.owaitSeen a (fld f.func 4 4 != 15) (fld f.func 0 4 != 15)
        if fld f.func 0 4 = 15 then u else u.modCtx a (Ctx.unmark (u.core a.core).liveOps)))
      ∧ (((began s a (.owait f)).ctx a).owaitMet f.func = false → Stays s a (.owait f) id)
      ∧ Completes s a (.ofence f) (fun t =>
        let u := t.flush a.core
        u.modCore a.core (fun k => k.fenceFresh (u.idOf a))))
    ∧ (∀ (f : XForm) (t : Trap),
      let bad (op : Nat) (i : Instr) : Prop := ((began s a i).core a.core).copiesFull = false
        ∧ (began s a i).copyCheck op f a ((began s a i).copyCmd op f a) = some t
      (bad 0 (.cpy f) → Traps s a (.cpy f) t) ∧ (bad 1 (.cpym f) → Traps s a (.cpym f) t)
      ∧ (bad 2 (.cpys f) → Traps s a (.cpys f) t) ∧ (bad 3 (.cpyr f) → Traps s a (.cpyr f) t))

/-- R214, R283, R296 to R299: the engine accepts the oldest waiting command while fewer than its queue are accepted, and it counts
in `cp`; a chunk of a command at work lands, whole where no choice of another order stands in the oracle; a command whose chunks
have all landed leaves the engine and `cp`. The model's choices and readings in it: logs 1, 2, 31. -/
def Obligations.CopyEngine : Prop :=
  ∀ (s : State) (core : Nat) (c : CopyCmd),
    ((s.core core).copies.find? (fun x => !x.accepted) = some c →
      ((s.core core).copies.filter (·.accepted)).length < Config.copyQueue →
      exec (.copyCommandAccept core c.id) s
        = .next ((s.modCore core (fun k => k.modCopy c.id (fun x => { x with accepted := true }))).countIn c.agent .cp))
    ∧ (∀ chunk, (s.core core).copiesAtWork.find? (fun x => x.id == c.id) = some c → chunk < c.chunks →
      c.landed.contains chunk = false → c.waitsRegion (s.core core) (c.chunk chunk) = false →
      exec (.copyChunkLand core c.id chunk) s = .next (s.landStep core c chunk)
      ∧ (s.oracle = [] → exec (.copyChunkLand core c.id chunk) s = .next (s.landChunk core c chunk)))
    ∧ ((s.core core).copiesAtWork.find? (fun x => x.id == c.id) = some c → c.landed.length = c.chunks →
      exec (.copyCommandComplete core c.id) s = .next ((s.modCore core (fun k => k.dropCopy c.id)).countOut c.agent .cp))

/-! ### The matrix array (spec/16) -/

/-- R314, R318 to R327: `MSET` sets a count between sets; a zeroing, a drain or a quantisation whose checks pass is counted in `mx` and
enters the sequencer; while the sequencer is full its issuer waits; `MCHK` with no operation of its workgroup under way reads and
clears the status and asks for an injection, unless one of its workgroup still waits for its comparison; else it waits.
The model's choices and readings in it: logs 20, 32, 46. -/
def Obligations.MatrixForms : Prop :=
  ∀ (s : State) (a : Agent) (f : XForm),
    let cvOf (t : State) : ConvReg := ((t.wg? a).bind (fun w => lookupN w.cvs f.cv.toNat)).getD {}
    let n : Nat := (began s a (.mset f)).opVal a f.cm.a 32
    let free : Prop := (cvOf (began s a (.mset f))).signed = 0 ∧ n ≤ 4089
    let issued (i : Instr) (kind : State → MxKind) (spans : State → List (Place × Nat)) : Prop :=
      (∀ w, (began s a i).wg? a = some w → (began s a i).seqFull a = false → Completes s a i (fun t =>
        ({ t.markMx a { op := t.nextOp, tiles := (kind t).tiles, spans := spans t } with nextOp := t.nextOp + 1 } : State).pushMx
          a w t.nextOp (t.ctx a).pc (kind t) false))
      ∧ (∀ w, (began s a i).wg? a = some w → (began s a i).seqFull a = true → Stays s a i id)
    let dst (t : State) : Nat := t.opVal a f.cm.a (if drainSpace f = 0 then 64 else 32)
    let b (t : State) : Nat := t.opVal a f.cm.b 64
    let order (mode : Nat) (t : State) : Nat := if mode = 2 then t.opVal a f.cm.c 64 else 0
    let rows (t : State) : List Place :=
      (List.range 64).map (fun i => t.copyPlace a (drainSpace f) (dst t + b t % 2 ^ 32 * i))
    let drained (mode : Nat) (i : Instr) : Prop :=
      (began s a i).drainCheck a f mode (dst (began s a i)) (b (began s a i) % 2 ^ 32) (order mode (began s a i)) = none →
      issued i (fun t => .drain mode f (rows t) (b t / 2 ^ 32) (order mode t)) (fun t => (rows t).map (·, drainRow f))
    let fmt (t : State) : BitVec 64 := ((t.gridOf a).map (·.fmtOf f)).getD 0
    let own (t : State) (o : Nat) : Place := .store a.core (t.place a) o
    (free → Completes s a (.mset f) (fun t => (t.modCore a.core (fun k => k.modWg (t.place a) (fun w =>
      { w with cvs := putN w.cvs f.cv.toNat { count := t.opVal a f.cm.a 32 } }))).writeP a f.cm.d.num true))
    ∧ (¬ free → Completes s a (.mset f) (fun t => t.writeP a f.cm.d.num false))
    ∧ issued (.mzero f) (fun _ => .mzero (fld f.flags 0 8)) (fun _ => [])
    ∧ drained 0 (.mdrain f) ∧ drained 1 (.mdrainAdd f) ∧ drained 2 (.mdrainAddOrd f)
    ∧ ((began s a (.qdual f)).quantCheck a [((began s a (.qdual f)).opVal a f.cm.a 32, qdualRead f),
        ((began s a (.qdual f)).opVal a f.cm.b 32, qdualWrite (fmt (began s a (.qdual f))))] = none →
      issued (.qdual f) (fun t => .qdual f (t.opVal a f.cm.a 32) (t.opVal a f.cm.b 32))
        (fun t => [(own t (t.opVal a f.cm.a 32), qdualRead f), (own t (t.opVal a f.cm.b 32), qdualWrite (fmt t))]))
    ∧ ((began s a (.qscan f)).quantCheck a [((began s a (.qscan f)).opVal a f.cm.a 32, qscanWrite (fmt (began s a (.qscan f))))]
        = none →
      issued (.qscan f) (fun t => .qscan f (t.opVal a f.cm.a 32)) (fun t => [(own t (t.opVal a f.cm.a 32), qscanWrite (fmt t))]))
    ∧ (let ids (t : State) : List Nat := ((t.core a.core).mxOps.filter (fun o => o.wg == t.place a)).map (·.id)
       let inject (t : State) : Bool := f.flags.getLsbD 0 && !t.injecting a
       (ids (began s a (.mchk f)) = [] → Completes s a (.mchk f) (fun t => t.readMstat a f.cm.d (inject t)))
       ∧ (ids (began s a (.mchk f)) ≠ [] → Stays s a (.mchk f) (fun t =>
          t.modCtx a (fun c => { c with wait := .mchk (ids t) f.cm.d (inject t) }))))

/-- R310, R314, R315: a signature of a set that is counted: the first one is checked and keeps what the operation reads, a later one
that matches it joins, and the last one of the count hands the operation to the sequencer; a set whose count is 0, and a signature
that does not match, trap `MX_FAULT`. The set keeps which recent writes its signers have not observed and fenced (R216).
The model's choices and readings in it: logs 20, 32, 64. -/
def Obligations.SignatureSets : Prop :=
  ∀ (s : State) (a : Agent) (f : XForm) (sparse : Bool) (w : Wg) (g : Grid),
    let i : Instr := if sparse then .mmas f else .mma f
    let t := began s a i
    let r : ConvReg := (lookupN w.cvs f.cv.toNat).getD {}
    let av : DWord := BitVec.ofNat 64 (t.opVal a f.cm.a 64)
    let fmt := g.fmtOf f
    let first : Snapshot :=
      { form := sigForm f, sparse := sparse, aVal := av, bScales := if fmtScale fmt then t.bScales a f else [],
        pc := (t.ctx a).pc, since := t.clock, op := t.nextOp }
    let signers := r.signers ++ [(t.idOf a, f.cm.c)]
    let unfenced := (r.unfenced ++ (t.core a.core).unfenced (t.idOf a)).eraseDups
    let mark (sn : Snapshot) : MxMark :=
      { op := sn.op, tiles := [mmaTile f],
        spans := [(.store a.core (t.place a) (aOffset av), mmaK f * aBlock (fmtA fmt)),
                  (.wstore (wOffset av), mmaSpan (t.core a.core).wstore fmt sparse f (wOffset av))],
        regs := match f.cm.c with
          | .g k => if fmtScale fmt && !a.isLead then some (k.toNat, min (mmaR f) (mmaK f)) else none
          | _ => none }
    let setCv (c : ConvReg) (u : State) : State :=
      u.modCore a.core (fun k => k.modWg (u.place a) (fun w => { w with cvs := putN w.cvs f.cv.toNat c }))
    let taken : Option (Snapshot × State) := match r.snap with
      | none => if mmaCheck fmt sparse f av (t.astoreOf a) = none then some (first, { t with nextOp := t.nextOp + 1 }) else none
      | some sn => if sn.form = sigForm f ∧ sn.sparse = sparse ∧ sn.aVal = av then some (sn, t) else none
    t.wg? a = some w → t.gridOf a = some g →
    (r.count = 0 → Traps s a i ⟨.mxFault, 0⟩)
    ∧ (∀ sn, r.count ≠ 0 → r.snap = some sn → ¬ (sn.form = sigForm f ∧ sn.sparse = sparse ∧ sn.aVal = av) →
      Traps s a i ⟨.mxFault, 0⟩)
    ∧ (∀ sn u, r.count ≠ 0 → taken = some (sn, u) → r.signed + 1 ≠ r.count →
      Completes s a i (fun _ => setCv { r with signed := r.signed + 1, snap := some sn, signers := signers, unfenced := unfenced }
        (u.markMx a (mark sn))))
    ∧ (∀ sn u, taken = some (sn, u) → r.signed + 1 = r.count → t.seqFull a = false →
      (fmtScale fmt = true → fullRows signers = true) →
      Completes s a i (fun _ => setCv { count := r.count }
        (((u.markMx a (mark sn)).pushMx a w sn.op sn.pc (.mma sn signers unfenced) w.inject).modCore a.core (fun k =>
          k.modWg (t.place a) (fun w => { w with inject := false })))))

/-- R311, R321, R326, R327: an operation of the sequencer that may start does its work; one that runs completes and leaves `mx`; an
ordered drain waits at its word until its number stands there; the watchdog ends a grid for a drain that waits too long in resident
clocks while its word holds another number, and for a set that stays partly signed, whatever the sequencer holds.
The model's choices and readings in it: logs 1, 16, 17, 47, 64. -/
def Obligations.MatrixSequencer : Prop :=
  (∀ (s : State) (core op : Nat) (o : MxOp), (s.core core).findMx op = some o →
    (∀ m, s.mayStart core o = true → exec (.matrixOpStart core op m) s = .next (s.startMx core o m))
    ∧ (o.state = .running → exec (.matrixOpComplete core op) s = .next ((s.spoilRows core o).retireMx core o))
    ∧ (∀ f rows seq order t u, o.kind = .drain 2 f rows seq order → o.state = .atWord t → s.orderWord core o order = .ok seq →
      s.applyOrdered core o (s.mxFmt o f) f rows seq order = .ok u →
      exec (.orderedDrainApply core op) s = .next (u.modCore core (fun k => k.modMx op (fun o => { o with state := .running }))))
    ∧ (∀ f rows seq order t e, o.kind = .drain 2 f rows seq order → o.state = .atWord t → s.orderWord core o order = .error e →
      exec (.orderedDrainApply core op) s = .next (s.mxFails core o e))
    ∧ (∀ f rows seq order t z, o.kind = .drain 2 f rows seq order → o.state = .atWord t → (s.core core).cwdog.toNat ≠ 0 →
      t + (s.core core).cwdog.toNat ≤ s.clock + o.waited → s.orderWord core o order = .ok z → z ≠ seq →
      exec (.orderedDrainTimeout core op) s = .next (s.mxFails core o ⟨.timeout, 0⟩)))
  ∧ ∀ (s : State) (core wg cv : Nat) (w : Wg) (r : ConvReg) (sn : Snapshot), (s.core core).wg wg = some w →
    lookupN w.cvs cv = some r → r.snap = some sn →
    (s.core core).cwdog.toNat ≠ 0 → sn.since + (s.core core).cwdog.toNat ≤ s.clock →
    let u := s.modCore core (fun k => k.modWg wg (fun w => { w with cvs := putN w.cvs cv { count := r.count } }))
    let signer : Option Agent := r.signers.head?.bind (fun x => u.locate x.1)
    (∀ a, signer = some a → exec (.setWatchdogTimeout core wg cv) s = .next (u.failAt a ⟨.timeout, 0⟩ sn.pc))
    ∧ (signer = none → exec (.setWatchdogTimeout core wg cv) s = .next (u.report (some w.grid) ⟨.timeout, 0⟩ sn.pc core))

/-! ### Generation (spec/18) -/

/-- R333, R334, R339 to R342, R344, R347, R352: a step on a block whose checks pass is pending at the block's home and counts in `ld`; it
is a release, and with a value to return an acquire. At the home, where the reserved bits of the header and of every slot are right and
the block is of its VF's epoch, `CAST` rewrites a slot by the rule and moves the frontier, `SLOTLD` gives a slot or the state word,
`FRONT.open` opens a block, `FRONT.pass` casts off at least k_min slots and starts the next pass; a void block only reads. What it
finds wrong there ends the grid. The model's choices and readings in it: logs 1, 34, 35, 64. -/
def Obligations.GenerationSteps : Prop :=
  (∀ (s : State) (a : Agent) (f : XForm),
    let at_ (t : State) : Nat := t.opVal a f.cm.a 64
    let k (t : State) : Nat := t.opVal a f.cm.b 32
    let conf (t : State) : Nat := t.opVal a f.cm.c 64
    let posts (i : Instr) (slot : State → Option Nat) (write : Bool) (op : State → StepOp) : Prop :=
      let b := began s a i
      (∀ pa, b.stepCheck a (at_ b) (slot b) write = none → b.xlate a.core (b.viaOf a) (at_ b) false = some pa →
        Completes s a i (fun t =>
          t.post a (.glob (at_ t)) 64 (if f.cm.d = .lit 0 then 3 else 4) 5 0 (.step (op t) pa f.cm.d) .ld))
      ∧ (at_ b % 64 ≠ 0 → Traps s a i ⟨.align, at_ b⟩)
      ∧ (∀ t, at_ b % 64 = 0 → b.checkGlobal a (at_ b) 64 write false = some t → Traps s a i t)
      ∧ (∀ t n, slot b = some n → at_ b % 64 = 0 → b.checkGlobal a (at_ b) 64 write false = none →
        b.checkGlobal a (at_ b + 64 + 8 * n : Nat) 8 write false = some t → Traps s a i t)
    posts (.cast f) (fun t => some (k t)) true
      (fun t => .cast (k t) (conf t % 2 ^ 20) (conf t / 2 ^ 32 % 2 ^ 16) (t.ruleOf a f))
    ∧ posts (.slotldRd f) (fun t => some (k t)) false (fun t => .slot false (k t))
    ∧ posts (.slotldMark f) (fun t => some (k t)) true (fun t => .slot true (k t))
    ∧ posts (.slotldHdr f) (fun _ => none) false (fun _ => .header)
    ∧ posts (.frontOpen f) (fun _ => none) true (fun _ => .opening)
    ∧ posts (.frontPass f) (fun _ => none) true (fun t => .pass (ruleKmin (t.ruleOf a f))))
  ∧ ∀ (s : State) (op : Nat) (p : Pending) (o : StepOp) (blk : Nat) (d : Opnd) (b : Block),
    s.readyOp p.agent.core op = some p → p.kind = .step o blk d →
    let h := p.home
    let at_ := p.place.addr
    let acts (t : State) (x : Nat) (wrote : Bool) : Prop :=
      let u := if isAcquire p.order then t.acquire p.agent 5 (some (.block blk)) else t
      let v := u.publish p.agent (some (.block blk)) 5
      exec (.loadReturn p.agent.core op) s
        = .next ((if wrote then v.publish p.agent (some (.at_ (.glob (blk + 8)))) 5 else v).doneAt p x)
    let found (slot : Option Nat) : Prop :=
      s.blockRead h at_ = .ok b ∧ s.blockFollow h b slot = .ok () ∧ (b.void = true ∨ b.epoch = s.blockEpoch h b)
    let live (slot : Option Nat) : Prop := found slot ∧ b.void = false
    (∀ t, s.stepOn h at_ o = .error t → exec (.loadReturn p.agent.core op) s = .next (s.opFails p t))
    ∧ (∀ k tok c rule v, o = .cast k tok c rule → s.blockWord h (b.slotAt k) = .ok v →
      let r := castSlot rule b.pass (Slot8.ofWord v) tok c
      (found (some k) → b.void = true → acts s v.toNat false)
      ∧ (∀ s2 w s3, live (some k) → s.putWord h (b.slotAt k) r.1.word = .ok s2 →
        s2.refront h b (if r.2 then setFld b.word 40 11 (b.finals + 1) else b.word) = .ok w →
        s2.putWord h (b.at_ + 8) w = .ok s3 → acts s3 r.1.word.toNat true))
    ∧ (∀ k mark v, o = .slot mark k → found (some k) → s.blockWord h (b.slotAt k) = .ok v →
      ((mark = false ∨ b.void = true ∨ (Slot8.ofWord v).state ≠ 2) → acts s v.toNat false)
      ∧ (∀ s2, mark = true → b.void = false → (Slot8.ofWord v).state = 2 →
        s.putWord h (b.slotAt k) { Slot8.ofWord v with cached := true }.word = .ok s2 →
        acts s2 { Slot8.ofWord v with cached := true }.word.toNat false))
    ∧ (o = .header → found none → acts s b.word.toNat false)
    ∧ (let w := setFld (setFld (setFld 0 63 1 1) 52 6 b.vf) 16 11 b.n
       ∀ s1 s2 s3, o = .opening → s.blockRead h at_ = .ok b → s.blockCheck h at_ (64 + 8 * b.n) true = .ok () → 1 ≤ b.n → b.n ≤ 1024 →
        b.reservedOk = true → p.via.vf? = some b.vf → s.blockWrite h (at_ + 64) (List.replicate (8 * b.n) 0) = .ok s1 →
        s1.blockWrite h (at_ + 0x10) (leBytes 2 (s.blockEpoch h b)) = .ok s2 → s2.putWord h (at_ + 8) w = .ok s3 →
        acts s3 w.toNat true)
    ∧ (∀ kmin rs s2 w s3, o = .pass kmin → s.blockCheck h at_ (64 + 8 * b.n) true = .ok () →
      (found none → b.void = true → acts s b.word.toNat false)
      ∧ (live none → (List.range b.n).mapM (fun k => (s.blockWord h (b.slotAt k)).map (fun v => (k, Slot8.ofWord v))) = .ok rs →
        (castOffs (kmin - b.finals) rs).foldlM (fun (t : State) x =>
          t.putWord h (b.slotAt x.1) { x.2 with state := 2, pass := b.pass }.word) s = .ok s2 →
        s2.refront h b (setFld (setFld b.word 32 8 (b.pass + 1)) 40 11 0) = .ok w → s2.putWord h (b.at_ + 8) w = .ok s3 →
        acts s3 w.toNat true))

/-- R348, R350: `SMERGE` merges two partials and raises the flags of the merge; `RNGK` gives the 64-bit value of its seed, sequence
and counter, or 24 bits of it over 2^24 as an FP32. -/
def Obligations.MergeAndRandom : Prop :=
  ∀ (s : State) (a : Agent) (f : RForm),
    Completes s a (.smerge f) (fun t =>
      let x := t.opVal a f.cm.a 64
      let y := t.opVal a f.cm.b 64
      let m := mergePartials f.round.toNat (x % 2 ^ 32) (x / 2 ^ 32) (y % 2 ^ 32) (y / 2 ^ 32)
      (t.flag a m.2).putD a f.cm.d 64 (m.1.1 + 2 ^ 32 * m.1.2))
    ∧ (let y (t : State) : Nat := (rngValue (BitVec.ofNat 64 (t.opVal a f.cm.a 64)) (BitVec.ofNat 64 (t.opVal a f.cm.b 64))
        (BitVec.ofNat 32 (t.opVal a f.cm.c 32))).toNat
       (f.ty = 7 → Completes s a (.rngk f) (fun t => t.putD a f.cm.d 64 (y t)))
       ∧ (f.ty ≠ 7 → Completes s a (.rngk f) (fun t =>
          t.putD a f.cm.d 32 (roundFin (ffmt 9) 0 false false (y t / 2 ^ 40) (-24)).1)))

/-! ### Text (spec/20) -/

/-- R361 to R366, R393, R398, R407: a text form other than `VOCLOAD` whose checks pass is pending and counts in `ld`. At its edge die,
where no closed firewall lies on the way, `TXTAKE` gives an empty queue's answer, a request too long for its buffer, or the request;
`TXCLOSE` and `TXSTAT` act on a stream of the VF; `TXEMIT` emits, or says why it does not; a closed firewall ends the grid with `PERM` and
keeps its mark. `VOCLOAD` binds, unbinds or refuses a vocabulary, or ends the grid where a walk, a firewall or poison keeps it from
reading the image. The model's choices and readings in it: logs 1, 34, 40, 48. -/
def Obligations.TextForms : Prop :=
  (∀ (s : State) (a : Agent) (f : RForm),
    let x (t : State) : Nat := t.opVal a f.cm.a 64
    let sid (t : State) : Nat := t.opVal a f.cm.a 32
    let y (t : State) : Nat := t.opVal a f.cm.b 32
    let pends (i : Instr) (at_ : State → Nat) (n : Nat) (order : BitVec 3) (op : State → TextOp) : Prop :=
      Completes s a i (fun t => t.post a (.glob (at_ t)) n order 5 0 (.text (op t) f.cm.d) .ld)
    (let b := began s a (.txtake f)
     (x b % 16 = 0 → b.checkGlobal a (x b) (32 + 4 * y b) true false = none → (b.vfOf a).isSome = true →
        pends (.txtake f) x 0 0 (fun t => .take (fld f.func 0 2) (y t)))
      ∧ (x b % 16 ≠ 0 → Traps s a (.txtake f) ⟨.align, x b⟩)
      ∧ (∀ t, x b % 16 = 0 → b.checkGlobal a (x b) (32 + 4 * y b) true false = some t → Traps s a (.txtake f) t))
    ∧ (let b := began s a (.txemit f)
       (x b % 64 = 0 → b.checkGlobal a (x b) 64 false false = none → (b.vfOf a).isSome = true →
        pends (.txemit f) x 64 2 (fun t => .emit (y t)))
      ∧ (x b % 64 ≠ 0 → Traps s a (.txemit f) ⟨.align, x b⟩)
      ∧ (∀ t, x b % 64 = 0 → b.checkGlobal a (x b) 64 false false = some t → Traps s a (.txemit f) t))
    ∧ ((began s a (.txclose f)).vfOf a = some (sidVf (sid (began s a (.txclose f)))) →
      pends (.txclose f) (fun _ => 0) 0 0 (fun t => .close (sid t) (y t)))
    ∧ ((began s a (.txstat f)).vfOf a = some (sidVf (sid (began s a (.txstat f)))) →
      pends (.txstat f) (fun _ => 0) 0 0 (fun t => .stat (sid t)))
    ∧ (∀ i ∈ [Instr.txclose f, .txstat f], (began s a i).vfOf a ≠ some (sidVf (sid (began s a i))) → Traps s a i ⟨.perm, 0⟩))
  ∧ (∀ (s : State) (op part vf : Nat) (p : Pending) (o : TextOp) (d : Opnd),
    s.readyOp p.agent.core op = some p → p.kind = .text o d → p.via = .vf part vf →
    let h := p.home
    let at_ := p.place.addr
    let open_ (e : Nat) : Prop := s.edgePath (dieOf p.agent.core) e = true
    let ends (t : State) : Prop := exec (.loadReturn p.agent.core op) s = .next t
    let gives (t : State) (v : Nat) : Prop := ends ((if isAcquire p.order then
      t.acquire p.agent 5 (t.chanOf p.agent.core p.via (.glob (at_ + 8))) else t).doneAt p v)
    let shut (e : Nat) : Prop := s.edgePath (dieOf p.agent.core) e = false →
      ends ((s.edgeDrop (dieOf p.agent.core) e).opTraps p ⟨.perm, 0⟩)
    (∀ t, s.textOn h at_ o = .error t → ends (s.opFails p t))
    ∧ (∀ e cap, o = .take e cap → shut e ∧ (open_ e →
      (((s.edge e).txOf (vfKey part vf)).queue = [] → gives s (2 ^ 32))
      ∧ (∀ r rest, ((s.edge e).txOf (vfKey part vf)).queue = r :: rest →
        (cap < r.tokens.length → gives s (r.tokens.length + 2 * 2 ^ 32))
        ∧ (∀ u, r.tokens.length ≤ cap →
          s.blockWrite h at_ (leBytes 8 r.request.toNat ++ leBytes 4 (streamId e vf r.stream) ++ leBytes 4 r.slot
            ++ leBytes 4 r.maxNew.toNat ++ leBytes 4 r.tokens.length ++ List.replicate 8 0
            ++ r.tokens.flatMap (fun t => leBytes 4 t.toNat)) = .ok u →
          gives (u.modTx e (vfKey part vf) (fun t => { t with queue := rest })) r.tokens.length))))
    ∧ (∀ sid code, o = .close sid code → shut (sidEdge sid) ∧ (open_ (sidEdge sid) →
      (∀ k, s.streamOf (s.partOf p.agent) sid = some k → k.open_ = true →
        gives (s.modStream sid (fun k => { k with
          ready := k.ready ++ k.held, held := [], closing := some (if code = 0 then 0 else 1, BitVec.ofNat 32 code) })) 0)
      ∧ ((∀ k, s.streamOf (s.partOf p.agent) sid = some k → k.open_ = false) → gives s 2)))
    ∧ (∀ sid, o = .stat sid → shut (sidEdge sid) ∧ (open_ (sidEdge sid) →
      (∀ k, s.streamOf (s.partOf p.agent) sid = some k → gives s (k.sent % 2048 + k.held.length * 2 ^ 11
        + (if k.closed then 3 else if k.closing.isSome then 2 else 1) * 2 ^ 14 + k.bytes % 2 ^ 32 * 2 ^ 32))
      ∧ (s.streamOf (s.partOf p.agent) sid = none → gives s 0)))
    ∧ (∀ lim b, o = .emit lim → s.blockRead h at_ = .ok b → s.blockFollow h b none = .ok () → vf = b.vf → vf = sidVf b.stream →
      (s.streamOf (s.partOf p.agent) b.stream = none → shut (sidEdge b.stream)
        ∧ (open_ (sidEdge b.stream) → gives s (2 * 2 ^ 16)))
      ∧ (∀ k, s.streamOf (s.partOf p.agent) b.stream = some k → open_ (sidEdge b.stream) →
        let moved : Bool := k.block.any (· != at_)
        let sent := if moved then 0 else k.sent
        let reads := (List.range (min lim b.frontier)).filter (fun i => decide (sent ≤ i))
        let m := s.streamImage h (sidEdge b.stream) k
        (k.open_ = false → gives s (2 * 2 ^ 16 + k.sent))
        ∧ (k.open_ = true → moved = true → k.sent < k.n0 → gives s (3 * 2 ^ 16 + k.sent))
        ∧ (∀ slots, k.open_ = true → (moved = true → k.n0 ≤ k.sent) → (∀ i ∈ reads, s.blockCheck h (b.slotAt i) 8 false = .ok ()) →
          reads.mapM (fun i => s.blockWord h (b.slotAt i)) = .ok slots →
          let next := max sent (min lim b.frontier)
          let out (text : List Byte) : State :=
            s.modStream b.stream (fun _ => ({ k with block := some b.at_, n0 := b.n, sent := next }).output text)
          (slots = [] → gives (out []) next)
          ∧ (∀ t, slots ≠ [] → s.vocab m = .error t → ends ((s.imgDrop m t.va).opTraps p t))
          ∧ (∀ v, slots ≠ [] → s.vocab m = .ok v →
            (∀ texts, slots.mapM (fun w => s.tokenText m v (Slot8.ofWord w).token) = .ok texts → gives (out texts.flatten) next)
            ∧ (∀ t, slots.mapM (fun w => s.tokenText m v (Slot8.ofWord w).token) = .error t → ends ((s.imgDrop m t.va).opTraps p t)))))))
  ∧ (∀ (s : State) (a : Agent) (g : XForm) (vf : Nat),
    let b := began s a (.vocload g)
    let at_ := b.opVal a g.cm.a 64
    let m : Image := { via := b.viaOf a, base := at_, edges := List.range 4 }
    let fails (t : Trap) : Prop :=
      (t.code = .perm → Stays s a (.vocload g) (fun u =>
        ((u.imgDrop m t.va).noteDrop a.core ((u.imgDrop m t.va).viaOf a) t.va).raise a t))
      ∧ (t.code ≠ .perm → Traps s a (.vocload g) t)
    (at_ % 64 ≠ 0 → Traps s a (.vocload g) ⟨.align, at_⟩)
    ∧ (at_ % 64 = 0 → b.vfOf a = some vf → (∀ e < 4, b.edgePath (dieOf a.core) e = true) →
      (at_ = 0 → Completes s a (.vocload g) (fun t => (t.bindVocab (t.partOf a) vf (fld g.flags 0 4) none).putD a g.cm.d 64 4))
      ∧ (at_ ≠ 0 → b.blockCheck (b.homeOf a) at_ 64 false = .ok () →
        (∀ t, b.vocab m = .error t → fails t)
        ∧ (∀ h, b.vocab m = .ok h → (h.length ≤ 2 ^ 32 → b.blockCheck (b.homeOf a) at_ h.length false = .ok ()) →
          (∀ t, b.vocabStatus m h = .error t → fails t)
          ∧ (b.vocabStatus m h = .ok 0 → Completes s a (.vocload g) (fun t =>
            (t.bindVocab (t.partOf a) vf (fld g.flags 0 4) (some at_)).putD a g.cm.d 64 0))
          ∧ (∀ st, b.vocabStatus m h = .ok st → st ≠ 0 → Completes s a (.vocload g) (fun t => t.putD a g.cm.d 64 st))))))

/-! ### System instructions and the mailbox (spec/21) -/

/-- R380, R382 to R386, R390: `TRAP` and `BRK` wait to post their request, `YIELD` marks the team, `CRD` and `CWR` read and write the
control register that they name, `PERF` reads a counter that the VF may see, `SCLEAR` clears the units of its mask on a core
without workgroups.
The model's choices and readings in it: log 4. -/
def Obligations.SystemForms : Prop :=
  ∀ (s : State) (a : Agent) (f : RForm),
    Stays s a (.trap f) (fun t => t.raiseResumable a
      { code := .trap, arg0 := BitVec.ofNat 64 (t.opVal a f.cm.a 64), arg1 := BitVec.ofNat 64 (t.opVal a f.cm.b 64),
        arg2 := BitVec.ofNat 64 (fld f.func 0 8), resume := nextPc (t.ctx a).pc, dst := f.cm.d })
    ∧ Stays s a (.brk f) (fun t => t.raiseResumable a
      { code := .brk, arg0 := BitVec.ofNat 64 (fld f.func 0 8), arg1 := 0, arg2 := 0, resume := nextPc (t.ctx a).pc })
    ∧ Completes s a (.yield f) (fun t => t.askYield a)
    ∧ Completes s a (.crd f) (fun t => t.putD a f.cm.d (tyW f.ty) (t.readCtl a (fld f.func 0 12) % 2 ^ tyW f.ty))
    ∧ Completes s a (.cwr f) (fun t => t.writeCtl a (fld f.func 0 12) (t.opVal a f.cm.a (tyW f.ty)))
    ∧ Completes s a (.perf f) (fun t =>
      let sel := getR (t.core a.core).pcsel (fld f.func 0 3)
      let shown := sel.getLsbD 8 && (!sel.getLsbD 22 || t.vfOf a == some (sel.extractLsb' 16 6).toNat)
      t.putD a f.cm.d (tyW f.ty) (if shown then (getR (t.core a.core).pcnt (fld f.func 0 3)).toNat % 2 ^ tyW f.ty else 0))
    ∧ (let b := began s a (.sclear f)
       let mask := b.opVal a f.cm.a 32
       (256 ≤ mask → Traps s a (.sclear f) ⟨.illEnc, 0⟩)
       ∧ (mask < 256 → (b.core a.core).wgs ≠ [] → Completes s a (.sclear f) (fun t => t.putD a f.cm.d 32 0xFFFFFFFF))
       ∧ (mask < 256 → (b.core a.core).wgs = [] → Completes s a (.sclear f) (fun t =>
          (({ t with freeCount := t.freeCount + 1 } : State).clearUnits a.core mask).putD a f.cm.d 32
            (Config.clearClocks t.freeCount % 2 ^ 32))))

/-- R373, R378, R381: `SRET` on an empty slot gives false. On a request it frees the slot, after what the supervisor has pending is
performed and released, and the agent of the request goes on by the action: at the record's resume PC, with the reply of a `TRAP` in
its D; at the PC of the trap, with or without a match; or stopped, with its grid's end on its way. A supervisor thread that a grid's
end would stop starts again. What goes on acquires; a supervisor thread reports the next of its traps first, where more came.
The model's choices and readings in it: logs 10, 38, 64, 73. -/
def Obligations.SupervisorReturn : Prop :=
  ∀ (s : State) (a : Agent) (f : RForm),
    let slot (t : State) : Nat := t.opVal a f.cm.a 32 % 64
    let v (t : State) : Nat := t.opVal a f.cm.b 64
    let came (t : State) : State := ((t.flush a.core).collect a (some (.mail a.core))).publish a (some (.mail a.core))
    let returns (i : Instr) (ok : State → Mail → Prop) (answer : State → Mail → State → State) : Prop :=
      (lookupN ((began s a i).core a.core).mail (slot (began s a i)) = none →
        Completes s a i (fun t => t.writeP a f.cm.d.num false))
      ∧ (∀ m, lookupN ((began s a i).core a.core).mail (slot (began s a i)) = some m → ok (began s a i) m →
        Completes s a i (fun t => (((answer t m (came t)).acquire m.agent 4 (some (.mail a.core))).modCore a.core
          (fun k => { k with mail := delN k.mail (slot t) })).writeP a f.cm.d.num true))
    let any (_ : State) (_ : Mail) : Prop := True
    returns (.sretResume f) any (fun t m u =>
      let d : Opnd := match (u.ctx m.agent).wait with
        | .reply r => r.dst
        | _ => .lit 0
      let w := u.resume m.agent (m.record.getD 0 0) (m.record.getD 6 0) false
      if m.code = .trap then w.putD m.agent d 64 (v t) else w)
    ∧ returns (.sretReissue f) any (fun _ m u => u.resume m.agent (m.record.getD 0 0) (m.record.getD 0 0) false)
    ∧ returns (.sretReissueNomatch f) any (fun _ m u => u.resume m.agent (m.record.getD 0 0) (m.record.getD 0 0) true)
    ∧ returns (.sretEndGrid f) (fun t m => (came t).level m.agent = .t) (fun t m u =>
      (u.modCtx m.agent (fun c => { c with wait := .stopped, reply := c.reply + 1 })).report (u.gridNo m.agent)
        ⟨endCodeOf (v t), 0⟩ (m.record.getD 0 0) a.core)
    ∧ returns (.sretEndGrid f) (fun t m => (came t).level m.agent ≠ .t) (fun _ m u => u.restartSup m.agent)

/-- R373, R374, R377, R391: a request that waits to be posted takes the lowest free slot of the mailbox of its agent, unless an
access that its release performs ends the agent's grid: the record stands there, the agent waits for the reply, and the object at
`mbnote` is notified; a supervisor thread has then entered `WaitPhase`. A supervisor thread's trap, as it is taken, ends the grid of the
request that its core has selected; then it posts to the monitor, at the PC of what failed, and one that comes while the thread reports
another stays behind it. The model's choices and readings in it: logs 10, 38, 39, 64. -/
def Obligations.Posts : Prop :=
  ∀ (s : State) (a : Agent),
    (∀ r slot, (s.ctx a).request = some r → freeN (s.core (s.mailboxOf a)).mail Config.mailSlots = some slot →
      s.postsLater a = false →
      (((s.flush a.core).ctx a).request ≠ some r → exec (.resumableTrapPost a) s = .next (s.flush a.core))
      ∧ (((s.flush a.core).ctx a).request = some r → exec (.resumableTrapPost a) s = .next (
        let box := s.mailboxOf a
        let u := s.flush a.core
        let mail : Mail := { agent := a, record := u.record a r (r.seq.getD (u.ctx a).seq), code := r.code }
        let w := u.modCtx a (fun c => { c with wait := .reply r, seq := if r.seq.isSome then c.seq else c.seq + 1 })
        let x := w.modCore box (fun k => { k with mail := putN k.mail slot mail })
        (((x.publish a (some (.mail box))).notifyMail box).perfEvent box 12 (x.vfOf a) 1).enterWait a)))
    ∧ (∀ code va pc, (s.ctx a).wait = .supTrap code va pc →
      exec (.supervisorTrap a) s = .next (s.modCtx a (fun c => { c with
        wait := .posting { code := code, arg0 := 0, arg1 := 0, arg2 := 0, resume := nextPc pc, at_ := some pc },
        waitFrom := s.clock, opBuf := none })))
    ∧ (∀ t pc, s.level a = .s → s.raiseAt a t pc = (match s.vfOf a, s.selected a.core with
        | some _, some m => s.report (s.gridNo m.agent) t (m.record.getD 0 0) a.core ((s.ctx a).pc, s.clock) (homeLaneOf a)
        | _, _ => s).modCtx a (fun c =>
      if c.wait.reporting then { c with later := c.later ++ [(t.code, t.va, pc)] }
      else { c with wait := .supTrap t.code t.va pc, waitFrom := s.clock, opBuf := none }))

/-! ### The issue unit (spec/03 R52, spec/08 R161 to R164) -/

/-- R14, R52, R161 to R164, R387, R388: a line that a running agent wants is fetched and checked, and fetched once more where its check
failed, a second failure trapping `ECC_UE`, each a request to L2; the issue unit issues one bundle, of which the threads that stop at a
match register and the groups that they belong to at a collective take no part, and beside it, in the same clock, one ready lead in
turn; the second slot of a pair issues, and the pair counts, where all its threads are ready there after the first; a thread that was
ready for 1,024 clocks is aged.
The model's choices and readings in it: logs 1, 3, 12, 53, 54, 72. -/
def Obligations.IssueUnit : Prop :=
  ∀ (s : State) (core : Nat),
    (∀ line a pa rest,
      (s.wantsLine core line).filterMap (fun a => if (s.cachedLine a).isNone then (s.linePa a).map (a, ·) else none)
        = (a, pa) :: rest →
      exec (.lineFetchCheck core line) s = .next (((((s.modCore core (fun k => k.icPut pa
        { data := (s.lineInL2 pa).1, failed := !(s.lineInL2 pa).2 })).noteSoft [(pa, 64)]).perfEvent core 6 (s.vfOf a) 1).fillTlb core (s.fetchVia a)
          line.toNat).pass 1))
    ∧ (∀ line pa rest,
      let waiting := (s.wantsLine core line).filter (fun a => ((s.cachedLine a).map (·.failed)).getD false)
      let u := s.perfEvent core 6 (waiting.head?.bind s.vfOf) 1
      waiting.filterMap s.linePa = pa :: rest →
      ((s.lineInL2 pa).2 = true → exec (.lineRefetch core line) s = .next ((u.modCore core (fun k => k.icPut pa
        { data := (s.lineInL2 pa).1, failed := false })).pass 1))
      ∧ ((s.lineInL2 pa).2 = false → exec (.lineRefetch core line) s = .next ((waiting.foldl (fun t a =>
        t.raiseAt a ⟨.eccUe, 0⟩ (t.ctx a).srcPc) (u.modCore core (fun k => { k with icache := delN k.icache pa }))).pass 1)))
    ∧ (∀ first rest, s.cur = none → s.bundle core = first :: rest →
      let u := (s.pass (if (s.core core).leadLast then 0 else 1)).modCore core (fun k => { k with leadLast := false })
      let passed := u.passMatch (first :: rest)
      let go := if s.atCollective first then passed.2.filter (fun a => (u.groupMates a).all passed.2.contains)
        else passed.2
      (go = [] → exec (.issueBundle core) s = .next passed.1)
      ∧ (go ≠ [] → ∃ t, exec (.issueBundle core) s = .next t ∧ t.cur = some
        { core := core, agents := go, pc := (s.ctx first).pc, paired := passed.1.pairs go }))
    ∧ (∀ a, s.cur = none → s.nextLead core = some a →
      let u := (s.modCore core (fun k => { k with leadTurn := (s.place a + 1) % 32, leadLast := true })).pass 1
      let passed := u.passMatch [a]
      (passed.2 = [] → exec (.leadIssue core) s = .next passed.1)
      ∧ (passed.2 ≠ [] → ∃ t, exec (.leadIssue core) s = .next t ∧ t.cur = some
        { core := core, agents := passed.2, paired := false,
          pc := (((passed.1.perfEvent core 4 (passed.1.vfOf a) 1).modCtx a (fun c => { c with noMatch := false })).ctx a).pc }))
    ∧ (∀ x : Issue, x.second = true →
      (x.agents.all s.ready = true → s.openIssue x = some (s.perfEvent x.core 3 (x.agents.head?.bind s.vfOf) 1))
      ∧ (x.agents.all s.ready = false → s.openIssue x = none ∧ s.nextInstr x = ({ s with cur := none }, none)))
    ∧ (∀ slot t, (s.core core).thread slot = some t → t.level = .t → t.aged = false → Config.agedClocks ≤ t.readyFor →
      exec (.threadAged core slot) s
        = .next (s.modCore core (fun k => k.modThread slot (fun t => { t with aged := true }))))

/-! ### Launch queues, launches and teams (spec/09 R192 to R204) -/

/-- R4, R194, R195, R200, R357, R393, R397, R400, R401, R408, R413: a doorbell whose checks pass accepts the entries up to its value
together, one that fails a check stops the queue with its cause, one at a stopped or disabled queue does nothing, and a frozen
partition holds it; the reset of a queue, also by a register write, empties it; a cancel marks an entry that is not taken, or cancels its grid. What a register
without behaviour of its own then reads: the field written, an old value that is locked, a one-to-clear bit. A write to a tenant's
register is ignored while its VF is reset.
The model's choices and readings in it: logs 1, 23, 37. -/
def Obligations.QueueWrites : Prop :=
  ∀ (s : State) (part vf queue : Nat), s.hasVf part vf = true → queue < 64 →
    let key := vfKey part vf
    let q := (s.vf key).queue queue
    ((s.vf key).resetting = true →
      (∀ x, exec (.doorbell part vf queue x) s = .next s) ∧ (∀ v, v.getLsbD 8 = true → exec (.lqReset part vf queue v) s = .next s)
      ∧ (∀ i, exec (.lqCancel part vf queue i) s = .next s)
      ∧ (∀ r v, regExists r = true → regTenant r = some (part, vf) → exec (.registerWrite r v) s = .next s))
    ∧ ((s.vf key).resetting = false →
      (∀ x, (s.part part).frozen = false → q.enable = true → q.qerr = false →
        (∀ c, s.ringCause part vf q x = some c → exec (.doorbell part vf queue x) s = .next (s.stopQueue part vf queue c))
        ∧ (s.ringCause part vf q x = none → x ≠ q.widx →
          exec (.doorbell part vf queue x) s = .next (s.acceptEntries part vf queue x))
        ∧ (s.ringCause part vf q x = none → x = q.widx → exec (.doorbell part vf queue x) s = .next s))
      ∧ (∀ x, (s.part part).frozen = false → (q.enable = false ∨ q.qerr = true) → exec (.doorbell part vf queue x) s = .next s)
      ∧ (∀ x, (s.part part).frozen = true → exec (.doorbell part vf queue x) s
          = .next (s.modPart part (fun p => { p with held := p.held ++ [(vf, queue, x)] })))
      ∧ (∀ v, v.getLsbD 8 = true → exec (.lqReset part vf queue v) s = .next (s.modQueue key queue (fun q => { q with
          qerr := false, cause := 0, widx := 0, ridx := 0, pending := [], priority := v.extractLsb' 4 3, enable := v.getLsbD 0 })))
      ∧ (∀ index, (index - q.ridx).toNat < q.pending.length →
        exec (.lqCancel part vf queue index) s = .next ((s.modQueue key queue (fun q => { q with
          pending := modAt (fun e => { e with cancelled := true }) q.pending (index - q.ridx).toNat })).writeStatus part vf
            (q.entryAt index.toNat) 5 0))
      ∧ (∀ index g, q.pending.length ≤ (index - q.ridx).toNat →
        (s.grids.filter (fun g => g.2.part == part && g.2.vf == vf && g.2.queue == queue && g.2.index == index.toNat
          && !g.2.state.over)).getLast? = some g →
        exec (.lqCancel part vf queue index) s = .next (s.endGrid g.1 .cancelled 0))
      ∧ (∀ r v, regExists r = true → regTenant r = some (part, vf) → exec (.registerWrite r v) s = .next (s.writeReg r v))
      ∧ (∀ v, let w (r : RegName) (o : Nat) : DWord := (s.writeReg r v).vfWindow part vf o
        w (.lqBase part vf queue) (64 * queue) = (if q.enable then q.base else v &&& ~~~63#64)
        ∧ fld (w (.lqSize part vf queue) (64 * queue + 8)) 0 32 = (if q.enable then q.log.toNat else fld v 0 5)
        ∧ fld (w (.lqCtl part vf queue) (64 * queue + 8)) 32 32 = 16 * fld v 4 3 + fld v 0 1
        ∧ w (.vfPtRoot part vf) 0x1008 = (if s.vfRunning part vf then (s.vf key).ptroot else v &&& 0x000FFFFFFFFF0000#64)
        ∧ (∀ e < 4, w (.txNote part vf e) (0x10000 + 0x1000 * e + 8) = v &&& ~~~15#64
          ∧ w (.txCtl part vf e) (0x10000 + 0x1000 * e)
            = BitVec.ofNat 64 (256 * (((s.edge e).txOf key).noterr && !v.getLsbD 8).toNat + fld v 0 1))))
    ∧ (∀ v, v.getLsbD 8 = true → (s.vf key).resetting = false → regExists (.lqCtl part vf queue) = true →
      exec (.registerWrite (.lqCtl part vf queue) v) s = .next (s.modQueue key queue (fun q => { q with
        qerr := false, cause := 0, widx := 0, ridx := 0, pending := [], priority := v.extractLsb' 4 3, enable := v.getLsbD 0 })))
    ∧ (∀ r v, regExists r = true → regTenant r = none → exec (.registerWrite r v) s = .next (s.writeReg r v))
    ∧ (∀ v d k, ((s.writeReg (.fwCtl d k) v).die d).fwOf k = {
        far := v.extractLsb' 10 6, own := v.extractLsb' 4 6, violation := ((s.die d).fwOf k).violation && !v.getLsbD 2, edge := v.getLsbD 1,
        closed := v.getLsbD 0 })
    ∧ (∀ v, let p (r : RegName) : Part := (s.writeReg r v).part part
      ((p (.ptStat part)).rstnoterr = ((s.part part).rstnoterr && !v.getLsbD 2)
        ∧ (p (.ptStat part)).refused = ((s.part part).refused && !v.getLsbD 1))
      ∧ (p (.ptRstNote part)).rstnote = v &&& ~~~15#64 ∧ (p (.ptServe part)).serve = v &&& ~~~63#64
      ∧ (p (.ptServeVf part)).serveVf = v &&& 0xBF#64
      ∧ ((s.writeReg (.vfConf part vf) v).vf key).confidential
          = (if (s.vf key).launched then (s.vf key).confidential else v.getLsbD 0)
      ∧ (s.writeReg .mdId v).mdId = v.extractLsb' 0 10 ∧ (s.writeReg .mdCport v).mdCport = v.extractLsb' 0 16
      ∧ (∀ lo, ((s.writeReg (.mdCollect 0) lo).writeReg (.mdCollect 1) v).mdCollect = v ++ lo))

/-- R192, R193, R196 to R198, R203, R204, R407: the distributor takes the next entry of a queue, and refuses its record with the
lowest failing cause or makes a waiting launch of it; a launch whose dependences are met starts with its bound records; an `FWORK`
request is answered with the next workgroup, with status 1 where none is left, or with status 2 in a grid whose teams are not of
one workgroup; a grid all of whose workgroups are complete completes. The model's choices and readings in it: logs 24, 26, 68. -/
def Obligations.LaunchLife : Prop :=
  ∀ (s : State),
    (∀ part vf queue e rest,
      let q := (s.vf (vfKey part vf)).queue queue
      let entry := q.entryAt q.ridx.toNat
      let record := match s.vfRead part vf entry 8 with
        | some b => leNat b
        | none => 1
      let u := s.modQueue (vfKey part vf) queue (fun q => { q with ridx := q.ridx + 1, pending := rest })
      q.pending = e :: rest → q.qerr = false → (s.part part).frozen = false →
      (e.cancelled = true → exec (.launchValidate part vf queue) s = .next u)
      ∧ (∀ c, e.cancelled = false → s.refusal part vf record = some c →
        exec (.launchValidate part vf queue) s = .next (u.writeStatus part vf entry 4 c))
      ∧ (e.cancelled = false → s.refusal part vf record = none →
        exec (.launchValidate part vf queue) s = .next (
          let l := Launch.ofBytes ((s.vfRead part vf record 1024).getD [])
          let g : Grid := { part := part, vf := vf, queue := queue, index := q.ridx.toNat, entry := entry, record := record,
                            launch := l, accepted := e.order, ceiling := e.ceiling }
          ({ u with grids := putN u.grids u.nextGrid g, nextGrid := u.nextGrid + 1 } : State).writeStatus part vf entry 1 0)))
    ∧ (∀ grid g, s.grid grid = some g → g.state = .waiting →
      (g.launch.deps.any (fun d => d.kind == 2 && (s.depObject g.part g.vf d).isNone) = true →
        exec (.launchStart grid) s = .next (s.enterState grid .refused 0x18))
      ∧ (g.launch.deps.any (fun d => d.kind == 2 && (s.depObject g.part g.vf d).isNone) = false →
        g.launch.deps.all (s.depMet g) = true →
        (s.bound g.part g.vf g.launch = none → exec (.launchStart grid) s = .next (s.enterState grid .refused 0x16))
        ∧ (∀ b, s.bound g.part g.vf g.launch = some b → exec (.launchStart grid) s = .next (
          let u := s.modGrid grid (fun g => { g with
            fmts := b.fmts, rules := b.rules, vols := b.vols, recs := b.recs, lease := s.nextLease, started := s.clock })
          (({ u with nextLease := u.nextLease + 1 } : State).vfWrite g.part g.vf (g.entry + 20) (leBytes 4 s.nextLease)).enterState
            grid .running 0))))
    ∧ (∀ grid g id m pc rest a, s.grid grid = some g → g.fwork = (id, m, pc) :: rest → s.locate id = some a →
      let l := g.launch
      let u := s.modGrid grid (fun g => { g with fwork := rest })
      let none_ (status : Nat) : State := let w := u.freeBytes 12
        w.2.storeWrite a.core (s.place a) (m + 16) (w.1 ++ leBytes 4 status)
      let handed (lin : Nat) : State := (u.modGrid grid (fun g => { g with
          nextTeam := g.nextTeam + 1, handed := g.handed ++ [(lin, ((s.wg? a).map (·.lin)).getD 0)] })).storeWrite a.core (s.place a) (m + 16)
        (leBytes 4 (lin % l.gx) ++ leBytes 4 (lin / l.gx % l.gy) ++ leBytes 4 (lin / (l.gx * l.gy)) ++ leBytes 4 0)
      let answered (x : State) : Prop :=
        let r : ObjRef := .store a.core (s.place a) m
        let o := x.objRead r
        exec (.fworkServe grid) s = .next (if x.objHurt r then x.failAt a ⟨.eccUe, 0⟩ pc
          else if o.consistent then x.objDone a.core r (o.arrive 1).1 (o.arrive 1).2.1 else x.failAt a ⟨.barBad, 0⟩ pc)
      (l.team ≠ 1 → answered (none_ 2))
      ∧ (∀ lin, l.team = 1 → g.remaining = some lin → answered (handed lin))
      ∧ (l.team = 1 → g.remaining = none → answered (none_ 1)))
    ∧ (∀ grid g g', s.grid grid = some g → (s.sweep g.part).grid grid = some g' → g'.state = .running → g'.placed = [] →
      g'.skeins = [] → g'.launch.wgs ≤ g'.nextTeam * g'.launch.team →
      (s.sweep g.part).reports.all (fun r => r.grid != grid) = true →
      exec (.gridComplete grid) s = .next ((s.sweep g.part).enterState grid .complete 0))

/-- R198 to R201, R304, R382, R389: the distributor places a waiting team on a free cluster in the order of placement; the end of
a cluster's season, or a team of higher priority, makes a resident team stop for a waiting one; a team that does not reconverge in
time stops by force, its copies are suspended when their drain is over, and it is saved; a saved team comes back to a cluster; old
W-store regions are saved. A cooperative grid is placed, saved and restored whole; it waits while its partition is too small and
goes on when it is not. The model's choices and readings in it: logs 1, 2, 33, 42, 75. -/
def Obligations.Teams : Prop :=
  ∀ (s : State) (grid team core : Nat) (g : Grid),
    (∀ g0, s.grid grid = some g0 → (s.sweep g0.part).grid grid = some g →
      let u := s.sweep g0.part
      let fresh : Waiting := { grid := grid, team := team, saved := false, since := g.started }
      let order (n : Nat) : List Nat := (core :: (u.clusters grid g team).filter (· != core)).take n
      (u.clusters grid g team).contains core = true →
      ((g.waitingTeams grid).contains fresh = true → u.placeable fresh = true → u.firstToPlace g.part fresh = true →
        (g.launch.coop = false → exec (.teamPlace grid team core) s = .next (u.putTeam grid g team core))
        ∧ (g.launch.coop = true → exec (.teamPlace grid team core) s
            = .next ((order g.clustersNeeded).zipIdx.foldl (fun t x => t.putTeam grid g x.2 x.1) u)))
      ∧ (∀ k, lookupN g.skeins team = some k →
        let saved : Waiting := { grid := grid, team := team, saved := true, since := k.savedAt }
        let broken : State := (u.modGrid grid (fun g => { g with skeins := g.skeins.filter (fun x => x.2.intact) })).report (some grid)
          ⟨.eccUe, 0⟩ 0 core
        g.state = .running → u.placeable saved = true → u.firstToPlace g.part saved = true →
        (g.launch.coop = false →
          (k.intact = true → exec (.teamRestore grid team core) s = .next (u.restoreTeam grid g team core k))
          ∧ (k.intact = false → exec (.teamRestore grid team core) s = .next broken))
        ∧ (g.launch.coop = true → g.placed = [] →
          (g.skeins.all (fun x => x.2.intact) = true → exec (.teamRestore grid team core) s = .next
            ((g.skeins.zip (order g.skeins.length)).foldl (fun t x => t.restoreTeam grid g x.1.1 x.2 x.1.2) u))
          ∧ (g.skeins.any (fun x => !x.2.intact) = true → exec (.teamRestore grid team core) s = .next broken))))
    ∧ (∀ p, s.grid grid = some g → lookupN g.placed team = some p →
      (s.seasonOver g p = true →
        let found := (sortBy (fun w => (7 - s.rotationPriority g.part w) * 2 ^ 128 + w.since) ((s.waitingTeams g.part).filter (fun w =>
          decide (w.since ≤ s.lastEnd g p ∧ g.priority ≤ s.rotationPriority g.part w)
            && (w.grid != grid || w.team != team)))).findSome? (fun w =>
          (s.claims (fun _ x q => s.seasonOver x q && decide (x.priority ≤ s.rotationPriority g.part w)) w p.core
            g.launch.team).map (w, ·))
        (∀ w c, found = some (w, c) → exec (.seasonEnd grid team) s = .next (s.askStop grid g team w c))
        ∧ (found = none → exec (.seasonEnd grid team) s = .next (s.modGrid grid (fun g => { g with
            placed := modN g.placed team (fun p =>
              { p with yielded := false, stayed := max p.stayed (s.lastEnd g p) }) }))))
      ∧ (∀ w c, p.stopping = none →
        (sortBy (fun w => s.orderKey g.part (s.rotationPriority g.part w) w) ((s.waitingTeams g.part).filter (fun w =>
          decide (g.priority < s.rotationPriority g.part w) && !s.placeable w))).findSome? (fun w =>
            (s.claims (fun _ x _ => decide (x.priority < s.rotationPriority g.part w)) w p.core g.launch.team).map (w, ·))
          = some (w, c) → exec (.preempt grid team) s = .next (s.askStop grid g team w c))
      ∧ (∀ t, p.stopping = some t →
        let setP (f : Placed → Placed) : State := s.modGrid grid (fun g => { g with placed := modN g.placed team f })
        (s.teamStopped p = false → t + (s.part g.part).rctmo.toNat ≤ s.clock → exec (.reconvergenceTimeout grid team) s
          = .next (setP (fun p => { p with forced := true, draining := some s.clock })))
        ∧ (s.teamStopped p = true → s.copiesRun p = true →
          (p.draining = none → exec (.copySuspend grid team) s = .next (setP (fun p => { p with draining := some s.clock })))
          ∧ (∀ d, p.draining = some d → d + Config.copyDrainClocks ≤ s.clock →
            exec (.copySuspend grid team) s = .next (s.suspendCopies p))))
      ∧ (s.cur = none → (∀ t ∈ g.stopsWith team, ∃ q, lookupN g.placed t = some q ∧ q.stopping.isSome = true
          ∧ s.teamStopped q = true ∧ s.copiesRun q = false) →
        exec (.teamSave grid team) s = .next ((g.stopsWith team).foldl (fun u t => u.saveTeam grid t)
          (s.quietTeams grid ((g.stopsWith team).filterMap (lookupN g.placed))))))
    ∧ (∀ region owner, lookupN (s.core core).wOld region = some owner →
      exec (.wstoreRegionSave core region) s = .next (s.saveRegion core region))
    ∧ (s.grid grid = some g → g.launch.coop = true → g.state = .running → (s.part g.part).cores < g.launch.wgs →
      exec (.coopWait grid) s = .next ((s.saveAll (fun i _ => i == grid)).enterState grid .coopWait TrapCode.coopWait.num))
    ∧ (s.grid grid = some g → g.state = .coopWait → g.launch.wgs ≤ (s.part g.part).cores →
      exec (.coopResume grid) s = .next (s.enterState grid .running 0))

/-- R376, R402: a trap of a task thread or lead stops it, and is reported with its code, the PC, the core, the address and whether
a trap has begun to stop its grid before; no other thread or lead changes. The distributor receives a trap of a running grid: the
grid ends, state 6 with the trap's code stands in its ring entry, and the next entry of its VF's fault log says what ended it; a trap of a
lower home lane of the same issue goes first, and while such a lane has an access or a copy on its way the trap waits. A
further trap of a grid that is over is counted. The model's choices and readings in it: logs 21, 36, 41. -/
def Obligations.GridEnds : Prop :=
  (∀ (s : State) (a : Agent) (x : Trap) (g : Nat), s.level a = .t → s.gridNo a = some g →
    (s.raise a x).reports = s.reports ++ [{ grid := g, code := x.code, pc := (s.ctx a).pc, core := a.core, va := x.va,
                                            since := s.clock, at_ := (s.ctx a).pc, lane := homeLaneOf a, late := s.stopBegun g }]
    ∧ SameBytes s (s.raise a x) ∧ SameSpecial s (s.raise a x) ∧ (∀ b, SameRegs s (s.raise a x) b)
    ∧ (∀ b, b ≠ a → (s.raise a x).ctx b = s.ctx b)
    ∧ ((s.thread? a).isSome = true ∨ (s.lead? a).isSome = true → (s.ctx a).wait ≠ .exited →
      ((s.raise a x).ctx a).wait = .stopped))
  ∧ (∀ (s : State) (n : Nat) (r : Report) (g : Grid),
    s.reports[n]? = some r →
    s.trapsBefore n r = false → s.lowerLane r = false →
    s.grid r.grid = some g →
    let u : State := { s with reports := s.reports.eraseIdx n }
    let key := vfKey g.part g.vf
    let ix := (s.vf key).flhead.toNat
    (g.state.over = false → exec (.gridEndTrap n) s = .next (((u.endGrid r.grid .ended r.code.num).modVf key (fun v =>
      { v with faults := putN v.faults (ix % 64) (leBytes 8 r.pc.toNat ++ leBytes 1 r.code.num ++ leBytes 1 r.late.toNat ++ leBytes 2 r.core
                 ++ leBytes 4 g.index ++ leBytes 8 r.va ++ leBytes 4 0 ++ leBytes 2 g.queue ++ leBytes 2 0),
               flhead := v.flhead + 1 })).modGrid r.grid (fun g => { g with endCode := some r.code, faultIx := some ix })))
    ∧ (g.state.over = true → exec (.gridEndTrap n) s = .next (u.countFurther r.grid g)))
  ∧ (∀ (s : State) (n : Nat) (r q : Report) (x y : Nat), s.reports[n]? = some r → q ∈ s.reports → q.grid = r.grid → q.core = r.core →
    q.at_ = r.at_ → q.since = r.since → q.lane = some x → r.lane = some y → x < y →
    exec (.gridEndTrap n) s = .refused (.notEnabled "GRID_END_TRAP"))

/-! ### Edge dies, partitions, links, the module (spec/20, spec/23) -/

/-- R353 to R359, R362, R368, R413: a packet that names one VF is dropped and counted, left unacknowledged where it would complete a
request that finds the queue full, or joins its message; the last one makes the message whole, with the vocabularies bound at that
moment; one on a context that a reset has closed goes nowhere, but a VF that does not admit it counts it. A packet that names two VFs
reaches neither, and one that does not admit it counts it. A request frame that passes its checks opens a stream and queues its
text, another is refused by a close frame; a cancel frame closes its stream; the oldest text is tokenised into its VF's queue, and
notifies its VF where that queue was empty, or where its image cannot be read ends the grids that lease the image; sendable bytes leave in data frames, and the close frame leaves after the last.
The model's choices and readings in it: logs 1, 48, 92. -/
def Obligations.EdgeDies : Prop :=
  ∀ (s : State) (edge : Nat),
    let e := s.edge edge
    (∀ p k, s.up = true → edge < 4 → e.named p = [k] →
      let all := e.sofar p.context ++ p.payload
      let admitted : Bool := p.supported && !decide (4096 < p.payload.length) && (e.txOf k).enable
        && (e.txOf k).peers.any (fun x => peerAdmits x.2 p.srcAddr)
      let tooMany : Bool := leAt all 3 1 == 1 && decide (Config.requestsPerQueue ≤ e.heldFor k)
      (admitted = false → exec (.uetPacket edge p) s = .next (s.modTx edge k (fun t => { t with drop := t.drop + 1 })))
      ∧ (admitted = true → e.closedCtx.contains p.context = true → exec (.uetPacket edge p) s = .next s)
      ∧ (e.closedCtx.contains p.context = false →
        (admitted = true → p.last = true → tooMany = true →
          exec (.uetPacket edge p) s = .next (s.modTx edge k (fun t => { t with withheld := t.withheld + 1 })))
        ∧ (admitted = true → p.last = false → exec (.uetPacket edge p) s = .next (s.modEdge edge (fun e =>
            { e with partial_ := putN e.partial_ p.context (k, all), contexts := putN e.contexts p.context k })))
        ∧ (admitted = true → p.last = true → tooMany = false →
          exec (.uetPacket edge p) s = .next (s.modEdge edge (fun d => { d with
            partial_ := delN d.partial_ p.context, contexts := putN d.contexts p.context k,
            inbox := d.inbox ++ [{ part := k / 64, vf := k % 64, peer := p.srcAddr, context := p.context, bytes := all,
                                   vocab := (e.txOf k).vocab }] })))))
    ∧ (∀ p k l ks, s.up = true → edge < 4 → e.named p = k :: l :: ks →
      exec (.uetPacket edge p) s = .next ((k :: l :: ks).foldl (fun t x => if packetDropped p ((t.edge edge).txOf x) then
        t.modTx edge x (fun r => { r with drop := r.drop + 1 }) else t) s))
    ∧ (∀ m rest, e.inbox = m :: rest → isCancel m = false →
      let id := BitVec.ofNat 64 (leAt m.bytes 4 8)
      let refused (status : Nat) : State := s.modEdge edge (fun e => { e with
        inbox := rest,
        frames := e.frames ++ [{ peer := m.peer, context := m.context, bytes := closeFrame id 0 status 0 }] })
      (requestOk m = false → exec (.requestFrame edge) s = .next (refused 3))
      ∧ (requestOk m = true → e.freeStream = none → exec (.requestFrame edge) s = .next (refused 4))
      ∧ (∀ n, requestOk m = true → e.freeStream = some n →
        exec (.requestFrame edge) s = .next (
          let slot := leAt m.bytes 12 4
          s.modEdge edge (fun e => { e with
            inbox := rest,
            streams := putN e.streams n
              { vf := m.vf, part := m.part, request := id, peer := m.peer, context := m.context, slot := slot },
            texts := e.texts ++ [{ part := m.part, vf := m.vf, request := id, stream := n, slot := slot,
                                   image := (lookupN m.vocab slot).getD 0,
                                   maxNew := BitVec.ofNat 32 (leAt m.bytes 16 4), text := m.bytes.drop 32 }] }))))
    ∧ (∀ m rest n k, e.inbox = m :: rest → isCancel m = true →
      e.streams.find? (fun k => k.2.part == m.part && k.2.vf == m.vf && k.2.request == BitVec.ofNat 64 (leAt m.bytes 4 8)
        && k.2.peer == m.peer && !k.2.closed && k.2.closing.isNone) = some (n, k) →
      exec (.cancelFrame edge) s = .next ((s.modEdge edge (fun e => { e with
        inbox := rest, texts := e.texts.filter (fun t => t.stream != n),
        streams := modN e.streams n (fun k => { k with closing := some (5, 0), held := [] }) })).modTx edge (vfKey m.part m.vf)
          (fun t => { t with queue := t.queue.filter (fun r => r.stream != n) })))
    ∧ (∀ t rest ws, e.texts = t :: rest → e.texts.findSome? (s.imageFails edge) = none →
      s.tokens (t.imageOn edge) t.text = .ok ws →
      let k := vfKey t.part t.vf
      let u := (s.modEdge edge (fun e => { e with texts := rest })).modTx edge k (fun x => { x with
        queue := x.queue ++ [{ request := t.request, stream := t.stream, slot := t.slot, maxNew := t.maxNew,
                               tokens := ws }] })
      ((e.txOf k).queue ≠ [] ∨ (e.txOf k).note = 0 → exec (.tokenise edge) s = .next u)
      ∧ ((e.txOf k).queue = [] → (e.txOf k).note ≠ 0 →
        (∀ w, u.notify (.vf t.part t.vf) (e.txOf k).note.toNat = some w → exec (.tokenise edge) s = .next w)
        ∧ (u.notify (.vf t.part t.vf) (e.txOf k).note.toNat = none →
          exec (.tokenise edge) s = .next (u.modTx edge k (fun x => { x with noterr := true })))))
    ∧ (∀ t rest e0 g gs, e.texts = t :: rest → s.tokens (t.imageOn edge) t.text = .error e0 →
      s.grids.filter (s.imageGrid t) = g :: gs →
      exec (.tokenise edge) s = .next ((g :: gs).foldl (fun u x => u.report (some x.1) e0 0 0) (s.imgDrop (t.imageOn edge) e0.va)))
    ∧ (∀ stream k, lookupN e.streams stream = some k → k.closed = false → k.ready ≠ [] →
      let out := k.ready.take 4064
      exec (.replyDataFrame edge stream) s = .next (s.modEdge edge (fun e => { e with
        streams := modN e.streams stream (fun k => { k with
          ready := k.ready.drop 4064, frame := k.frame + 1, bytes := k.bytes + out.length }),
        frames := e.frames ++ [{ peer := k.peer, context := k.context,
                                 bytes := frameHeader 2 k.request k.frame out.length 0 ++ out }] })))
    ∧ (∀ stream k status code, lookupN e.streams stream = some k → k.closed = false → k.ready = [] →
      k.closing = some (status, code) →
      exec (.closeFrameSent edge stream) s = .next (s.modEdge edge (fun e => { e with
        streams := modN e.streams stream (fun k => { k with closed := true }),
        frames := e.frames ++ [{ peer := k.peer, context := k.context,
                                 bytes := closeFrame k.request k.frame status code.toNat }] })))

/-- R17, R392, R393, R395, R396, R399, R401: the reset of a VF takes its six steps in order, with a new epoch, and resetting reads
1 from the first to the last; a TLB invalidation is under way until its removal is done; `PT_DIES` forms a partition or is
refused; a closed firewall drops a transaction and ends its grid; the high word of a stage-two entry commits it with the low word
that waits, or the entry stays, where it is valid and its range is not mapped. The model's choices and readings in it: logs 1, 37,
40, 51. -/
def Obligations.PartitionsAndVfs : Prop :=
  ∀ (s : State) (part vf : Nat),
    let key := vfKey part vf
    (s.hasVf part vf = true →
      (let done (n : Nat) (t : State) : State := t.modVf key (fun v => { v with resetAt := n })
       let at_ := (s.vf key).resetAt
       (at_ = 0 → exec (.vfReset part vf) s = .next (done 1 (s.resetQueues part vf)))
       ∧ (at_ = 1 → exec (.vfReset part vf) s = .next (done 2 (s.resetGrids part vf)))
       ∧ (at_ = 2 → exec (.vfReset part vf) s = .next (done 3 (s.modVf key (fun v => { v with epoch := v.epoch + 1 }))))
       ∧ (at_ = 3 → exec (.vfReset part vf) s = .next (done 4 (s.resetText part vf)))
       ∧ (at_ = 4 → exec (.vfReset part vf) s = .next (done 5 (s.resetCores part vf)))
       ∧ (at_ = 5 → exec (.vfReset part vf) s = .next (done 0 (s.resetNote part))))
      ∧ ((s.vf key).resetting = false →
        (∀ page, exec (.tlbinvAddress part vf page) s = .next ((s.endRemoval part vf).modVf key (fun v =>
          { v with busy := true, removing := some (some (page.toNat * 65536)) })))
        ∧ exec (.tlbinvVf part vf) s = .next ((s.endRemoval part vf).modVf key (fun v =>
          { v with busy := true, removing := some none })))
      ∧ ((s.vf key).resetting = true → (∀ page, exec (.tlbinvAddress part vf page) s = .next s)
        ∧ exec (.tlbinvVf part vf) s = .next s))
    ∧ (∀ page, (s.vf key).busy = true → (s.vf key).removing = some page →
      exec (.tlbinvComplete part vf) s = .next ((s.removeTlb part vf page).modVf key (fun v =>
        { v with busy := false, removing := none })))
    ∧ (∀ dies : BitVec 40, part < 40 →
      exec (.partitionForm part dies) s = .next (
        if !meshConnected dies || s.parts.any (fun q => q.1 != part && q.2.formed && (q.2.dies &&& dies) != 0) then
          s.modPart part (fun k => { k with refused := true })
        else s.modPart part (fun k => { k with dies := dies, formed := dies != 0 })))
    ∧ (∀ die k, hasEnd die k = true → ((s.die die).fwOf k).closed = true →
      let u := s.modDie die (fun d => { d with fw := putN d.fw k { (s.die die).fwOf k with violation := true } })
      exec (.firewallDrop die k none) s = .next u
      ∧ (∀ g, exec (.firewallDrop die k (some g)) s = .next (u.report (some g) ⟨.perm, 0⟩ 0 (16 * die))))
    ∧ (∀ index hi, part < 40 → vf < 64 → index < 48 →
      let lo := s.latched (rangeOffset part vf index) (wordOf ((lookupN (s.vf key).ranges index).getD 0) 0)
      let e : BitVec 128 := (hi ++ lo) &&& 0x000FFFFFFFFFFFFFFFFFFFFFFFFFFF0F#128
      ∃ t, exec (.stageTwoEntryWrite part vf index hi) s = .next t
        ∧ (e.getLsbD 0 = false ∨ rangeMapped e = true → lookupN (t.vf key).ranges index = some e
          ∧ ∀ n, n ≠ index → lookupN (t.vf key).ranges n = lookupN (s.vf key).ranges n)
        ∧ (e.getLsbD 0 = true → rangeMapped e = false → (t.vf key).ranges = (s.vf key).ranges))

/-- R214, R403, R404, R406: a transaction that a link accepts reads, writes or operates on the memory of the VF that its tray is bound to,
or on its register window, and completes; one of another tray is aborted, and one that a firewall drops gets no answer; a flit is
retried up to 8 times, and then the link goes down and what is in flight on it is discarded. A peer's read, write, atomic, compare-and-swap, ticket or added drain that the
admission table admits is performed at its home and answered, another is answered with its trap, a firewall that drops it keeping its mark. The bytes of a
write land in no order: one of them, after which the same operation once more goes on with the others, or all that are left; but what an
earlier write of the VF has still to land in a 16-byte unit of a later one lands first.
The model's choices and readings in it: logs 2, 13, 40, 91. -/
def Obligations.LinksAndPeers : Prop :=
  ∀ (s : State) (tray part vf ipa : Nat),
    (∀ what rest (done : State → State),
      let put (t : State) (c : Nat × Byte) : State := t.physWrite c.1 [c.2]
      let others : List Landing := s.landing.filter (fun l => l.what != what)
      (s.oracle = [] → s.landWrite what rest done = done (rest.foldl put { s with landing := others }))
      ∧ (∀ k c more, s.oracle = k :: more → 1 ≤ k → k ≤ rest.length → 2 ≤ rest.length → rest[k - 1]? = some c →
        s.landWrite what rest done = { put { s with oracle := more } c with
          landing := others ++ [{ what := what, rest := rest.eraseIdx (k - 1) }] }))
    ∧ (∀ data, let what : Instr := .chaskoPostedWrite tray part vf ipa data
      let done (t : State) : State := t.modEdge (trayEdge tray) (fun e => { e with retries := 0 })
      ∀ l, s.begun what = some l → exec what s = .next (s.landWrite what l.rest done))
    ∧ (∀ data, s.begun (.chaskoPostedWrite tray part vf ipa data) = none → s.linkTakes tray ipa data.length = true →
      (∀ ps, s.chaskoReach tray part vf ipa data.length true = .memory ps →
        exec (.chaskoPostedWrite tray part vf ipa data) s
          = .next ((s.landEarlier part vf (cellsOf ps data)).landWrite (.chaskoPostedWrite tray part vf ipa data) (cellsOf ps data) (fun t =>
            t.modEdge (trayEdge tray) (fun e => { e with retries := 0 }))))
      ∧ (s.chaskoReach tray part vf ipa data.length true = .registers →
        exec (.chaskoPostedWrite tray part vf ipa data) s
          = .next ((s.vfWindowWrite part vf (ipa - windowIpa) data).modEdge (trayEdge tray) (fun e => { e with retries := 0 })))
      ∧ (s.bindsTray tray part vf = false →
        exec (.chaskoPostedWrite tray part vf ipa data) s = .next (s.abort tray))
      ∧ (s.chaskoReach tray part vf ipa data.length true = .dropped →
        exec (.chaskoPostedWrite tray part vf ipa data) s = .next (s.chaskoDrop tray)))
    ∧ (∀ cells, let u := s.landEarlier part vf cells
      (∀ l ∈ u.landing, ∀ t i d, l.what = .chaskoPostedWrite t part vf i d → ∀ c ∈ l.rest, ∀ x ∈ cells, c.1 / 16 ≠ x.1 / 16)
      ∧ (∀ pa, (∀ x ∈ cells, pa / 16 ≠ x.1 / 16) → u.phys.byte pa = s.phys.byte pa))
    ∧ (∀ n tag, s.linkTakes tray ipa n = true →
      (∀ ps, s.chaskoReach tray part vf ipa n false = .memory ps →
        exec (.chaskoRead tray part vf ipa n tag) s
          = .next (if ps.any (fun p => s.poisoned p.1 p.2) then s.completes tray tag 1 []
              else (s.noteSoft ps).completes tray tag 0 (ps.flatMap (fun p => s.phys.read p.1 p.2))))
      ∧ (s.chaskoReach tray part vf ipa n false = .registers →
        exec (.chaskoRead tray part vf ipa n tag) s = .next (s.completes tray tag 0 ((List.range (n / 8)).flatMap (fun i =>
          leBytes 8 (s.vfWindow part vf (ipa - windowIpa + 8 * i)).toNat))))
      ∧ (s.bindsTray tray part vf = false →
        exec (.chaskoRead tray part vf ipa n tag) s = .next ((s.abort tray).completes tray tag 1 []))
      ∧ (s.chaskoReach tray part vf ipa n false = .dropped →
        exec (.chaskoRead tray part vf ipa n tag) s = .next (s.chaskoDrop tray)))
    ∧ (∀ (op ty : BitVec 4) b tag, let n := tyWn ty.toNat / 8
      s.linkOpen tray = true → atomTypeOk op.toNat ty.toNat = true → ty.toNat < 8 → ipa % n = 0 →
      (∀ pa m rest, s.chaskoReach tray part vf ipa n true = .memory ((pa, m) :: rest) → s.poisoned pa n = false →
        exec (.chaskoAtomic tray part vf ipa op ty b tag) s = .next (
          ((s.noteSoft [(pa, n)]).physWrite pa
            (leBytes n (atomResult (.atom (.lit 0) op.toNat ty.toNat b) (leNat (s.phys.read pa n))).1)).completes
            tray tag 0 (leBytes n (leNat (s.phys.read pa n)))))
      ∧ (s.bindsTray tray part vf = false →
        exec (.chaskoAtomic tray part vf ipa op ty b tag) s = .next ((s.abort tray).completes tray tag 1 [])))
    ∧ (∀ edge, edge < 4 → (s.edge edge).linkUp = true →
      ((s.edge edge).retries < 8 →
        exec (.chaskoFlitRetry edge) s = .next (s.modEdge edge (fun e => { e with retries := e.retries + 1 })))
      ∧ (8 ≤ (s.edge edge).retries →
        exec (.chaskoLinkDown edge) s = .next (({ s with landing := s.landing.filter (fun l => match l.what with
            | .chaskoPostedWrite t _ _ _ _ => trayEdge t != edge
            | _ => true) } : State).modEdge edge (fun e => { e with linkUp := false, completions := [] }))))
    ∧ (∀ m offset, s.up = true → m < 1024 → m ≠ s.mdId.toNat →
      (∀ k, (match k with | .drain _ _ _ _ _ _ => False | _ => True) → peerOk offset k = true →
        (∀ d, k = .write d → s.begun (.peerAccess m part offset s.mdId.toNat k) = none) → s.peerReach m part (peerWrites k) offset (peerSize k) = none →
        exec (.peerAccess m part offset s.mdId.toNat k) s
          = .next ((s.peerDrop m part (peerWrites k) [(offset, peerSize k)]).answerPeer m (.error .perm)))
      ∧ (∀ n ps, s.peerReach m part false offset n = some ps → ps.any (fun p => s.poisoned p.1 p.2) = false →
        exec (.peerAccess m part offset s.mdId.toNat (.read n)) s
          = .next ((s.noteSoft ps).answerPeer m (.ok (ps.flatMap (fun p => s.phys.read p.1 p.2)))))
      ∧ (∀ d, let what : Instr := .peerAccess m part offset s.mdId.toNat (.write d)
        let done (t : State) : State := t.answerPeer m (.ok [])
        (∀ l, s.begun what = some l → exec what s = .next (s.landWrite what l.rest done))
        ∧ (∀ ps, s.begun what = none → s.peerReach m part true offset d.length = some ps →
          exec what s = .next (s.landWrite what (cellsOf ps d) done)))
      ∧ (∀ k x pa n rest, peerAtom k = some x → peerOk offset k = true →
        s.peerReach m part true offset (peerSize k) = some ((pa, n) :: rest) → s.poisoned pa n = false →
        let r := atomResult x (leNat (s.phys.read pa n))
        exec (.peerAccess m part offset s.mdId.toNat k) s
          = .next (((s.noteSoft [(pa, n)]).physWrite pa (leBytes n r.1)).answerPeer m (.ok (leBytes n r.2))))
      ∧ (∀ acc ty round sat rows u, peerOk offset (.drain acc ty round sat rows none) = true →
        s.peerDrain m part acc.toNat ty.toNat round.toNat sat rows = .ok u →
        exec (.peerAccess m part offset s.mdId.toNat (.drain acc ty round sat rows none)) s = .next (u.answerPeer m (.ok []))))

/-- R201, R391, R407 to R409, R412, R413: scrub clears and counts the correctable errors of the stacks, and what has failed since
shows; a mismatched monitor pair holds its die and ends the grids there, and one that is held reloads; an error in a serving
kernel's memory freezes the queues and launches it again, and a push of its lead unfreezes them; a panic of the operating system
saves every team and sends the numbered crash datagrams to the collector, and its restart goes on; each die throttles by a
sixteenth down to half; bring-up takes its eight steps in order, zeroes memory in the fourth, starts the monitors in the sixth,
and in the seventh loads the supervisor image and starts it. The model's choices and readings in it: logs 1, 2, 3, 9, 15, 42, 43,
44, 73, 74. -/
def Obligations.ModuleEvents : Prop :=
  ∀ (s : State),
    (exec .refreshScrub s = .next (State.strike { s with
      soft := s.soft.filter (fun p => !isHbm p), corrected := s.corrected + (s.soft.filter isHbm).length }))
    ∧ (∀ die, die < 40 → exec (.monitorLockstepMismatch die) s = .next ((s.gridsOnDie die).foldl
        (fun s g => s.report (some g) ⟨.eccUe, 0⟩ 0 (16 * die)) (s.modDie die (fun d => { d with held := true }))))
    ∧ (∀ d ds, (s.dies.filter (fun d => d.2.held)).map (·.1) = d :: ds →
      let i := s.pick (d :: ds).length
      exec .monitorReload s = .next ((i.2.modDie ((d :: ds).getD i.1 0) (fun d => { d with held := false })).modCore
        (640 + (d :: ds).getD i.1 0) (fun k => { k with threads := [(0, i.2.monThread)] })))
    ∧ (∀ h hs, s.parts.filterMap (fun p => ((s.servingGrid p.1).filter (fun g => s.memoryHurt g.2)).map (p.1, ·)) = h :: hs →
      exec .servingKernelRestart s = .next ((h :: hs).foldl (fun s h => s.restartServing h.1 h.2.1 h.2.2) s))
    ∧ (∀ p ps, s.parts.filter (fun p => s.mayUnfreeze p.2) = p :: ps →
      exec .queueUnfreeze s = .next ((p :: ps).foldl (fun s p => p.2.held.foldl (fun s h => s.ring p.1 h.1 h.2.1 h.2.2)
        (s.modPart p.1 (fun q => { q with frozen := false, held := [], serving := none }))) s))
    ∧ (s.panicked = false → exec .osPanic s = .next { s.saveAll (fun _ _ => true) with
        panicked := true, crash := (List.range (min Config.crashCount 65536)).map (fun i =>
          { number := i, addr := s.mdCollect, port := s.mdCport, bytes := (Config.crashImage i).take 4096 }) })
    ∧ (s.panicked = true → exec .osRestart s = .next (((s.grids.filter (fun g => g.2.skeins.any (fun k => !k.2.intact))).map
        (·.1)).foldl (fun s g => s.report (some g) ⟨.eccUe, 0⟩ 0 0) { s with panicked := false }))
    ∧ (exec .thermalThrottle s = .next { s with throttle := min 8 (s.throttle + 1) })
    ∧ (s.stage < 8 → ∃ t, exec .bringUp s = .next t ∧ t.stage = s.stage + 1
        ∧ (s.stage = 3 → t.phys = []) ∧ (s.stage ≠ 3 → s.stage ≠ 6 → t.phys = s.phys)
        ∧ (s.stage = 5 → ∀ d < 40, (t.core (640 + d)).threads = [(0, s.monThread)])
        ∧ (s.stage = 6 → t.phys = s.loadSup.phys ∧ t.osPages = s.loadSup.osPages ∧ t.supText = s.loadSup.supText
          ∧ t.supEntry = s.supImage.entry ∧ ∀ c < 640, (t.core c).threads = s.loadSup.supThreads))

/-- R410: a root of trust answers each message, refuses a negotiation without ML-DSA-65, ML-KEM-768 and SHAKE256 and a key exchange
other than ML-KEM-768, and nothing answers where its port is 0.
The model's choices and readings in it: log 14. -/
def Obligations.RootsOfTrust : Prop :=
  ∀ (s : State) (edge : Nat),
    let answers (f : Spdm → Spdm) : Host.Outcome State Fault Refusal :=
      .next (if (s.edge edge).spdmPort = 0 then s else s.modEdge edge (fun e => { e with spdm := f e.spdm }))
    exec (.getVersion edge) s = answers (·.say .version)
    ∧ exec (.getCapabilities edge) s = answers (·.say .capabilities)
    ∧ (∀ o, exec (.negotiateAlgorithms edge o) s = answers (fun p =>
      if o.mlDsa65 && o.mlKem768 && o.shake256 then { p with algorithms := true }.say .algorithms else p.say .refused))
    ∧ exec (.getDigests edge) s = answers (fun p => p.say (.digests (Config.spdmBytes 0 p.sent.length)))
    ∧ exec (.getCertificate edge) s = answers (fun p => p.say (.certificate (Config.spdmBytes 1 p.sent.length)))
    ∧ (∀ nonce, exec (.challenge edge nonce) s = answers (fun p =>
      p.say (.challengeAuth nonce (Config.spdmBytes 2 p.sent.length))))
    ∧ (∀ k part vf, 1 ≤ k ∧ k ≤ 6 → exec (.getMeasurements edge k part vf) s
      = answers (fun p => p.say (.measurement k (Config.measurement k (s.measured k part vf)))))
    ∧ exec (.keyExchange edge .mlKem768) s
      = answers (fun p => { p with keyed := true }.say (.keyExchange (Config.spdmBytes 3 p.sent.length)))
    ∧ exec (.keyExchange edge .other) s = answers (fun p => p.say .refused)
    ∧ exec (.finish edge) s = answers (fun p => { p with session := p.keyed }.say .finish)
    ∧ exec (.endSession edge) s = answers (fun p => { p with session := false, keyed := false }.say .endSession)

/-! ### Encoding, decoding and the step (spec/03) -/

/-- R57 to R70: decoding the word of a well-formed instruction gives it back, and a word that decodes is the word of its
well-formed instruction: no bit of an encoding is dropped. -/
def Obligations.DecodeEncode : Prop :=
  (∀ i : Instr, i.wellFormed = true → decode (encode i) = .ok i)
  ∧ (∀ (w : IWord) (i : Instr), decode w = .ok i → i.wellFormed = true ∧ encode i = w)

/-- The words of the spec's "Encoding at work", of a `DQPOP`, a `TRAP` and a `BRK` (bits `[95:64]` first), decode to their
instructions; major 0x00 and a false field do not decode. -/
def Obligations.SpecWords : Prop :=
  let cm (g : BitVec 4) (d a b c : Opnd) : Common := { guard := g, retain := 0, d := d, a := a, b := b, c := c }
  let r (k : Common) (ty : BitVec 4) (fn : BitVec 17) : RForm :=
    { cm := k, ty := ty, round := 0, sat := 0, mods := 0, pred2 := 0, func := fn }
  decode 0x200700220000000180000000#96
    = .ok (.ld { cm := cm 7 (.g 4) (.s 0) (.g 0) (.g 0), size := 6, order := 0, scope := 0, cache := 0, space := 0, offset := 0 })
  ∧ decode 0x160700360000000000000064#96 = .ok (.movi { cm := cm 7 (.g 6) (.imm 0) (.g 0) (.g 0), ity := 0, imm := 100 })
  ∧ decode 0x040700280400800180000000#96 = .ok (.iadd (r (cm 7 (.g 5) (.g 4) (.g 4) (.g 0)) 6 0))
  ∧ decode 0x500100000000000100000001#96
    = .ok (.bra { cm := cm 1 (.g 0) (.g 0) (.g 0) (.g 0), slot := 2, resv := 0, offset := 1 })
  ∧ decode 0x741700200040600BC0000000#96 = .ok (.dqpop (r (cm 7 (.g 4) (.g 0) (.s 3) (.g 2)) 15 0))
  ∧ decode 0xF007002006800003C0000005#96 = .ok (.trap (r (cm 7 (.g 4) (.g 6) (.lit 0) (.g 0)) 15 5))
  ∧ decode 0xF037000000000003C0000000#96 = .ok (.brk (r (cm 7 (.g 0) (.g 0) (.g 0) (.g 0)) 15 0))
  ∧ decode 0x000700000000000000000000#96 = .error .unassigned
  ∧ decode 0x040700280400800190000000#96 = .error .badField

/-- R71, R162, R172: a step does the operation that the agenda names (log 1), else runs the instruction that the running lanes of the
issue in progress fetch, of a collective only those whose whole group is there; lanes whose word does not decode trap `ILL_ENC`, and a
lane whose fetch meets a trap takes it. A second slot whose threads are not all ready ends the issue there. With no issue in progress
the default schedule moves, or the clock.
The model's choices and readings in it: logs 1, 3. -/
def Obligations.StepRunsDecoded : Prop :=
  ∀ (s : State),
    (∀ i rest, s.agenda = i :: rest → step s = exec i { s with agenda := rest })
    ∧ (∀ x w i, s.agenda = [] → s.cur = some x → x.second = false → x.agents ≠ [] →
      (∀ a ∈ x.agents, s.fetch a = .word w ∧ (s.ctx a).wait = .run) → decode w = .ok i →
      (∀ f, form i = some f → f.coll = true → ∀ a ∈ x.agents, ∀ b ∈ s.groupMates a, b ∈ x.agents) → step s = exec i s)
    ∧ (∀ x u, s.agenda = [] → s.cur = some x → s.openIssue x = some u →
      let as : List Agent := x.agents.filter (fun a => (u.ctx a).wait == .run)
      (∀ w i, as ≠ [] → (∀ a ∈ as, u.fetch a = .word w) → decode w = .ok i →
        (u.wholeGroups i as ≠ [] → step s = exec i { u with cur := some { x with agents := u.wholeGroups i as } })
        ∧ (u.wholeGroups i as = [] → step s = .next u.endIssue))
      ∧ (∀ w r, as ≠ [] → (∀ a ∈ as, u.fetch a = .word w) → decode w = .error r →
        step s = .next (as.foldl (fun t a => t.raise a ⟨.illEnc, 0⟩) u).endIssue)
      ∧ (∀ a t, as = [a] → u.fetch a = .trap t →
        step s = .next ((if t.code = .perm then u.fetchDrop a else u).raiseAt a t (u.ctx a).srcPc).endIssue)
      ∧ (as = [] → step s = .next u.endIssue))
    ∧ (∀ x, s.agenda = [] → s.cur = some x → x.second = true → x.agents.all s.ready = false → step s = .next { s with cur := none })
    ∧ (∀ t, s.agenda = [] → s.cur = none → firstOf s.phases s = some t → step s = .next t)
    ∧ (s.agenda = [] → s.cur = none → firstOf s.phases s = none → step s = .next s.idle)

/-- R61, R66, R70, R71, R309, R407: for every instruction but a collective, the encoding checks come first and trap `ILL_ENC`;
then a false guard makes the lane go on with no other effect; then a space that the form may not name, and a launch that is not
exclusive where the form needs one, trap `PERM`; then a source register whose parity has failed ends the grid with `ECC_UE`. The
model's choices and readings in it: log 11. -/
def Obligations.IssueChecks : Prop :=
  ∀ (s : State) (a : Agent) (i : Instr) (f : Form) (x : Issue),
    form i = some f → f.coll = false → s.cur = some x → x.agents = [a] →
    (s.issueOk a f = false → exec i s = .next (s.raise a ⟨.illEnc, 0⟩).endIssue)
    ∧ (s.issueOk a f = true → s.guardTrue a f.cm.guard = false → exec i s = .next (s.advance a).endIssue)
    ∧ (s.issueOk a f = true → s.guardTrue a f.cm.guard = true → f.space = false →
      exec i s = .next (s.raise a ⟨.perm, 0⟩).endIssue)
    ∧ (s.issueOk a f = true → s.guardTrue a f.cm.guard = true → f.space = true → f.excl = true → s.exclusive a = false →
      exec i s = .next (s.raise a ⟨.perm, 0⟩).endIssue)
    ∧ (s.issueOk a f = true → s.guardTrue a f.cm.guard = true → f.space = true → (f.excl = true → s.exclusive a = true) →
      s.badOperand a f = true → exec i s = .next (s.raise a ⟨.eccUe, 0⟩).endIssue)

/-! ### Registers and frames -/

/-- R7, R58, R59, R90, R91: a value written to registers of a width that an operand has reads back, and no other register changes; `zr`
reads 0 and discards; `pt` is true and discards; a narrow signed result is extended by its sign. -/
def Obligations.RegisterFile : Prop :=
  ∀ (s : State) (a : Agent),
    (∀ (i : BitVec 9) (w v : Nat), (s.thread? a).isSome = true → w ∈ [8, 16, 32, 64, 128] →
      let t := s.putD a (.g i) w v
      t.opVal a (.g i) w = v % 2 ^ w
      ∧ (∀ n, ¬ (i.toNat ≤ n ∧ n < i.toNat + wordsOf w) → gReg t a n = gReg s a n)
      ∧ (∀ b, b ≠ a → SameRegs s t b))
    ∧ (∀ (i : BitVec 9) (w v : Nat), (s.lead? a).isSome = true → w ≤ 64 →
      let t := s.putD a (.s i) w v
      sReg t a i.toNat = BitVec.ofNat 64 v ∧ t.opVal a (.s i) w = v % 2 ^ w
      ∧ (∀ n, n ≠ i.toNat → sReg t a n = sReg s a n) ∧ (∀ b, b ≠ a → SameRegs s t b))
    ∧ (∀ (i : BitVec 9) (sg : Bool) (w v : Nat), (s.thread? a).isSome = true → w ∈ [8, 16] →
      gReg (s.putInt a (.g i) sg w v) a i.toNat = BitVec.ofInt 32 (toVal sg w v))
    ∧ (∀ (i : BitVec 9) (sg : Bool) (w v : Nat), (s.lead? a).isSome = true → w ∈ [8, 16, 32, 64] →
      sReg (s.putInt a (.s i) sg w v) a i.toNat = BitVec.ofInt 64 (toVal sg w v))
    ∧ (∀ w v, s.putD a (.lit 0) w v = s ∧ s.putInt a (.lit 0) false w v = s ∧ s.opVal a (.lit 0) w = 0)
    ∧ (s.readP a 7 = true ∧ ∀ v, (s.writeP a 7 v).readP a 7 = true ∧ SameRegs s (s.writeP a 7 v) a)

/-- R58, R59, R61, R62, R71, R172: the frame of the instructions that write registers only (`registerOnly`), on every path that
they take, traps and false guards among them: no byte of memory, no special register, mailbox, access or command changes, nothing
of another thread or lead but an operand buffer that a lead's write empties, and of a lane that issues only the registers and the
predicate that its D names and, where the instruction raises flags, bits of `fstat` that are set. -/
def Obligations.RegisterFrame : Prop :=
  ∀ (s t : State) (i : Instr) (f : Form) (x : Issue),
    form i = some f → registerOnly f = true → s.cur = some x → exec i s = .next t →
    SameBytes s t ∧ SameSpecial s t
    ∧ (∀ b, b ∉ x.agents → (t.thread? b).map bare = (s.thread? b).map bare ∧ t.lead? b = s.lead? b)
    ∧ (∀ b ∈ x.agents,
      let spans := (s.issueEnv b).span f f.d f.cm.d
      (∀ n, outside spans false n → gReg t b n = gReg s b n) ∧ (∀ n, outside spans true n → sReg t b n = sReg s b n)
      ∧ (∀ n < 7, ¬ (f.d = .predDst ∧ n = f.cm.d.num) → t.readP b n = s.readP b n)
      ∧ (t.ctx b).handles = (s.ctx b).handles
      ∧ (raisesFlags f = false → (t.ctx b).fstat = (s.ctx b).fstat) ∧ (s.ctx b).fstat &&& (t.ctx b).fstat = (s.ctx b).fstat
      ∧ (t.ctx b).ld = (s.ctx b).ld ∧ (t.ctx b).st = (s.ctx b).st ∧ (t.ctx b).cp = (s.ctx b).cp ∧ (t.ctx b).mx = (s.ctx b).mx
      ∧ t.level b = s.level b ∧ t.place b = s.place b ∧ t.tidOf b = s.tidOf b)

/-- R116, R118, R352, R366, R393: the frame of a load, a store, an atomic, a prefetch, a cache control, a step on a block or a text form
that waits for its home, at its issue, on every path: no byte of memory and no register changes, but the mark of a firewall that drops
a request; the accesses that it leaves pending are its lanes' own, and they stand after those before. -/
def Obligations.AccessIssueFrame : Prop :=
  ∀ (s t : State) (i : Instr) (f : Form) (x : Issue),
    form i = some f → issuesAccess f = true → s.cur = some x → exec i s = .next t →
    SameBytes s t ∧ (∀ b, SameRegs s t b) ∧ (∀ b, b ∉ x.agents → (t.ctx b).pc = (s.ctx b).pc ∧ (t.ctx b).wait = (s.ctx b).wait)
    ∧ (∀ c, ∃ ps, (t.core c).pend = (s.core c).pend ++ ps ∧ ∀ p ∈ ps, p.agent ∈ x.agents ∧ p.agent.core = c)
    ∧ t.parts = s.parts ∧ t.vfs = s.vfs ∧ t.edges = s.edges ∧ t.grids = s.grids
    ∧ (∀ d, (t.die d).held = (s.die d).held ∧ ∀ k, (t.die d).fwOf k = (s.die d).fwOf k
      ∨ (t.die d).fwOf k = { (s.die d).fwOf k with violation := true })

/-- R112, R126, R127, R131, R211, R333: the frame of an access that is performed. The loads that return together change no byte, and of
registers only their destinations; a store changes only bytes at its address, which read as stored once it is performed whole; an
atomic changes its location and its destination; the `LDGA`s that land together change their destination bytes and their barrier objects;
a step on a block whose pages its core's TLB holds changes only bytes of the block, and its destination. Where the access traps instead,
the 16 bytes of an object that its agent waits on may change (R230).
The model's choices and readings in it: log 57. -/
def Obligations.PerformedFrame : Prop :=
  ∀ (s t : State) (core op : Nat) (p : Pending), s.readyOp core op = some p →
    let c := p.agent.core
    let objs : ObjRef → Prop := waitedOn s p.agent
    let inPieces (va n pa : Nat) : Prop := ∃ x m ps, va ≤ x ∧ x + m ≤ va + n ∧ inWindow p.via x = false
      ∧ s.pieces c p.via true (granules m) x m = some ps ∧ ∃ q ∈ ps, q.1 ≤ pa ∧ pa < q.1 + q.2
    let inStore (d w o n e off : Nat) : Prop := e = d ∧ s.regionBase d w + o ≤ off ∧ off < s.regionBase d w + o + n
    let placed (n e off : Nat) : Prop := ∃ d w o, p.place = .store d w o ∧ inStore d w o n e off
    let hit (q : Pending) : Prop := ∃ e, q ∈ (s.core e).pend ∧ ∃ x ∈ (s.core core).loadSet p, q.id = x.id
    let sameRest (b : Agent) : Prop := (t.ctx b).preds = (s.ctx b).preds ∧ (t.ctx b).handles = (s.ctx b).handles
      ∧ (t.ctx b).fstat = (s.ctx b).fstat
    (p.isLoad = true → exec (.loadReturn core op) s = .next t →
      SameBytesBut s t (atGlobObj (fun r => ∃ q, hit q ∧ waitedOn s q.agent r))
        (atStoreObj s (fun r => ∃ q, hit q ∧ waitedOn s q.agent r)) (fun _ _ => False)
      ∧ (∀ b, (∀ q, hit q → q.agent ≠ b) → SameRegs s t b)
      ∧ (∀ b, sameRest b
        ∧ (∀ n, (∀ q, hit q → q.agent = b → outside q.span false n) → gReg t b n = gReg s b n)
        ∧ (∀ n, (∀ q, hit q → q.agent = b → outside q.span true n) → sReg t b n = sReg s b n)))
    ∧ (∀ bs, p.kind = .store bs → exec (.storePerformed core op) s = .next t →
      (∀ b, SameRegs s t b)
      ∧ SameBytesBut s t (fun pa => (∃ va, p.place = .glob va ∧ inPieces va bs.length pa) ∨ atGlobObj objs pa)
          (fun e off => placed bs.length e off ∨ atStoreObj s objs e off)
          (fun e off => e = c ∧ ∃ o, p.place = .cstore o ∧ (if p.undef then ∃ x, o ≤ x ∧ x ≤ o + p.n ∧ off / 32768 = x / 32768
            else o ≤ off ∧ off < o + bs.length))
      ∧ (p.got = [] → p.rest.length ≤ 1 → p.undef = false →
        (∀ va pa n, p.place = .glob va → inWindow p.via va = false →
          s.pieces c p.via true (granules bs.length) va bs.length = some [(pa, n)] → t.phys.read pa n = bs)
        ∧ (∀ d w o, p.place = .store d w o → t.storeRead d w o bs.length = bs)
        ∧ (∀ o, p.place = .cstore o → (t.core c).cstore.read o bs.length = bs)))
    ∧ (p.isAtomic = true → (s.core c).atomicSet p = [p] → exec (.atomicAtHome core op) s = .next t →
      (∀ b, b ≠ p.agent → SameRegs s t b) ∧ sameRest p.agent
      ∧ (∀ n, outside p.span false n → gReg t p.agent n = gReg s p.agent n)
      ∧ (∀ n, outside p.span true n → sReg t p.agent n = sReg s p.agent n)
      ∧ SameBytesBut s t
          (fun pa => (∃ va ps, p.place = .glob va ∧ s.pieces c p.via true (granules p.n) va p.n = some ps
            ∧ ∃ q ∈ ps, q.1 ≤ pa ∧ pa < q.1 + q.2) ∨ atGlobObj objs pa)
          (fun e off => placed p.n e off ∨ atStoreObj s objs e off) (fun _ _ => False))
    ∧ (p.isLdga = true → exec (.ldgaLanding core op) s = .next t →
      let set : List Pending := (s.core core).loadSet p
      let waits : ObjRef → Prop := fun r => ∃ q ∈ set, waitedOn s q.agent r
      (∀ b n, gReg t b n = gReg s b n ∧ sReg t b n = sReg s b n)
      ∧ SameBytesBut s t (atGlobObj waits)
          (fun e off => (∃ q ∈ set, ∃ d w dst bc bw bar, q.kind = .ldga d w dst bc bw bar
            ∧ (inStore d w dst q.n e off ∨ inStore bc bw bar 16 e off)) ∨ atStoreObj s waits e off) (fun _ _ => False))
    ∧ (∀ o blk d at_ part vf, p.kind = .step o blk d → p.place = .glob at_ → p.via = .vf part vf →
      (∀ x, at_ ≤ x → x < at_ + 64 + 8 * 1024 → (s.core c).tlb.any (fun e => e.hit part vf x) = true) →
      exec (.loadReturn core op) s = .next t →
      (∀ b, b ≠ p.agent → SameRegs s t b) ∧ sameRest p.agent
      ∧ (∀ n, outside p.span false n → gReg t p.agent n = gReg s p.agent n)
      ∧ (∀ n, outside p.span true n → sReg t p.agent n = sReg s p.agent n)
      ∧ SameBytesBut s t (fun pa => (∃ va n write ps, at_ ≤ va ∧ va + n ≤ at_ + 64 + 8 * 1024
          ∧ s.pieces c p.via write (granules n) va n = some ps ∧ ∃ q ∈ ps, q.1 ≤ pa ∧ pa < q.1 + q.2) ∨ atGlobObj objs pa)
          (atStoreObj s objs) (fun _ _ => False))

/-- R230, R236, R237 to R243, R245: the frame of a barrier form. At its issue, on every path, a form other than `BWAIT` changes no byte
and no register. When it acts on its object at its home it traps, or only the 16 bytes of the object change, no register of another
thread or lead, and of its own only D and its predicate. A `BWAIT` traps with none of its effect, or has ended with what its core
had pending, or only the object's 16 bytes and its predicate differ from the state in which that is performed.
The model's choices and readings in it: log 10. -/
def Obligations.BarrierFrame : Prop :=
  (∀ (s t : State) (f : MForm) (g : Form) (i : Instr) (x : Issue),
    i ∈ [Instr.binit f, .barv f, .bexp f, .btest f, .bexit f, .binval f] → form i = some g → s.cur = some x →
    exec i s = .next t → SameBytes s t ∧ ∀ b, SameRegs s t b)
  ∧ (∀ (s t : State) (core op : Nat) (p : Pending) (k : BarKind) (r : ObjRef) (d : Opnd) (q : Nat),
    s.readyOp core op = some p → p.kind = .bar k r d q → (s.core p.agent.core).atomicSet p = [p] →
    (exec (.loadReturn core op) s = .next t ∨ exec (.storePerformed core op) s = .next t) →
    let u : State := s.spoilObj p.agent.core r p.undef
    let own : List Span := match d with
      | .g i => [⟨false, i.toNat, 1⟩]
      | .s i => [⟨true, i.toNat, 1⟩]
      | _ => []
    t = u.opFails p ⟨.barBad, 0⟩ ∨ t = u.opFails p ⟨.eccUe, 0⟩
    ∨ (SameBytesBut s t (atGlobObj (· = r)) (atStoreObj s (· = r)) (fun _ _ => False)
      ∧ (∀ b n, (b ≠ p.agent ∨ outside own false n) → gReg t b n = gReg s b n)
      ∧ (∀ b n, (b ≠ p.agent ∨ outside own true n) → sReg t b n = sReg s b n)
      ∧ (∀ b, (t.ctx b).handles = (s.ctx b).handles ∧ (t.ctx b).fstat = (s.ctx b).fstat)
      ∧ (∀ b n, n < 7 → ¬ waitedOn s b r → (b ≠ p.agent ∨ n ≠ q) → t.readP b n = s.readP b n)))
  ∧ (∀ (s t : State) (a : Agent) (f : MForm) (r : ObjRef), runs s a (.bwait f) = true →
    (began s a (.bwait f)).barObject a f = .ok r → exec (.bwait f) s = .next t →
    let s0 := began s a (.bwait f)
    let u := s0.flush a.core
    let v := (u.barEvent a.core (s0.viaOf a) r).spoilObj a.core r ((s0.ctx a).marked (s0.spot a f.space (s0.ea a f (off20 f))) 16)
    t = (s0.raise a ⟨.barBad, 0⟩).endIssue ∨ t = (s0.raise a ⟨.eccUe, 0⟩).endIssue
    ∨ ((u.ctx a).wait ≠ .run ∧ t = v.endIssue)
    ∨ ((u.ctx a).wait = .run
      ∧ SameBytesBut u t (atGlobObj (· = r)) (atStoreObj u (· = r)) (fun _ _ => False)
      ∧ (∀ b n, gReg t b n = gReg u b n ∧ sReg t b n = sReg u b n)
      ∧ (∀ b, b ≠ a → (t.ctx b).preds = (u.ctx b).preds) ∧ (∀ n < 7, n ≠ f.cm.d.num → t.readP a n = u.readP a n)))

/-! ### Reset and an invariant -/

/-- R194, R357, R385, R392, R393, R395, R397, R400: what the spec gives at reset. Memory lists nothing (log 5). -/
def Obligations.ResetState : Prop :=
  let s := State.reset
  MemoryOk s ∧ (∀ pa, s.phys.byte pa = 0)
  ∧ (∀ c, (s.core c).cwdog = 0x04000000 ∧ (s.core c).bwdog = 0 ∧ (s.core c).mbnote = 0 ∧ (s.core c).noterr = false
    ∧ (s.core c).tsel = 0 ∧ (s.core c).mail = []
    ∧ ∀ n, getR (s.core c).bpm n = 0 ∧ getR (s.core c).pcsel n = 0 ∧ getR (s.core c).pcnt n = 0 ∧ getR (s.core c).vfclk n = 0)
  ∧ (∀ p, (s.part p).rctmo = 0x0000D2F0 ∧ (s.part p).season = 0x005265C0 ∧ (s.part p).dies = 0 ∧ (s.part p).formed = false
    ∧ (s.part p).refused = false ∧ (s.part p).rstnoterr = false ∧ (s.part p).rstnote = 0 ∧ (s.part p).serve = 0
    ∧ (s.part p).serveVf = 0 ∧ (s.part p).admits = [])
  ∧ (∀ k, (s.vf k).ranges = [] ∧ (s.vf k).confidential = false ∧ (s.vf k).resetting = false ∧ (s.vf k).busy = false
    ∧ (s.vf k).epoch = 0 ∧ (s.vf k).ptroot = 0 ∧ (s.vf k).flhead = 0
    ∧ ∀ q, ((s.vf k).queue q).base = 0 ∧ ((s.vf k).queue q).log = 0 ∧ ((s.vf k).queue q).priority = 0
      ∧ ((s.vf k).queue q).enable = false ∧ ((s.vf k).queue q).widx = 0 ∧ ((s.vf k).queue q).ridx = 0
      ∧ ((s.vf k).queue q).stat = 0)
  ∧ (∀ e k, ((s.edge e).txOf k).enable = false ∧ ((s.edge e).txOf k).note = 0 ∧ ((s.edge e).txOf k).drop = 0
    ∧ ((s.edge e).txOf k).addr = 0 ∧ ((s.edge e).txOf k).port = 0 ∧ ((s.edge e).txOf k).peers = [])
  ∧ (∀ d k, ((s.die d).fwOf k).far = 0 ∧ ((s.die d).fwOf k).own = 0 ∧ ((s.die d).fwOf k).violation = false
    ∧ ((s.die d).fwOf k).edge = true ∧ ((s.die d).fwOf k).closed = true)
  ∧ s.mdId = 0 ∧ s.mdCollect = 0 ∧ s.mdCport = 0

/-- Physical memory stays in its one canonical form over every step: addresses rise strictly, and no byte that reads 0 is listed. -/
def Obligations.MemoryStaysCanonical : Prop :=
  ∀ s t : State, MemoryOk s → step s = .next t → MemoryOk t
end

