-- ==== Sys2Proof/Laws/Bits.lean ====
section
/-!
SUPPORT. Encoded words by field: what each field of a packed word reads as, and that packing the fields of a word gives the word
back (spec/03 R57, R64 to R68).
-/

namespace Sys2Proof.Laws

/-- A field of an append lies in the lower part or in the upper part. -/
theorem extract_append_low {n m : Nat} (x : BitVec n) (y : BitVec m) (s l : Nat) (h : s + l ≤ m) :
    (x ++ y).extractLsb' s l = y.extractLsb' s l := by
  apply BitVec.eq_of_getLsbD_eq
  intro i hi
  simp only [BitVec.getLsbD_extractLsb', BitVec.getLsbD_append]
  simp [hi, show s + i < m by omega]

theorem extract_append_high {n m : Nat} (x : BitVec n) (y : BitVec m) (s l : Nat) (h : m ≤ s) :
    (x ++ y).extractLsb' s l = x.extractLsb' (s - m) l := by
  apply BitVec.eq_of_getLsbD_eq
  intro i hi
  simp only [BitVec.getLsbD_extractLsb', BitVec.getLsbD_append]
  simp [hi, show ¬ s + i < m by omega, show s + i - m = s - m + i by omega]

theorem extract_all {n : Nat} (x : BitVec n) : x.extractLsb' 0 n = x := by
  apply BitVec.eq_of_getLsbD_eq
  intro i hi
  simp [hi]

/-- Two neighbouring fields of a word, appended, are the field that they make. -/
theorem append_extract {n : Nat} (x : BitVec n) (s l k : Nat) :
    x.extractLsb' (s + l) k ++ x.extractLsb' s l = x.extractLsb' s (k + l) := by
  apply BitVec.eq_of_getLsbD_eq
  intro i hi
  simp only [BitVec.getLsbD_extractLsb', BitVec.getLsbD_append]
  by_cases h : i < l
  · simp [h, hi]
  · simp [h, hi, show i - l < k by omega, show s + l + (i - l) = s + i by omega]

/-- The parts of the word of an operand field. -/
theorem kind_of_bits (k : BitVec 2) (i : BitVec 9) :
    (k ++ i).extractLsb' 9 2 = k ∧ (k ++ i).extractLsb' 0 9 = i :=
  ⟨by rw [extract_append_high _ _ _ _ (by decide)]; exact extract_all k,
   by rw [extract_append_low _ _ _ _ (by decide)]; exact extract_all i⟩

@[simp] theorem ofBits_bits (o : Opnd) : Opnd.ofBits o.bits = o := by
  cases o <;> simp [Opnd.bits, Opnd.ofBits, kind_of_bits]

@[simp] theorem bits_ofBits (w : BitVec 11) : (Opnd.ofBits w).bits = w := by
  have h : w.extractLsb' 9 2 ++ w.extractLsb' 0 9 = w := (append_extract w 0 9 2).trans (extract_all w)
  have hq : ∀ q : BitVec 2, q = 0 ∨ q = 1 ∨ q = 2 ∨ q = 3 := by decide
  unfold Opnd.ofBits
  rcases hq (w.extractLsb' 9 2) with h' | h' | h' | h' <;> rw [h'] at h ⊢ <;> exact h

/-! ### The fields of a packed word -/

theorem commonOf_packWord (M m : Nat) (c : Common) (md : BitVec 34) : commonOf (packWord M m c md) = c := by
  cases c
  simp (disch := decide) only [commonOf, packWord, extract_append_low, extract_append_high, Nat.reduceSub, extract_all,
    ofBits_bits]

theorem majorOf_packWord (M m : Nat) (c : Common) (md : BitVec 34) : majorOf (packWord M m c md) = M % 64 := by
  simp (disch := decide) only [majorOf, packWord, extract_append_high, Nat.reduceSub, extract_all, BitVec.toNat_ofNat,
    Nat.reducePow]

theorem minorOf_packWord (M m : Nat) (c : Common) (md : BitVec 34) : minorOf (packWord M m c md) = m % 64 := by
  simp (disch := decide) only [minorOf, packWord, extract_append_low, extract_append_high, Nat.reduceSub, extract_all,
    BitVec.toNat_ofNat, Nat.reducePow]

theorem modifier_packWord (M m : Nat) (c : Common) (md : BitVec 34) (s l : Nat) (h : s + l ≤ 34) :
    (packWord M m c md).extractLsb' s l = md.extractLsb' s l := by
  unfold packWord; exact extract_append_low _ _ _ _ h

/-- Packing the parts of a word gives the word. -/
theorem packWord_parts (w : IWord) : packWord (majorOf w) (minorOf w) (commonOf w) (w.extractLsb' 0 34) = w := by
  simp only [packWord, majorOf, minorOf, commonOf, BitVec.ofNat_toNat, bits_ofBits, BitVec.setWidth_eq]
  have e := fun s l k => append_extract w s l k
  rw [show w.extractLsb' 90 6 ++ w.extractLsb' 84 6 = w.extractLsb' 84 12 from e 84 6 6,
    show w.extractLsb' 84 12 ++ w.extractLsb' 80 4 = w.extractLsb' 80 16 from e 80 4 12,
    show w.extractLsb' 80 16 ++ w.extractLsb' 78 2 = w.extractLsb' 78 18 from e 78 2 16,
    show w.extractLsb' 78 18 ++ w.extractLsb' 67 11 = w.extractLsb' 67 29 from e 67 11 18,
    show w.extractLsb' 67 29 ++ w.extractLsb' 56 11 = w.extractLsb' 56 40 from e 56 11 29,
    show w.extractLsb' 56 40 ++ w.extractLsb' 45 11 = w.extractLsb' 45 51 from e 45 11 40,
    show w.extractLsb' 45 51 ++ w.extractLsb' 34 11 = w.extractLsb' 34 62 from e 34 11 51,
    show w.extractLsb' 34 62 ++ w.extractLsb' 0 34 = w.extractLsb' 0 96 from e 0 34 62]
  exact extract_all w

/-! ### The five formats -/

theorem rOf_packR (M m : Nat) (f : RForm) : rOf (packR M m f) = f := by
  cases f
  simp (disch := decide) only [rOf, packR, commonOf_packWord, modifier_packWord, extract_append_low, extract_append_high,
    Nat.reduceSub, extract_all]

theorem iOf_packI (M m : Nat) (f : IForm) : iOf (packI M m f) = f := by
  cases f
  simp (disch := decide) only [iOf, packI, commonOf_packWord, modifier_packWord, extract_append_low, extract_append_high,
    Nat.reduceSub, extract_all]

theorem mOf_packM (M m : Nat) (f : MForm) : mOf (packM M m f) = f := by
  cases f
  simp (disch := decide) only [mOf, packM, commonOf_packWord, modifier_packWord, extract_append_low, extract_append_high,
    Nat.reduceSub, extract_all]

theorem bOf_packB (M m : Nat) (f : BForm) : bOf (packB M m f) = f := by
  cases f
  simp (disch := decide) only [bOf, packB, commonOf_packWord, modifier_packWord, extract_append_low, extract_append_high,
    Nat.reduceSub, extract_all]

theorem xOf_packX (M m : Nat) (f : XForm) : xOf (packX M m f) = f := by
  cases f
  simp (disch := decide) only [xOf, packX, commonOf_packWord, modifier_packWord, extract_append_low, extract_append_high,
    Nat.reduceSub, extract_all]

/-- Packing the fields of a word in a format gives the word. -/
theorem packR_rOf (w : IWord) : packR (majorOf w) (minorOf w) (rOf w) = w := by
  have e := fun s l k => append_extract w s l k
  simp only [packR, rOf]
  rw [show w.extractLsb' 30 4 ++ w.extractLsb' 28 2 = w.extractLsb' 28 6 from e 28 2 4,
    show w.extractLsb' 28 6 ++ w.extractLsb' 27 1 = w.extractLsb' 27 7 from e 27 1 6,
    show w.extractLsb' 27 7 ++ w.extractLsb' 21 6 = w.extractLsb' 21 13 from e 21 6 7,
    show w.extractLsb' 21 13 ++ w.extractLsb' 17 4 = w.extractLsb' 17 17 from e 17 4 13,
    show w.extractLsb' 17 17 ++ w.extractLsb' 0 17 = w.extractLsb' 0 34 from e 0 17 17]
  exact packWord_parts w

theorem packI_iOf (w : IWord) : packI (majorOf w) (minorOf w) (iOf w) = w := by
  simp only [packI, iOf]
  rw [show w.extractLsb' 32 2 ++ w.extractLsb' 0 32 = w.extractLsb' 0 34 from append_extract w 0 32 2]
  exact packWord_parts w

theorem packM_mOf (w : IWord) : packM (majorOf w) (minorOf w) (mOf w) = w := by
  have e := fun s l k => append_extract w s l k
  simp only [packM, mOf]
  rw [show w.extractLsb' 30 4 ++ w.extractLsb' 27 3 = w.extractLsb' 27 7 from e 27 3 4,
    show w.extractLsb' 27 7 ++ w.extractLsb' 24 3 = w.extractLsb' 24 10 from e 24 3 7,
    show w.extractLsb' 24 10 ++ w.extractLsb' 22 2 = w.extractLsb' 22 12 from e 22 2 10,
    show w.extractLsb' 22 12 ++ w.extractLsb' 20 2 = w.extractLsb' 20 14 from e 20 2 12,
    show w.extractLsb' 20 14 ++ w.extractLsb' 0 20 = w.extractLsb' 0 34 from e 0 20 14]
  exact packWord_parts w

theorem packB_bOf (w : IWord) : packB (majorOf w) (minorOf w) (bOf w) = w := by
  have e := fun s l k => append_extract w s l k
  simp only [packB, bOf]
  rw [show w.extractLsb' 31 3 ++ w.extractLsb' 28 3 = w.extractLsb' 28 6 from e 28 3 3,
    show w.extractLsb' 28 6 ++ w.extractLsb' 0 28 = w.extractLsb' 0 34 from e 0 28 6]
  exact packWord_parts w

theorem packX_xOf (w : IWord) : packX (majorOf w) (minorOf w) (xOf w) = w := by
  have e := fun s l k => append_extract w s l k
  simp only [packX, xOf]
  rw [show w.extractLsb' 31 3 ++ w.extractLsb' 26 5 = w.extractLsb' 26 8 from e 26 5 3,
    show w.extractLsb' 26 8 ++ w.extractLsb' 22 4 = w.extractLsb' 22 12 from e 22 4 8,
    show w.extractLsb' 22 12 ++ w.extractLsb' 0 22 = w.extractLsb' 0 34 from e 0 22 12]
  exact packWord_parts w

end Sys2Proof.Laws
end

