-- ==== Sys2Proof/Laws/Maps.lean ====
section
/-!
SUPPORT. Sparse maps and byte stores: what a read after a write gives, and that every operation on a store keeps its canonical form.
-/

namespace Sys2Proof.Machine

/-! ### Maps -/

theorem lookupN_putN {α : Type} (m : NMap α) (n k : Nat) (v : α) :
    lookupN (putN m n v) k = if k = n then some v else lookupN m k := by
  induction m with
  | nil =>
    simp only [putN, lookupN]
    by_cases hk : k = n
    · simp [hk]
    · simp [hk, Ne.symm hk]
  | cons x m ih =>
    obtain ⟨j, w⟩ := x
    by_cases h1 : n < j
    · simp only [putN, h1, if_true, lookupN]
      by_cases hk : k = n
      · simp [hk]
      · simp [hk, Ne.symm hk]
    · by_cases h2 : j = n
      · subst h2
        by_cases hk : k = j
        · simp [putN, hk, lookupN]
        · simp [putN, hk, Ne.symm hk, lookupN]
      · simp only [putN, h1, h2, if_false, lookupN, ih]
        by_cases hj : j = k
        · subst hj; simp [h2]
        · simp [hj]

@[simp] theorem lookupN_putN_self {α : Type} (m : NMap α) (n : Nat) (v : α) : lookupN (putN m n v) n = some v := by
  simp [lookupN_putN]

theorem lookupN_putN_ne {α : Type} (m : NMap α) {n k : Nat} (v : α) (h : k ≠ n) : lookupN (putN m n v) k = lookupN m k := by
  simp [lookupN_putN, h]

/-- A filter that keeps a number's entries keeps what stands at it. -/
theorem lookupN_filter_keep {α : Type} (m : NMap α) (q : Nat × α → Bool) (k : Nat) (h : ∀ v, q (k, v) = true) :
    lookupN (m.filter q) k = lookupN m k := by
  induction m with
  | nil => rfl
  | cons x m ih =>
    obtain ⟨j, w⟩ := x
    by_cases hj : j = k
    · subst hj; simp [h, lookupN]
    · by_cases hq : q (j, w) = true <;> simp [hq, lookupN, hj, ih]

/-- A filter that drops a number's entries leaves nothing at it. -/
theorem lookupN_filter_drop {α : Type} (m : NMap α) (q : Nat × α → Bool) (k : Nat) (h : ∀ v, q (k, v) = false) :
    lookupN (m.filter q) k = none := by
  induction m with
  | nil => rfl
  | cons x m ih =>
    obtain ⟨j, w⟩ := x
    by_cases hq : q (j, w) = true
    · have hj : j ≠ k := by rintro rfl; rw [h] at hq; cases hq
      simp [hq, lookupN, hj, ih]
    · simp [hq, ih]

theorem lookupN_delN {α : Type} (m : NMap α) (n k : Nat) : lookupN (delN m n) k = if k = n then none else lookupN m k := by
  unfold delN
  by_cases h : k = n
  · subst h; rw [if_pos rfl]; exact lookupN_filter_drop m _ _ (by simp)
  · rw [if_neg h]; exact lookupN_filter_keep m _ _ (by simp [h])

theorem lookupN_modN {α : Type} (m : NMap α) (n k : Nat) (f : α → α) :
    lookupN (modN m n f) k = if k = n then (lookupN m k).map f else lookupN m k := by
  unfold modN
  induction m with
  | nil => simp [lookupN]
  | cons x m ih =>
    obtain ⟨j, w⟩ := x
    simp only [List.map_cons]
    by_cases hj : j = k
    · subst hj
      by_cases hn : j = n <;> simp [hn, lookupN]
    · by_cases hn : j = n
      · subst hn; simp [lookupN, ih, hj]
      · simp [hn, lookupN, ih, hj]

/-- Sorting keeps the members. -/
theorem mem_insertBy {α : Type} (key : α → Nat) (x y : α) (l : List α) : y ∈ insertBy key x l ↔ y = x ∨ y ∈ l := by
  induction l with
  | nil => simp [insertBy]
  | cons z l ih =>
    unfold insertBy
    split
    · simp
    · simp only [List.mem_cons, ih]
      exact or_left_comm

theorem mem_sortBy {α : Type} (key : α → Nat) (y : α) (l : List α) : y ∈ sortBy key l ↔ y ∈ l := by
  induction l with
  | nil => simp [sortBy]
  | cons x l ih => simp [sortBy, mem_insertBy, ih]

/-- A map over the values. -/
theorem lookupN_map {α β : Type} (m : NMap α) (k : Nat) (f : Nat → α → β) :
    lookupN (m.map (fun p => (p.1, f p.1 p.2))) k = (lookupN m k).map (f k) := by
  induction m with
  | nil => rfl
  | cons x m ih =>
    obtain ⟨j, w⟩ := x
    by_cases hj : j = k
    · subst hj; simp [lookupN]
    · simp [lookupN, hj, ih]

theorem lookupN_append {α : Type} (m l : NMap α) (k : Nat) :
    lookupN (m ++ l) k = (lookupN m k).or (lookupN l k) := by
  induction m with
  | nil => simp [lookupN]
  | cons x m ih =>
    obtain ⟨j, w⟩ := x
    by_cases hj : j = k <;> simp [lookupN, hj, ih]

/-! ### Register files -/

theorem getR_setR {w : Nat} (r : Regs w) (n k : Nat) (v : BitVec w) : getR (setR r n v) k = if k = n then v else getR r k := by
  unfold getR setR
  by_cases hv : v = 0
  · rw [if_pos hv, lookupN_delN]
    by_cases h : k = n
    · simp [h, hv]
    · simp [h]
  · rw [if_neg hv, lookupN_putN]
    by_cases h : k = n <;> simp [h]

@[simp] theorem getR_setR_self {w : Nat} (r : Regs w) (n : Nat) (v : BitVec w) : getR (setR r n v) n = v := by
  simp [getR_setR]

theorem getR_setR_ne {w : Nat} (r : Regs w) {n k : Nat} (v : BitVec w) (h : k ≠ n) : getR (setR r n v) k = getR r k := by
  simp [getR_setR, h]

/-! ### Byte stores -/

theorem lookupN_cells (a k : Nat) (vs : List Byte) :
    lookupN (Mem.cells a vs) k
      = if a ≤ k ∧ k < a + vs.length ∧ vs.getD (k - a) 0 ≠ 0 then some (vs.getD (k - a) 0) else none := by
  induction vs generalizing a with
  | nil => simp [Mem.cells, lookupN]
  | cons v vs ih =>
    have hs : ∀ x : Nat, a < x → (v :: vs).getD (x - a) 0 = vs.getD (x - (a + 1)) 0 := by
      intro x hx
      rw [show x - a = (x - (a + 1)) + 1 by omega]; rfl
    by_cases hk : k = a
    · subst hk
      by_cases hv : v = 0
      · rw [show Mem.cells k (v :: vs) = Mem.cells (k + 1) vs by simp only [Mem.cells, hv, if_true], ih, if_neg (by omega),
          if_neg (by simp [hv])]
      · rw [show Mem.cells k (v :: vs) = (k, v) :: Mem.cells (k + 1) vs by simp only [Mem.cells, hv, if_false],
          if_pos ⟨Nat.le_refl k, by simp, by simpa using hv⟩]
        simp [lookupN]
    · have hc : lookupN (Mem.cells a (v :: vs)) k = lookupN (Mem.cells (a + 1) vs) k := by
        simp only [Mem.cells]
        split
        · rfl
        · simp only [lookupN, if_neg (Ne.symm hk)]
      rw [hc, ih]
      by_cases hlt : a < k
      · rw [hs k hlt]
        congr 1
        simp only [List.length_cons, eq_iff_iff]
        constructor <;> rintro ⟨h1, h2, h3⟩ <;> exact ⟨by omega, by omega, h3⟩
      · rw [if_neg (by omega), if_neg (by omega)]

/-- A read after a write: the bytes written where they stand, the bytes before elsewhere. -/
theorem Mem.byte_write (m : Mem) (a k : Nat) (vs : List Byte) :
    (m.write a vs).byte k = if a ≤ k ∧ k < a + vs.length then vs.getD (k - a) 0 else m.byte k := by
  unfold Mem.byte Mem.write getR
  rw [lookupN_append, lookupN_append, lookupN_cells]
  by_cases h1 : k < a
  · rw [lookupN_filter_keep m (fun p => decide (p.1 < a)) k (by simp [h1]),
      lookupN_filter_drop m (fun p => decide (a + vs.length ≤ p.1)) k (by intro v; simp only [decide_eq_false_iff_not]; omega)]
    simp [show ¬ a ≤ k by omega]
  · rw [lookupN_filter_drop m (fun p => decide (p.1 < a)) k (by simp [h1])]
    by_cases h2 : k < a + vs.length
    · rw [lookupN_filter_drop m (fun p => decide (a + vs.length ≤ p.1)) k
        (by intro v; simp only [decide_eq_false_iff_not]; omega), if_pos (⟨by omega, h2⟩ : a ≤ k ∧ k < a + vs.length)]
      by_cases hz : vs.getD (k - a) 0 = 0
      · rw [if_neg (fun h => h.2.2 hz), hz]; rfl
      · rw [if_pos ⟨by omega, h2, hz⟩]; rfl
    · rw [if_neg (fun h => h2 h.2.1), if_neg (fun h => h2 h.2),
        lookupN_filter_keep m (fun p => decide (a + vs.length ≤ p.1)) k (by intro v; simp only [decide_eq_true_eq]; omega)]
      rfl

theorem Mem.byte_write_outside (m : Mem) {a k : Nat} (vs : List Byte) (h : ¬ (a ≤ k ∧ k < a + vs.length)) :
    (m.write a vs).byte k = m.byte k := by
  rw [Mem.byte_write, if_neg h]

@[simp] theorem Mem.read_write_self (m : Mem) (a : Nat) (vs : List Byte) : (m.write a vs).read a vs.length = vs := by
  apply List.ext_getElem
  · simp [Mem.read]
  · intro i h1 h2
    simp [Mem.read, Mem.byte_write, h2]

theorem Mem.read_write_disjoint (m : Mem) {a b n : Nat} (vs : List Byte) (h : b + n ≤ a ∨ a + vs.length ≤ b) :
    (m.write a vs).read b n = m.read b n := by
  unfold Mem.read
  apply List.map_congr_left
  intro i hi
  rw [List.mem_range] at hi
  exact Mem.byte_write_outside m vs (by omega)

theorem Mem.byte_zero (m : Mem) (a n k : Nat) : (m.zero a n).byte k = if a ≤ k ∧ k < a + n then 0 else m.byte k := by
  unfold Mem.byte Mem.zero getR
  by_cases h : a ≤ k ∧ k < a + n
  · rw [if_pos h, lookupN_filter_drop m _ k (by intro v; simp only [decide_eq_false_iff_not]; omega)]; rfl
  · rw [if_neg h, lookupN_filter_keep m _ k (by intro v; simp only [decide_eq_true_eq]; omega)]

/-! ### The canonical form -/

/-- The canonical form in words: the addresses rise, and no byte is 0. -/
theorem Mem.wf_iff (m : Mem) : m.wf = true ↔ m.Pairwise (fun x y => x.1 < y.1) ∧ ∀ p ∈ m, p.2 ≠ 0 := by
  induction m with
  | nil => simp [Mem.wf]
  | cons x m ih =>
    obtain ⟨a, v⟩ := x
    cases m with
    | nil => simp [Mem.wf]
    | cons y m =>
      obtain ⟨b, w⟩ := y
      simp only [Mem.wf, Bool.and_eq_true, bne_iff_ne, decide_eq_true_eq, ih]
      constructor
      · rintro ⟨⟨hv, hab⟩, hp, hz⟩
        refine ⟨List.pairwise_cons.2 ⟨?_, hp⟩, ?_⟩
        · intro p hm
          rcases List.mem_cons.1 hm with rfl | hm
          · exact hab
          · exact Nat.lt_trans hab ((List.pairwise_cons.1 hp).1 p hm)
        · intro p hm
          rcases List.mem_cons.1 hm with rfl | hm
          · exact hv
          · exact hz p hm
      · rintro ⟨hp, hz⟩
        exact ⟨⟨hz (a, v) (by simp), (List.pairwise_cons.1 hp).1 (b, w) (by simp)⟩, (List.pairwise_cons.1 hp).2,
          fun p hm => hz p (List.mem_cons_of_mem _ hm)⟩

@[simp] theorem Mem.wf_nil : Mem.wf [] = true := rfl

theorem Mem.wf_filter {m : Mem} (q : Nat × Byte → Bool) (h : m.wf = true) : Mem.wf (m.filter q) = true := by
  rw [Mem.wf_iff] at *
  exact ⟨h.1.filter _, fun p hm => h.2 p (List.mem_filter.1 hm).1⟩

theorem Mem.mem_cells {a : Nat} {vs : List Byte} {p : Nat × Byte} (h : p ∈ Mem.cells a vs) :
    a ≤ p.1 ∧ p.1 < a + vs.length ∧ p.2 ≠ 0 := by
  induction vs generalizing a with
  | nil => simp [Mem.cells] at h
  | cons v vs ih =>
    simp only [Mem.cells] at h
    split at h
    · have := ih h; simp only [List.length_cons]; exact ⟨by omega, by omega, this.2.2⟩
    · rcases List.mem_cons.1 h with rfl | h
      · exact ⟨Nat.le_refl _, by simp, by assumption⟩
      · have := ih h; simp only [List.length_cons]; exact ⟨by omega, by omega, this.2.2⟩

theorem Mem.pairwise_cells (a : Nat) (vs : List Byte) : (Mem.cells a vs).Pairwise (fun x y => x.1 < y.1) := by
  induction vs generalizing a with
  | nil => simp [Mem.cells]
  | cons v vs ih =>
    simp only [Mem.cells]
    split
    · exact ih _
    · exact List.pairwise_cons.2 ⟨fun p hp => by have := Mem.mem_cells hp; simp only; omega, ih _⟩

/-- Writing bytes keeps the canonical form. -/
theorem Mem.wf_write {m : Mem} (a : Nat) (vs : List Byte) (h : m.wf = true) : (m.write a vs).wf = true := by
  rw [Mem.wf_iff] at *
  unfold Mem.write
  refine ⟨?_, ?_⟩
  · rw [List.pairwise_append, List.pairwise_append]
    refine ⟨⟨h.1.filter _, Mem.pairwise_cells a vs, ?_⟩, h.1.filter _, ?_⟩
    · intro p hp q hq
      have h1 := (List.mem_filter.1 hp).2
      have h2 := Mem.mem_cells hq
      simp only [decide_eq_true_eq] at h1
      omega
    · intro p hp q hq
      have h2 := (List.mem_filter.1 hq).2
      simp only [decide_eq_true_eq] at h2
      rcases List.mem_append.1 hp with hp | hp
      · have h1 := (List.mem_filter.1 hp).2
        simp only [decide_eq_true_eq] at h1
        omega
      · have h1 := Mem.mem_cells hp
        omega
  · intro p hp
    rcases List.mem_append.1 hp with hp | hp
    · rcases List.mem_append.1 hp with hp | hp
      · exact h.2 p (List.mem_filter.1 hp).1
      · exact (Mem.mem_cells hp).2.2
    · exact h.2 p (List.mem_filter.1 hp).1

/-- Setting a range to 0 keeps the canonical form. -/
theorem Mem.wf_zero {m : Mem} (a n : Nat) (h : m.wf = true) : (m.zero a n).wf = true := Mem.wf_filter _ h

end Sys2Proof.Machine
end

