-- ==== Sys2Proof/Laws/Lanes.lean ====
section
/-!
SUPPORT. What one lane or one group of an instruction does, once: the lemmas through which a statement about an instruction
reaches its effect without unfolding `perLane`, `State.lane` or `perGroup`.
-/

namespace Sys2Proof.Laws

open Sys2Proof.Machine Sys2Proof.Safety

/-- The parts of `runs`. -/
theorem runs_parts {s : State} {a : Agent} {i : Instr} {f : Form} (hf : form i = some f) (h : runs s a i = true) :
    (∃ x, s.cur = some x ∧ x.agents = [a]) ∧ s.issueOk a f = true ∧ s.guardTrue a f.cm.guard = true ∧ f.space = true
      ∧ (f.excl = true → s.exclusive a = true) ∧ s.badOperand a f = false := by
  unfold runs at h
  rw [hf] at h
  cases hc : s.cur with
  | none => simp [hc] at h
  | some x =>
    simp only [hc, Bool.and_eq_true, beq_iff_eq, Bool.or_eq_true, Bool.not_eq_true'] at h
    obtain ⟨⟨⟨⟨⟨h1, h2⟩, h3⟩, h4⟩, h5⟩, h6⟩ := h
    refine ⟨⟨x, rfl, h1⟩, h2, h3, h4, fun he => ?_, h6⟩
    rcases h5 with h5 | h5
    · rw [he] at h5; cases h5
    · exact h5

theorem began_of_form {s : State} {a : Agent} {i : Instr} {f : Form} (hf : form i = some f) :
    began s a i = (s.settle a f).retain a f := by
  simp only [began, hf]

/-- A per-lane instruction whose one lane runs. -/
theorem perLane_runs {s : State} {a : Agent} {i : Instr} {f : Form} (hf : form i = some f) (h : runs s a i = true)
    (body : Agent → State → LaneOut) :
    perLane (form i) body s = .next (((began s a i).finish a (body a (began s a i))).endIssue) := by
  obtain ⟨⟨x, hc, ha⟩, h2, h3, h4, h5, h7⟩ := runs_parts hf h
  rw [began_of_form hf, hf]
  have h6 : (f.excl && !s.exclusive a) = false := by
    cases he : f.excl with
    | false => rfl
    | true => simp [h5 he]
  simp only [perLane, hc, ha, List.foldl, State.lane, h2, h3, h4, h6, h7]
  rfl

/-- The lane's effect is done. -/
theorem perLane_done {s : State} {a : Agent} {i : Instr} {f : Form} (hf : form i = some f) (h : runs s a i = true)
    {body : Agent → State → LaneOut} {t : State} (hb : body a (began s a i) = .done t) :
    perLane (form i) body s = .next (goesOn a t) := by
  rw [perLane_runs hf h, hb]; rfl

theorem perLane_jump {s : State} {a : Agent} {i : Instr} {f : Form} (hf : form i = some f) (h : runs s a i = true)
    {body : Agent → State → LaneOut} {t : State} {pc : Int} (hb : body a (began s a i) = .jump t pc) :
    perLane (form i) body s = .next (goesTo a pc t) := by
  rw [perLane_runs hf h, hb]; rfl

theorem perLane_stay {s : State} {a : Agent} {i : Instr} {f : Form} (hf : form i = some f) (h : runs s a i = true)
    {body : Agent → State → LaneOut} {t : State} (hb : body a (began s a i) = .stay t) :
    perLane (form i) body s = .next t.endIssue := by
  rw [perLane_runs hf h, hb]; rfl

theorem perLane_trap {s : State} {a : Agent} {i : Instr} {f : Form} (hf : form i = some f) (h : runs s a i = true)
    {body : Agent → State → LaneOut} {t : Trap} (hb : body a (began s a i) = .trap t) :
    perLane (form i) body s = .next (((began s a i).raise a t).endIssue) := by
  rw [perLane_runs hf h, hb]; rfl

/-- A lane whose check fails traps and has no effect (R71 step 2 and 3). -/
theorem lane_illEnc {s : State} {a : Agent} {f : Form} (body : Agent → State → LaneOut) (h : s.issueOk a f = false) :
    s.lane f body a = s.raise a ⟨.illEnc, 0⟩ := by
  simp only [State.lane, h]; rfl

/-- A lane whose guard is false only goes on (R61). -/
theorem lane_guard {s : State} {a : Agent} {f : Form} (body : Agent → State → LaneOut) (h : s.issueOk a f = true)
    (hg : s.guardTrue a f.cm.guard = false) : s.lane f body a = s.advance a := by
  simp only [State.lane, h, hg]; rfl

/-- One lane of a per-lane instruction, whatever it does. -/
theorem perLane_one {s : State} {a : Agent} {f : Form} {x : Issue} (hc : s.cur = some x) (ha : x.agents = [a])
    (body : Agent → State → LaneOut) : perLane (some f) body s = .next (s.lane f body a).endIssue := by
  simp only [perLane, hc, ha, List.foldl]

/-- A per-lane instruction always answers a next state. -/
theorem perLane_next (f : Option Form) (body : Agent → State → LaneOut) (s : State) :
    ∃ t, perLane f body s = .next t := by
  unfold perLane; split <;> exact ⟨_, rfl⟩

/-- What the lanes of an issue keep, the issue keeps. -/
theorem perLane_keeps {P : State → Prop} (f : Option Form) (body : Agent → State → LaneOut) (s t : State)
    (hl : ∀ f a s, P s → P (s.lane f body a)) (he : ∀ s, P s → P s.endIssue) (h : P s) (ht : perLane f body s = .next t) :
    P t := by
  unfold perLane at ht
  split at ht
  · rename_i f iss hc
    injection ht with ht
    subst ht
    refine he _ ?_
    clear hc
    generalize iss.agents = l
    induction l generalizing s with
    | nil => exact h
    | cons a as ih => exact ih _ (hl f a s h)
  · injection ht with ht
    subst ht
    exact h

/-- A collective of one whole group. -/
theorem perGroup_runs {s : State} {as : List Agent} {i : Instr} {f : Form} (hf : form i = some f)
    (h : runsGroup s as i = true) {body : List Agent → List Agent → State → GroupOut} {t : State}
    (hb : body (present s as i) as (groupBegan s as i) = .done t) :
    perGroup (form i) body s = .next (groupGoesOn as t) := by
  unfold runsGroup at h
  rw [hf] at h
  cases hc : s.cur with
  | none => simp [hc] at h
  | some x =>
    simp only [hc, Bool.and_eq_true, beq_iff_eq] at h
    obtain ⟨⟨⟨h1, h2⟩, h3⟩, h4⟩ := h
    have hany : as.any (fun a => !s.issueOk a f) = false := by
      rw [List.any_eq_false]
      intro a ha
      have := (List.all_eq_true.mp h3) a ha
      simp [this]
    have hp : present s as i = sortBy s.posOf (as.filter (fun a => s.guardTrue a f.cm.guard)) := by
      simp only [present, hf]
    have hg : groupBegan s as i = (present s as i).foldl (fun s a => (s.settle a f).retain a f) s := by
      simp only [groupBegan, began, hf]
    have hhurt : ((sortBy s.posOf (as.filter (fun a => s.guardTrue a f.cm.guard))).filter (fun a => s.badOperand a f)).isEmpty
        = true := by
      rw [List.isEmpty_iff, List.filter_eq_nil_iff]
      intro a ha
      rw [mem_sortBy, List.mem_filter] at ha
      have := (List.all_eq_true.mp h4) a ha.1
      simp_all
    rw [hg, hp] at hb
    simp only [perGroup, hf, hc, h1, h2, List.foldl, State.collective, hany, Bool.false_eq_true, if_false, hhurt, Bool.not_true, hb]
    rfl

end Sys2Proof.Laws
end

