-- ==== Sys2Proof/Laws/State.lean ====
section
/-!
SUPPORT. The fields of State after each of its updates, one lemma for each, true by unfolding; no proof needs to unfold a record
update.
-/

namespace Sys2Proof.Machine.State

/-! ### `setCore` -/

@[simp] theorem setCore_stage (s : State) (c : Nat) (k : Core) : (s.setCore c k).stage = s.stage := rfl
@[simp] theorem setCore_clock (s : State) (c : Nat) (k : Core) : (s.setCore c k).clock = s.clock := rfl
@[simp] theorem setCore_throttle (s : State) (c : Nat) (k : Core) : (s.setCore c k).throttle = s.throttle := rfl
@[simp] theorem setCore_phys (s : State) (c : Nat) (k : Core) : (s.setCore c k).phys = s.phys := rfl
@[simp] theorem setCore_poison (s : State) (c : Nat) (k : Core) : (s.setCore c k).poison = s.poison := rfl
@[simp] theorem setCore_soft (s : State) (c : Nat) (k : Core) : (s.setCore c k).soft = s.soft := rfl
@[simp] theorem setCore_corrected (s : State) (c : Nat) (k : Core) : (s.setCore c k).corrected = s.corrected := rfl
@[simp] theorem setCore_cores (s : State) (c : Nat) (k : Core) : (s.setCore c k).cores = putN s.cores c k := rfl
@[simp] theorem setCore_parts (s : State) (c : Nat) (k : Core) : (s.setCore c k).parts = s.parts := rfl
@[simp] theorem setCore_vfs (s : State) (c : Nat) (k : Core) : (s.setCore c k).vfs = s.vfs := rfl
@[simp] theorem setCore_edges (s : State) (c : Nat) (k : Core) : (s.setCore c k).edges = s.edges := rfl
@[simp] theorem setCore_dies (s : State) (c : Nat) (k : Core) : (s.setCore c k).dies = s.dies := rfl
@[simp] theorem setCore_grids (s : State) (c : Nat) (k : Core) : (s.setCore c k).grids = s.grids := rfl
@[simp] theorem setCore_nextGrid (s : State) (c : Nat) (k : Core) : (s.setCore c k).nextGrid = s.nextGrid := rfl
@[simp] theorem setCore_nextLease (s : State) (c : Nat) (k : Core) : (s.setCore c k).nextLease = s.nextLease := rfl
@[simp] theorem setCore_nextAccept (s : State) (c : Nat) (k : Core) : (s.setCore c k).nextAccept = s.nextAccept := rfl
@[simp] theorem setCore_nextOp (s : State) (c : Nat) (k : Core) : (s.setCore c k).nextOp = s.nextOp := rfl
@[simp] theorem setCore_reports (s : State) (c : Nat) (k : Core) : (s.setCore c k).reports = s.reports := rfl
@[simp] theorem setCore_supImage (s : State) (c : Nat) (k : Core) : (s.setCore c k).supImage = s.supImage := rfl
@[simp] theorem setCore_supEntry (s : State) (c : Nat) (k : Core) : (s.setCore c k).supEntry = s.supEntry := rfl
@[simp] theorem setCore_supText (s : State) (c : Nat) (k : Core) : (s.setCore c k).supText = s.supText := rfl
@[simp] theorem setCore_monEntry (s : State) (c : Nat) (k : Core) : (s.setCore c k).monEntry = s.monEntry := rfl
@[simp] theorem setCore_osPages (s : State) (c : Nat) (k : Core) : (s.setCore c k).osPages = s.osPages := rfl
@[simp] theorem setCore_panicked (s : State) (c : Nat) (k : Core) : (s.setCore c k).panicked = s.panicked := rfl
@[simp] theorem setCore_crash (s : State) (c : Nat) (k : Core) : (s.setCore c k).crash = s.crash := rfl
@[simp] theorem setCore_winLow (s : State) (c : Nat) (k : Core) : (s.setCore c k).winLow = s.winLow := rfl
@[simp] theorem setCore_mdId (s : State) (c : Nat) (k : Core) : (s.setCore c k).mdId = s.mdId := rfl
@[simp] theorem setCore_mdCollect (s : State) (c : Nat) (k : Core) : (s.setCore c k).mdCollect = s.mdCollect := rfl
@[simp] theorem setCore_mdCport (s : State) (c : Nat) (k : Core) : (s.setCore c k).mdCport = s.mdCport := rfl
@[simp] theorem setCore_trays (s : State) (c : Nat) (k : Core) : (s.setCore c k).trays = s.trays := rfl
@[simp] theorem setCore_peerReplies (s : State) (c : Nat) (k : Core) : (s.setCore c k).peerReplies = s.peerReplies := rfl
@[simp] theorem setCore_peerRights (s : State) (c : Nat) (k : Core) : (s.setCore c k).peerRights = s.peerRights := rfl
@[simp] theorem setCore_landing (s : State) (c : Nat) (k : Core) : (s.setCore c k).landing = s.landing := rfl
@[simp] theorem setCore_cur (s : State) (c : Nat) (k : Core) : (s.setCore c k).cur = s.cur := rfl
@[simp] theorem setCore_agenda (s : State) (c : Nat) (k : Core) : (s.setCore c k).agenda = s.agenda := rfl
@[simp] theorem setCore_oracle (s : State) (c : Nat) (k : Core) : (s.setCore c k).oracle = s.oracle := rfl
@[simp] theorem setCore_freeCount (s : State) (c : Nat) (k : Core) : (s.setCore c k).freeCount = s.freeCount := rfl

/-! ### `modCore` -/

@[simp] theorem modCore_stage (s : State) (c : Nat) (f : Core → Core) : (s.modCore c f).stage = s.stage := rfl
@[simp] theorem modCore_clock (s : State) (c : Nat) (f : Core → Core) : (s.modCore c f).clock = s.clock := rfl
@[simp] theorem modCore_throttle (s : State) (c : Nat) (f : Core → Core) : (s.modCore c f).throttle = s.throttle := rfl
@[simp] theorem modCore_phys (s : State) (c : Nat) (f : Core → Core) : (s.modCore c f).phys = s.phys := rfl
@[simp] theorem modCore_poison (s : State) (c : Nat) (f : Core → Core) : (s.modCore c f).poison = s.poison := rfl
@[simp] theorem modCore_soft (s : State) (c : Nat) (f : Core → Core) : (s.modCore c f).soft = s.soft := rfl
@[simp] theorem modCore_corrected (s : State) (c : Nat) (f : Core → Core) : (s.modCore c f).corrected = s.corrected := rfl
@[simp] theorem modCore_cores (s : State) (c : Nat) (f : Core → Core) : (s.modCore c f).cores = putN s.cores c (f (s.core c)) := rfl
@[simp] theorem modCore_parts (s : State) (c : Nat) (f : Core → Core) : (s.modCore c f).parts = s.parts := rfl
@[simp] theorem modCore_vfs (s : State) (c : Nat) (f : Core → Core) : (s.modCore c f).vfs = s.vfs := rfl
@[simp] theorem modCore_edges (s : State) (c : Nat) (f : Core → Core) : (s.modCore c f).edges = s.edges := rfl
@[simp] theorem modCore_dies (s : State) (c : Nat) (f : Core → Core) : (s.modCore c f).dies = s.dies := rfl
@[simp] theorem modCore_grids (s : State) (c : Nat) (f : Core → Core) : (s.modCore c f).grids = s.grids := rfl
@[simp] theorem modCore_nextGrid (s : State) (c : Nat) (f : Core → Core) : (s.modCore c f).nextGrid = s.nextGrid := rfl
@[simp] theorem modCore_nextLease (s : State) (c : Nat) (f : Core → Core) : (s.modCore c f).nextLease = s.nextLease := rfl
@[simp] theorem modCore_nextAccept (s : State) (c : Nat) (f : Core → Core) : (s.modCore c f).nextAccept = s.nextAccept := rfl
@[simp] theorem modCore_nextOp (s : State) (c : Nat) (f : Core → Core) : (s.modCore c f).nextOp = s.nextOp := rfl
@[simp] theorem modCore_reports (s : State) (c : Nat) (f : Core → Core) : (s.modCore c f).reports = s.reports := rfl
@[simp] theorem modCore_supImage (s : State) (c : Nat) (f : Core → Core) : (s.modCore c f).supImage = s.supImage := rfl
@[simp] theorem modCore_supEntry (s : State) (c : Nat) (f : Core → Core) : (s.modCore c f).supEntry = s.supEntry := rfl
@[simp] theorem modCore_supText (s : State) (c : Nat) (f : Core → Core) : (s.modCore c f).supText = s.supText := rfl
@[simp] theorem modCore_monEntry (s : State) (c : Nat) (f : Core → Core) : (s.modCore c f).monEntry = s.monEntry := rfl
@[simp] theorem modCore_osPages (s : State) (c : Nat) (f : Core → Core) : (s.modCore c f).osPages = s.osPages := rfl
@[simp] theorem modCore_panicked (s : State) (c : Nat) (f : Core → Core) : (s.modCore c f).panicked = s.panicked := rfl
@[simp] theorem modCore_crash (s : State) (c : Nat) (f : Core → Core) : (s.modCore c f).crash = s.crash := rfl
@[simp] theorem modCore_winLow (s : State) (c : Nat) (f : Core → Core) : (s.modCore c f).winLow = s.winLow := rfl
@[simp] theorem modCore_mdId (s : State) (c : Nat) (f : Core → Core) : (s.modCore c f).mdId = s.mdId := rfl
@[simp] theorem modCore_mdCollect (s : State) (c : Nat) (f : Core → Core) : (s.modCore c f).mdCollect = s.mdCollect := rfl
@[simp] theorem modCore_mdCport (s : State) (c : Nat) (f : Core → Core) : (s.modCore c f).mdCport = s.mdCport := rfl
@[simp] theorem modCore_trays (s : State) (c : Nat) (f : Core → Core) : (s.modCore c f).trays = s.trays := rfl
@[simp] theorem modCore_peerReplies (s : State) (c : Nat) (f : Core → Core) : (s.modCore c f).peerReplies = s.peerReplies := rfl
@[simp] theorem modCore_peerRights (s : State) (c : Nat) (f : Core → Core) : (s.modCore c f).peerRights = s.peerRights := rfl
@[simp] theorem modCore_landing (s : State) (c : Nat) (f : Core → Core) : (s.modCore c f).landing = s.landing := rfl
@[simp] theorem modCore_cur (s : State) (c : Nat) (f : Core → Core) : (s.modCore c f).cur = s.cur := rfl
@[simp] theorem modCore_agenda (s : State) (c : Nat) (f : Core → Core) : (s.modCore c f).agenda = s.agenda := rfl
@[simp] theorem modCore_oracle (s : State) (c : Nat) (f : Core → Core) : (s.modCore c f).oracle = s.oracle := rfl
@[simp] theorem modCore_freeCount (s : State) (c : Nat) (f : Core → Core) : (s.modCore c f).freeCount = s.freeCount := rfl

/-! ### `modPart` -/

@[simp] theorem modPart_stage (s : State) (p : Nat) (f : Part → Part) : (s.modPart p f).stage = s.stage := rfl
@[simp] theorem modPart_clock (s : State) (p : Nat) (f : Part → Part) : (s.modPart p f).clock = s.clock := rfl
@[simp] theorem modPart_throttle (s : State) (p : Nat) (f : Part → Part) : (s.modPart p f).throttle = s.throttle := rfl
@[simp] theorem modPart_phys (s : State) (p : Nat) (f : Part → Part) : (s.modPart p f).phys = s.phys := rfl
@[simp] theorem modPart_poison (s : State) (p : Nat) (f : Part → Part) : (s.modPart p f).poison = s.poison := rfl
@[simp] theorem modPart_soft (s : State) (p : Nat) (f : Part → Part) : (s.modPart p f).soft = s.soft := rfl
@[simp] theorem modPart_corrected (s : State) (p : Nat) (f : Part → Part) : (s.modPart p f).corrected = s.corrected := rfl
@[simp] theorem modPart_cores (s : State) (p : Nat) (f : Part → Part) : (s.modPart p f).cores = s.cores := rfl
@[simp] theorem modPart_parts (s : State) (p : Nat) (f : Part → Part) : (s.modPart p f).parts = putN s.parts p (f (s.part p)) := rfl
@[simp] theorem modPart_vfs (s : State) (p : Nat) (f : Part → Part) : (s.modPart p f).vfs = s.vfs := rfl
@[simp] theorem modPart_edges (s : State) (p : Nat) (f : Part → Part) : (s.modPart p f).edges = s.edges := rfl
@[simp] theorem modPart_dies (s : State) (p : Nat) (f : Part → Part) : (s.modPart p f).dies = s.dies := rfl
@[simp] theorem modPart_grids (s : State) (p : Nat) (f : Part → Part) : (s.modPart p f).grids = s.grids := rfl
@[simp] theorem modPart_nextGrid (s : State) (p : Nat) (f : Part → Part) : (s.modPart p f).nextGrid = s.nextGrid := rfl
@[simp] theorem modPart_nextLease (s : State) (p : Nat) (f : Part → Part) : (s.modPart p f).nextLease = s.nextLease := rfl
@[simp] theorem modPart_nextAccept (s : State) (p : Nat) (f : Part → Part) : (s.modPart p f).nextAccept = s.nextAccept := rfl
@[simp] theorem modPart_nextOp (s : State) (p : Nat) (f : Part → Part) : (s.modPart p f).nextOp = s.nextOp := rfl
@[simp] theorem modPart_reports (s : State) (p : Nat) (f : Part → Part) : (s.modPart p f).reports = s.reports := rfl
@[simp] theorem modPart_supImage (s : State) (p : Nat) (f : Part → Part) : (s.modPart p f).supImage = s.supImage := rfl
@[simp] theorem modPart_supEntry (s : State) (p : Nat) (f : Part → Part) : (s.modPart p f).supEntry = s.supEntry := rfl
@[simp] theorem modPart_supText (s : State) (p : Nat) (f : Part → Part) : (s.modPart p f).supText = s.supText := rfl
@[simp] theorem modPart_monEntry (s : State) (p : Nat) (f : Part → Part) : (s.modPart p f).monEntry = s.monEntry := rfl
@[simp] theorem modPart_osPages (s : State) (p : Nat) (f : Part → Part) : (s.modPart p f).osPages = s.osPages := rfl
@[simp] theorem modPart_panicked (s : State) (p : Nat) (f : Part → Part) : (s.modPart p f).panicked = s.panicked := rfl
@[simp] theorem modPart_crash (s : State) (p : Nat) (f : Part → Part) : (s.modPart p f).crash = s.crash := rfl
@[simp] theorem modPart_winLow (s : State) (p : Nat) (f : Part → Part) : (s.modPart p f).winLow = s.winLow := rfl
@[simp] theorem modPart_mdId (s : State) (p : Nat) (f : Part → Part) : (s.modPart p f).mdId = s.mdId := rfl
@[simp] theorem modPart_mdCollect (s : State) (p : Nat) (f : Part → Part) : (s.modPart p f).mdCollect = s.mdCollect := rfl
@[simp] theorem modPart_mdCport (s : State) (p : Nat) (f : Part → Part) : (s.modPart p f).mdCport = s.mdCport := rfl
@[simp] theorem modPart_trays (s : State) (p : Nat) (f : Part → Part) : (s.modPart p f).trays = s.trays := rfl
@[simp] theorem modPart_peerReplies (s : State) (p : Nat) (f : Part → Part) : (s.modPart p f).peerReplies = s.peerReplies := rfl
@[simp] theorem modPart_peerRights (s : State) (p : Nat) (f : Part → Part) : (s.modPart p f).peerRights = s.peerRights := rfl
@[simp] theorem modPart_landing (s : State) (p : Nat) (f : Part → Part) : (s.modPart p f).landing = s.landing := rfl
@[simp] theorem modPart_cur (s : State) (p : Nat) (f : Part → Part) : (s.modPart p f).cur = s.cur := rfl
@[simp] theorem modPart_agenda (s : State) (p : Nat) (f : Part → Part) : (s.modPart p f).agenda = s.agenda := rfl
@[simp] theorem modPart_oracle (s : State) (p : Nat) (f : Part → Part) : (s.modPart p f).oracle = s.oracle := rfl
@[simp] theorem modPart_freeCount (s : State) (p : Nat) (f : Part → Part) : (s.modPart p f).freeCount = s.freeCount := rfl

/-! ### `modVf` -/

@[simp] theorem modVf_stage (s : State) (k : Nat) (f : Vf → Vf) : (s.modVf k f).stage = s.stage := rfl
@[simp] theorem modVf_clock (s : State) (k : Nat) (f : Vf → Vf) : (s.modVf k f).clock = s.clock := rfl
@[simp] theorem modVf_throttle (s : State) (k : Nat) (f : Vf → Vf) : (s.modVf k f).throttle = s.throttle := rfl
@[simp] theorem modVf_phys (s : State) (k : Nat) (f : Vf → Vf) : (s.modVf k f).phys = s.phys := rfl
@[simp] theorem modVf_poison (s : State) (k : Nat) (f : Vf → Vf) : (s.modVf k f).poison = s.poison := rfl
@[simp] theorem modVf_soft (s : State) (k : Nat) (f : Vf → Vf) : (s.modVf k f).soft = s.soft := rfl
@[simp] theorem modVf_corrected (s : State) (k : Nat) (f : Vf → Vf) : (s.modVf k f).corrected = s.corrected := rfl
@[simp] theorem modVf_cores (s : State) (k : Nat) (f : Vf → Vf) : (s.modVf k f).cores = s.cores := rfl
@[simp] theorem modVf_parts (s : State) (k : Nat) (f : Vf → Vf) : (s.modVf k f).parts = s.parts := rfl
@[simp] theorem modVf_vfs (s : State) (k : Nat) (f : Vf → Vf) : (s.modVf k f).vfs = putN s.vfs k (f (s.vf k)) := rfl
@[simp] theorem modVf_edges (s : State) (k : Nat) (f : Vf → Vf) : (s.modVf k f).edges = s.edges := rfl
@[simp] theorem modVf_dies (s : State) (k : Nat) (f : Vf → Vf) : (s.modVf k f).dies = s.dies := rfl
@[simp] theorem modVf_grids (s : State) (k : Nat) (f : Vf → Vf) : (s.modVf k f).grids = s.grids := rfl
@[simp] theorem modVf_nextGrid (s : State) (k : Nat) (f : Vf → Vf) : (s.modVf k f).nextGrid = s.nextGrid := rfl
@[simp] theorem modVf_nextLease (s : State) (k : Nat) (f : Vf → Vf) : (s.modVf k f).nextLease = s.nextLease := rfl
@[simp] theorem modVf_nextAccept (s : State) (k : Nat) (f : Vf → Vf) : (s.modVf k f).nextAccept = s.nextAccept := rfl
@[simp] theorem modVf_nextOp (s : State) (k : Nat) (f : Vf → Vf) : (s.modVf k f).nextOp = s.nextOp := rfl
@[simp] theorem modVf_reports (s : State) (k : Nat) (f : Vf → Vf) : (s.modVf k f).reports = s.reports := rfl
@[simp] theorem modVf_supImage (s : State) (k : Nat) (f : Vf → Vf) : (s.modVf k f).supImage = s.supImage := rfl
@[simp] theorem modVf_supEntry (s : State) (k : Nat) (f : Vf → Vf) : (s.modVf k f).supEntry = s.supEntry := rfl
@[simp] theorem modVf_supText (s : State) (k : Nat) (f : Vf → Vf) : (s.modVf k f).supText = s.supText := rfl
@[simp] theorem modVf_monEntry (s : State) (k : Nat) (f : Vf → Vf) : (s.modVf k f).monEntry = s.monEntry := rfl
@[simp] theorem modVf_osPages (s : State) (k : Nat) (f : Vf → Vf) : (s.modVf k f).osPages = s.osPages := rfl
@[simp] theorem modVf_panicked (s : State) (k : Nat) (f : Vf → Vf) : (s.modVf k f).panicked = s.panicked := rfl
@[simp] theorem modVf_crash (s : State) (k : Nat) (f : Vf → Vf) : (s.modVf k f).crash = s.crash := rfl
@[simp] theorem modVf_winLow (s : State) (k : Nat) (f : Vf → Vf) : (s.modVf k f).winLow = s.winLow := rfl
@[simp] theorem modVf_mdId (s : State) (k : Nat) (f : Vf → Vf) : (s.modVf k f).mdId = s.mdId := rfl
@[simp] theorem modVf_mdCollect (s : State) (k : Nat) (f : Vf → Vf) : (s.modVf k f).mdCollect = s.mdCollect := rfl
@[simp] theorem modVf_mdCport (s : State) (k : Nat) (f : Vf → Vf) : (s.modVf k f).mdCport = s.mdCport := rfl
@[simp] theorem modVf_trays (s : State) (k : Nat) (f : Vf → Vf) : (s.modVf k f).trays = s.trays := rfl
@[simp] theorem modVf_peerReplies (s : State) (k : Nat) (f : Vf → Vf) : (s.modVf k f).peerReplies = s.peerReplies := rfl
@[simp] theorem modVf_peerRights (s : State) (k : Nat) (f : Vf → Vf) : (s.modVf k f).peerRights = s.peerRights := rfl
@[simp] theorem modVf_landing (s : State) (k : Nat) (f : Vf → Vf) : (s.modVf k f).landing = s.landing := rfl
@[simp] theorem modVf_cur (s : State) (k : Nat) (f : Vf → Vf) : (s.modVf k f).cur = s.cur := rfl
@[simp] theorem modVf_agenda (s : State) (k : Nat) (f : Vf → Vf) : (s.modVf k f).agenda = s.agenda := rfl
@[simp] theorem modVf_oracle (s : State) (k : Nat) (f : Vf → Vf) : (s.modVf k f).oracle = s.oracle := rfl
@[simp] theorem modVf_freeCount (s : State) (k : Nat) (f : Vf → Vf) : (s.modVf k f).freeCount = s.freeCount := rfl

/-! ### `modEdge` -/

@[simp] theorem modEdge_stage (s : State) (e : Nat) (f : Edge → Edge) : (s.modEdge e f).stage = s.stage := rfl
@[simp] theorem modEdge_clock (s : State) (e : Nat) (f : Edge → Edge) : (s.modEdge e f).clock = s.clock := rfl
@[simp] theorem modEdge_throttle (s : State) (e : Nat) (f : Edge → Edge) : (s.modEdge e f).throttle = s.throttle := rfl
@[simp] theorem modEdge_phys (s : State) (e : Nat) (f : Edge → Edge) : (s.modEdge e f).phys = s.phys := rfl
@[simp] theorem modEdge_poison (s : State) (e : Nat) (f : Edge → Edge) : (s.modEdge e f).poison = s.poison := rfl
@[simp] theorem modEdge_soft (s : State) (e : Nat) (f : Edge → Edge) : (s.modEdge e f).soft = s.soft := rfl
@[simp] theorem modEdge_corrected (s : State) (e : Nat) (f : Edge → Edge) : (s.modEdge e f).corrected = s.corrected := rfl
@[simp] theorem modEdge_cores (s : State) (e : Nat) (f : Edge → Edge) : (s.modEdge e f).cores = s.cores := rfl
@[simp] theorem modEdge_parts (s : State) (e : Nat) (f : Edge → Edge) : (s.modEdge e f).parts = s.parts := rfl
@[simp] theorem modEdge_vfs (s : State) (e : Nat) (f : Edge → Edge) : (s.modEdge e f).vfs = s.vfs := rfl
@[simp] theorem modEdge_edges (s : State) (e : Nat) (f : Edge → Edge) : (s.modEdge e f).edges = putN s.edges e (f (s.edge e)) := rfl
@[simp] theorem modEdge_dies (s : State) (e : Nat) (f : Edge → Edge) : (s.modEdge e f).dies = s.dies := rfl
@[simp] theorem modEdge_grids (s : State) (e : Nat) (f : Edge → Edge) : (s.modEdge e f).grids = s.grids := rfl
@[simp] theorem modEdge_nextGrid (s : State) (e : Nat) (f : Edge → Edge) : (s.modEdge e f).nextGrid = s.nextGrid := rfl
@[simp] theorem modEdge_nextLease (s : State) (e : Nat) (f : Edge → Edge) : (s.modEdge e f).nextLease = s.nextLease := rfl
@[simp] theorem modEdge_nextAccept (s : State) (e : Nat) (f : Edge → Edge) : (s.modEdge e f).nextAccept = s.nextAccept := rfl
@[simp] theorem modEdge_nextOp (s : State) (e : Nat) (f : Edge → Edge) : (s.modEdge e f).nextOp = s.nextOp := rfl
@[simp] theorem modEdge_reports (s : State) (e : Nat) (f : Edge → Edge) : (s.modEdge e f).reports = s.reports := rfl
@[simp] theorem modEdge_supImage (s : State) (e : Nat) (f : Edge → Edge) : (s.modEdge e f).supImage = s.supImage := rfl
@[simp] theorem modEdge_supEntry (s : State) (e : Nat) (f : Edge → Edge) : (s.modEdge e f).supEntry = s.supEntry := rfl
@[simp] theorem modEdge_supText (s : State) (e : Nat) (f : Edge → Edge) : (s.modEdge e f).supText = s.supText := rfl
@[simp] theorem modEdge_monEntry (s : State) (e : Nat) (f : Edge → Edge) : (s.modEdge e f).monEntry = s.monEntry := rfl
@[simp] theorem modEdge_osPages (s : State) (e : Nat) (f : Edge → Edge) : (s.modEdge e f).osPages = s.osPages := rfl
@[simp] theorem modEdge_panicked (s : State) (e : Nat) (f : Edge → Edge) : (s.modEdge e f).panicked = s.panicked := rfl
@[simp] theorem modEdge_crash (s : State) (e : Nat) (f : Edge → Edge) : (s.modEdge e f).crash = s.crash := rfl
@[simp] theorem modEdge_winLow (s : State) (e : Nat) (f : Edge → Edge) : (s.modEdge e f).winLow = s.winLow := rfl
@[simp] theorem modEdge_mdId (s : State) (e : Nat) (f : Edge → Edge) : (s.modEdge e f).mdId = s.mdId := rfl
@[simp] theorem modEdge_mdCollect (s : State) (e : Nat) (f : Edge → Edge) : (s.modEdge e f).mdCollect = s.mdCollect := rfl
@[simp] theorem modEdge_mdCport (s : State) (e : Nat) (f : Edge → Edge) : (s.modEdge e f).mdCport = s.mdCport := rfl
@[simp] theorem modEdge_trays (s : State) (e : Nat) (f : Edge → Edge) : (s.modEdge e f).trays = s.trays := rfl
@[simp] theorem modEdge_peerReplies (s : State) (e : Nat) (f : Edge → Edge) : (s.modEdge e f).peerReplies = s.peerReplies := rfl
@[simp] theorem modEdge_peerRights (s : State) (e : Nat) (f : Edge → Edge) : (s.modEdge e f).peerRights = s.peerRights := rfl
@[simp] theorem modEdge_landing (s : State) (e : Nat) (f : Edge → Edge) : (s.modEdge e f).landing = s.landing := rfl
@[simp] theorem modEdge_cur (s : State) (e : Nat) (f : Edge → Edge) : (s.modEdge e f).cur = s.cur := rfl
@[simp] theorem modEdge_agenda (s : State) (e : Nat) (f : Edge → Edge) : (s.modEdge e f).agenda = s.agenda := rfl
@[simp] theorem modEdge_oracle (s : State) (e : Nat) (f : Edge → Edge) : (s.modEdge e f).oracle = s.oracle := rfl
@[simp] theorem modEdge_freeCount (s : State) (e : Nat) (f : Edge → Edge) : (s.modEdge e f).freeCount = s.freeCount := rfl

/-! ### `modDie` -/

@[simp] theorem modDie_stage (s : State) (d : Nat) (f : Die → Die) : (s.modDie d f).stage = s.stage := rfl
@[simp] theorem modDie_clock (s : State) (d : Nat) (f : Die → Die) : (s.modDie d f).clock = s.clock := rfl
@[simp] theorem modDie_throttle (s : State) (d : Nat) (f : Die → Die) : (s.modDie d f).throttle = s.throttle := rfl
@[simp] theorem modDie_phys (s : State) (d : Nat) (f : Die → Die) : (s.modDie d f).phys = s.phys := rfl
@[simp] theorem modDie_poison (s : State) (d : Nat) (f : Die → Die) : (s.modDie d f).poison = s.poison := rfl
@[simp] theorem modDie_soft (s : State) (d : Nat) (f : Die → Die) : (s.modDie d f).soft = s.soft := rfl
@[simp] theorem modDie_corrected (s : State) (d : Nat) (f : Die → Die) : (s.modDie d f).corrected = s.corrected := rfl
@[simp] theorem modDie_cores (s : State) (d : Nat) (f : Die → Die) : (s.modDie d f).cores = s.cores := rfl
@[simp] theorem modDie_parts (s : State) (d : Nat) (f : Die → Die) : (s.modDie d f).parts = s.parts := rfl
@[simp] theorem modDie_vfs (s : State) (d : Nat) (f : Die → Die) : (s.modDie d f).vfs = s.vfs := rfl
@[simp] theorem modDie_edges (s : State) (d : Nat) (f : Die → Die) : (s.modDie d f).edges = s.edges := rfl
@[simp] theorem modDie_dies (s : State) (d : Nat) (f : Die → Die) : (s.modDie d f).dies = putN s.dies d (f (s.die d)) := rfl
@[simp] theorem modDie_grids (s : State) (d : Nat) (f : Die → Die) : (s.modDie d f).grids = s.grids := rfl
@[simp] theorem modDie_nextGrid (s : State) (d : Nat) (f : Die → Die) : (s.modDie d f).nextGrid = s.nextGrid := rfl
@[simp] theorem modDie_nextLease (s : State) (d : Nat) (f : Die → Die) : (s.modDie d f).nextLease = s.nextLease := rfl
@[simp] theorem modDie_nextAccept (s : State) (d : Nat) (f : Die → Die) : (s.modDie d f).nextAccept = s.nextAccept := rfl
@[simp] theorem modDie_nextOp (s : State) (d : Nat) (f : Die → Die) : (s.modDie d f).nextOp = s.nextOp := rfl
@[simp] theorem modDie_reports (s : State) (d : Nat) (f : Die → Die) : (s.modDie d f).reports = s.reports := rfl
@[simp] theorem modDie_supImage (s : State) (d : Nat) (f : Die → Die) : (s.modDie d f).supImage = s.supImage := rfl
@[simp] theorem modDie_supEntry (s : State) (d : Nat) (f : Die → Die) : (s.modDie d f).supEntry = s.supEntry := rfl
@[simp] theorem modDie_supText (s : State) (d : Nat) (f : Die → Die) : (s.modDie d f).supText = s.supText := rfl
@[simp] theorem modDie_monEntry (s : State) (d : Nat) (f : Die → Die) : (s.modDie d f).monEntry = s.monEntry := rfl
@[simp] theorem modDie_osPages (s : State) (d : Nat) (f : Die → Die) : (s.modDie d f).osPages = s.osPages := rfl
@[simp] theorem modDie_panicked (s : State) (d : Nat) (f : Die → Die) : (s.modDie d f).panicked = s.panicked := rfl
@[simp] theorem modDie_crash (s : State) (d : Nat) (f : Die → Die) : (s.modDie d f).crash = s.crash := rfl
@[simp] theorem modDie_winLow (s : State) (d : Nat) (f : Die → Die) : (s.modDie d f).winLow = s.winLow := rfl
@[simp] theorem modDie_mdId (s : State) (d : Nat) (f : Die → Die) : (s.modDie d f).mdId = s.mdId := rfl
@[simp] theorem modDie_mdCollect (s : State) (d : Nat) (f : Die → Die) : (s.modDie d f).mdCollect = s.mdCollect := rfl
@[simp] theorem modDie_mdCport (s : State) (d : Nat) (f : Die → Die) : (s.modDie d f).mdCport = s.mdCport := rfl
@[simp] theorem modDie_trays (s : State) (d : Nat) (f : Die → Die) : (s.modDie d f).trays = s.trays := rfl
@[simp] theorem modDie_peerReplies (s : State) (d : Nat) (f : Die → Die) : (s.modDie d f).peerReplies = s.peerReplies := rfl
@[simp] theorem modDie_peerRights (s : State) (d : Nat) (f : Die → Die) : (s.modDie d f).peerRights = s.peerRights := rfl
@[simp] theorem modDie_landing (s : State) (d : Nat) (f : Die → Die) : (s.modDie d f).landing = s.landing := rfl
@[simp] theorem modDie_cur (s : State) (d : Nat) (f : Die → Die) : (s.modDie d f).cur = s.cur := rfl
@[simp] theorem modDie_agenda (s : State) (d : Nat) (f : Die → Die) : (s.modDie d f).agenda = s.agenda := rfl
@[simp] theorem modDie_oracle (s : State) (d : Nat) (f : Die → Die) : (s.modDie d f).oracle = s.oracle := rfl
@[simp] theorem modDie_freeCount (s : State) (d : Nat) (f : Die → Die) : (s.modDie d f).freeCount = s.freeCount := rfl

/-! ### `modGrid` -/

@[simp] theorem modGrid_stage (s : State) (g : Nat) (f : Grid → Grid) : (s.modGrid g f).stage = s.stage := rfl
@[simp] theorem modGrid_clock (s : State) (g : Nat) (f : Grid → Grid) : (s.modGrid g f).clock = s.clock := rfl
@[simp] theorem modGrid_throttle (s : State) (g : Nat) (f : Grid → Grid) : (s.modGrid g f).throttle = s.throttle := rfl
@[simp] theorem modGrid_phys (s : State) (g : Nat) (f : Grid → Grid) : (s.modGrid g f).phys = s.phys := rfl
@[simp] theorem modGrid_poison (s : State) (g : Nat) (f : Grid → Grid) : (s.modGrid g f).poison = s.poison := rfl
@[simp] theorem modGrid_soft (s : State) (g : Nat) (f : Grid → Grid) : (s.modGrid g f).soft = s.soft := rfl
@[simp] theorem modGrid_corrected (s : State) (g : Nat) (f : Grid → Grid) : (s.modGrid g f).corrected = s.corrected := rfl
@[simp] theorem modGrid_cores (s : State) (g : Nat) (f : Grid → Grid) : (s.modGrid g f).cores = s.cores := rfl
@[simp] theorem modGrid_parts (s : State) (g : Nat) (f : Grid → Grid) : (s.modGrid g f).parts = s.parts := rfl
@[simp] theorem modGrid_vfs (s : State) (g : Nat) (f : Grid → Grid) : (s.modGrid g f).vfs = s.vfs := rfl
@[simp] theorem modGrid_edges (s : State) (g : Nat) (f : Grid → Grid) : (s.modGrid g f).edges = s.edges := rfl
@[simp] theorem modGrid_dies (s : State) (g : Nat) (f : Grid → Grid) : (s.modGrid g f).dies = s.dies := rfl
@[simp] theorem modGrid_grids (s : State) (g : Nat) (f : Grid → Grid) : (s.modGrid g f).grids = modN s.grids g f := rfl
@[simp] theorem modGrid_nextGrid (s : State) (g : Nat) (f : Grid → Grid) : (s.modGrid g f).nextGrid = s.nextGrid := rfl
@[simp] theorem modGrid_nextLease (s : State) (g : Nat) (f : Grid → Grid) : (s.modGrid g f).nextLease = s.nextLease := rfl
@[simp] theorem modGrid_nextAccept (s : State) (g : Nat) (f : Grid → Grid) : (s.modGrid g f).nextAccept = s.nextAccept := rfl
@[simp] theorem modGrid_nextOp (s : State) (g : Nat) (f : Grid → Grid) : (s.modGrid g f).nextOp = s.nextOp := rfl
@[simp] theorem modGrid_reports (s : State) (g : Nat) (f : Grid → Grid) : (s.modGrid g f).reports = s.reports := rfl
@[simp] theorem modGrid_supImage (s : State) (g : Nat) (f : Grid → Grid) : (s.modGrid g f).supImage = s.supImage := rfl
@[simp] theorem modGrid_supEntry (s : State) (g : Nat) (f : Grid → Grid) : (s.modGrid g f).supEntry = s.supEntry := rfl
@[simp] theorem modGrid_supText (s : State) (g : Nat) (f : Grid → Grid) : (s.modGrid g f).supText = s.supText := rfl
@[simp] theorem modGrid_monEntry (s : State) (g : Nat) (f : Grid → Grid) : (s.modGrid g f).monEntry = s.monEntry := rfl
@[simp] theorem modGrid_osPages (s : State) (g : Nat) (f : Grid → Grid) : (s.modGrid g f).osPages = s.osPages := rfl
@[simp] theorem modGrid_panicked (s : State) (g : Nat) (f : Grid → Grid) : (s.modGrid g f).panicked = s.panicked := rfl
@[simp] theorem modGrid_crash (s : State) (g : Nat) (f : Grid → Grid) : (s.modGrid g f).crash = s.crash := rfl
@[simp] theorem modGrid_winLow (s : State) (g : Nat) (f : Grid → Grid) : (s.modGrid g f).winLow = s.winLow := rfl
@[simp] theorem modGrid_mdId (s : State) (g : Nat) (f : Grid → Grid) : (s.modGrid g f).mdId = s.mdId := rfl
@[simp] theorem modGrid_mdCollect (s : State) (g : Nat) (f : Grid → Grid) : (s.modGrid g f).mdCollect = s.mdCollect := rfl
@[simp] theorem modGrid_mdCport (s : State) (g : Nat) (f : Grid → Grid) : (s.modGrid g f).mdCport = s.mdCport := rfl
@[simp] theorem modGrid_trays (s : State) (g : Nat) (f : Grid → Grid) : (s.modGrid g f).trays = s.trays := rfl
@[simp] theorem modGrid_peerReplies (s : State) (g : Nat) (f : Grid → Grid) : (s.modGrid g f).peerReplies = s.peerReplies := rfl
@[simp] theorem modGrid_peerRights (s : State) (g : Nat) (f : Grid → Grid) : (s.modGrid g f).peerRights = s.peerRights := rfl
@[simp] theorem modGrid_landing (s : State) (g : Nat) (f : Grid → Grid) : (s.modGrid g f).landing = s.landing := rfl
@[simp] theorem modGrid_cur (s : State) (g : Nat) (f : Grid → Grid) : (s.modGrid g f).cur = s.cur := rfl
@[simp] theorem modGrid_agenda (s : State) (g : Nat) (f : Grid → Grid) : (s.modGrid g f).agenda = s.agenda := rfl
@[simp] theorem modGrid_oracle (s : State) (g : Nat) (f : Grid → Grid) : (s.modGrid g f).oracle = s.oracle := rfl
@[simp] theorem modGrid_freeCount (s : State) (g : Nat) (f : Grid → Grid) : (s.modGrid g f).freeCount = s.freeCount := rfl

/-! ### `eachFresh` -/

@[simp] theorem eachFresh_stage (s : State) (f : FreshWrite → FreshWrite) : (s.eachFresh f).stage = s.stage := rfl
@[simp] theorem eachFresh_clock (s : State) (f : FreshWrite → FreshWrite) : (s.eachFresh f).clock = s.clock := rfl
@[simp] theorem eachFresh_throttle (s : State) (f : FreshWrite → FreshWrite) : (s.eachFresh f).throttle = s.throttle := rfl
@[simp] theorem eachFresh_phys (s : State) (f : FreshWrite → FreshWrite) : (s.eachFresh f).phys = s.phys := rfl
@[simp] theorem eachFresh_poison (s : State) (f : FreshWrite → FreshWrite) : (s.eachFresh f).poison = s.poison := rfl
@[simp] theorem eachFresh_soft (s : State) (f : FreshWrite → FreshWrite) : (s.eachFresh f).soft = s.soft := rfl
@[simp] theorem eachFresh_corrected (s : State) (f : FreshWrite → FreshWrite) : (s.eachFresh f).corrected = s.corrected := rfl
@[simp] theorem eachFresh_cores (s : State) (f : FreshWrite → FreshWrite) : (s.eachFresh f).cores = s.cores.map (fun k => (k.1, { k.2 with fresh := k.2.fresh.map f })) := rfl
@[simp] theorem eachFresh_parts (s : State) (f : FreshWrite → FreshWrite) : (s.eachFresh f).parts = s.parts := rfl
@[simp] theorem eachFresh_vfs (s : State) (f : FreshWrite → FreshWrite) : (s.eachFresh f).vfs = s.vfs := rfl
@[simp] theorem eachFresh_edges (s : State) (f : FreshWrite → FreshWrite) : (s.eachFresh f).edges = s.edges := rfl
@[simp] theorem eachFresh_dies (s : State) (f : FreshWrite → FreshWrite) : (s.eachFresh f).dies = s.dies := rfl
@[simp] theorem eachFresh_grids (s : State) (f : FreshWrite → FreshWrite) : (s.eachFresh f).grids = s.grids := rfl
@[simp] theorem eachFresh_nextGrid (s : State) (f : FreshWrite → FreshWrite) : (s.eachFresh f).nextGrid = s.nextGrid := rfl
@[simp] theorem eachFresh_nextLease (s : State) (f : FreshWrite → FreshWrite) : (s.eachFresh f).nextLease = s.nextLease := rfl
@[simp] theorem eachFresh_nextAccept (s : State) (f : FreshWrite → FreshWrite) : (s.eachFresh f).nextAccept = s.nextAccept := rfl
@[simp] theorem eachFresh_nextOp (s : State) (f : FreshWrite → FreshWrite) : (s.eachFresh f).nextOp = s.nextOp := rfl
@[simp] theorem eachFresh_reports (s : State) (f : FreshWrite → FreshWrite) : (s.eachFresh f).reports = s.reports := rfl
@[simp] theorem eachFresh_supImage (s : State) (f : FreshWrite → FreshWrite) : (s.eachFresh f).supImage = s.supImage := rfl
@[simp] theorem eachFresh_supEntry (s : State) (f : FreshWrite → FreshWrite) : (s.eachFresh f).supEntry = s.supEntry := rfl
@[simp] theorem eachFresh_supText (s : State) (f : FreshWrite → FreshWrite) : (s.eachFresh f).supText = s.supText := rfl
@[simp] theorem eachFresh_monEntry (s : State) (f : FreshWrite → FreshWrite) : (s.eachFresh f).monEntry = s.monEntry := rfl
@[simp] theorem eachFresh_osPages (s : State) (f : FreshWrite → FreshWrite) : (s.eachFresh f).osPages = s.osPages := rfl
@[simp] theorem eachFresh_panicked (s : State) (f : FreshWrite → FreshWrite) : (s.eachFresh f).panicked = s.panicked := rfl
@[simp] theorem eachFresh_crash (s : State) (f : FreshWrite → FreshWrite) : (s.eachFresh f).crash = s.crash := rfl
@[simp] theorem eachFresh_winLow (s : State) (f : FreshWrite → FreshWrite) : (s.eachFresh f).winLow = s.winLow := rfl
@[simp] theorem eachFresh_mdId (s : State) (f : FreshWrite → FreshWrite) : (s.eachFresh f).mdId = s.mdId := rfl
@[simp] theorem eachFresh_mdCollect (s : State) (f : FreshWrite → FreshWrite) : (s.eachFresh f).mdCollect = s.mdCollect := rfl
@[simp] theorem eachFresh_mdCport (s : State) (f : FreshWrite → FreshWrite) : (s.eachFresh f).mdCport = s.mdCport := rfl
@[simp] theorem eachFresh_trays (s : State) (f : FreshWrite → FreshWrite) : (s.eachFresh f).trays = s.trays := rfl
@[simp] theorem eachFresh_peerReplies (s : State) (f : FreshWrite → FreshWrite) : (s.eachFresh f).peerReplies = s.peerReplies := rfl
@[simp] theorem eachFresh_peerRights (s : State) (f : FreshWrite → FreshWrite) : (s.eachFresh f).peerRights = s.peerRights := rfl
@[simp] theorem eachFresh_landing (s : State) (f : FreshWrite → FreshWrite) : (s.eachFresh f).landing = s.landing := rfl
@[simp] theorem eachFresh_cur (s : State) (f : FreshWrite → FreshWrite) : (s.eachFresh f).cur = s.cur := rfl
@[simp] theorem eachFresh_agenda (s : State) (f : FreshWrite → FreshWrite) : (s.eachFresh f).agenda = s.agenda := rfl
@[simp] theorem eachFresh_oracle (s : State) (f : FreshWrite → FreshWrite) : (s.eachFresh f).oracle = s.oracle := rfl
@[simp] theorem eachFresh_freeCount (s : State) (f : FreshWrite → FreshWrite) : (s.eachFresh f).freeCount = s.freeCount := rfl

/-! ### `tick` -/

@[simp] theorem tick_stage (s : State) (n : Nat) : (s.tick n).stage = s.stage := rfl
@[simp] theorem tick_clock (s : State) (n : Nat) : (s.tick n).clock = s.clock + n := rfl
@[simp] theorem tick_throttle (s : State) (n : Nat) : (s.tick n).throttle = s.throttle := rfl
@[simp] theorem tick_phys (s : State) (n : Nat) : (s.tick n).phys = s.phys := rfl
@[simp] theorem tick_poison (s : State) (n : Nat) : (s.tick n).poison = s.poison := rfl
@[simp] theorem tick_soft (s : State) (n : Nat) : (s.tick n).soft = s.soft := rfl
@[simp] theorem tick_corrected (s : State) (n : Nat) : (s.tick n).corrected = s.corrected := rfl
@[simp] theorem tick_cores (s : State) (n : Nat) : (s.tick n).cores = s.cores := rfl
@[simp] theorem tick_parts (s : State) (n : Nat) : (s.tick n).parts = s.parts := rfl
@[simp] theorem tick_vfs (s : State) (n : Nat) : (s.tick n).vfs = s.vfs := rfl
@[simp] theorem tick_edges (s : State) (n : Nat) : (s.tick n).edges = s.edges := rfl
@[simp] theorem tick_dies (s : State) (n : Nat) : (s.tick n).dies = s.dies := rfl
@[simp] theorem tick_grids (s : State) (n : Nat) : (s.tick n).grids = s.grids := rfl
@[simp] theorem tick_nextGrid (s : State) (n : Nat) : (s.tick n).nextGrid = s.nextGrid := rfl
@[simp] theorem tick_nextLease (s : State) (n : Nat) : (s.tick n).nextLease = s.nextLease := rfl
@[simp] theorem tick_nextAccept (s : State) (n : Nat) : (s.tick n).nextAccept = s.nextAccept := rfl
@[simp] theorem tick_nextOp (s : State) (n : Nat) : (s.tick n).nextOp = s.nextOp := rfl
@[simp] theorem tick_reports (s : State) (n : Nat) : (s.tick n).reports = s.reports := rfl
@[simp] theorem tick_supImage (s : State) (n : Nat) : (s.tick n).supImage = s.supImage := rfl
@[simp] theorem tick_supEntry (s : State) (n : Nat) : (s.tick n).supEntry = s.supEntry := rfl
@[simp] theorem tick_supText (s : State) (n : Nat) : (s.tick n).supText = s.supText := rfl
@[simp] theorem tick_monEntry (s : State) (n : Nat) : (s.tick n).monEntry = s.monEntry := rfl
@[simp] theorem tick_osPages (s : State) (n : Nat) : (s.tick n).osPages = s.osPages := rfl
@[simp] theorem tick_panicked (s : State) (n : Nat) : (s.tick n).panicked = s.panicked := rfl
@[simp] theorem tick_crash (s : State) (n : Nat) : (s.tick n).crash = s.crash := rfl
@[simp] theorem tick_winLow (s : State) (n : Nat) : (s.tick n).winLow = s.winLow := rfl
@[simp] theorem tick_mdId (s : State) (n : Nat) : (s.tick n).mdId = s.mdId := rfl
@[simp] theorem tick_mdCollect (s : State) (n : Nat) : (s.tick n).mdCollect = s.mdCollect := rfl
@[simp] theorem tick_mdCport (s : State) (n : Nat) : (s.tick n).mdCport = s.mdCport := rfl
@[simp] theorem tick_trays (s : State) (n : Nat) : (s.tick n).trays = s.trays := rfl
@[simp] theorem tick_peerReplies (s : State) (n : Nat) : (s.tick n).peerReplies = s.peerReplies := rfl
@[simp] theorem tick_peerRights (s : State) (n : Nat) : (s.tick n).peerRights = s.peerRights := rfl
@[simp] theorem tick_landing (s : State) (n : Nat) : (s.tick n).landing = s.landing := rfl
@[simp] theorem tick_cur (s : State) (n : Nat) : (s.tick n).cur = s.cur := rfl
@[simp] theorem tick_agenda (s : State) (n : Nat) : (s.tick n).agenda = s.agenda := rfl
@[simp] theorem tick_oracle (s : State) (n : Nat) : (s.tick n).oracle = s.oracle := rfl
@[simp] theorem tick_freeCount (s : State) (n : Nat) : (s.tick n).freeCount = s.freeCount := rfl

/-! ### `physWrite` -/

@[simp] theorem physWrite_stage (s : State) (pa : Nat) (bs : List Byte) : (s.physWrite pa bs).stage = s.stage := rfl
@[simp] theorem physWrite_clock (s : State) (pa : Nat) (bs : List Byte) : (s.physWrite pa bs).clock = s.clock := rfl
@[simp] theorem physWrite_throttle (s : State) (pa : Nat) (bs : List Byte) : (s.physWrite pa bs).throttle = s.throttle := rfl
@[simp] theorem physWrite_phys (s : State) (pa : Nat) (bs : List Byte) : (s.physWrite pa bs).phys = s.phys.write pa bs := rfl
@[simp] theorem physWrite_poison (s : State) (pa : Nat) (bs : List Byte) : (s.physWrite pa bs).poison = s.poison.filter (fun p => decide (p < pa ∨ pa + bs.length ≤ p)) := rfl
@[simp] theorem physWrite_soft (s : State) (pa : Nat) (bs : List Byte) : (s.physWrite pa bs).soft = s.soft.filter (fun p => decide (p < pa ∨ pa + bs.length ≤ p)) := rfl
@[simp] theorem physWrite_corrected (s : State) (pa : Nat) (bs : List Byte) : (s.physWrite pa bs).corrected = s.corrected := rfl
@[simp] theorem physWrite_cores (s : State) (pa : Nat) (bs : List Byte) : (s.physWrite pa bs).cores = s.cores := rfl
@[simp] theorem physWrite_parts (s : State) (pa : Nat) (bs : List Byte) : (s.physWrite pa bs).parts = s.parts := rfl
@[simp] theorem physWrite_vfs (s : State) (pa : Nat) (bs : List Byte) : (s.physWrite pa bs).vfs = s.vfs := rfl
@[simp] theorem physWrite_edges (s : State) (pa : Nat) (bs : List Byte) : (s.physWrite pa bs).edges = s.edges := rfl
@[simp] theorem physWrite_dies (s : State) (pa : Nat) (bs : List Byte) : (s.physWrite pa bs).dies = s.dies := rfl
@[simp] theorem physWrite_grids (s : State) (pa : Nat) (bs : List Byte) : (s.physWrite pa bs).grids = s.grids := rfl
@[simp] theorem physWrite_nextGrid (s : State) (pa : Nat) (bs : List Byte) : (s.physWrite pa bs).nextGrid = s.nextGrid := rfl
@[simp] theorem physWrite_nextLease (s : State) (pa : Nat) (bs : List Byte) : (s.physWrite pa bs).nextLease = s.nextLease := rfl
@[simp] theorem physWrite_nextAccept (s : State) (pa : Nat) (bs : List Byte) : (s.physWrite pa bs).nextAccept = s.nextAccept := rfl
@[simp] theorem physWrite_nextOp (s : State) (pa : Nat) (bs : List Byte) : (s.physWrite pa bs).nextOp = s.nextOp := rfl
@[simp] theorem physWrite_reports (s : State) (pa : Nat) (bs : List Byte) : (s.physWrite pa bs).reports = s.reports := rfl
@[simp] theorem physWrite_supImage (s : State) (pa : Nat) (bs : List Byte) : (s.physWrite pa bs).supImage = s.supImage := rfl
@[simp] theorem physWrite_supEntry (s : State) (pa : Nat) (bs : List Byte) : (s.physWrite pa bs).supEntry = s.supEntry := rfl
@[simp] theorem physWrite_supText (s : State) (pa : Nat) (bs : List Byte) : (s.physWrite pa bs).supText = s.supText := rfl
@[simp] theorem physWrite_monEntry (s : State) (pa : Nat) (bs : List Byte) : (s.physWrite pa bs).monEntry = s.monEntry := rfl
@[simp] theorem physWrite_osPages (s : State) (pa : Nat) (bs : List Byte) : (s.physWrite pa bs).osPages = s.osPages := rfl
@[simp] theorem physWrite_panicked (s : State) (pa : Nat) (bs : List Byte) : (s.physWrite pa bs).panicked = s.panicked := rfl
@[simp] theorem physWrite_crash (s : State) (pa : Nat) (bs : List Byte) : (s.physWrite pa bs).crash = s.crash := rfl
@[simp] theorem physWrite_winLow (s : State) (pa : Nat) (bs : List Byte) : (s.physWrite pa bs).winLow = s.winLow := rfl
@[simp] theorem physWrite_mdId (s : State) (pa : Nat) (bs : List Byte) : (s.physWrite pa bs).mdId = s.mdId := rfl
@[simp] theorem physWrite_mdCollect (s : State) (pa : Nat) (bs : List Byte) : (s.physWrite pa bs).mdCollect = s.mdCollect := rfl
@[simp] theorem physWrite_mdCport (s : State) (pa : Nat) (bs : List Byte) : (s.physWrite pa bs).mdCport = s.mdCport := rfl
@[simp] theorem physWrite_trays (s : State) (pa : Nat) (bs : List Byte) : (s.physWrite pa bs).trays = s.trays := rfl
@[simp] theorem physWrite_peerReplies (s : State) (pa : Nat) (bs : List Byte) : (s.physWrite pa bs).peerReplies = s.peerReplies := rfl
@[simp] theorem physWrite_peerRights (s : State) (pa : Nat) (bs : List Byte) : (s.physWrite pa bs).peerRights = s.peerRights := rfl
@[simp] theorem physWrite_landing (s : State) (pa : Nat) (bs : List Byte) : (s.physWrite pa bs).landing = s.landing := rfl
@[simp] theorem physWrite_cur (s : State) (pa : Nat) (bs : List Byte) : (s.physWrite pa bs).cur = s.cur := rfl
@[simp] theorem physWrite_agenda (s : State) (pa : Nat) (bs : List Byte) : (s.physWrite pa bs).agenda = s.agenda := rfl
@[simp] theorem physWrite_oracle (s : State) (pa : Nat) (bs : List Byte) : (s.physWrite pa bs).oracle = s.oracle := rfl
@[simp] theorem physWrite_freeCount (s : State) (pa : Nat) (bs : List Byte) : (s.physWrite pa bs).freeCount = s.freeCount := rfl

end Sys2Proof.Machine.State
end

