-- ==== Sys2Proof/Laws/Writes.lean ====
section
/-!
SUPPORT. What the operations on threads, leads and their registers can change (`Writes`): everything they leave alone, said once, and
composed along an instruction's lanes.
-/

namespace Sys2Proof.Laws

open Sys2Proof.Machine Sys2Proof.Safety

/-! ### Reads of parts -/

theorem core_setCore (s : State) (c d : Nat) (k : Core) : (s.setCore c k).core d = if d = c then k else s.core d := by
  unfold State.core
  rw [State.setCore_cores, lookupN_putN]
  by_cases h : d = c <;> simp [h]

theorem core_modCore (s : State) (c d : Nat) (f : Core → Core) :
    (s.modCore c f).core d = if d = c then f (s.core c) else s.core d := core_setCore s c d _

@[simp] theorem core_modCore_self (s : State) (c : Nat) (f : Core → Core) : (s.modCore c f).core c = f (s.core c) := by
  simp [core_modCore]

theorem core_modCore_ne (s : State) {c d : Nat} (f : Core → Core) (h : d ≠ c) : (s.modCore c f).core d = s.core d := by
  simp [core_modCore, h]

/-- A core without its threads and workgroups. -/
def restOf (k : Core) : Core := { k with threads := [], wgs := [] }

/-- What a change of the registers and contexts of agents `as` leaves as it was: everything that is not theirs, and of theirs the
registers outside the spans `sp`, the predicates other than `p`, and `fstat` but for bits set where `fl` holds. -/
structure Writes (as : List Agent) (sp : List Span) (p : Option Nat) (fl : Bool) (s t : State) : Prop where
  phys : t.phys = s.phys
  rest : ∀ c, restOf (t.core c) = restOf (s.core c)
  parts : t.parts = s.parts
  vfs : t.vfs = s.vfs
  edges : t.edges = s.edges
  dies : t.dies = s.dies
  grids : t.grids = s.grids
  mdId : t.mdId = s.mdId
  mdCollect : t.mdCollect = s.mdCollect
  mdCport : t.mdCport = s.mdCport
  clock : t.clock = s.clock
  who : ∀ b, t.level b = s.level b ∧ t.place b = s.place b ∧ t.tidOf b = s.tidOf b
  others : ∀ b, b ∉ as → (t.thread? b).map bare = (s.thread? b).map bare ∧ t.lead? b = s.lead? b
  gR : ∀ b n, outside sp false n → gReg t b n = gReg s b n
  sR : ∀ b n, outside sp true n → sReg t b n = sReg s b n
  preds : ∀ b n, n < 7 → p ≠ some n → (t.ctx b).preds.getLsbD n = (s.ctx b).preds.getLsbD n
  handles : ∀ b, (t.ctx b).handles = (s.ctx b).handles
  flags : ∀ b, (s.ctx b).fstat &&& (t.ctx b).fstat = (s.ctx b).fstat
  noFlags : ∀ b, fl = false → (t.ctx b).fstat = (s.ctx b).fstat
  counts : ∀ b, (t.ctx b).ld = (s.ctx b).ld ∧ (t.ctx b).st = (s.ctx b).st ∧ (t.ctx b).cp = (s.ctx b).cp
    ∧ (t.ctx b).mx = (s.ctx b).mx

variable {as bs : List Agent} {sp : List Span} {p : Option Nat} {fl : Bool} {s t u : State} {a : Agent}

theorem Writes.refl (s : State) : Writes as sp p fl s s where
  phys := rfl
  rest := fun _ => rfl
  parts := rfl
  vfs := rfl
  edges := rfl
  dies := rfl
  grids := rfl
  mdId := rfl
  mdCollect := rfl
  mdCport := rfl
  clock := rfl
  who := fun _ => ⟨rfl, rfl, rfl⟩
  others := fun _ _ => ⟨rfl, rfl⟩
  gR := fun _ _ _ => rfl
  sR := fun _ _ _ => rfl
  preds := fun _ _ _ _ => rfl
  handles := fun _ => rfl
  flags := fun _ => BitVec.and_self
  noFlags := fun _ _ => rfl
  counts := fun _ => ⟨rfl, rfl, rfl, rfl⟩

theorem and_keep {n : Nat} {x y z : BitVec n} (h1 : x &&& y = x) (h2 : y &&& z = y) : x &&& z = x := by
  rw [← h1, BitVec.and_assoc, h2]

theorem Writes.trans (h1 : Writes as sp p fl s t) (h2 : Writes as sp p fl t u) : Writes as sp p fl s u where
  phys := h2.phys.trans h1.phys
  rest := fun c => (h2.rest c).trans (h1.rest c)
  parts := h2.parts.trans h1.parts
  vfs := h2.vfs.trans h1.vfs
  edges := h2.edges.trans h1.edges
  dies := h2.dies.trans h1.dies
  grids := h2.grids.trans h1.grids
  mdId := h2.mdId.trans h1.mdId
  mdCollect := h2.mdCollect.trans h1.mdCollect
  mdCport := h2.mdCport.trans h1.mdCport
  clock := h2.clock.trans h1.clock
  who := fun b => ⟨(h2.who b).1.trans (h1.who b).1, (h2.who b).2.1.trans (h1.who b).2.1, (h2.who b).2.2.trans (h1.who b).2.2⟩
  others := fun b hb => ⟨(h2.others b hb).1.trans (h1.others b hb).1, (h2.others b hb).2.trans (h1.others b hb).2⟩
  gR := fun b n h => (h2.gR b n h).trans (h1.gR b n h)
  sR := fun b n h => (h2.sR b n h).trans (h1.sR b n h)
  preds := fun b n h hp => (h2.preds b n h hp).trans (h1.preds b n h hp)
  handles := fun b => (h2.handles b).trans (h1.handles b)
  flags := fun b => and_keep (h1.flags b) (h2.flags b)
  noFlags := fun b h => (h2.noFlags b h).trans (h1.noFlags b h)
  counts := fun b => ⟨(h2.counts b).1.trans (h1.counts b).1, (h2.counts b).2.1.trans (h1.counts b).2.1,
    (h2.counts b).2.2.1.trans (h1.counts b).2.2.1, (h2.counts b).2.2.2.trans (h1.counts b).2.2.2⟩

/-- More agents, more spans and a predicate may be allowed. -/
theorem Writes.mono {sp' : List Span} {p' : Option Nat} {fl' : Bool} (h : Writes as sp p fl s t) (ha : ∀ b ∈ as, b ∈ bs)
    (hs : ∀ x ∈ sp, x ∈ sp') (hp : p = none ∨ p = p') (hf : fl = false ∨ fl' = true) : Writes bs sp' p' fl' s t where
  phys := h.phys
  rest := h.rest
  parts := h.parts
  vfs := h.vfs
  edges := h.edges
  dies := h.dies
  grids := h.grids
  mdId := h.mdId
  mdCollect := h.mdCollect
  mdCport := h.mdCport
  clock := h.clock
  who := h.who
  others := fun b hb => h.others b (fun hm => hb (ha b hm))
  gR := fun b n ho => h.gR b n (fun x hx => ho x (hs x hx))
  sR := fun b n ho => h.sR b n (fun x hx => ho x (hs x hx))
  preds := fun b n hn hq => h.preds b n hn (by rcases hp with rfl | rfl; simp; exact hq)
  handles := h.handles
  flags := h.flags
  noFlags := fun b hb => h.noFlags b (by rcases hf with rfl | rfl; rfl; cases hb)
  counts := h.counts

/-- A fold of writes. -/
theorem Writes.foldl {α : Type} (xs : List α) (f : State → α → State)
    (hf : ∀ s x, x ∈ xs → Writes as sp p fl s (f s x)) : Writes as sp p fl s (xs.foldl f s) := by
  induction xs generalizing s with
  | nil => exact Writes.refl s
  | cons x xs ih =>
    exact (hf s x (List.mem_cons_self ..)).trans (ih (fun s y hy => hf s y (List.mem_cons_of_mem _ hy)))

/-! ### From `Writes` to the frames of `Safety` -/

theorem Writes.sameBytes (h : Writes as sp p fl s t) : SameBytes s t := by
  refine ⟨fun pa => by rw [h.phys], fun c off => ?_⟩
  have := h.rest c
  simp only [restOf, Core.mk.injEq] at this
  simp [this]

theorem Writes.sameSpecial (h : Writes as sp p fl s t) : SameSpecial s t := by
  refine ⟨fun c => ?_, h.parts, h.vfs, h.edges, h.dies, h.grids, h.mdId, h.mdCollect, h.mdCport, h.clock⟩
  have := h.rest c
  simp only [restOf, Core.mk.injEq] at this
  simp [this]

theorem Writes.sameRegs (h : Writes as [] none false s t) (b : Agent) : SameRegs s t b := by
  refine ⟨fun n => ⟨h.gR b n (by intro x hx; cases hx), h.sR b n (by intro x hx; cases hx)⟩, ?_, h.handles b, h.noFlags b rfl,
    (h.who b).1, (h.who b).2.1, (h.who b).2.2⟩
  apply BitVec.eq_of_getLsbD_eq
  intro i hi
  exact h.preds b i hi (by simp)

/-! ### Changing one thread or lead -/

/-- What a change of a context leaves as it was. -/
structure CtxWrites (p : Option Nat) (fl : Bool) (c d : Ctx) : Prop where
  preds : ∀ n, n < 7 → p ≠ some n → d.preds.getLsbD n = c.preds.getLsbD n
  handles : d.handles = c.handles
  flags : c.fstat &&& d.fstat = c.fstat
  noFlags : fl = false → d.fstat = c.fstat
  counts : d.ld = c.ld ∧ d.st = c.st ∧ d.cp = c.cp ∧ d.mx = c.mx

theorem CtxWrites.refl (c : Ctx) : CtxWrites p fl c c :=
  ⟨fun _ _ _ => rfl, rfl, BitVec.and_self, fun _ => rfl, rfl, rfl, rfl, rfl⟩

/-- A context that keeps its predicates, handles, flags and counts. -/
theorem CtxWrites.of_eq {c d : Ctx} (h1 : d.preds = c.preds) (h2 : d.handles = c.handles) (h3 : d.fstat = c.fstat)
    (h4 : d.ld = c.ld ∧ d.st = c.st ∧ d.cp = c.cp ∧ d.mx = c.mx) : CtxWrites p fl c d :=
  ⟨fun _ _ _ => by rw [h1], h2, by rw [h3]; exact BitVec.and_self, fun _ => h3, h4⟩

theorem thread?_modThread (s : State) (c n : Nat) (f : Thread → Thread) (b : Agent) :
    (s.modCore c (fun k => k.modThread n f)).thread? b
      = if b = { core := c, who := .thread n } then (s.thread? b).map f else s.thread? b := by
  obtain ⟨d, w⟩ := b
  cases w with
  | lead q => simp [State.thread?]
  | thread m =>
    by_cases hd : d = c
    · subst hd
      simp only [State.thread?, core_modCore_self, Core.thread, Core.modThread, lookupN_modN]
      by_cases hm : m = n <;> simp [hm]
    · simp [State.thread?, core_modCore_ne _ _ hd, hd]

theorem lead?_modThread (s : State) (c n : Nat) (f : Thread → Thread) (b : Agent) :
    (s.modCore c (fun k => k.modThread n f)).lead? b = s.lead? b := by
  obtain ⟨d, w⟩ := b
  cases w with
  | thread m => rfl
  | lead q =>
    by_cases hd : d = c
    · subst hd; simp [State.lead?, Core.wg, Core.modThread]
    · simp [State.lead?, core_modCore_ne _ _ hd]

theorem thread?_modLead (s : State) (c n : Nat) (f : Lead → Lead) (b : Agent) :
    (s.modCore c (fun k => k.modLead n f)).thread? b = s.thread? b := by
  obtain ⟨d, w⟩ := b
  cases w with
  | lead q => rfl
  | thread m =>
    by_cases hd : d = c
    · subst hd; simp [State.thread?, Core.thread, Core.modLead, Core.modWg]
    · simp [State.thread?, core_modCore_ne _ _ hd]

theorem lead?_modLead (s : State) (c n : Nat) (f : Lead → Lead) (b : Agent) :
    (s.modCore c (fun k => k.modLead n f)).lead? b
      = if b = { core := c, who := .lead n } then (s.lead? b).map f else s.lead? b := by
  obtain ⟨d, w⟩ := b
  cases w with
  | thread m => simp [State.lead?]
  | lead q =>
    by_cases hd : d = c
    · subst hd
      simp only [State.lead?, core_modCore_self, Core.wg, Core.modLead, Core.modWg, lookupN_modN]
      by_cases hm : q = n
      · subst hm
        cases lookupN (s.core d).wgs q <;> simp
      · simp [hm]
    · simp [State.lead?, core_modCore_ne _ _ hd, hd]

/-- A context, by thread and lead. -/
theorem ctx_eq (s : State) (b : Agent) : s.ctx b = ((s.thread? b).map (·.ctx)).getD (((s.lead? b).map (·.ctx)).getD {}) := by
  obtain ⟨d, w⟩ := b
  cases w with
  | thread m => simp [State.ctx, State.lead?]
  | lead q => simp [State.ctx, State.thread?]

theorem restOf_modThread (s : State) (c n d : Nat) (f : Thread → Thread) :
    restOf ((s.modCore c (fun k => k.modThread n f)).core d) = restOf (s.core d) := by
  by_cases h : d = c
  · subst h; simp [restOf, Core.modThread]
  · rw [core_modCore_ne _ _ h]

theorem restOf_modLead (s : State) (c n d : Nat) (f : Lead → Lead) :
    restOf ((s.modCore c (fun k => k.modLead n f)).core d) = restOf (s.core d) := by
  by_cases h : d = c
  · subst h; simp [restOf, Core.modLead, Core.modWg]
  · rw [core_modCore_ne _ _ h]

/-- A change of one thread. -/
theorem Writes.modThread (s : State) (c n : Nat) (f : Thread → Thread)
    (hl : ∀ t, (f t).level = t.level ∧ (f t).wg = t.wg ∧ (f t).tid = t.tid) (hc : ∀ t, CtxWrites p fl t.ctx (f t).ctx)
    (hg : ∀ t k, outside sp false k → getR (f t).g k = getR t.g k) :
    Writes [{ core := c, who := .thread n }] sp p fl s (s.modCore c (fun k => k.modThread n f)) := by
  have hth := thread?_modThread s c n f
  have hle := lead?_modThread s c n f
  have key : ∀ b, ((s.modCore c (fun k => k.modThread n f)).thread? b) = (s.thread? b).map f
      ∨ ((s.modCore c (fun k => k.modThread n f)).thread? b) = s.thread? b := by
    intro b; rw [hth]; split
    · exact .inl rfl
    · exact .inr rfl
  have hctx : ∀ b, CtxWrites p fl (s.ctx b) ((s.modCore c (fun k => k.modThread n f)).ctx b) := by
    intro b
    rw [ctx_eq s b, ctx_eq _ b, hle]
    rcases key b with h | h <;> rw [h]
    · cases s.thread? b with
      | none => exact CtxWrites.refl _
      | some t => exact hc t
    · exact CtxWrites.refl _
  constructor
  case rest => exact fun d => restOf_modThread s c n d f
  case who =>
    intro b
    have h3 : ((s.modCore c (fun k => k.modThread n f)).thread? b).map (fun t => (t.level, t.wg, t.tid))
        = (s.thread? b).map (fun t => (t.level, t.wg, t.tid)) := by
      rcases key b with h | h <;> rw [h]
      cases s.thread? b with
      | none => rfl
      | some t => simp [hl t]
    have e1 : ∀ (x : State), x.level b = ((((x.thread? b).map (fun t => (t.level, t.wg, t.tid))).map (·.1)).getD .t) := by
      intro x; simp [State.level, Function.comp_def]
    have e2 : ∀ (x : State), x.tidOf b = ((((x.thread? b).map (fun t => (t.level, t.wg, t.tid))).map (·.2.2)).getD 0) := by
      intro x; simp [State.tidOf, Function.comp_def]
    have e3 : ∀ (x : State), x.place b = (match b.who with
        | .thread _ => (((x.thread? b).map (fun t => (t.level, t.wg, t.tid))).map (·.2.1)).getD 0
        | .lead q => q) := by
      intro x; unfold State.place; cases b.who <;> simp [Function.comp_def]
    exact ⟨by rw [e1, e1 s, h3], by rw [e3, e3 s, h3], by rw [e2, e2 s, h3]⟩
  case others =>
    intro b hb
    rw [hth, hle, if_neg (by simpa using hb)]
    exact ⟨rfl, rfl⟩
  case gR =>
    intro b k ho
    unfold gReg
    rcases key b with h | h <;> rw [h]
    cases s.thread? b with
    | none => rfl
    | some t => exact hg t k ho
  case sR => intro b k _; unfold sReg; rw [hle]
  case preds => exact fun b n h1 h2 => (hctx b).preds n h1 h2
  case handles => exact fun b => (hctx b).handles
  case flags => exact fun b => (hctx b).flags
  case noFlags => exact fun b => (hctx b).noFlags
  case counts => exact fun b => (hctx b).counts
  all_goals rfl

/-- A change of one lead. -/
theorem Writes.modLead (s : State) (c n : Nat) (f : Lead → Lead) (hc : ∀ l, CtxWrites p fl l.ctx (f l).ctx)
    (hs : ∀ l k, outside sp true k → getR (f l).s k = getR l.s k) :
    Writes [{ core := c, who := .lead n }] sp p fl s (s.modCore c (fun k => k.modLead n f)) := by
  have hth := thread?_modLead s c n f
  have hle := lead?_modLead s c n f
  have key : ∀ b, ((s.modCore c (fun k => k.modLead n f)).lead? b) = (s.lead? b).map f
      ∨ ((s.modCore c (fun k => k.modLead n f)).lead? b) = s.lead? b := by
    intro b; rw [hle]; split
    · exact .inl rfl
    · exact .inr rfl
  have hctx : ∀ b, CtxWrites p fl (s.ctx b) ((s.modCore c (fun k => k.modLead n f)).ctx b) := by
    intro b
    rw [ctx_eq s b, ctx_eq _ b, hth]
    cases s.thread? b with
    | some t => exact CtxWrites.refl _
    | none =>
      rcases key b with h | h <;> rw [h]
      · cases s.lead? b with
        | none => exact CtxWrites.refl _
        | some t => exact hc t
      · exact CtxWrites.refl _
  constructor
  case rest => exact fun d => restOf_modLead s c n d f
  case who =>
    intro b
    exact ⟨by simp only [State.level, hth], by simp only [State.place, hth], by simp only [State.tidOf, hth]⟩
  case others =>
    intro b hb
    rw [hth, hle, if_neg (by simpa using hb)]
    exact ⟨rfl, rfl⟩
  case gR => intro b k _; unfold gReg; rw [hth]
  case sR =>
    intro b k ho
    unfold sReg
    rcases key b with h | h <;> rw [h]
    cases s.lead? b with
    | none => rfl
    | some t => exact hs t k ho
  case preds => exact fun b n h1 h2 => (hctx b).preds n h1 h2
  case handles => exact fun b => (hctx b).handles
  case flags => exact fun b => (hctx b).flags
  case noFlags => exact fun b => (hctx b).noFlags
  case counts => exact fun b => (hctx b).counts
  all_goals rfl

/-- A change of one context. -/
theorem Writes.modCtx (s : State) (a : Agent) (f : Ctx → Ctx) (hc : ∀ c, CtxWrites p fl c (f c)) :
    Writes [a] sp p fl s (s.modCtx a f) := by
  obtain ⟨c, w⟩ := a
  cases w with
  | thread n => exact Writes.modThread s c n _ (fun _ => ⟨rfl, rfl, rfl⟩) (fun t => hc t.ctx) (fun _ _ _ => rfl)
  | lead n => exact Writes.modLead s c n _ (fun l => hc l.ctx) (fun _ _ _ => rfl)

/-- A state that differs in nothing that `Writes` speaks of. -/
theorem Writes.of_cores (h1 : t.cores = s.cores) (h2 : t.phys = s.phys) (h3 : t.parts = s.parts) (h4 : t.vfs = s.vfs)
    (h5 : t.edges = s.edges) (h6 : t.dies = s.dies) (h7 : t.grids = s.grids)
    (h8 : t.mdId = s.mdId ∧ t.mdCollect = s.mdCollect ∧ t.mdCport = s.mdCport ∧ t.clock = s.clock) : Writes as sp p fl s t := by
  have hc : ∀ c, t.core c = s.core c := by intro c; unfold State.core; rw [h1]
  have ht : ∀ b, t.thread? b = s.thread? b := by intro b; unfold State.thread?; rw [hc]
  have hl : ∀ b, t.lead? b = s.lead? b := by intro b; unfold State.lead?; rw [hc]
  have hx : ∀ b, t.ctx b = s.ctx b := by intro b; rw [ctx_eq, ctx_eq, ht, hl]
  constructor
  case phys => exact h2
  case rest => intro c; rw [hc]
  case parts => exact h3
  case vfs => exact h4
  case edges => exact h5
  case dies => exact h6
  case grids => exact h7
  case mdId => exact h8.1
  case mdCollect => exact h8.2.1
  case mdCport => exact h8.2.2.1
  case clock => exact h8.2.2.2
  case who =>
    exact fun b => ⟨by simp only [State.level, ht], by simp only [State.place, ht], by simp only [State.tidOf, ht]⟩
  case others => exact fun b _ => ⟨by rw [ht b], hl b⟩
  case gR => intro b k _; unfold gReg; rw [ht]
  case sR => intro b k _; unfold sReg; rw [hl]
  case preds => intro b n _ _; rw [hx]
  case handles => intro b; rw [hx]
  case flags => intro b; rw [hx]; exact BitVec.and_self
  case noFlags => intro b _; rw [hx]
  case counts => intro b; rw [hx]; exact ⟨rfl, rfl, rfl, rfl⟩

/-! ### The operations on registers -/

/-- The registers that an operand of `w` bits names. -/
def spanOf (w : Nat) : Opnd → List Span
  | .g i => [⟨false, i.toNat, wordsOf w⟩]
  | .s i => [⟨true, i.toNat, 1⟩]
  | _ => []

theorem getR_gPut (g : Regs 32) (i n v k : Nat) (h : ¬ (i ≤ k ∧ k < i + n)) : getR (gPut g i n v) k = getR g k := by
  induction n generalizing g i v with
  | zero => rfl
  | succ n ih => rw [gPut, ih _ _ _ (by omega), getR_setR_ne _ _ (by omega)]

theorem Writes.writeG (s : State) (a : Agent) (i w v : Nat) (h : ∀ k, outside sp false k → ¬ (i ≤ k ∧ k < i + wordsOf w)) :
    Writes [a] sp p fl s (s.writeG a i w v) := by
  obtain ⟨c, y⟩ := a
  cases y with
  | lead n => exact Writes.refl s
  | thread n =>
    exact Writes.modThread s c n _ (fun _ => ⟨rfl, rfl, rfl⟩) (fun t => CtxWrites.of_eq rfl rfl rfl ⟨rfl, rfl, rfl, rfl⟩)
      (fun t k ho => getR_gPut _ _ _ _ _ (h k ho))

/-- The write of an `s` register changes nothing of a thread but its operand buffer. -/
theorem Thread.dropS_bare (q i : Nat) (t : Thread) : bare (t.dropS q i) = bare t := by
  unfold Thread.dropS
  split
  · have : ∀ m : MxMark, m.hit (.s (BitVec.ofNat 9 i)) 64 = false := by
      intro m; unfold MxMark.hit; cases m.regs <;> rfl
    simp only [bare, Ctx.dropBuf, this, Bool.false_eq_true, if_false, List.map_id']
  · rfl

theorem thread?_dropS (s : State) (c q i : Nat) (b : Agent) :
    (s.modCore c (fun k => k.dropS q i)).thread? b = if b.core = c then (s.thread? b).map (·.dropS q i) else s.thread? b := by
  obtain ⟨d, w⟩ := b
  cases w with
  | lead n => simp [State.thread?]
  | thread m =>
    by_cases hd : d = c
    · subst hd
      simp [State.thread?, Core.thread, Core.dropS, lookupN_map _ m (fun _ t => Thread.dropS q i t)]
    · simp [State.thread?, core_modCore_ne _ _ hd, hd]

theorem lead?_dropS (s : State) (c q i : Nat) (b : Agent) : (s.modCore c (fun k => k.dropS q i)).lead? b = s.lead? b := by
  obtain ⟨d, w⟩ := b
  cases w with
  | thread m => rfl
  | lead n =>
    by_cases hd : d = c
    · subst hd; simp [State.lead?, Core.wg, Core.dropS]
    · simp [State.lead?, core_modCore_ne _ _ hd]

/-- The emptying of the operand buffers that retain an `s` register. -/
theorem Writes.dropS (s : State) (c q i : Nat) : Writes as sp p fl s (s.modCore c (fun k => k.dropS q i)) := by
  have hle := lead?_dropS s c q i
  have hb : ∀ b, ((s.modCore c (fun k => k.dropS q i)).thread? b).map bare = (s.thread? b).map bare := by
    intro b
    rw [thread?_dropS]
    split
    · cases s.thread? b with
      | none => rfl
      | some t => simp [Thread.dropS_bare]
    · rfl
  have via : ∀ {α : Type} (f : Thread → α), (∀ t, f (bare t) = f t) → ∀ b,
      ((s.modCore c (fun k => k.dropS q i)).thread? b).map f = (s.thread? b).map f := by
    intro α f hf b
    have := congrArg (Option.map f) (hb b)
    simpa [Option.map_map, Function.comp_def, hf] using this
  have get : ∀ {α : Type} (f : Ctx → α), (∀ x, f { x with opBuf := none } = f x) → ∀ b,
      f ((s.modCore c (fun k => k.dropS q i)).ctx b) = f (s.ctx b) := by
    intro α f hf b
    rw [ctx_eq, ctx_eq s, hle]
    have := via (fun t => f t.ctx) (fun t => hf t.ctx) b
    cases h1 : (s.modCore c (fun k => k.dropS q i)).thread? b <;> cases h2 : s.thread? b <;> simp_all
  constructor
  case rest =>
    intro d
    by_cases h : d = c
    · subst h; simp [restOf, Core.dropS]
    · rw [core_modCore_ne _ _ h]
  case who =>
    intro b
    refine ⟨?_, ?_, ?_⟩
    · simp only [State.level, via (·.level) (fun _ => rfl) b]
    · unfold State.place
      cases b.who with
      | lead n => rfl
      | thread n => simp only [via (·.wg) (fun _ => rfl) b]
    · simp only [State.tidOf, via (·.tid) (fun _ => rfl) b]
  case others => exact fun b _ => ⟨hb b, hle b⟩
  case gR => intro b k _; unfold gReg; rw [via (·.g) (fun _ => rfl) b]
  case sR => intro b k _; unfold sReg; rw [hle]
  case preds => intro b n _ _; rw [get (·.preds) (fun _ => rfl) b]
  case handles => intro b; exact get (·.handles) (fun _ => rfl) b
  case flags => intro b; rw [get (·.fstat) (fun _ => rfl) b]; exact BitVec.and_self
  case noFlags => intro b _; exact get (·.fstat) (fun _ => rfl) b
  case counts =>
    exact fun b => ⟨get (·.ld) (fun _ => rfl) b, get (·.st) (fun _ => rfl) b, get (·.cp) (fun _ => rfl) b,
      get (·.mx) (fun _ => rfl) b⟩
  all_goals rfl

theorem Writes.writeS (s : State) (a : Agent) (i v : Nat) (h : ∀ k, outside sp true k → k ≠ i) :
    Writes [a] sp p fl s (s.writeS a i v) := by
  obtain ⟨c, y⟩ := a
  cases y with
  | thread n => exact Writes.refl s
  | lead n =>
    refine Writes.trans ?_ (Writes.dropS _ c n i)
    exact Writes.modLead s c n _ (fun l => CtxWrites.of_eq rfl rfl rfl ⟨rfl, rfl, rfl, rfl⟩)
      (fun l k ho => getR_setR_ne _ _ (h k ho))

theorem outside_spanOf_g {w k : Nat} {i : BitVec 9} (h : outside (spanOf w (.g i)) false k) :
    ¬ (i.toNat ≤ k ∧ k < i.toNat + wordsOf w) := fun hk => h _ (List.mem_singleton.2 rfl) ⟨rfl, hk.1, hk.2⟩

theorem outside_spanOf_s {w k : Nat} {i : BitVec 9} (h : outside (spanOf w (.s i)) true k) : k ≠ i.toNat := by
  rintro rfl
  exact h _ (List.mem_singleton.2 rfl) ⟨rfl, Nat.le_refl _, Nat.lt_succ_self _⟩

theorem Writes.putD (s : State) (a : Agent) (d : Opnd) (w v : Nat) : Writes [a] (spanOf w d) p fl s (s.putD a d w v) := by
  cases d with
  | g i => exact Writes.writeG s a _ _ _ (fun k h => outside_spanOf_g h)
  | s i => exact Writes.writeS s a _ _ (fun k h => outside_spanOf_s h)
  | lit i => exact Writes.refl s
  | imm i => exact Writes.refl s

theorem Writes.putInt (s : State) (a : Agent) (d : Opnd) (sg : Bool) (w v : Nat) :
    Writes [a] (spanOf w d) p fl s (s.putInt a d sg w v) := by
  cases d with
  | g i => exact Writes.writeG s a _ _ _ (fun k h => outside_spanOf_g h)
  | s i => exact Writes.writeS s a _ _ (fun k h => outside_spanOf_s h)
  | lit i => exact Writes.refl s
  | imm i => exact Writes.refl s

theorem Writes.putHigh (s : State) (a : Agent) (d : Opnd) (v : Word) :
    Writes [a] (spanOf 64 d) p fl s (s.putHigh a d v) := by
  cases d with
  | g i =>
    refine Writes.writeG s a _ _ _ (fun k h hk => outside_spanOf_g h ?_)
    have : wordsOf 32 = 1 := rfl
    have : wordsOf 64 = 2 := rfl
    omega
  | s i => exact Writes.writeS s a _ _ (fun k h => outside_spanOf_s h)
  | lit i => exact Writes.refl s
  | imm i => exact Writes.refl s

theorem getLsbD_setBit {w : Nat} (v : BitVec w) {i n : Nat} (b : Bool) (h : n ≠ i) :
    (setBit v i b).getLsbD n = v.getLsbD n := by
  unfold setBit
  have h1 : (1#w <<< i).getLsbD n = false := by
    simp only [BitVec.getLsbD_shiftLeft, BitVec.getLsbD_one]
    by_cases hn : n < i
    · simp [hn]
    · simp [show n - i ≠ 0 by omega]
  cases b
  · simp only [Bool.false_eq_true, if_false, BitVec.getLsbD_and, BitVec.getLsbD_not, h1]
    by_cases hw : n < w
    · simp [hw]
    · rw [BitVec.getLsbD_of_ge _ _ (by omega)]; rfl
  · simp [h1]

/-- A write of a predicate or handle changes a context's operand buffer only, beside what it writes. -/
theorem Ctx.dropBit_eq (c : Ctx) (b : Bank) (i : Nat) : c.dropBit b i = c ∨ c.dropBit b i = { c with opBuf := none } := by
  unfold Ctx.dropBit
  split
  · split
    · exact .inr rfl
    · exact .inl rfl
  · exact .inl rfl

/-- A supervisor thread's trap changes only what it waits for, and the traps that it has yet to report. -/
theorem Ctx.supTrap_eq (now : Nat) (t : TrapCode × Nat × DWord) (c : Ctx) :
    c.supTrap now t = { c with later := c.later ++ [t] }
    ∨ c.supTrap now t = { c with wait := .supTrap t.1 t.2.1 t.2.2, waitFrom := now, opBuf := none } := by
  unfold Ctx.supTrap
  split
  · exact .inl rfl
  · exact .inr rfl

theorem Writes.writeP (s : State) (a : Agent) (n : Nat) (b : Bool) : Writes [a] sp (some n) fl s (s.writeP a n b) := by
  refine Writes.modCtx s a _ (fun c => ?_)
  unfold Ctx.writeP
  split
  · exact CtxWrites.refl c
  · obtain h | h := Ctx.dropBit_eq c .pred n <;> rw [h] <;>
      exact ⟨fun k _ hk => getLsbD_setBit _ _ (fun h => hk (by rw [h])), rfl, BitVec.and_self, fun _ => rfl, rfl, rfl, rfl, rfl⟩

theorem Writes.flag (s : State) (a : Agent) (f : BitVec 5) : Writes [a] sp p true s (s.flag a f) := by
  refine Writes.modCtx s a _ (fun c => ⟨fun _ _ _ => rfl, rfl, ?_, (fun h => Bool.noConfusion h), rfl, rfl, rfl, rfl⟩)
  apply BitVec.eq_of_getLsbD_eq
  intro i _
  simp only [BitVec.getLsbD_and, BitVec.getLsbD_or]
  cases c.fstat.getLsbD i <;> rfl

theorem Writes.putF (s : State) (a : Agent) (d : Opnd) (w : Nat) (r : Nat × FFlags) :
    Writes [a] (spanOf w d) p true s (s.putF a d w r) := (Writes.flag s a r.2).trans (Writes.putD _ a d w r.1)

/-- A context that keeps its registers, flags and counts. -/
theorem Writes.quietCtx (s : State) (a : Agent) (f : Ctx → Ctx) (hp : ∀ c, (f c).preds = c.preds ∧ (f c).handles = c.handles
    ∧ (f c).fstat = c.fstat ∧ (f c).ld = c.ld ∧ (f c).st = c.st ∧ (f c).cp = c.cp ∧ (f c).mx = c.mx) :
    Writes [a] sp p fl s (s.modCtx a f) :=
  Writes.modCtx s a f (fun c => CtxWrites.of_eq (hp c).1 (hp c).2.1 (hp c).2.2.1 (hp c).2.2.2)

theorem Writes.advance (s : State) (a : Agent) : Writes [a] sp p fl s (s.advance a) :=
  Writes.quietCtx s a _ (fun _ => ⟨rfl, rfl, rfl, rfl, rfl, rfl, rfl⟩)

theorem Writes.jumpTo (s : State) (a : Agent) (pc : Int) : Writes [a] sp p fl s (s.jumpTo a pc) :=
  Writes.quietCtx s a _ (fun _ => ⟨rfl, rfl, rfl, rfl, rfl, rfl, rfl⟩)

theorem Writes.raiseResumable (s : State) (a : Agent) (r : Request) : Writes [a] sp p fl s (s.raiseResumable a r) :=
  Writes.quietCtx s a _ (fun c => by split <;> exact ⟨rfl, rfl, rfl, rfl, rfl, rfl, rfl⟩)

/-- A report on its way to the distributor touches no core. -/
theorem Writes.report (s : State) (g : Option Nat) (x : Trap) (pc : DWord) (core : Nat) (i : IssueId) (l : Option Nat) :
    Writes as sp p fl s (s.report g x pc core i l) := by
  unfold State.report
  split
  · exact Writes.of_cores rfl rfl rfl rfl rfl rfl rfl ⟨rfl, rfl, rfl, rfl⟩
  · exact Writes.refl s

theorem Writes.endServed (s : State) (a : Agent) (x : Trap) (i : IssueId) : Writes as sp p fl s (s.endServed a x i) := by
  unfold State.endServed
  split
  · exact Writes.report s _ x _ _ i _
  · exact Writes.refl s

/-- Taking a trap that is not resumable. -/
theorem Writes.raiseAt (s : State) (a : Agent) (x : Trap) (pc : DWord) (i : IssueId) :
    Writes [a] sp p fl s (s.raiseAt a x pc i) := by
  unfold State.raiseAt
  split
  · exact Writes.trans
      (Writes.quietCtx s a (fun c => { c with wait := if c.wait = .exited then .exited else .stopped, opBuf := none })
        (fun _ => ⟨rfl, rfl, rfl, rfl, rfl, rfl, rfl⟩))
      (Writes.report _ _ x pc _ i _)
  · refine (Writes.endServed s a x i).trans (Writes.quietCtx _ a _ (fun c => ?_))
    obtain h | h := Ctx.supTrap_eq s.clock (x.code, x.va, pc) c <;> rw [h] <;> exact ⟨rfl, rfl, rfl, rfl, rfl, rfl, rfl⟩
  · exact Writes.quietCtx s a _ (fun _ => ⟨rfl, rfl, rfl, rfl, rfl, rfl, rfl⟩)

theorem Writes.raise (s : State) (a : Agent) (x : Trap) : Writes [a] sp p fl s (s.raise a x) := Writes.raiseAt s a x _ _

theorem Writes.pick (s : State) (n : Nat) : Writes as sp p fl s (s.pick n).2 := by
  unfold State.pick
  split
  · exact Writes.refl s
  · split
    · exact Writes.refl s
    · exact Writes.of_cores rfl rfl rfl rfl rfl rfl rfl ⟨rfl, rfl, rfl, rfl⟩

theorem Writes.freeBytes (s : State) (n : Nat) : Writes as sp p fl s (s.freeBytes n).2 :=
  Writes.of_cores rfl rfl rfl rfl rfl rfl rfl ⟨rfl, rfl, rfl, rfl⟩

theorem Writes.settleS (s : State) (a : Agent) (n : Nat) : Writes [a] sp p fl s (s.settleS a n) := by
  unfold State.settleS
  obtain ⟨c, y⟩ := a
  cases y with
  | lead n => exact Writes.refl s
  | thread m =>
    simp only
    split
    · exact (Writes.pick s _).trans (Writes.modThread _ c m _ (fun _ => ⟨rfl, rfl, rfl⟩) (fun _ => CtxWrites.refl _)
        (fun _ _ _ => rfl))
    · exact Writes.refl s

theorem Writes.settle (s : State) (a : Agent) (f : Form) : Writes [a] sp p fl s (s.settle a f) :=
  Writes.foldl _ _ (fun s n _ => Writes.settleS s a n)

theorem Writes.retain (s : State) (a : Agent) (f : Form) : Writes [a] sp p fl s (s.retain a f) := by
  unfold State.retain
  simp only
  split
  · exact Writes.refl s
  all_goals exact Writes.quietCtx s a _ (fun _ => ⟨rfl, rfl, rfl, rfl, rfl, rfl, rfl⟩)

theorem Writes.endIssue (s : State) : Writes as sp p fl s s.endIssue := by
  unfold State.endIssue
  split
  · exact Writes.refl s
  · split <;> exact Writes.of_cores rfl rfl rfl rfl rfl rfl rfl ⟨rfl, rfl, rfl, rfl⟩

/-! ### Lanes and groups -/

/-- What a lane's effect leaves as it was. -/
def LaneOut.Writes (a : Agent) (sp : List Span) (p : Option Nat) (fl : Bool) (s : State) : LaneOut → Prop
  | .done t => Laws.Writes [a] sp p fl s t
  | .jump t _ => Laws.Writes [a] sp p fl s t
  | .stay t => Laws.Writes [a] sp p fl s t
  | .trap _ => True

/-- One lane, on every path. -/
theorem Writes.lane {f : Form} {body : Agent → State → LaneOut} (h : ∀ s, LaneOut.Writes a sp p fl s (body a s)) :
    Writes [a] sp p fl s (s.lane f body a) := by
  unfold State.lane
  split
  · exact Writes.raise s a _
  split
  · exact Writes.advance s a
  split
  · exact Writes.raise s a _
  split
  · exact Writes.raise s a _
  split
  · exact Writes.raise s a _
  have h1 : Writes [a] sp p fl s ((s.settle a f).retain a f) := (Writes.settle s a f).trans (Writes.retain _ a f)
  have h2 := h ((s.settle a f).retain a f)
  refine h1.trans ?_
  simp only
  generalize (s.settle a f).retain a f = u at h2 ⊢
  cases hb : body a u with
  | done t => rw [hb] at h2; exact h2.trans (Writes.advance t a)
  | jump t pc => rw [hb] at h2; exact h2.trans (Writes.jumpTo t a pc)
  | stay t => rw [hb] at h2; exact h2
  | trap x => exact Writes.raise u a x

/-- An instruction that each lane runs alone. -/
theorem Writes.perLane {f : Form} {x : Issue} {body : Agent → State → LaneOut} (hc : s.cur = some x)
    (h : ∀ a s, LaneOut.Writes a sp p fl s (body a s)) (ht : Machine.perLane (some f) body s = .next t) :
    Writes x.agents sp p fl s t := by
  simp only [Machine.perLane, hc, Host.Outcome.next.injEq] at ht
  subst ht
  refine Writes.trans (Writes.foldl _ _ (fun s a ha => ?_)) (Writes.endIssue _)
  exact (Writes.lane (h a)).mono (by intro b hb; rw [List.mem_singleton.1 hb]; exact ha) (fun _ h => h) (.inr rfl)
    (by cases fl <;> simp)

end Sys2Proof.Laws
end

