-- ==== Sys2Proof/Laws/Forms.lean ====
section
/-!
SUPPORT. The shared operations behind the memory, barrier, copy, volume, matrix and generation forms: how each ends, once, by the
outcome of its checks.
-/

namespace Sys2Proof.Laws

open Sys2Proof.Machine Sys2Proof.Safety

variable {a : Agent} {s u : State} {t : Trap}

/-! ### Accesses -/

/-- A load whose address passes its checks is pending. -/
theorem loadOut_ok {f : MForm} {ea : Int}
    (h : s.checkSpace a f.space.toNat ea (sizeBytes f.size) false (f.order != 0) = none) :
    loadOut a f ea s = .done (s.post a (s.spot a f.space ea) (sizeBytes f.size) f.order f.scope f.cache
      (.load f.cm.d (tySigned f.size)) .ld) := by
  simp only [loadOut, h]

theorem loadOut_trap {f : MForm} {ea : Int}
    (h : s.checkSpace a f.space.toNat ea (sizeBytes f.size) false (f.order != 0) = some t) : loadOut a f ea s = .trap t := by
  simp only [loadOut, h]

/-- A store whose address passes its checks is pending. -/
theorem storeOut_ok {f : MForm} {ea : Int} {d : Opnd}
    (h : s.checkSpace a f.space.toNat ea (sizeBytes f.size) true (f.order != 0) = none) :
    storeOut a f ea d s = .done (s.post a (s.spot a f.space ea) (sizeBytes f.size) f.order f.scope f.cache
      (.store (leBytes (sizeBytes f.size) (s.opVal a d (8 * sizeBytes f.size)))) .st) := by
  simp only [storeOut, h]

theorem storeOut_trap {f : MForm} {ea : Int} {d : Opnd}
    (h : s.checkSpace a f.space.toNat ea (sizeBytes f.size) true (f.order != 0) = some t) : storeOut a f ea d s = .trap t := by
  simp only [storeOut, h]

/-- An atomic whose address passes its checks is pending. -/
theorem atomicOut_ok {f : MForm} {n : Nat} {k : PendKind} {c : Ctr}
    (h : s.checkSpace a f.space.toNat (s.ea a f (off16 f)) n true true = none) :
    atomicOut a f n k c s = .done (s.post a (s.spot a f.space (s.ea a f (off16 f))) n f.order f.scope 0 k c) := by
  simp only [atomicOut, h]

/-! ### Barrier forms -/

/-- A barrier form whose address passes its checks is pending. -/
theorem barrierOut_ok {f : MForm} {k : BarKind} {d : Opnd} {n : Nat} {c : Ctr} {r : ObjRef} (h : s.barObject a f = .ok r) :
    barrierOut a f k d n c s
      = .done (s.post a (s.spot a f.space (s.ea a f (off20 f))) 16 f.order f.scope 0 (.bar k r d n) c) := by
  simp only [barrierOut, h]

theorem barrierOut_fails {f : MForm} {k : BarKind} {d : Opnd} {n : Nat} {c : Ctr} (h : s.barObject a f = .error t) :
    barrierOut a f k d n c s = s.barFails a f t := by
  simp only [barrierOut, h]

/-- An address that fails its checks traps, and no firewall has dropped anything. -/
theorem barFails_trap {f : MForm} (h : s.checkSpace a f.space.toNat (s.ea a f (off20 f)) 16 true true = some x) :
    s.barFails a f t = .trap t := by
  unfold State.barFails
  rw [h]
  split <;> simp_all

/-- An object of the global space that does not translate: an end that has dropped the request keeps its mark (R393). -/
theorem barFails_drop {f : MForm} {va : Nat} (h : s.checkSpace a f.space.toNat (s.ea a f (off20 f)) 16 true true = none)
    (hp : s.spot a f.space (s.ea a f (off20 f)) = .glob va) :
    s.barFails a f t = .stay ((s.noteDrop a.core (s.viaOf a) va).raise a t) := by
  simp only [State.barFails, h, hp]

/-! ### Circles -/

/-- A form acts on a circle that its core reaches. -/
theorem atHome_reach {c : Machine.Circle} {act : State → LaneOut} (h : s.circleReach a c = true) : atHome a c act s = act s := by
  simp only [atHome, h, if_true]

/-- A firewall drops a form's request to a circle's home: the end keeps its mark, and the form traps (R393). -/
theorem atHome_drop {c : Machine.Circle} {act : State → LaneOut} (h : s.circleReach a c = false) :
    atHome a c act s = .stay ((s.markDrop (s.closedEnds false (dieOf a.core))).raise a ⟨.perm, 0⟩) := by
  simp [atHome, h]

/-! ### Copies -/

/-- A copy form whose checks pass and that makes no expectation is handed to the engine. -/
theorem copyOut_ok {op : Nat} {f : XForm} (hq : (s.core a.core).copiesFull = false) (h : s.copyCheck op f a (s.copyCmd op f a) = none) (hx : copyExp f = false) :
    copyOut op f a s = .done (({ s with nextOp := s.nextOp + 1 } : State).modCore a.core
      (fun k => { k with copies := k.copies ++ [s.copyCmd op f a] })) := by
  simp only [copyOut, hq, h, hx]
  rfl

/-- One that makes its expectation is handed to the engine after it. -/
theorem copyOut_exp {op : Nat} {f : XForm} (hq : (s.core a.core).copiesFull = false) (h : s.copyCheck op f a (s.copyCmd op f a) = none) (hx : copyExp f = true)
    (hc : s.copyCount (s.copyCmd op f a) a.core false ((s.copyCmd op f a).credits (List.range (s.copyCmd op f a).n)) = (u, none)) :
    copyOut op f a s = .done (({ u with nextOp := u.nextOp + 1 } : State).modCore a.core
      (fun k => { k with copies := k.copies ++ [s.copyCmd op f a] })) := by
  simp only [copyOut, hq, h, hx, if_true, hc, Bool.false_eq_true, if_false]

theorem copyOut_trap {op : Nat} {f : XForm} (hq : (s.core a.core).copiesFull = false)
    (h : s.copyCheck op f a (s.copyCmd op f a) = some t) : copyOut op f a s = .trap t := by
  simp only [copyOut, hq, Bool.false_eq_true, if_false]
  rw [h]

/-- While the engine's queue is full the issuer stays at the copy (R283). -/
theorem copyOut_full {op : Nat} {f : XForm} (hq : (s.core a.core).copiesFull = true) : copyOut op f a s = .stay s := by
  simp only [copyOut, hq, if_true]

/-! ### Volumes -/

/-- The checks of an element access or a management form (R273). -/
theorem check_append {d : VolDesc} {c : List Nat} (h : d.append = true) : d.check c false = some ⟨.perm, 0⟩ := by
  simp [VolDesc.check, h]

theorem check_rank {d : VolDesc} {c : List Nat} {k : Bool} (h : (d.append && !k) = false) (hc : ∃ p ∈ c.zip d.ext, p.2 ≤ p.1) :
    d.check c k = some ⟨.volRank, 0⟩ := by
  simp only [VolDesc.check, h]
  rw [if_neg (by simp), if_neg]
  obtain ⟨p, hp, hq⟩ := hc
  intro hh
  have := List.all_eq_true.mp hh p hp
  simp only [decide_eq_true_eq] at this
  omega

/-! ### Matrix operations -/

/-- An operation enters the sequencer where it has room, and its issuer waits otherwise. -/
theorem issueMx_go {kind : MxKind} {spans : List (Place × Nat)} {w : Wg} (hw : s.wg? a = some w) (hf : s.seqFull a = false) :
    issueMx a kind spans s
      = .done (({ s.markMx a { op := s.nextOp, tiles := kind.tiles, spans := spans } with nextOp := s.nextOp + 1 } : State).pushMx a w
          s.nextOp (s.ctx a).pc kind false) := by
  simp only [issueMx, hw, hf]
  rfl

theorem issueMx_full {kind : MxKind} {spans : List (Place × Nat)} {w : Wg} (hw : s.wg? a = some w) (hf : s.seqFull a = true) :
    issueMx a kind spans s = .stay s := by
  simp only [issueMx, hw, hf]
  rfl

/-! ### Generation blocks -/

/-- A block of the VF's epoch stands as it is. -/
theorem voidBlock_ok {x : Home} {b : Block} (h : b.epoch = s.blockEpoch x b) : s.voidBlock x b = .ok (s, b) := by
  unfold State.voidBlock
  rw [if_pos]
  simp [h]

end Sys2Proof.Laws
end

