-- ==== Sys2Proof/Laws/Memory.lean ====
section
/-!
SUPPORT. Memory: which operations leave physical memory as it was, that those which write it keep its canonical form, and which bytes
they leave.
-/

namespace Sys2Proof.Laws

open Sys2Proof.Machine Sys2Proof.Safety

/-! ### Operations that leave physical memory as it was -/

@[simp] theorem modCtx_phys (s : State) (a : Agent) (f : Ctx → Ctx) : (s.modCtx a f).phys = s.phys := by
  unfold State.modCtx; cases a.who <;> rfl

@[simp] theorem modTx_phys (s : State) (e k : Nat) (f : TxRegs → TxRegs) : (s.modTx e k f).phys = s.phys := rfl
@[simp] theorem modQueue_phys (s : State) (k q : Nat) (f : Queue → Queue) : (s.modQueue k q f).phys = s.phys := rfl
@[simp] theorem freeBytes_phys (s : State) (n : Nat) : (s.freeBytes n).2.phys = s.phys := rfl
@[simp] theorem pick_phys (s : State) (n : Nat) : (s.pick n).2.phys = s.phys :=
  (Writes.pick (as := []) (sp := []) (p := none) (fl := false) s n).phys
@[simp] theorem writeG_phys (s : State) (a : Agent) (i w v : Nat) : (s.writeG a i w v).phys = s.phys := by
  unfold State.writeG; cases a.who <;> rfl
@[simp] theorem writeS_phys (s : State) (a : Agent) (i v : Nat) : (s.writeS a i v).phys = s.phys := by
  unfold State.writeS; cases a.who <;> rfl
@[simp] theorem putD_phys (s : State) (a : Agent) (d : Opnd) (w v : Nat) : (s.putD a d w v).phys = s.phys := by
  cases d <;> simp [State.putD]
@[simp] theorem putInt_phys (s : State) (a : Agent) (d : Opnd) (sg : Bool) (w v : Nat) : (s.putInt a d sg w v).phys = s.phys := by
  cases d <;> simp [State.putInt]
@[simp] theorem writeP_phys (s : State) (a : Agent) (n : Nat) (b : Bool) : (s.writeP a n b).phys = s.phys := by
  simp [State.writeP]
@[simp] theorem writeH_phys (s : State) (a : Agent) (n : Nat) (v : Word) : (s.writeH a n v).phys = s.phys := by
  simp [State.writeH]
@[simp] theorem flag_phys (s : State) (a : Agent) (f : BitVec 5) : (s.flag a f).phys = s.phys := by simp [State.flag]
@[simp] theorem putF_phys (s : State) (a : Agent) (d : Opnd) (w : Nat) (r : Nat × FFlags) : (s.putF a d w r).phys = s.phys := by
  simp [State.putF]
@[simp] theorem advance_phys (s : State) (a : Agent) : (s.advance a).phys = s.phys := by simp [State.advance]
@[simp] theorem jumpTo_phys (s : State) (a : Agent) (pc : Int) : (s.jumpTo a pc).phys = s.phys := by simp [State.jumpTo]
@[simp] theorem countIn_phys (s : State) (a : Agent) (k : Ctr) : (s.countIn a k).phys = s.phys := by simp [State.countIn]
@[simp] theorem countOut_phys (s : State) (a : Agent) (k : Ctr) : (s.countOut a k).phys = s.phys := by simp [State.countOut]
@[simp] theorem perfEvent_phys (s : State) (c ev : Nat) (vf : Option Nat) (n : Nat) : (s.perfEvent c ev vf n).phys = s.phys := rfl
@[simp] theorem raiseAt_phys (s : State) (a : Agent) (x : Trap) (pc : DWord) (i : IssueId) : (s.raiseAt a x pc i).phys = s.phys :=
  (Writes.raiseAt (sp := []) (p := none) (fl := false) s a x pc i).phys
@[simp] theorem raise_phys (s : State) (a : Agent) (x : Trap) : (s.raise a x).phys = s.phys := raiseAt_phys s a x _ _
@[simp] theorem raiseResumable_phys (s : State) (a : Agent) (r : Request) : (s.raiseResumable a r).phys = s.phys := by
  simp [State.raiseResumable]
@[simp] theorem resume_phys (s : State) (a : Agent) (at_ pc : DWord) (b : Bool) : (s.resume a at_ pc b).phys = s.phys := by
  simp [State.resume]
@[simp] theorem report_phys (s : State) (g : Option Nat) (x : Trap) (pc : DWord) (c : Nat) (i : IssueId) (l : Option Nat) :
    (s.report g x pc c i l).phys = s.phys := by
  unfold State.report; cases g <;> rfl
@[simp] theorem enterWait_phys (s : State) (a : Agent) : (s.enterWait a).phys = s.phys := by
  unfold State.enterWait; cases a.who <;> simp only
  split <;> rfl
@[simp] theorem endIssue_phys (s : State) : s.endIssue.phys = s.phys :=
  (Writes.endIssue (as := []) (sp := []) (p := none) (fl := false) s).phys
@[simp] theorem acquireAt_phys (s : State) (c n : Nat) : (s.acquireAt c n).phys = s.phys := by
  unfold State.acquireAt; split <;> rfl
@[simp] theorem storeWrite_phys (s : State) (c p o : Nat) (bs : List Byte) : (s.storeWrite c p o bs).phys = s.phys := rfl
@[simp] theorem fillTlb_phys (s : State) (c : Nat) (v : Via) (va : Nat) : (s.fillTlb c v va).phys = s.phys := by
  unfold State.fillTlb
  split
  · split
    · rfl
    · split <;> rfl
  · rfl
@[simp] theorem fillWalkAhead_phys (s : State) (c : Nat) (v : Via) (va : Nat) : (s.fillWalkAhead c v va).phys = s.phys := by
  unfold State.fillWalkAhead
  split
  · split
    · rfl
    · split <;> rfl
  · rfl
@[simp] theorem retire_phys (s : State) (p : Pending) : (s.retire p).phys = s.phys := by simp [State.retire]
@[simp] theorem markDrop_phys (s : State) (ends : List (Nat × Nat)) : (s.markDrop ends).phys = s.phys := by
  unfold State.markDrop; dsimp only; split <;> simp
@[simp] theorem noteDrop_phys (s : State) (c : Nat) (v : Via) (va : Nat) : (s.noteDrop c v va).phys = s.phys := by
  unfold State.noteDrop
  dsimp only
  split
  · split <;> simp
  · rfl
@[simp] theorem noteSoft_phys (s : State) (ps : List (Nat × Nat)) : (s.noteSoft ps).phys = s.phys := rfl
@[simp] theorem noteFresh_phys (s : State) (c : Nat) (pl : Place) (bs : List Byte) (l : List AgentId) (op : Nat)
    (x : Option AgentId) : (s.noteFresh c pl bs l op x).phys = s.phys := by
  unfold State.noteFresh; split <;> rfl
/-- Who has observed what changes in the recent writes, and nothing else of a core. -/
theorem core_eachFresh (s : State) (f : FreshWrite → FreshWrite) (c : Nat) :
    (s.eachFresh f).core c = { s.core c with fresh := (s.core c).fresh.map f } := by
  have h := lookupN_map s.cores c (fun _ k => ({ k with fresh := k.fresh.map f } : Core))
  unfold State.core State.eachFresh
  rw [show lookupN (s.cores.map (fun k => (k.1, ({ k.2 with fresh := k.2.fresh.map f } : Core)))) c = _ from h]
  cases lookupN s.cores c <;> rfl
@[simp] theorem publish_phys (s : State) (a : Agent) (ch : Option Chan) (n : Nat) : (s.publish a ch n).phys = s.phys := rfl
@[simp] theorem collect_phys (s : State) (a : Agent) (ch : Option Chan) (n : Nat) (b : Bool) : (s.collect a ch n b).phys = s.phys := rfl
@[simp] theorem creditSeen_phys (s : State) (c op : Nat) (r : ObjRef) : (s.creditSeen c op r).phys = s.phys := rfl
@[simp] theorem nearBy_phys (s : State) (a : Agent) (ch : Option Chan) (n : Nat) : (s.nearBy a ch n).phys = s.phys := rfl
@[simp] theorem releaseAt_phys (s : State) (a : Agent) (ch : Option Chan) (o : BitVec 3) (n : Nat) (b : Bool) :
    (s.releaseAt a ch o n b).phys = s.phys := rfl
@[simp] theorem fenceSeen_phys (s : State) (a : Agent) (r q : Bool) : (s.fenceSeen a r q).phys = s.phys := rfl
@[simp] theorem acquire_phys (s : State) (a : Agent) (n : Nat) (ch : Option Chan) (b : Bool) : (s.acquire a n ch b).phys = s.phys := by
  simp [State.acquire]
@[simp] theorem acquireBy_phys (s : State) (p : Pending) : (s.acquireBy p).phys = s.phys := acquire_phys ..
@[simp] theorem meetBy_phys (s : State) (p : Pending) : (s.meetBy p).phys = s.phys := by
  unfold State.meetBy
  split
  · simp
  · split <;> rfl
@[simp] theorem barEvent_phys (s : State) (c : Nat) (v : Via) (r : ObjRef) : (s.barEvent c v r).phys = s.phys := by
  unfold State.barEvent; split <;> rfl
@[simp] theorem countRequests_phys (s : State) (p : Pending) : (s.countRequests p).phys = s.phys := by
  unfold State.countRequests
  dsimp only
  split
  · split <;> rfl
  · split <;> rfl
@[simp] theorem edgeDrop_phys (s : State) (d e : Nat) : (s.edgeDrop d e).phys = s.phys := markDrop_phys ..
@[simp] theorem imgDrop_phys (s : State) (m : Image) (va : Nat) : (s.imgDrop m va).phys = s.phys := by
  unfold State.imgDrop
  split
  · split <;> simp
  · rfl
@[simp] theorem modStream_phys (s : State) (sid : Nat) (f : Stream → Stream) : (s.modStream sid f).phys = s.phys := rfl
@[simp] theorem spend_phys (s : State) (h : Home) : (s.spend h).phys = s.phys := by unfold State.spend; split <;> rfl
@[simp] theorem modOp_phys (s : State) (p : Pending) (f : Pending → Pending) : (s.modOp p f).phys = s.phys := rfl
@[simp] theorem giveBack_phys (s : State) (p : Pending) (d : Opnd) (w v : Nat) : (s.giveBack p d w v).phys = s.phys := by
  unfold State.giveBack; split <;> simp
@[simp] theorem post_phys (s : State) (a : Agent) (pl : Place) (n : Nat) (o sc : BitVec 3) (ca : BitVec 2) (k : PendKind)
    (c : Ctr) : (s.post a pl n o sc ca k c).phys = s.phys := by simp [State.post]

/-- A fold of operations that each leave physical memory as it was. -/
theorem foldl_phys {α : Type} (xs : List α) (f : State → α → State) (s : State) (h : ∀ s x, (f s x).phys = s.phys) :
    (xs.foldl f s).phys = s.phys := by
  induction xs generalizing s with
  | nil => rfl
  | cons x xs ih => rw [List.foldl_cons, ih, h]

@[simp] theorem wakeSeen_phys (s : State) (r : ObjRef) : (s.wakeSeen r).phys = s.phys := foldl_phys _ _ _ (fun _ _ => rfl)
@[simp] theorem wakeAll_phys (s : State) (r : ObjRef) : (s.wakeAll r).phys = s.phys := wakeSeen_phys s r

@[simp] theorem l1Fill_phys (s : State) (c pa n : Nat) (b : Bool) (k : Nat) : (s.l1Fill c pa n b k).phys = s.phys := by
  unfold State.l1Fill
  exact foldl_phys _ _ _ (fun s x => by
    dsimp only
    split
    · rfl
    · split <;> rfl)

/-- A load of global bytes leaves them as they were. -/
theorem loadGlobal_phys {s u : State} {p : Pending} {va n : Nat} {bs : List Byte} (h : s.loadGlobal p va n = .ok (bs, u)) :
    u.phys = s.phys := by
  unfold State.loadGlobal at h
  dsimp only at h
  split at h
  · cases h; rfl
  split at h
  · cases h
  split at h
  · cases h
  split at h
  · cases h
  · cases h
    simp only [fillTlb_phys]
    split
    · simp only [noteSoft_phys]
      split
      · rfl
      · exact foldl_phys _ _ _ (fun s x => l1Fill_phys ..)
    · split
      · rfl
      · exact foldl_phys _ _ _ (fun s x => l1Fill_phys ..)

theorem loadBytes_phys {s u : State} {p : Pending} {x n : Nat} {bs : List Byte} (h : s.loadBytes p x n = .ok (bs, u)) :
    u.phys = s.phys := by
  unfold State.loadBytes at h
  split at h
  · exact loadGlobal_phys h
  · split at h <;> cases h; rfl
  · split at h <;> cases h; rfl
  · cases h; rfl

@[simp] theorem formPartition_phys (s : State) (p : Nat) (d : BitVec 40) : (s.formPartition p d).phys = s.phys := by
  unfold State.formPartition; split <;> rfl
@[simp] theorem commitRange_phys (s : State) (p v i : Nat) (lo hi : DWord) : (s.commitRange p v i lo hi).phys = s.phys := by
  unfold State.commitRange; dsimp only; split <;> rfl
@[simp] theorem latch_phys (s : State) (o : Nat) (v : DWord) : (s.latch o v).phys = s.phys := rfl
@[simp] theorem writeReg_phys (s : State) (r : RegName) (v : DWord) : (s.writeReg r v).phys = s.phys := by
  cases r <;> simp only [State.writeReg, modQueue_phys, modTx_phys, State.modVf_phys, State.modEdge_phys, State.modDie_phys,
    State.modPart_phys] <;> (try split) <;> rfl
@[simp] theorem monWrite_phys (s : State) (o : Nat) (v : DWord) : (s.monWrite o v).phys = s.phys := by
  unfold State.monWrite; split <;> simp
@[simp] theorem windowWrite_phys (s : State) (pa : Nat) (bs : List Byte) : (s.windowWrite pa bs).phys = s.phys := by
  unfold State.windowWrite; split <;> simp

end Sys2Proof.Laws

namespace Sys2Proof.Safety

open Sys2Proof.Machine Sys2Proof.Laws

/-! ### The canonical form of physical memory -/

theorem MemoryOk.of_phys {s t : State} (h : MemoryOk s) (e : t.phys = s.phys) : MemoryOk t := by
  unfold MemoryOk; rw [e]; exact h

theorem MemoryOk.physWrite {s : State} (h : MemoryOk s) (pa : Nat) (bs : List Byte) : MemoryOk (s.physWrite pa bs) :=
  Mem.wf_write pa bs h

theorem MemoryOk.writePieces {s : State} (h : MemoryOk s) (ps : List (Nat × Nat)) (bs : List Byte) :
    MemoryOk (s.writePieces ps bs) := by
  induction ps generalizing s bs with
  | nil => exact h
  | cons q ps ih => exact ih (h.physWrite q.1 _) _

/-- A fold of operations that each keep a property. -/
theorem foldl_keeps {α : Type} {P : State → Prop} (xs : List α) (f : State → α → State) {s : State} (h : P s)
    (hf : ∀ s x, P s → P (f s x)) : P (xs.foldl f s) := by
  induction xs generalizing s with
  | nil => exact h
  | cons x xs ih => exact ih (hf s x h)

theorem MemoryOk.objWrite {s : State} (h : MemoryOk s) (c : Nat) (r : ObjRef) (o : Obj) : MemoryOk (s.objWrite c r o) := by
  cases r with
  | glob pa => exact (h.physWrite pa o.bytes).of_phys rfl
  | store d p off => exact h.of_phys rfl

theorem MemoryOk.objDone {s : State} (h : MemoryOk s) (c : Nat) (r : ObjRef) (o : Obj) (b : Bool) :
    MemoryOk (s.objDone c r o b) := by
  unfold State.objDone
  split
  · exact (h.objWrite c r _).of_phys (wakeAll_phys ..)
  · exact h.objWrite c r o

/-- An undefined object stands where it stood (R217). -/
theorem MemoryOk.spoilObj {s : State} (h : MemoryOk s) (c : Nat) (r : ObjRef) (b : Bool) : MemoryOk (s.spoilObj c r b) := by
  have h1 : MemoryOk (s.freeBytes 16).2 := h.of_phys rfl
  unfold State.spoilObj
  split
  · cases r with
    | glob pa => exact (h1.physWrite pa _).of_phys rfl
    | store d p off => exact h1.of_phys rfl
  · exact h

theorem MemoryOk.landCredit {s : State} (h : MemoryOk s) (c : Nat) (r : ObjRef) (n : Nat) : MemoryOk (s.landCredit c r n).1 := by
  unfold State.landCredit
  dsimp only
  split
  · exact h
  · split
    · exact h.objDone c r _ _
    · exact h

theorem MemoryOk.landExpect {s : State} (h : MemoryOk s) (c : Nat) (r : ObjRef) (n : Nat) : MemoryOk (s.landExpect c r n).1 := by
  unfold State.landExpect
  dsimp only
  split
  · exact h
  · split
    · exact h.objDone c r _ _
    · exact h

theorem MemoryOk.refreshWaiters {s : State} (h : MemoryOk s) (c : Nat) (r : ObjRef) : MemoryOk (s.refreshWaiters c r) := by
  unfold State.refreshWaiters
  split
  · exact h
  · exact h.objWrite c r _

theorem MemoryOk.retire {s : State} (h : MemoryOk s) (p : Pending) : MemoryOk (s.retire p) := h.of_phys (retire_phys s p)

theorem MemoryOk.freeBytes {s : State} (h : MemoryOk s) (n : Nat) : MemoryOk (s.freeBytes n).2 := h.of_phys rfl

theorem MemoryOk.failAt {s : State} (h : MemoryOk s) (a : Agent) (x : Trap) (pc : DWord) (i : IssueId) :
    MemoryOk (s.failAt a x pc i) := by
  have h1 : MemoryOk (s.raiseAt a x pc i) := h.of_phys (by simp)
  unfold State.failAt
  dsimp only
  split
  · exact h1.refreshWaiters _ _
  · exact h1

/-- An access that ends its grid keeps the canonical form. -/
theorem MemoryOk.opTraps {s : State} (h : MemoryOk s) (p : Pending) (x : Trap) : MemoryOk (s.opTraps p x) :=
  (h.retire p).failAt ..

theorem MemoryOk.opFails {s : State} (h : MemoryOk s) (p : Pending) (x : Trap) : MemoryOk (s.opFails p x) := by
  unfold State.opFails
  refine MemoryOk.opTraps (h.of_phys ?_) p x
  split <;> simp

/-- Performing a load keeps the canonical form, for it changes no byte but that of an object that a failing agent waited on. -/
theorem MemoryOk.performLoad {s : State} (h : MemoryOk s) (p : Pending) (d : Opnd) (b : Bool) : MemoryOk (s.performLoad p d b) := by
  unfold State.performLoad
  split
  · exact h.opFails p _
  · rename_i bs u hu
    have h1 : MemoryOk u := h.of_phys (loadBytes_phys hu)
    dsimp only
    refine MemoryOk.retire (h1.of_phys ?_) p
    rw [giveBack_phys]
    cases p.undef <;> simp

theorem MemoryOk.loadPart {s : State} (h : MemoryOk s) (p : Pending) (x n : Nat) : MemoryOk (s.loadPart p x n) := by
  unfold State.loadPart
  dsimp only
  split
  · exact h
  · split
    · exact h.opFails p _
    · rename_i bs u hu
      exact (h.of_phys (loadBytes_phys hu) : MemoryOk u).of_phys rfl

theorem MemoryOk.performLoads {s : State} (h : MemoryOk s) (set : List Pending) : MemoryOk (s.performLoads set) := by
  unfold State.performLoads
  dsimp only
  split
  · refine foldl_keeps _ _ (h.of_phys (pick_phys ..)) (fun s p hs => ?_)
    split
    · split
      · exact hs.performLoad _ _ _
      · exact hs
    · exact hs
  · exact foldl_keeps _ _ (h.of_phys (pick_phys ..)) (fun s p hs => hs.loadPart p _ _)

theorem MemoryOk.storeGlobal {s u : State} (h : MemoryOk s) {p : Pending} {va : Nat} {bs : List Byte}
    (hu : s.storeGlobal p va bs = .ok u) : MemoryOk u := by
  unfold State.storeGlobal at hu
  dsimp only at hu
  split at hu
  · cases hu; exact h.of_phys (by simp)
  · split at hu
    · cases hu
    · rename_i ps _
      cases hu
      refine MemoryOk.of_phys (s := s.writePieces ps bs) (h.writePieces _ _) ?_
      rw [fillTlb_phys]
      generalize s.writePieces ps bs = v
      have : ∀ (xs : List (Nat × Nat)) (acc : State × List Byte), (xs.foldl (fun (acc : State × List Byte) q =>
          (acc.1.modCore p.agent.core (fun k => if p.cache == 3 then k.l1Drop q.1 q.2
            else let k := k.l1Update q.1 (acc.2.take q.2); if p.cache == 2 then k.l1Mark q.1 q.2 2 else k),
            acc.2.drop q.2)) acc).1.phys = acc.1.phys := by
        intro xs
        induction xs with
        | nil => intro acc; rfl
        | cons x xs ih => intro acc; rw [List.foldl_cons, ih]; rfl
      exact this ps (v, bs)

theorem MemoryOk.storeBytes {s u : State} (h : MemoryOk s) {p : Pending} {x : Nat} {bs : List Byte}
    (hu : s.storeBytes p x bs = .ok u) : MemoryOk u := by
  unfold State.storeBytes at hu
  have hx : MemoryOk (if p.undef then s.freeBytes bs.length else (bs, s)).2 := by
    split
    · exact h.freeBytes _
    · exact h
  generalize (if p.undef then s.freeBytes bs.length else (bs, s)) = y at hx hu
  obtain ⟨cs, v⟩ := y
  dsimp only at hx hu
  split at hu
  · exact hx.storeGlobal hu
  · cases hu; exact hx.of_phys (by simp)
  · split at hu <;> cases hu <;> exact hx.of_phys rfl
  · cases hu; exact hx

theorem MemoryOk.storeRest {s u : State} (h : MemoryOk s) {p : Pending} {bs : List Byte} (us : List (Nat × Nat))
    (hu : s.storeRest p bs us = .ok u) : MemoryOk u := by
  induction us generalizing s with
  | nil => cases hu; exact h
  | cons y us ih =>
    unfold State.storeRest at hu
    split at hu
    · cases hu
    · rename_i v hv
      exact ih (h.storeBytes hv) hu

theorem MemoryOk.performStore {s : State} (h : MemoryOk s) (p : Pending) (bs : List Byte) : MemoryOk (s.performStore p bs) := by
  unfold State.performStore
  split
  · exact h.opFails p _
  · rename_i u hu
    refine MemoryOk.retire (s := u.releaseAt p.agent (u.chan p) p.order p.scope.toNat false) (MemoryOk.of_phys (s := u) ?_ rfl) p
    split at hu
    · exact h.storeBytes hu
    · exact h.storeRest _ hu

theorem MemoryOk.performStoreStep {s : State} (h : MemoryOk s) (p : Pending) (bs : List Byte) :
    MemoryOk (s.performStoreStep p bs) := by
  have h1 : ∀ n, MemoryOk (s.pick n).2 := fun n => h.of_phys (pick_phys ..)
  unfold State.performStoreStep
  extract_lets us whole
  generalize (if us.length ≤ 1 then 1 else us.length + whole) = m
  dsimp only
  split
  · exact (h1 _).performStore p bs
  · split
    · exact (h1 _).opFails p _
    · rename_i u hu
      exact ((h1 _).storeBytes hu).of_phys rfl

theorem MemoryOk.performAtomic {s : State} (h : MemoryOk s) (p : Pending) : MemoryOk (s.performAtomic p) := by
  have hgive : ∀ (u : State) (bs : List Byte), MemoryOk u → MemoryOk ((((u.meetBy p).releaseAt p.agent ((u.meetBy p).chan p) p.order
      p.scope.toNat true).giveBack p p.kind.dst (8 * p.n) (atomResult p.kind (leNat bs)).2).retire p) :=
    fun u bs hu => MemoryOk.retire (hu.of_phys (by simp)) p
  unfold State.performAtomic
  dsimp only
  split
  · split
    · exact h.opFails p _
    · split
      · exact h.opFails p _
      · rename_i bs _ _ ps _
        have key : ∀ (x : List Byte × State), MemoryOk x.2 → ∀ b, MemoryOk ((ps.foldl (fun s q =>
            s.modCore p.agent.core (fun k => k.l1Drop q.1 q.2)) (x.2.writePieces ps b))) := by
          intro x hx b
          exact foldl_keeps _ _ (hx.writePieces _ _) (fun s q hs => hs.of_phys rfl)
        cases p.undef
        · exact hgive _ _ ((key (bs, s) h _).of_phys (by rw [fillTlb_phys]; rfl))
        · exact hgive _ _ ((key (s.freeBytes p.n) (h.freeBytes _) _).of_phys (by rw [fillTlb_phys]; rfl))
  · split
    · exact h.opFails p _
    · cases p.undef
      · exact hgive _ _ (h.of_phys (by simp))
      · exact hgive _ _ (h.of_phys (by simp))
  · exact h.retire p

theorem MemoryOk.performLdga {s : State} (h : MemoryOk s) (p : Pending) (c w d bc bw b : Nat) :
    MemoryOk (s.performLdga p c w d bc bw b) := by
  unfold State.performLdga
  split
  · split
    · exact h.opFails p _
    · rename_i bs u hu
      have h1 : MemoryOk u := h.of_phys (loadGlobal_phys hu)
      have hx : MemoryOk (if p.undef then u.freeBytes p.n else (bs, u)).2 := by
        split
        · exact h1.freeBytes _
        · exact h1
      generalize (if p.undef then u.freeBytes p.n else (bs, u)) = y at hx ⊢
      obtain ⟨cs, v⟩ := y
      dsimp only at hx ⊢
      have h2 := MemoryOk.landCredit (((hx.of_phys (by simp) : MemoryOk ((((v.noteFresh c (.store c w d) (v.storeRead c w d p.n) []
        p.id).storeWrite c w d cs).creditSeen p.agent.core p.id (.store bc bw b)))).spoilObj p.agent.core (.store bc bw b) p.undefObj))
        p.agent.core (.store bc bw b) p.n
      split
      · rename_i e
        rw [e] at h2
        exact h2.retire p
      · rename_i e
        rw [e] at h2
        exact h2.opFails p _
  · exact h.retire p

/-- A barrier form that acts at its object keeps the canonical form. -/
theorem MemoryOk.performBar {s : State} (h : MemoryOk s) (p : Pending) (k : BarKind) (r : ObjRef) (d : Opnd) (n : Nat) :
    MemoryOk (s.performBar p k r d n) := by
  have hres : ∀ (u : State) (v : Bool), MemoryOk u →
      MemoryOk ((if (u.ctx p.agent).alive then u.writeP p.agent n v else u).retire p) := by
    intro u v hu
    refine MemoryOk.retire (hu.of_phys ?_) p
    split <;> simp
  have hgive : ∀ (u : State) (w v : Nat), MemoryOk u → MemoryOk (u.giveBack p d w v) :=
    fun u w v hu => hu.of_phys (giveBack_phys ..)
  have h0 : MemoryOk (s.spoilObj p.agent.core r p.undef) := h.spoilObj _ _ _
  have hif : ∀ (b : Bool) (u v : State), MemoryOk u → MemoryOk v → MemoryOk (if b then u else v) := by
    intro b u v hu hv; split <;> assumption
  unfold State.performBar
  dsimp only
  generalize s.spoilObj p.agent.core r p.undef = v at h0 ⊢
  have hbad := fun x => h0.opFails p x
  have hfree : MemoryOk (v.publish p.agent (some (.at_ r)) p.scope.toNat) := h0.of_phys rfl
  split
  · exact hbad _
  · cases k with
    | binit m =>
      dsimp only
      split
      · exact hbad _
      · exact (hfree.objWrite _ _ _).retire p
    | barv m => exact hif _ _ _ (hres _ _ (hgive _ _ _ (hfree.objDone _ _ _ _))) (hbad _)
    | bexp m => exact hif _ _ _ ((h0.objDone _ _ _ _).retire p) (hbad _)
    | btest ph =>
      refine hres _ _ (hgive _ _ _ ?_)
      split
      · exact h0.of_phys (acquire_phys ..)
      · exact h0
    | bexit =>
      refine hif _ _ _ ?_ (hbad _)
      split
      · exact hres _ _ (hfree.objWrite _ _ _)
      · exact hres _ _ (hfree.objDone _ _ _ _)
    | binval =>
      refine hif _ _ _ ?_ (hbad _)
      split
      · exact hres _ _ (h0.objWrite _ _ _)
      · exact hres _ _ h0

/-! ### Steps on blocks and text forms -/

/-- A result that comes of two in turn. -/
theorem ok_bind {α β : Type} {x : VolRes α} {f : α → VolRes β} {r : β} : (x >>= f) = .ok r ↔ ∃ a, x = .ok a ∧ f a = .ok r := by
  cases x with
  | error t => exact ⟨nofun, fun ⟨_, h, _⟩ => nomatch h⟩
  | ok a => exact ⟨fun h => ⟨a, rfl, h⟩, fun ⟨_, h, e⟩ => by cases h; exact e⟩

/-- A result that is one of two. -/
theorem ok_ite {α : Type} {c Q : Prop} [Decidable c] {x y : VolRes α} {r : α} (hx : x = .ok r → Q) (hy : y = .ok r → Q)
    (e : (if c then x else y) = .ok r) : Q := by
  split at e
  · exact hx e
  · exact hy e

/-- A run of writes, each of which keeps a property, keeps it. -/
theorem foldlM_keeps {α : Type} {P : State → Prop} (f : State → α → VolRes State) (hf : ∀ s x t, P s → f s x = .ok t → P t)
    (xs : List α) {s t : State} (h : P s) (e : xs.foldlM f s = .ok t) : P t := by
  induction xs generalizing s with
  | nil => cases e; exact h
  | cons x xs ih =>
    rw [List.foldlM_cons, ok_bind] at e
    obtain ⟨u, hu, e⟩ := e
    exact ih (hf _ _ _ h hu) e

theorem MemoryOk.blockWrite {s t : State} (h : MemoryOk s) {x : Home} {va : Nat} {bs : List Byte} {w : Bool}
    (e : s.blockWrite x va bs w = .ok t) : MemoryOk t := by
  unfold State.blockWrite State.agentWrite at e
  dsimp only at e
  split at e
  · cases e
  · cases e
    exact foldl_keeps _ _ (h.writePieces _ _) (fun _ _ hs => hs.of_phys rfl)

theorem MemoryOk.putWord {s t : State} (h : MemoryOk s) {x : Home} {va : Nat} {v : BitVec 64} (e : s.putWord x va v = .ok t) :
    MemoryOk t := h.blockWrite e

theorem MemoryOk.voidBlock {s : State} (h : MemoryOk s) {x : Home} {b : Block} {r : State × Block} (e : s.voidBlock x b = .ok r) :
    MemoryOk r.1 := by
  unfold State.voidBlock at e
  split at e
  · cases e; exact h
  · rw [ok_bind] at e
    obtain ⟨u, hu, e⟩ := e
    simp only [ok_bind] at e
    obtain ⟨v, hv, e⟩ := e
    cases e
    refine MemoryOk.blockWrite (foldlM_keeps _ ?_ _ h hu) hv
    intro s k t hs hk
    simp only [ok_bind] at hk
    obtain ⟨w, -, hk⟩ := hk
    split at hk
    · cases hk; exact hs
    · exact hs.blockWrite hk

theorem MemoryOk.enterBlock {s : State} (h : MemoryOk s) {x : Home} {at_ : Nat} {k : Option Nat} {r : State × Block × Bool}
    (e : s.enterBlock x at_ k = .ok r) : MemoryOk r.1 := by
  simp only [State.enterBlock, ok_bind] at e
  obtain ⟨b, -, -, -, y, hy, e⟩ := e
  cases e
  exact h.voidBlock hy

/-- A step on a block keeps the canonical form. -/
theorem MemoryOk.stepOn {s : State} (h : MemoryOk s) {x : Home} {at_ : Nat} {op : StepOp} {r : Stepped}
    (e : s.stepOn x at_ op = .ok r) : MemoryOk r.state := by
  cases op with
  | cast k t c rule =>
    simp only [State.stepOn, State.stepCast, ok_bind] at e
    obtain ⟨y, hy, v, -, e⟩ := e
    split at e
    · cases e; exact h.enterBlock hy
    · simp only [ok_bind] at e
      obtain ⟨s2, h2, w, -, s3, h3, e⟩ := e
      cases e
      exact ((h.enterBlock hy).putWord h2).putWord h3
  | slot m k =>
    simp only [State.stepOn, State.stepSlot, ok_bind] at e
    obtain ⟨y, hy, v, -, e⟩ := e
    split at e
    · simp only [ok_bind] at e
      obtain ⟨s2, h2, e⟩ := e
      cases e
      exact (h.enterBlock hy).putWord h2
    · cases e; exact h.enterBlock hy
  | header =>
    simp only [State.stepOn, State.stepHeader, ok_bind] at e
    obtain ⟨y, hy, e⟩ := e
    cases e
    exact h.enterBlock hy
  | opening =>
    simp only [State.stepOn, State.stepOpen, ok_bind] at e
    obtain ⟨b, -, e⟩ := e
    split at e
    · cases e
    · simp only [ok_bind] at e
      obtain ⟨s1, h1, s2, h2, s3, h3, e⟩ := e
      cases e
      exact ((h.blockWrite h1).blockWrite h2).putWord h3
  | pass n =>
    simp only [State.stepOn, State.stepPass, ok_bind] at e
    obtain ⟨-, -, y, hy, e⟩ := e
    split at e
    · cases e; exact h.enterBlock hy
    · simp only [ok_bind] at e
      obtain ⟨rs, -, s2, h2, w, -, s3, h3, e⟩ := e
      cases e
      exact (foldlM_keeps _ (fun _ _ _ hs hx => hs.putWord hx) _ (h.enterBlock hy) h2).putWord h3

/-- The state in which a text form ends. -/
def TextEnd.after : TextEnd → State
  | .done s _ => s
  | .failed s _ => s

theorem MemoryOk.onEdge {s : State} (h : MemoryOk s) {x : Home} {e : Nat} {act : VolRes TextEnd} {r : TextEnd}
    (ha : act = .ok r → MemoryOk (TextEnd.after r)) (hr : s.onEdge x e act = .ok r) : MemoryOk (TextEnd.after r) := by
  unfold State.onEdge at hr
  split at hr
  · exact ha hr
  · cases hr; exact h.of_phys (edgeDrop_phys ..)

theorem MemoryOk.emitText {s : State} (h : MemoryOk s) {x : Home} {b : Block} {k : Stream} {sent l : Nat} {r : TextEnd}
    (e : s.emitText x b k sent l = .ok r) : MemoryOk (TextEnd.after r) := by
  simp only [State.emitText, ok_bind] at e
  obtain ⟨slots, -, e⟩ := e
  split at e
  · cases e; exact h.of_phys rfl
  · split at e
    · cases e; exact h.of_phys (imgDrop_phys ..)
    · cases e; exact h.of_phys rfl

/-- A text form keeps the canonical form. -/
theorem MemoryOk.textOn {s : State} (h : MemoryOk s) {x : Home} {at_ : Nat} {op : TextOp} {r : TextEnd}
    (e : s.textOn x at_ op = .ok r) : MemoryOk (TextEnd.after r) := by
  cases op with
  | take edge cap =>
    simp only [State.textOn, State.takeText, ok_bind] at e
    obtain ⟨y, -, e⟩ := e
    refine h.onEdge (fun e => ?_) e
    split at e
    · cases e; exact h
    · split at e
      · cases e; exact h
      · simp only [ok_bind] at e
        obtain ⟨s1, h1, e⟩ := e
        cases e
        exact (h.blockWrite h1).of_phys rfl
  | emit l =>
    simp only [State.textOn, State.emitBlock, ok_bind] at e
    obtain ⟨b, -, -, -, -, -, vf, -, e⟩ := e
    split at e
    · cases e
    · refine h.onEdge (fun e => ?_) e
      split at e
      · cases e; exact h
      · exact ok_ite (fun e => by cases e; exact h) (ok_ite (fun e => by cases e; exact h) h.emitText) e
  | close sid c =>
    refine h.onEdge (fun e => ?_) e
    cases e
    split
    · split
      · exact h.of_phys rfl
      · exact h
    · exact h
  | stat sid => exact h.onEdge (fun e => by cases e; exact h) e

theorem MemoryOk.doneAt {s : State} (h : MemoryOk s) (p : Pending) (v : Nat) : MemoryOk (s.doneAt p v) :=
  MemoryOk.retire (h.of_phys (by simp)) p

theorem MemoryOk.performStep {s : State} (h : MemoryOk s) (p : Pending) (op : StepOp) (b : Nat) : MemoryOk (s.performStep p op b) := by
  unfold State.performStep
  split
  · exact h.opFails p _
  · rename_i r e
    refine MemoryOk.doneAt (MemoryOk.of_phys (h.stepOn e) ?_) p _
    simp only [apply_ite State.phys, publish_phys, acquire_phys, ite_self]

theorem MemoryOk.performText {s : State} (h : MemoryOk s) (p : Pending) (op : TextOp) : MemoryOk (s.performText p op) := by
  unfold State.performText
  split
  · exact h.opFails p _
  · rename_i e
    exact MemoryOk.opTraps (h.textOn e) p _
  · rename_i s1 v e
    refine MemoryOk.doneAt (MemoryOk.of_phys (h.textOn e : MemoryOk s1) ?_) p _
    simp only [apply_ite State.phys, acquire_phys, ite_self, TextEnd.after]

/-- Performing an access keeps the canonical form. -/
theorem MemoryOk.perform {s : State} (h : MemoryOk s) (p : Pending) : MemoryOk (s.perform p) := by
  unfold State.perform
  split
  · exact h.performLoad p _ _
  · exact h.performStore p _
  · exact h.performLdga p _ _ _ _ _ _
  · exact h.performBar p _ _ _ _
  · exact h.performStep p _ _
  · exact h.performText p _
  · exact h.performAtomic p

/-- The flush of a core keeps the canonical form. -/
theorem MemoryOk.flush {s : State} (h : MemoryOk s) (c : Nat) : MemoryOk (s.flush c) :=
  foldl_keeps _ _ h (fun _ p hs => hs.perform p)

end Sys2Proof.Safety

namespace Sys2Proof.Laws

open Sys2Proof.Machine Sys2Proof.Safety

/-! ### Bytes -/

theorem byte_physWrite (s : State) (pa k : Nat) (bs : List Byte) :
    (s.physWrite pa bs).phys.byte k = if pa ≤ k ∧ k < pa + bs.length then bs.getD (k - pa) 0 else s.phys.byte k :=
  Mem.byte_write s.phys pa k bs

/-- A write of pieces changes no byte outside them. -/
theorem byte_writePieces (s : State) (ps : List (Nat × Nat)) (bs : List Byte) (k : Nat)
    (h : ∀ q ∈ ps, ¬ (q.1 ≤ k ∧ k < q.1 + q.2)) : (s.writePieces ps bs).phys.byte k = s.phys.byte k := by
  induction ps generalizing s bs with
  | nil => rfl
  | cons q ps ih =>
    rw [State.writePieces, ih _ _ (fun x hx => h x (List.mem_cons_of_mem _ hx)), byte_physWrite, if_neg]
    have := h q (List.mem_cons_self ..)
    have : (bs.take q.2).length ≤ q.2 := List.length_take_le ..
    omega

/-- A write to an A-store region reads back. -/
theorem storeRead_storeWrite (s : State) (c p o : Nat) (bs : List Byte) :
    (s.storeWrite c p o bs).storeRead c p o bs.length = bs := by
  have hb : (s.storeWrite c p o bs).regionBase c p = s.regionBase c p := by
    simp [State.regionBase, State.storeWrite, Core.wg, Core.aWrite]
  unfold State.storeRead
  rw [hb]
  simp [State.storeWrite, Core.aWrite]

/-- A write to an A-store region changes no other byte of an A-store. -/
theorem byte_storeWrite (s : State) (c p o d k : Nat) (bs : List Byte)
    (h : ¬ (d = c ∧ s.regionBase c p + o ≤ k ∧ k < s.regionBase c p + o + bs.length)) :
    ((s.storeWrite c p o bs).core d).astore.byte k = (s.core d).astore.byte k := by
  unfold State.storeWrite
  by_cases hd : d = c
  · subst hd
    simp only [core_modCore_self, Core.aWrite]
    exact Mem.byte_write_outside _ _ (by omega)
  · rw [core_modCore_ne _ _ hd]

end Sys2Proof.Laws
end

