-- ==== Sys2Proof/Laws/PerInstr.lean ====
section
/-!
SUPPORT. The family `Encoding`: the opcode map gives the word of every well-formed instruction back to its constructor with all its
fields (spec/03 R57 to R69). One lemma for each constructor.
-/

namespace Sys2Proof.Laws.Encoding

open Sys2Proof.Machine

/-- The arm of the opcode map for the word of a well-formed instruction is that instruction. -/
def Statement (i : Instr) : Prop :=
  i.wellFormed = true → decodeAt (majorOf (encode i)) (minorOf (encode i)) (encode i) = some i

theorem ok_of_wellFormed {i : Instr} {f : Form} (h : i.wellFormed = true) (hf : form i = some f) : f.ok = true := by
  simp only [Instr.wellFormed, hf, Form.wordOk, Bool.and_eq_true] at h
  exact h.1.1.1.1.1.1

theorem armR (M m : Nat) (f : RForm) (i : Instr) (he : encode i = packR M m f) (hM : M % 64 = M) (hm : m % 64 = m) :
    decodeAt (majorOf (encode i)) (minorOf (encode i)) (encode i) = decodeAt M m (packR M m f) := by
  rw [he, show majorOf (packR M m f) = M from (majorOf_packWord M m _ _).trans hM,
    show minorOf (packR M m f) = m from (minorOf_packWord M m _ _).trans hm]

theorem plainR (M m : Nat) (f : RForm) (c : RForm → Instr) (he : encode (c f) = packR M m f) (hM : M % 64 = M)
    (hm : m % 64 = m) (hd : decodeAt M m (packR M m f) = some (c (rOf (packR M m f)))) : Statement (c f) := fun _ => by
  rw [armR M m f _ he hM hm, hd, rOf_packR]

theorem armI (M m : Nat) (f : IForm) (i : Instr) (he : encode i = packI M m f) (hM : M % 64 = M) (hm : m % 64 = m) :
    decodeAt (majorOf (encode i)) (minorOf (encode i)) (encode i) = decodeAt M m (packI M m f) := by
  rw [he, show majorOf (packI M m f) = M from (majorOf_packWord M m _ _).trans hM,
    show minorOf (packI M m f) = m from (minorOf_packWord M m _ _).trans hm]

theorem plainI (M m : Nat) (f : IForm) (c : IForm → Instr) (he : encode (c f) = packI M m f) (hM : M % 64 = M)
    (hm : m % 64 = m) (hd : decodeAt M m (packI M m f) = some (c (iOf (packI M m f)))) : Statement (c f) := fun _ => by
  rw [armI M m f _ he hM hm, hd, iOf_packI]

theorem armM (M m : Nat) (f : MForm) (i : Instr) (he : encode i = packM M m f) (hM : M % 64 = M) (hm : m % 64 = m) :
    decodeAt (majorOf (encode i)) (minorOf (encode i)) (encode i) = decodeAt M m (packM M m f) := by
  rw [he, show majorOf (packM M m f) = M from (majorOf_packWord M m _ _).trans hM,
    show minorOf (packM M m f) = m from (minorOf_packWord M m _ _).trans hm]

theorem plainM (M m : Nat) (f : MForm) (c : MForm → Instr) (he : encode (c f) = packM M m f) (hM : M % 64 = M)
    (hm : m % 64 = m) (hd : decodeAt M m (packM M m f) = some (c (mOf (packM M m f)))) : Statement (c f) := fun _ => by
  rw [armM M m f _ he hM hm, hd, mOf_packM]

theorem armB (M m : Nat) (f : BForm) (i : Instr) (he : encode i = packB M m f) (hM : M % 64 = M) (hm : m % 64 = m) :
    decodeAt (majorOf (encode i)) (minorOf (encode i)) (encode i) = decodeAt M m (packB M m f) := by
  rw [he, show majorOf (packB M m f) = M from (majorOf_packWord M m _ _).trans hM,
    show minorOf (packB M m f) = m from (minorOf_packWord M m _ _).trans hm]

theorem plainB (M m : Nat) (f : BForm) (c : BForm → Instr) (he : encode (c f) = packB M m f) (hM : M % 64 = M)
    (hm : m % 64 = m) (hd : decodeAt M m (packB M m f) = some (c (bOf (packB M m f)))) : Statement (c f) := fun _ => by
  rw [armB M m f _ he hM hm, hd, bOf_packB]

theorem armX (M m : Nat) (f : XForm) (i : Instr) (he : encode i = packX M m f) (hM : M % 64 = M) (hm : m % 64 = m) :
    decodeAt (majorOf (encode i)) (minorOf (encode i)) (encode i) = decodeAt M m (packX M m f) := by
  rw [he, show majorOf (packX M m f) = M from (majorOf_packWord M m _ _).trans hM,
    show minorOf (packX M m f) = m from (minorOf_packWord M m _ _).trans hm]

theorem plainX (M m : Nat) (f : XForm) (c : XForm → Instr) (he : encode (c f) = packX M m f) (hM : M % 64 = M)
    (hm : m % 64 = m) (hd : decodeAt M m (packX M m f) = some (c (xOf (packX M m f)))) : Statement (c f) := fun _ => by
  rw [armX M m f _ he hM hm, hd, xOf_packX]

/-! The opcodes that stand for more than one constructor. -/

theorem map_11_0 (w : IWord) : decodeAt 11 0 w = some (if (mOf w).cache == 3 then .prefL2 (mOf w) else .prefL1 (mOf w)) := rfl
theorem map_11_1 (w : IWord) : decodeAt 11 1 w = some (if (mOf w).size == 1 then .cctlDl (mOf w) else if (mOf w).size == 2 then .cctlDa (mOf w) else .cctlIc (mOf w)) := rfl
theorem map_42_0 (w : IWord) : decodeAt 42 0 w = some (if fld (xOf w).flags 9 1 == 1 then .vfreeAll (xOf w) else .vfree (xOf w)) := rfl
theorem map_50_0 (w : IWord) : decodeAt 50 0 w = some (if fld (xOf w).flags 7 2 == 1 then .mdrainAdd (xOf w)
      else if fld (xOf w).flags 7 2 == 2 then .mdrainAddOrd (xOf w) else .mdrain (xOf w)) := rfl
theorem map_54_1 (w : IWord) : decodeAt 54 1 w = some (if (xOf w).flags == 1 then .slotldMark (xOf w) else if (xOf w).flags == 2 then .slotldHdr (xOf w) else .slotldRd (xOf w)) := rfl
theorem map_54_2 (w : IWord) : decodeAt 54 2 w = some (if (xOf w).flags == 1 then .frontPass (xOf w) else .frontOpen (xOf w)) := rfl
theorem map_60_1 (w : IWord) : decodeAt 60 1 w = some (if (rOf w).func == 1 then .sretReissue (rOf w) else if (rOf w).func == 2 then .sretReissueNomatch (rOf w)
      else if (rOf w).func == 3 then .sretEndGrid (rOf w) else .sretResume (rOf w)) := rfl

/-! ### One lemma for each constructor -/

theorem iadd (f : RForm) : Statement (.iadd f) := plainR 1 0 f _ rfl (by decide) (by decide) rfl
theorem iaddImm (f : IForm) : Statement (.iaddImm f) := plainI 1 32 f _ rfl (by decide) (by decide) rfl
theorem isub (f : RForm) : Statement (.isub f) := plainR 1 1 f _ rfl (by decide) (by decide) rfl
theorem imul (f : RForm) : Statement (.imul f) := plainR 1 2 f _ rfl (by decide) (by decide) rfl
theorem imulImm (f : IForm) : Statement (.imulImm f) := plainI 1 34 f _ rfl (by decide) (by decide) rfl
theorem imulh (f : RForm) : Statement (.imulh f) := plainR 1 3 f _ rfl (by decide) (by decide) rfl
theorem imad (f : RForm) : Statement (.imad f) := plainR 1 4 f _ rfl (by decide) (by decide) rfl
theorem imadw (f : RForm) : Statement (.imadw f) := plainR 1 5 f _ rfl (by decide) (by decide) rfl
theorem idiv (f : RForm) : Statement (.idiv f) := plainR 1 6 f _ rfl (by decide) (by decide) rfl
theorem irem (f : RForm) : Statement (.irem f) := plainR 1 7 f _ rfl (by decide) (by decide) rfl
theorem iabs (f : RForm) : Statement (.iabs f) := plainR 1 8 f _ rfl (by decide) (by decide) rfl
theorem ineg (f : RForm) : Statement (.ineg f) := plainR 1 9 f _ rfl (by decide) (by decide) rfl
theorem imin (f : RForm) : Statement (.imin f) := plainR 1 10 f _ rfl (by decide) (by decide) rfl
theorem iminImm (f : IForm) : Statement (.iminImm f) := plainI 1 42 f _ rfl (by decide) (by decide) rfl
theorem imax (f : RForm) : Statement (.imax f) := plainR 1 11 f _ rfl (by decide) (by decide) rfl
theorem imaxImm (f : IForm) : Statement (.imaxImm f) := plainI 1 43 f _ rfl (by decide) (by decide) rfl
theorem and (f : RForm) : Statement (.and f) := plainR 2 0 f _ rfl (by decide) (by decide) rfl
theorem andImm (f : IForm) : Statement (.andImm f) := plainI 2 32 f _ rfl (by decide) (by decide) rfl
theorem or (f : RForm) : Statement (.or f) := plainR 2 1 f _ rfl (by decide) (by decide) rfl
theorem orImm (f : IForm) : Statement (.orImm f) := plainI 2 33 f _ rfl (by decide) (by decide) rfl
theorem xor (f : RForm) : Statement (.xor f) := plainR 2 2 f _ rfl (by decide) (by decide) rfl
theorem xorImm (f : IForm) : Statement (.xorImm f) := plainI 2 34 f _ rfl (by decide) (by decide) rfl
theorem andn (f : RForm) : Statement (.andn f) := plainR 2 3 f _ rfl (by decide) (by decide) rfl
theorem andnImm (f : IForm) : Statement (.andnImm f) := plainI 2 35 f _ rfl (by decide) (by decide) rfl
theorem shl (f : RForm) : Statement (.shl f) := plainR 2 4 f _ rfl (by decide) (by decide) rfl
theorem shlImm (f : IForm) : Statement (.shlImm f) := plainI 2 36 f _ rfl (by decide) (by decide) rfl
theorem shr (f : RForm) : Statement (.shr f) := plainR 2 5 f _ rfl (by decide) (by decide) rfl
theorem shrImm (f : IForm) : Statement (.shrImm f) := plainI 2 37 f _ rfl (by decide) (by decide) rfl
theorem sra (f : RForm) : Statement (.sra f) := plainR 2 6 f _ rfl (by decide) (by decide) rfl
theorem sraImm (f : IForm) : Statement (.sraImm f) := plainI 2 38 f _ rfl (by decide) (by decide) rfl
theorem rot (f : RForm) : Statement (.rot f) := plainR 2 7 f _ rfl (by decide) (by decide) rfl
theorem rotImm (f : IForm) : Statement (.rotImm f) := plainI 2 39 f _ rfl (by decide) (by decide) rfl
theorem bfx (f : RForm) : Statement (.bfx f) := plainR 3 0 f _ rfl (by decide) (by decide) rfl
theorem bfi (f : RForm) : Statement (.bfi f) := plainR 3 1 f _ rfl (by decide) (by decide) rfl
theorem popc (f : RForm) : Statement (.popc f) := plainR 3 2 f _ rfl (by decide) (by decide) rfl
theorem clz (f : RForm) : Statement (.clz f) := plainR 3 3 f _ rfl (by decide) (by decide) rfl
theorem brev (f : RForm) : Statement (.brev f) := plainR 3 4 f _ rfl (by decide) (by decide) rfl
theorem isetp (f : RForm) : Statement (.isetp f) := plainR 4 0 f _ rfl (by decide) (by decide) rfl
theorem sel (f : RForm) : Statement (.sel f) := plainR 4 1 f _ rfl (by decide) (by decide) rfl
theorem plog (f : RForm) : Statement (.plog f) := plainR 4 2 f _ rfl (by decide) (by decide) rfl
theorem mov (f : RForm) : Statement (.mov f) := plainR 5 0 f _ rfl (by decide) (by decide) rfl
theorem movi (f : IForm) : Statement (.movi f) := plainI 5 32 f _ rfl (by decide) (by decide) rfl
theorem movh (f : IForm) : Statement (.movh f) := plainI 5 33 f _ rfl (by decide) (by decide) rfl
theorem lea (f : RForm) : Statement (.lea f) := plainR 5 1 f _ rfl (by decide) (by decide) rfl
theorem leaImm (f : IForm) : Statement (.leaImm f) := plainI 5 34 f _ rfl (by decide) (by decide) rfl
theorem nop (f : RForm) : Statement (.nop f) := plainR 6 0 f _ rfl (by decide) (by decide) rfl
theorem sread (f : RForm) : Statement (.sread f) := plainR 6 1 f _ rfl (by decide) (by decide) rfl
theorem ld (f : MForm) : Statement (.ld f) := plainM 8 0 f _ rfl (by decide) (by decide) rfl
theorem st (f : MForm) : Statement (.st f) := plainM 8 1 f _ rfl (by decide) (by decide) rfl
theorem lda (f : MForm) : Statement (.lda f) := plainM 8 2 f _ rfl (by decide) (by decide) rfl
theorem sta (f : MForm) : Statement (.sta f) := plainM 8 3 f _ rfl (by decide) (by decide) rfl
theorem ldcs (f : MForm) : Statement (.ldcs f) := plainM 9 0 f _ rfl (by decide) (by decide) rfl
theorem stcs (f : MForm) : Statement (.stcs f) := plainM 9 1 f _ rfl (by decide) (by decide) rfl
theorem ldx (f : MForm) : Statement (.ldx f) := plainM 10 0 f _ rfl (by decide) (by decide) rfl
theorem stx (f : MForm) : Statement (.stx f) := plainM 10 1 f _ rfl (by decide) (by decide) rfl
theorem ldga (f : MForm) : Statement (.ldga f) := plainM 10 2 f _ rfl (by decide) (by decide) rfl
theorem prefL1 (f : MForm) : Statement (.prefL1 f) := fun h => by
  have k := ok_of_wellFormed h rfl
  simp [mForm, plain] at k
  rw [armM 11 0 f _ rfl (by decide) (by decide), map_11_0, mOf_packM]; simp [k]
theorem prefL2 (f : MForm) : Statement (.prefL2 f) := fun h => by
  have k := ok_of_wellFormed h rfl
  simp [mForm, plain] at k
  rw [armM 11 0 f _ rfl (by decide) (by decide), map_11_0, mOf_packM]; simp [k]
theorem cctlIc (f : MForm) : Statement (.cctlIc f) := fun h => by
  have k := ok_of_wellFormed h rfl
  simp [mForm, plain] at k
  have e : f.size = 0#4 := BitVec.eq_of_toNat_eq (by simpa using k.1.1.1.1.1)
  rw [armM 11 1 f _ rfl (by decide) (by decide), map_11_1, mOf_packM]; simp [e]
theorem cctlDl (f : MForm) : Statement (.cctlDl f) := fun h => by
  have k := ok_of_wellFormed h rfl
  simp [mForm, plain] at k
  have e : f.size = 1#4 := BitVec.eq_of_toNat_eq (by simpa using k.1.1.1.1.1)
  rw [armM 11 1 f _ rfl (by decide) (by decide), map_11_1, mOf_packM]; simp [e]
theorem cctlDa (f : MForm) : Statement (.cctlDa f) := fun h => by
  have k := ok_of_wellFormed h rfl
  simp [mForm, plain] at k
  have e : f.size = 2#4 := BitVec.eq_of_toNat_eq (by simpa using k.1.1.1.1.1)
  rw [armM 11 1 f _ rfl (by decide) (by decide), map_11_1, mOf_packM]; simp [e]
theorem fadd (f : RForm) : Statement (.fadd f) := plainR 12 0 f _ rfl (by decide) (by decide) rfl
theorem faddImm (f : IForm) : Statement (.faddImm f) := plainI 12 32 f _ rfl (by decide) (by decide) rfl
theorem fsub (f : RForm) : Statement (.fsub f) := plainR 12 1 f _ rfl (by decide) (by decide) rfl
theorem fmul (f : RForm) : Statement (.fmul f) := plainR 12 2 f _ rfl (by decide) (by decide) rfl
theorem fmulImm (f : IForm) : Statement (.fmulImm f) := plainI 12 34 f _ rfl (by decide) (by decide) rfl
theorem ffma (f : RForm) : Statement (.ffma f) := plainR 12 3 f _ rfl (by decide) (by decide) rfl
theorem ffmaImm (f : IForm) : Statement (.ffmaImm f) := plainI 12 35 f _ rfl (by decide) (by decide) rfl
theorem fmin (f : RForm) : Statement (.fmin f) := plainR 12 4 f _ rfl (by decide) (by decide) rfl
theorem fmax (f : RForm) : Statement (.fmax f) := plainR 12 5 f _ rfl (by decide) (by decide) rfl
theorem fsetp (f : RForm) : Statement (.fsetp f) := plainR 13 0 f _ rfl (by decide) (by decide) rfl
theorem fclass (f : RForm) : Statement (.fclass f) := plainR 13 1 f _ rfl (by decide) (by decide) rfl
theorem fdiv (f : RForm) : Statement (.fdiv f) := plainR 14 0 f _ rfl (by decide) (by decide) rfl
theorem fsqrt (f : RForm) : Statement (.fsqrt f) := plainR 14 1 f _ rfl (by decide) (by decide) rfl
theorem rcps (f : RForm) : Statement (.rcps f) := plainR 14 2 f _ rfl (by decide) (by decide) rfl
theorem rsqs (f : RForm) : Statement (.rsqs f) := plainR 14 3 f _ rfl (by decide) (by decide) rfl
theorem fexp2 (f : RForm) : Statement (.fexp2 f) := plainR 15 0 f _ rfl (by decide) (by decide) rfl
theorem flog2 (f : RForm) : Statement (.flog2 f) := plainR 15 1 f _ rfl (by decide) (by decide) rfl
theorem frnd (f : RForm) : Statement (.frnd f) := plainR 16 0 f _ rfl (by decide) (by decide) rfl
theorem fscale (f : RForm) : Statement (.fscale f) := plainR 16 1 f _ rfl (by decide) (by decide) rfl
theorem fexpo (f : RForm) : Statement (.fexpo f) := plainR 16 2 f _ rfl (by decide) (by decide) rfl
theorem f2i (f : RForm) : Statement (.f2i f) := plainR 17 0 f _ rfl (by decide) (by decide) rfl
theorem i2f (f : RForm) : Statement (.i2f f) := plainR 17 1 f _ rfl (by decide) (by decide) rfl
theorem fcvt (f : RForm) : Statement (.fcvt f) := plainR 17 2 f _ rfl (by decide) (by decide) rfl
theorem bra (f : BForm) : Statement (.bra f) := plainB 20 0 f _ rfl (by decide) (by decide) rfl
theorem call (f : BForm) : Statement (.call f) := plainB 20 1 f _ rfl (by decide) (by decide) rfl
theorem brx (f : RForm) : Statement (.brx f) := plainR 21 0 f _ rfl (by decide) (by decide) rfl
theorem callx (f : RForm) : Statement (.callx f) := plainR 21 1 f _ rfl (by decide) (by decide) rfl
theorem ret (f : RForm) : Statement (.ret f) := plainR 21 2 f _ rfl (by decide) (by decide) rfl
theorem exit (f : RForm) : Statement (.exit f) := plainR 22 0 f _ rfl (by decide) (by decide) rfl
theorem vote (f : RForm) : Statement (.vote f) := plainR 24 0 f _ rfl (by decide) (by decide) rfl
theorem shfl (f : RForm) : Statement (.shfl f) := plainR 24 1 f _ rfl (by decide) (by decide) rfl
theorem matchv (f : RForm) : Statement (.matchv f) := plainR 24 2 f _ rfl (by decide) (by decide) rfl
theorem gred (f : RForm) : Statement (.gred f) := plainR 25 0 f _ rfl (by decide) (by decide) rfl
theorem scan (f : RForm) : Statement (.scan f) := plainR 25 1 f _ rfl (by decide) (by decide) rfl
theorem segred (f : RForm) : Statement (.segred f) := plainR 25 2 f _ rfl (by decide) (by decide) rfl
theorem rebal (f : RForm) : Statement (.rebal f) := plainR 26 0 f _ rfl (by decide) (by decide) rfl
theorem lds (f : MForm) : Statement (.lds f) := plainM 28 0 f _ rfl (by decide) (by decide) rfl
theorem dqpush (f : RForm) : Statement (.dqpush f) := plainR 29 0 f _ rfl (by decide) (by decide) rfl
theorem dqpop (f : RForm) : Statement (.dqpop f) := plainR 29 1 f _ rfl (by decide) (by decide) rfl
theorem lnch (f : XForm) : Statement (.lnch f) := plainX 30 0 f _ rfl (by decide) (by decide) rfl
theorem fwork (f : XForm) : Statement (.fwork f) := plainX 30 1 f _ rfl (by decide) (by decide) rfl
theorem wgdone (f : XForm) : Statement (.wgdone f) := plainX 30 2 f _ rfl (by decide) (by decide) rfl
theorem atom (f : MForm) : Statement (.atom f) := plainM 32 0 f _ rfl (by decide) (by decide) rfl
theorem cas (f : MForm) : Statement (.cas f) := plainM 32 1 f _ rfl (by decide) (by decide) rfl
theorem atoma (f : MForm) : Statement (.atoma f) := plainM 33 0 f _ rfl (by decide) (by decide) rfl
theorem ticket (f : MForm) : Statement (.ticket f) := plainM 34 0 f _ rfl (by decide) (by decide) rfl
theorem fence (f : MForm) : Statement (.fence f) := plainM 35 0 f _ rfl (by decide) (by decide) rfl
theorem binit (f : MForm) : Statement (.binit f) := plainM 36 0 f _ rfl (by decide) (by decide) rfl
theorem barv (f : MForm) : Statement (.barv f) := plainM 36 1 f _ rfl (by decide) (by decide) rfl
theorem bexp (f : MForm) : Statement (.bexp f) := plainM 36 2 f _ rfl (by decide) (by decide) rfl
theorem bwait (f : MForm) : Statement (.bwait f) := plainM 36 3 f _ rfl (by decide) (by decide) rfl
theorem btest (f : MForm) : Statement (.btest f) := plainM 36 4 f _ rfl (by decide) (by decide) rfl
theorem bexit (f : MForm) : Statement (.bexit f) := plainM 36 5 f _ rfl (by decide) (by decide) rfl
theorem binval (f : MForm) : Statement (.binval f) := plainM 36 6 f _ rfl (by decide) (by decide) rfl
theorem cmake (f : RForm) : Statement (.cmake f) := plainR 37 0 f _ rfl (by decide) (by decide) rfl
theorem cjoin (f : RForm) : Statement (.cjoin f) := plainR 37 1 f _ rfl (by decide) (by decide) rfl
theorem cleave (f : RForm) : Statement (.cleave f) := plainR 37 2 f _ rfl (by decide) (by decide) rfl
theorem cfree (f : RForm) : Statement (.cfree f) := plainR 37 3 f _ rfl (by decide) (by decide) rfl
theorem cquery (f : RForm) : Statement (.cquery f) := plainR 37 4 f _ rfl (by decide) (by decide) rfl
theorem cbar (f : RForm) : Statement (.cbar f) := plainR 38 0 f _ rfl (by decide) (by decide) rfl
theorem cvote (f : RForm) : Statement (.cvote f) := plainR 38 1 f _ rfl (by decide) (by decide) rfl
theorem cred (f : RForm) : Statement (.cred f) := plainR 38 2 f _ rfl (by decide) (by decide) rfl
theorem vld (f : XForm) : Statement (.vld f) := plainX 40 0 f _ rfl (by decide) (by decide) rfl
theorem vst (f : XForm) : Statement (.vst f) := plainX 40 1 f _ rfl (by decide) (by decide) rfl
theorem vred (f : XForm) : Statement (.vred f) := plainX 40 2 f _ rfl (by decide) (by decide) rfl
theorem vprobe (f : XForm) : Statement (.vprobe f) := plainX 41 0 f _ rfl (by decide) (by decide) rfl
theorem vtouch (f : XForm) : Statement (.vtouch f) := plainX 41 1 f _ rfl (by decide) (by decide) rfl
theorem vfree (f : XForm) : Statement (.vfree f) := fun h => by
  have k := ok_of_wellFormed h rfl
  simp [xForm, volOk, xBits] at k
  rw [armX 42 0 f _ rfl (by decide) (by decide), map_42_0, xOf_packX]; simp [fld, k]
theorem vfreeAll (f : XForm) : Statement (.vfreeAll f) := fun h => by
  have k := ok_of_wellFormed h rfl
  simp [xForm, volOk] at k
  rw [armX 42 0 f _ rfl (by decide) (by decide), map_42_0, xOf_packX]; simp [fld, k]
theorem vpool (f : XForm) : Statement (.vpool f) := plainX 42 1 f _ rfl (by decide) (by decide) rfl
theorem vinv (f : XForm) : Statement (.vinv f) := plainX 42 2 f _ rfl (by decide) (by decide) rfl
theorem cpy (f : XForm) : Statement (.cpy f) := plainX 44 0 f _ rfl (by decide) (by decide) rfl
theorem cpym (f : XForm) : Statement (.cpym f) := plainX 44 1 f _ rfl (by decide) (by decide) rfl
theorem cpys (f : XForm) : Statement (.cpys f) := plainX 44 2 f _ rfl (by decide) (by decide) rfl
theorem cpyr (f : XForm) : Statement (.cpyr f) := plainX 44 3 f _ rfl (by decide) (by decide) rfl
theorem owait (f : RForm) : Statement (.owait f) := plainR 45 0 f _ rfl (by decide) (by decide) rfl
theorem ofence (f : RForm) : Statement (.ofence f) := plainR 45 1 f _ rfl (by decide) (by decide) rfl
theorem mset (f : XForm) : Statement (.mset f) := plainX 48 0 f _ rfl (by decide) (by decide) rfl
theorem mzero (f : XForm) : Statement (.mzero f) := plainX 48 1 f _ rfl (by decide) (by decide) rfl
theorem mma (f : XForm) : Statement (.mma f) := plainX 49 0 f _ rfl (by decide) (by decide) rfl
theorem mmas (f : XForm) : Statement (.mmas f) := plainX 49 1 f _ rfl (by decide) (by decide) rfl
theorem mdrain (f : XForm) : Statement (.mdrain f) := fun h => by
  have k := ok_of_wellFormed h rfl
  simp [xForm, xBits, fld] at k
  rw [armX 50 0 f _ rfl (by decide) (by decide), map_50_0, xOf_packX]; simp [fld, k]
theorem mdrainAdd (f : XForm) : Statement (.mdrainAdd f) := fun h => by
  have k := ok_of_wellFormed h rfl
  simp [xForm, xBits, fld] at k
  rw [armX 50 0 f _ rfl (by decide) (by decide), map_50_0, xOf_packX]; simp [fld, k]
theorem mdrainAddOrd (f : XForm) : Statement (.mdrainAddOrd f) := fun h => by
  have k := ok_of_wellFormed h rfl
  simp [xForm, xBits, fld] at k
  rw [armX 50 0 f _ rfl (by decide) (by decide), map_50_0, xOf_packX]; simp [fld, k]
theorem mchk (f : XForm) : Statement (.mchk f) := plainX 50 1 f _ rfl (by decide) (by decide) rfl
theorem qdual (f : XForm) : Statement (.qdual f) := plainX 51 0 f _ rfl (by decide) (by decide) rfl
theorem qscan (f : XForm) : Statement (.qscan f) := plainX 51 1 f _ rfl (by decide) (by decide) rfl
theorem cast (f : XForm) : Statement (.cast f) := plainX 54 0 f _ rfl (by decide) (by decide) rfl
theorem slotldRd (f : XForm) : Statement (.slotldRd f) := fun h => by
  have k := ok_of_wellFormed h rfl
  simp [xForm, noSlots] at k
  rw [armX 54 1 f _ rfl (by decide) (by decide), map_54_1, xOf_packX]; simp [k]
theorem slotldMark (f : XForm) : Statement (.slotldMark f) := fun h => by
  have k := ok_of_wellFormed h rfl
  simp [xForm, noSlots] at k
  rw [armX 54 1 f _ rfl (by decide) (by decide), map_54_1, xOf_packX]; simp [k]
theorem slotldHdr (f : XForm) : Statement (.slotldHdr f) := fun h => by
  have k := ok_of_wellFormed h rfl
  simp [xForm, noSlots] at k
  rw [armX 54 1 f _ rfl (by decide) (by decide), map_54_1, xOf_packX]; simp [k]
theorem frontOpen (f : XForm) : Statement (.frontOpen f) := fun h => by
  have k := ok_of_wellFormed h rfl
  simp [xForm, noSlots] at k
  rw [armX 54 2 f _ rfl (by decide) (by decide), map_54_2, xOf_packX]; simp [k]
theorem frontPass (f : XForm) : Statement (.frontPass f) := fun h => by
  have k := ok_of_wellFormed h rfl
  simp [xForm] at k
  rw [armX 54 2 f _ rfl (by decide) (by decide), map_54_2, xOf_packX]; simp [k]
theorem smerge (f : RForm) : Statement (.smerge f) := plainR 55 0 f _ rfl (by decide) (by decide) rfl
theorem rngk (f : RForm) : Statement (.rngk f) := plainR 56 0 f _ rfl (by decide) (by decide) rfl
theorem txtake (f : RForm) : Statement (.txtake f) := plainR 58 0 f _ rfl (by decide) (by decide) rfl
theorem txemit (f : RForm) : Statement (.txemit f) := plainR 58 1 f _ rfl (by decide) (by decide) rfl
theorem txclose (f : RForm) : Statement (.txclose f) := plainR 58 2 f _ rfl (by decide) (by decide) rfl
theorem txstat (f : RForm) : Statement (.txstat f) := plainR 58 3 f _ rfl (by decide) (by decide) rfl
theorem vocload (f : XForm) : Statement (.vocload f) := plainX 59 0 f _ rfl (by decide) (by decide) rfl
theorem trap (f : RForm) : Statement (.trap f) := plainR 60 0 f _ rfl (by decide) (by decide) rfl
theorem sretResume (f : RForm) : Statement (.sretResume f) := fun h => by
  have k := ok_of_wellFormed h rfl
  simp [rForm] at k
  rw [armR 60 1 f _ rfl (by decide) (by decide), map_60_1, rOf_packR]; simp [k]
theorem sretReissue (f : RForm) : Statement (.sretReissue f) := fun h => by
  have k := ok_of_wellFormed h rfl
  simp [rForm] at k
  rw [armR 60 1 f _ rfl (by decide) (by decide), map_60_1, rOf_packR]; simp [k]
theorem sretReissueNomatch (f : RForm) : Statement (.sretReissueNomatch f) := fun h => by
  have k := ok_of_wellFormed h rfl
  simp [rForm] at k
  rw [armR 60 1 f _ rfl (by decide) (by decide), map_60_1, rOf_packR]; simp [k]
theorem sretEndGrid (f : RForm) : Statement (.sretEndGrid f) := fun h => by
  have k := ok_of_wellFormed h rfl
  simp [rForm] at k
  rw [armR 60 1 f _ rfl (by decide) (by decide), map_60_1, rOf_packR]; simp [k]
theorem yield (f : RForm) : Statement (.yield f) := plainR 60 2 f _ rfl (by decide) (by decide) rfl
theorem brk (f : RForm) : Statement (.brk f) := plainR 60 3 f _ rfl (by decide) (by decide) rfl
theorem crd (f : RForm) : Statement (.crd f) := plainR 61 0 f _ rfl (by decide) (by decide) rfl
theorem cwr (f : RForm) : Statement (.cwr f) := plainR 61 1 f _ rfl (by decide) (by decide) rfl
theorem perf (f : RForm) : Statement (.perf f) := plainR 61 2 f _ rfl (by decide) (by decide) rfl
theorem sclear (f : RForm) : Statement (.sclear f) := plainR 62 0 f _ rfl (by decide) (by decide) rfl
theorem lineFetchCheck (core : Nat) (line : DWord) : Statement (.lineFetchCheck core line) := fun h => by cases h
theorem lineRefetch (core : Nat) (line : DWord) : Statement (.lineRefetch core line) := fun h => by cases h
theorem issueBundle (core : Nat) : Statement (.issueBundle core) := fun h => by cases h
theorem leadIssue (core : Nat) : Statement (.leadIssue core) := fun h => by cases h
theorem threadAged (core slot : Nat) : Statement (.threadAged core slot) := fun h => by cases h
theorem loadReturn (core op : Nat) : Statement (.loadReturn core op) := fun h => by cases h
theorem storePerformed (core op : Nat) : Statement (.storePerformed core op) := fun h => by cases h
theorem atomicAtHome (core op : Nat) : Statement (.atomicAtHome core op) := fun h => by cases h
theorem tlbMissWalk (core : Nat) (walkAhead : Bool) (va : DWord) : Statement (.tlbMissWalk core walkAhead va) := fun h => by cases h
theorem ldgaLanding (core op : Nat) : Statement (.ldgaLanding core op) := fun h => by cases h
theorem waitPhaseTimeout (a : Agent) : Statement (.waitPhaseTimeout a) := fun h => by cases h
theorem collectiveWatchdogTimeout (a : Agent) : Statement (.collectiveWatchdogTimeout a) := fun h => by cases h
theorem barrierWaitWatchdog (a : Agent) : Statement (.barrierWaitWatchdog a) := fun h => by cases h
theorem copyCommandAccept (core cmd : Nat) : Statement (.copyCommandAccept core cmd) := fun h => by cases h
theorem copyChunkLand (core cmd chunk : Nat) : Statement (.copyChunkLand core cmd chunk) := fun h => by cases h
theorem copyCommandComplete (core cmd : Nat) : Statement (.copyCommandComplete core cmd) := fun h => by cases h
theorem matrixOpStart (core op : Nat) (mismatches : Nat) : Statement (.matrixOpStart core op mismatches) := fun h => by cases h
theorem matrixOpComplete (core op : Nat) : Statement (.matrixOpComplete core op) := fun h => by cases h
theorem setWatchdogTimeout (core wg cv : Nat) : Statement (.setWatchdogTimeout core wg cv) := fun h => by cases h
theorem orderedDrainApply (core op : Nat) : Statement (.orderedDrainApply core op) := fun h => by cases h
theorem orderedDrainTimeout (core op : Nat) : Statement (.orderedDrainTimeout core op) := fun h => by cases h
theorem doorbell (part vf queue : Nat) (x : Word) : Statement (.doorbell part vf queue x) := fun h => by cases h
theorem lqReset (part vf queue : Nat) (v : Word) : Statement (.lqReset part vf queue v) := fun h => by cases h
theorem lqCancel (part vf queue : Nat) (index : Word) : Statement (.lqCancel part vf queue index) := fun h => by cases h
theorem registerWrite (r : RegName) (v : DWord) : Statement (.registerWrite r v) := fun h => by cases h
theorem launchValidate (part vf queue : Nat) : Statement (.launchValidate part vf queue) := fun h => by cases h
theorem launchStart (grid : Nat) : Statement (.launchStart grid) := fun h => by cases h
theorem teamPlace (grid team core : Nat) : Statement (.teamPlace grid team core) := fun h => by cases h
theorem seasonEnd (grid team : Nat) : Statement (.seasonEnd grid team) := fun h => by cases h
theorem preempt (grid team : Nat) : Statement (.preempt grid team) := fun h => by cases h
theorem reconvergenceTimeout (grid team : Nat) : Statement (.reconvergenceTimeout grid team) := fun h => by cases h
theorem copySuspend (grid team : Nat) : Statement (.copySuspend grid team) := fun h => by cases h
theorem teamSave (grid team : Nat) : Statement (.teamSave grid team) := fun h => by cases h
theorem teamRestore (grid team core : Nat) : Statement (.teamRestore grid team core) := fun h => by cases h
theorem wstoreRegionSave (core region : Nat) : Statement (.wstoreRegionSave core region) := fun h => by cases h
theorem coopWait (grid : Nat) : Statement (.coopWait grid) := fun h => by cases h
theorem coopResume (grid : Nat) : Statement (.coopResume grid) := fun h => by cases h
theorem fworkServe (grid : Nat) : Statement (.fworkServe grid) := fun h => by cases h
theorem gridEndTrap (report : Nat) : Statement (.gridEndTrap report) := fun h => by cases h
theorem gridComplete (grid : Nat) : Statement (.gridComplete grid) := fun h => by cases h
theorem resumableTrapPost (a : Agent) : Statement (.resumableTrapPost a) := fun h => by cases h
theorem supervisorTrap (a : Agent) : Statement (.supervisorTrap a) := fun h => by cases h
theorem uetPacket (edge : Nat) (p : Packet) : Statement (.uetPacket edge p) := fun h => by cases h
theorem requestFrame (edge : Nat) : Statement (.requestFrame edge) := fun h => by cases h
theorem cancelFrame (edge : Nat) : Statement (.cancelFrame edge) := fun h => by cases h
theorem tokenise (edge : Nat) : Statement (.tokenise edge) := fun h => by cases h
theorem replyDataFrame (edge stream : Nat) : Statement (.replyDataFrame edge stream) := fun h => by cases h
theorem vfReset (part vf : Nat) : Statement (.vfReset part vf) := fun h => by cases h
theorem tlbinvAddress (part vf : Nat) (page : BitVec 40) : Statement (.tlbinvAddress part vf page) := fun h => by cases h
theorem tlbinvVf (part vf : Nat) : Statement (.tlbinvVf part vf) := fun h => by cases h
theorem tlbinvComplete (part vf : Nat) : Statement (.tlbinvComplete part vf) := fun h => by cases h
theorem partitionForm (part : Nat) (dies : BitVec 40) : Statement (.partitionForm part dies) := fun h => by cases h
theorem firewallDrop (die k : Nat) (request : Option Nat) : Statement (.firewallDrop die k request) := fun h => by cases h
theorem chaskoPostedWrite (tray part vf : Nat) (ipa : Nat) (data : List Byte) : Statement (.chaskoPostedWrite tray part vf ipa data) := fun h => by cases h
theorem chaskoRead (tray part vf : Nat) (ipa n tag : Nat) : Statement (.chaskoRead tray part vf ipa n tag) := fun h => by cases h
theorem chaskoAtomic (tray part vf : Nat) (ipa : Nat) (op ty : BitVec 4) (b : DWord) (tag : Nat) : Statement (.chaskoAtomic tray part vf ipa op ty b tag) := fun h => by cases h
theorem chaskoFlitRetry (edge : Nat) : Statement (.chaskoFlitRetry edge) := fun h => by cases h
theorem chaskoLinkDown (edge : Nat) : Statement (.chaskoLinkDown edge) := fun h => by cases h
theorem peerAccess (m part : Nat) (offset : Nat) (target : Nat) (k : PeerKind) : Statement (.peerAccess m part offset target k) := fun h => by cases h
theorem refreshScrub  : Statement (.refreshScrub) := fun h => by cases h
theorem monitorLockstepMismatch (die : Nat) : Statement (.monitorLockstepMismatch die) := fun h => by cases h
theorem monitorReload  : Statement (.monitorReload) := fun h => by cases h
theorem servingKernelRestart  : Statement (.servingKernelRestart) := fun h => by cases h
theorem queueUnfreeze  : Statement (.queueUnfreeze) := fun h => by cases h
theorem osPanic  : Statement (.osPanic) := fun h => by cases h
theorem osRestart  : Statement (.osRestart) := fun h => by cases h
theorem thermalThrottle  : Statement (.thermalThrottle) := fun h => by cases h
theorem bringUp  : Statement (.bringUp) := fun h => by cases h
theorem getVersion (edge : Nat) : Statement (.getVersion edge) := fun h => by cases h
theorem getCapabilities (edge : Nat) : Statement (.getCapabilities edge) := fun h => by cases h
theorem negotiateAlgorithms (edge : Nat) (o : AlgOffer) : Statement (.negotiateAlgorithms edge o) := fun h => by cases h
theorem getDigests (edge : Nat) : Statement (.getDigests edge) := fun h => by cases h
theorem getCertificate (edge : Nat) : Statement (.getCertificate edge) := fun h => by cases h
theorem challenge (edge : Nat) (nonce : BitVec 256) : Statement (.challenge edge nonce) := fun h => by cases h
theorem getMeasurements (edge : Nat) (k part vf : Nat) : Statement (.getMeasurements edge k part vf) := fun h => by cases h
theorem keyExchange (edge : Nat) (kem : Kem) : Statement (.keyExchange edge kem) := fun h => by cases h
theorem finish (edge : Nat) : Statement (.finish edge) := fun h => by cases h
theorem endSession (edge : Nat) : Statement (.endSession edge) := fun h => by cases h
theorem stageTwoEntryWrite (part vf index : Nat) (hi : DWord) : Statement (.stageTwoEntryWrite part vf index hi) := fun h => by cases h
theorem closeFrameSent (edge stream : Nat) : Statement (.closeFrameSent edge stream) := fun h => by cases h

end Sys2Proof.Laws.Encoding
end

