-- ==== Sys2Proof/Tests/Slice0.lean ====
section
/-!
SUPPORT. The model's own tests: words written out from the spec's encodings, ill-formed instructions that the checks refuse, single
steps with expected values from the spec, and for every statement with hypotheses a state and operands that meet them.
-/

namespace Sys2Proof.Tests
set_option Elab.async false

open Sys2Proof.Machine Sys2Proof.Safety

/-! ### Builders -/

def ops (d a b c : Opnd) : Common := { guard := 7, retain := 0, d := d, a := a, b := b, c := c }
def rI (d a b c : Opnd) (ty : BitVec 4) (func : BitVec 17) : RForm :=
  { cm := ops d a b c, ty := ty, round := 0, sat := 0, mods := 0, pred2 := 0, func := func }
def iI (d a b c : Opnd) (ity : BitVec 2) (imm : Word) : IForm := { cm := ops d a b c, ity := ity, imm := imm }
def mI (d a b c : Opnd) (size : BitVec 4) (order scope : BitVec 3) (cache space : BitVec 2) (off : BitVec 20) : MForm :=
  { cm := ops d a b c, size := size, order := order, scope := scope, cache := cache, space := space, offset := off }
def bI (d : Opnd) (slot : BitVec 3) (off : BitVec 28) : BForm := { cm := ops d (.g 0) (.g 0) (.g 0), slot := slot, resv := 0, offset := off }
def xI (d a b c : Opnd) (fslot : BitVec 3) (rslot : BitVec 5) (cv : BitVec 4) (flags : BitVec 22) : XForm :=
  { cm := ops d a b c, fslot := fslot, rslot := rslot, cv := cv, flags := flags }
def samplesInteger : List Instr := [
  .iadd (rI (.g 20) (.g 4) (.g 8) (.g 0) 6 0),
  .iaddImm (iI (.g 20) (.g 4) (.imm 0) (.g 0) 0 100),
  .isub (rI (.g 20) (.g 4) (.g 8) (.g 0) 6 0),
  .imul (rI (.g 20) (.g 4) (.g 8) (.g 0) 6 0),
  .imulImm (iI (.g 20) (.g 4) (.imm 0) (.g 0) 0 100),
  .imulh (rI (.g 20) (.g 4) (.g 8) (.g 0) 6 0),
  .imad (rI (.g 20) (.g 4) (.g 8) (.g 12) 6 0),
  .imadw (rI (.g 20) (.g 4) (.g 8) (.g 12) 6 0),
  .idiv (rI (.g 20) (.g 4) (.g 8) (.g 0) 6 0),
  .irem (rI (.g 20) (.g 4) (.g 8) (.g 0) 6 0),
  .iabs (rI (.g 20) (.g 4) (.g 0) (.g 0) 2 0),
  .ineg (rI (.g 20) (.g 4) (.g 0) (.g 0) 6 0),
  .imin (rI (.g 20) (.g 4) (.g 8) (.g 0) 6 0),
  .iminImm (iI (.g 20) (.g 4) (.imm 0) (.g 0) 0 100),
  .imax (rI (.g 20) (.g 4) (.g 8) (.g 0) 6 0),
  .imaxImm (iI (.g 20) (.g 4) (.imm 0) (.g 0) 0 100),
  .and (rI (.g 20) (.g 4) (.g 8) (.g 0) 6 0),
  .andImm (iI (.g 20) (.g 4) (.imm 0) (.g 0) 0 100),
  .or (rI (.g 20) (.g 4) (.g 8) (.g 0) 6 0),
  .orImm (iI (.g 20) (.g 4) (.imm 0) (.g 0) 0 100),
  .xor (rI (.g 20) (.g 4) (.g 8) (.g 0) 6 0),
  .xorImm (iI (.g 20) (.g 4) (.imm 0) (.g 0) 0 100),
  .andn (rI (.g 20) (.g 4) (.g 8) (.g 0) 6 0),
  .andnImm (iI (.g 20) (.g 4) (.imm 0) (.g 0) 0 100),
  .shl (rI (.g 20) (.g 4) (.g 8) (.g 0) 6 0),
  .shlImm (iI (.g 20) (.g 4) (.imm 0) (.g 0) 0 100),
  .shr (rI (.g 20) (.g 4) (.g 8) (.g 0) 6 0),
  .shrImm (iI (.g 20) (.g 4) (.imm 0) (.g 0) 0 100),
  .sra (rI (.g 20) (.g 4) (.g 8) (.g 0) 6 0),
  .sraImm (iI (.g 20) (.g 4) (.imm 0) (.g 0) 0 100),
  .rot (rI (.g 20) (.g 4) (.g 8) (.g 0) 6 0),
  .rotImm (iI (.g 20) (.g 4) (.imm 0) (.g 0) 0 100),
  .bfx (rI (.g 20) (.g 4) (.g 8) (.g 0) 6 0),
  .bfi (rI (.g 20) (.g 4) (.g 8) (.g 12) 6 0),
  .popc (rI (.g 20) (.g 4) (.g 0) (.g 0) 6 0),
  .clz (rI (.g 20) (.g 4) (.g 0) (.g 0) 6 0),
  .brev (rI (.g 20) (.g 4) (.g 0) (.g 0) 6 0),
  .isetp (rI (.g 1) (.g 4) (.g 8) (.g 0) 6 0),
  .sel (rI (.g 20) (.g 4) (.g 8) (.g 0) 6 0),
  .plog (rI (.g 1) (.g 2) (.g 3) (.g 2) 15 0),
  .mov (rI (.g 20) (.g 4) (.g 0) (.g 0) 6 0),
  .movi (iI (.g 20) (.imm 0) (.g 0) (.g 0) 0 100),
  .movh (iI (.g 20) (.imm 0) (.g 0) (.g 0) 0 100),
  .lea (rI (.g 20) (.g 4) (.g 8) (.g 0) 6 0),
  .leaImm (iI (.g 20) (.g 4) (.imm 0) (.g 0) 0 100),
  .nop (rI (.g 0) (.g 0) (.g 0) (.g 0) 0 0),
  .sread (rI (.g 20) (.lit 1) (.g 0) (.g 0) 6 0)]

def samplesMemory : List Instr := [
  .ld (mI (.g 20) (.g 4) (.g 0) (.g 0) 6 0 0 0 0 0),
  .st (mI (.g 0) (.g 4) (.g 8) (.g 0) 6 0 0 0 0 0),
  .lda (mI (.g 20) (.g 4) (.g 0) (.g 0) 6 0 0 0 1 0),
  .sta (mI (.g 0) (.g 4) (.g 8) (.g 0) 6 0 0 0 1 0),
  .ldcs (mI (.g 20) (.g 4) (.g 0) (.g 0) 6 0 0 0 1 0),
  .stcs (mI (.g 0) (.g 4) (.g 8) (.g 0) 6 0 0 0 1 0),
  .ldx (mI (.g 20) (.s 4) (.g 8) (.g 0) 6 0 0 0 0 0),
  .stx (mI (.g 0) (.s 4) (.g 8) (.g 12) 6 0 0 0 0 0),
  .ldga (mI (.g 0) (.g 4) (.g 8) (.g 12) 6 0 0 0 1 0),
  .prefL1 (mI (.g 0) (.g 4) (.g 0) (.g 0) 15 0 0 0 0 0),
  .prefL2 (mI (.g 0) (.g 4) (.g 0) (.g 0) 15 0 0 3 0 0),
  .cctlIc (mI (.g 0) (.g 0) (.g 0) (.g 0) 0 0 0 0 0 0),
  .cctlDl (mI (.g 0) (.g 4) (.g 0) (.g 0) 1 0 0 0 0 0),
  .cctlDa (mI (.g 0) (.g 0) (.g 0) (.g 0) 2 0 0 0 0 0)]

def samplesFloat : List Instr := [
  .fadd (rI (.g 20) (.g 4) (.g 8) (.g 0) 9 0),
  .faddImm (iI (.g 20) (.g 4) (.imm 0) (.g 0) 0 100),
  .fsub (rI (.g 20) (.g 4) (.g 8) (.g 0) 9 0),
  .fmul (rI (.g 20) (.g 4) (.g 8) (.g 0) 9 0),
  .fmulImm (iI (.g 20) (.g 4) (.imm 0) (.g 0) 0 100),
  .ffma (rI (.g 20) (.g 4) (.g 8) (.g 12) 9 0),
  .ffmaImm (iI (.g 20) (.g 4) (.g 8) (.imm 0) 0 100),
  .fmin (rI (.g 20) (.g 4) (.g 8) (.g 0) 9 0),
  .fmax (rI (.g 20) (.g 4) (.g 8) (.g 0) 9 0),
  .fsetp (rI (.g 1) (.g 4) (.g 8) (.g 0) 9 0),
  .fclass (rI (.g 20) (.g 4) (.g 0) (.g 0) 9 0),
  .fdiv (rI (.g 20) (.g 4) (.g 8) (.g 0) 9 0),
  .fsqrt (rI (.g 20) (.g 4) (.g 0) (.g 0) 9 0),
  .rcps (rI (.g 20) (.g 4) (.g 0) (.g 0) 9 0),
  .rsqs (rI (.g 20) (.g 4) (.g 0) (.g 0) 9 0),
  .fexp2 (rI (.g 20) (.g 4) (.g 0) (.g 0) 9 0),
  .flog2 (rI (.g 20) (.g 4) (.g 0) (.g 0) 9 0),
  .frnd (rI (.g 20) (.g 4) (.g 0) (.g 0) 9 0),
  .fscale (rI (.g 20) (.g 4) (.g 8) (.g 0) 9 0),
  .fexpo (rI (.g 20) (.g 4) (.g 0) (.g 0) 9 0),
  .f2i (rI (.g 20) (.g 4) (.g 0) (.g 0) 9 0),
  .i2f (rI (.g 20) (.g 4) (.g 0) (.g 0) 6 9),
  .fcvt (rI (.g 20) (.g 4) (.g 0) (.g 0) 9 10),
  .fcvt (rI (.g 20) (.g 4) (.g 8) (.g 0) 9 0x1A)]

def samplesControl : List Instr := [
  .bra (bI (.g 0) 0 1),
  .call (bI (.g 20) 0 1),
  .brx (rI (.g 0) (.g 4) (.g 0) (.g 0) 15 0),
  .callx (rI (.g 20) (.g 4) (.g 0) (.g 0) 15 0),
  .ret (rI (.g 0) (.g 4) (.g 0) (.g 0) 15 0),
  .exit (rI (.g 0) (.g 0) (.g 0) (.g 0) 15 0)]

def samplesGroup : List Instr := [
  .vote (rI (.g 1) (.g 2) (.g 0) (.g 0) 15 0),
  .vote (rI (.g 20) (.g 2) (.g 0) (.g 0) 15 3),
  .shfl (rI (.g 20) (.g 4) (.g 8) (.g 0) 6 0),
  .matchv (rI (.g 20) (.g 4) (.g 0) (.g 0) 6 0),
  .gred (rI (.g 20) (.g 4) (.g 0) (.g 0) 6 0),
  .scan (rI (.g 20) (.g 4) (.g 0) (.g 0) 6 0),
  .segred (rI (.g 20) (.g 4) (.g 0) (.g 0) 6 0),
  .rebal (rI (.g 20) (.g 4) (.g 8) (.g 0) 6 0)]

def samplesLead : List Instr := [
  .lds (mI (.s 20) (.s 4) (.g 0) (.g 0) 6 0 0 0 0 0),
  .dqpush (rI (.g 0) (.s 4) (.s 8) (.g 2) 15 0),
  .dqpop (rI (.g 20) (.g 0) (.g 8) (.g 2) 15 0),
  .lnch (xI (.s 20) (.s 4) (.s 8) (.g 0) 0 0 0 0),
  .fwork (xI (.g 0) (.s 4) (.g 0) (.g 0) 0 0 0 0),
  .wgdone (xI (.g 0) (.g 0) (.g 0) (.g 0) 0 0 0 0)]

def samplesAtomic : List Instr := [
  .atom (mI (.g 20) (.g 4) (.g 8) (.g 0) 6 1 4 0 0 0),
  .cas (mI (.g 20) (.g 4) (.g 8) (.g 12) 6 1 4 0 0 0),
  .atoma (mI (.g 0) (.g 4) (.g 8) (.g 0) 6 1 4 0 0 0),
  .ticket (mI (.g 20) (.g 4) (.g 8) (.g 12) 7 1 4 0 0 0),
  .fence (mI (.g 0) (.g 0) (.g 0) (.g 0) 15 3 4 0 0 0)]

def samplesBarrier : List Instr := [
  .binit (mI (.g 0) (.g 4) (.g 8) (.g 0) 15 3 4 0 0 0),
  .barv (mI (.g 20) (.g 4) (.g 8) (.g 2) 15 3 4 0 0 0),
  .bexp (mI (.g 0) (.g 4) (.g 8) (.g 0) 15 1 4 0 0 0),
  .bwait (mI (.g 1) (.g 4) (.g 8) (.g 12) 15 2 4 0 0 0),
  .btest (mI (.g 20) (.g 4) (.g 8) (.g 2) 15 2 4 0 0 0),
  .bexit (mI (.g 0) (.g 4) (.g 0) (.g 2) 15 3 4 0 0 0),
  .binval (mI (.g 0) (.g 4) (.g 0) (.g 2) 15 3 4 0 0 0)]

def samplesCircle : List Instr := [
  .cmake (rI (.g 1) (.g 4) (.g 8) (.g 2) 15 0),
  .cjoin (rI (.g 1) (.g 4) (.g 8) (.g 2) 15 0),
  .cleave (rI (.g 1) (.g 0) (.g 0) (.g 2) 15 0),
  .cfree (rI (.g 1) (.g 0) (.g 0) (.g 2) 15 0),
  .cquery (rI (.g 20) (.g 1) (.g 0) (.g 2) 15 0),
  .cbar (rI (.g 20) (.g 1) (.g 8) (.g 2) 15 0),
  .cvote (rI (.g 1) (.g 1) (.g 0) (.g 2) 15 0),
  .cred (rI (.g 20) (.g 1) (.g 8) (.g 2) 6 0)]

def samplesVolume : List Instr := [
  .vld (xI (.g 20) (.g 4) (.g 0) (.g 0) 0 0 0 0),
  .vst (xI (.g 0) (.g 4) (.g 8) (.g 0) 0 0 0 0),
  .vred (xI (.g 0) (.g 4) (.g 8) (.g 0) 0 0 0 6),
  .vprobe (xI (.g 20) (.g 4) (.g 0) (.g 0) 0 0 0 0),
  .vtouch (xI (.g 20) (.g 4) (.g 0) (.g 0) 0 0 0 0),
  .vfree (xI (.g 0) (.g 4) (.g 0) (.g 0) 0 0 0 0),
  .vfreeAll (xI (.g 0) (.g 0) (.g 0) (.g 0) 0 0 0 0x200),
  .vpool (xI (.g 1) (.g 4) (.g 8) (.g 12) 0 0 0 0),
  .vinv (xI (.g 0) (.g 0) (.g 0) (.g 0) 0 0 0 0)]

def samplesCopy : List Instr := [
  .cpy (xI (.g 0) (.g 4) (.g 8) (.lit 0) 0 0 0 1),
  .cpym (xI (.g 0) (.g 4) (.g 8) (.lit 0) 0 0 0 2),
  .cpys (xI (.g 0) (.g 4) (.g 8) (.lit 0) 0 0 0 8),
  .cpyr (xI (.g 0) (.g 4) (.g 8) (.lit 0) 0 0 0 1),
  .owait (rI (.g 0) (.g 0) (.g 0) (.g 0) 15 0),
  .ofence (rI (.g 0) (.g 0) (.g 0) (.g 0) 15 0)]

def samplesMatrix : List Instr := [
  .mset (xI (.g 1) (.g 4) (.g 0) (.g 0) 0 0 0 0),
  .mzero (xI (.g 0) (.g 0) (.g 0) (.g 0) 0 0 0 1),
  .mma (xI (.g 0) (.s 4) (.s 8) (.g 12) 0 0 0 0),
  .mmas (xI (.g 0) (.s 4) (.s 8) (.g 12) 0 0 0 0),
  .mdrain (xI (.g 0) (.g 4) (.g 8) (.g 0) 0 0 0 9),
  .mdrainAdd (xI (.g 0) (.g 4) (.g 8) (.g 0) 0 0 0 0x89),
  .mdrainAddOrd (xI (.g 0) (.g 4) (.g 8) (.g 12) 0 0 0 0x109),
  .mchk (xI (.g 20) (.g 0) (.g 0) (.g 0) 0 0 0 0),
  .qdual (xI (.g 0) (.g 4) (.g 8) (.g 0) 0 0 0 9),
  .qscan (xI (.g 0) (.g 4) (.g 0) (.g 0) 0 0 0 0)]

def samplesGeneration : List Instr := [
  .cast (xI (.g 20) (.g 4) (.g 8) (.g 12) 0 0 0 0),
  .slotldRd (xI (.g 20) (.g 4) (.g 8) (.g 0) 0 0 0 0),
  .slotldMark (xI (.g 20) (.g 4) (.g 8) (.g 0) 0 0 0 1),
  .slotldHdr (xI (.g 20) (.g 4) (.g 0) (.g 0) 0 0 0 2),
  .frontOpen (xI (.g 20) (.g 4) (.g 0) (.g 0) 0 0 0 0),
  .frontPass (xI (.g 20) (.g 4) (.g 0) (.g 0) 0 0 0 1),
  .smerge (rI (.g 20) (.g 4) (.g 8) (.g 0) 9 0),
  .rngk (rI (.g 20) (.g 4) (.g 8) (.g 12) 9 0)]

def samplesText : List Instr := [
  .txtake (rI (.g 20) (.g 4) (.g 8) (.g 0) 15 0),
  .txemit (rI (.g 20) (.g 4) (.g 8) (.g 0) 15 0),
  .txclose (rI (.g 20) (.g 4) (.g 8) (.g 0) 15 0),
  .txstat (rI (.g 20) (.g 4) (.g 0) (.g 0) 15 0),
  .vocload (xI (.g 20) (.g 4) (.g 0) (.g 0) 0 0 0 0)]

def samplesSystem : List Instr := [
  .trap (rI (.g 20) (.g 4) (.g 8) (.g 0) 15 0),
  .sretResume (rI (.g 1) (.g 4) (.g 8) (.g 0) 15 0),
  .sretReissue (rI (.g 1) (.g 4) (.g 8) (.g 0) 15 1),
  .sretReissueNomatch (rI (.g 1) (.g 4) (.g 8) (.g 0) 15 2),
  .sretEndGrid (rI (.g 1) (.g 4) (.g 8) (.g 0) 15 3),
  .yield (rI (.g 0) (.g 0) (.g 0) (.g 0) 15 0),
  .brk (rI (.g 0) (.g 0) (.g 0) (.g 0) 15 0),
  .crd (rI (.g 20) (.g 0) (.g 0) (.g 0) 6 0),
  .cwr (rI (.g 0) (.g 4) (.g 0) (.g 0) 6 0),
  .perf (rI (.g 20) (.g 0) (.g 0) (.g 0) 6 0),
  .sclear (rI (.g 20) (.g 4) (.g 0) (.g 0) 15 0)]
/-! ### A state in which one instruction is about to run -/

def thr : Agent := { core := 0, who := .thread 0 }
def thr1 : Agent := { core := 0, who := .thread 1 }
def ld0 : Agent := { core := 0, who := .lead 0 }
def sup : Agent := { core := 0, who := .thread Config.supSlot }

/-- The lane that runs the placed instruction. -/
def laneOf (i : Instr) : Agent :=
  match placedStream (encode i) with
  | (true, _) => ld0
  | (false, .s) => sup
  | _ => thr

/-- A volume descriptor (R261): 4 tiles of 1,024 elements of 4 bytes from 0x20000, background 7. -/
def volume (shape budget : Nat) : List Byte :=
  leBytes 8 0x20000 ++ leBytes 4 8 ++ leBytes 1 shape ++ leBytes 1 budget ++ leBytes 2 1 ++ leBytes 4 4095 ++ leBytes 12 0
    ++ leBytes 8 10 ++ leBytes 8 7 ++ leBytes 16 0

/-- A tensor record (R284): 16 elements of 4 bytes from 0x30000 in tiles of 4. -/
def tensor : List Byte :=
  leBytes 8 0x30000 ++ leBytes 1 6 ++ leBytes 1 1 ++ leBytes 6 0 ++ leBytes 16 15 ++ leBytes 32 4 ++ leBytes 8 3 ++ leBytes 56 0

/-- A stage-two range of 4 MiB of its own addresses, and page tables that map the first GiB to itself (R394, R395). -/
def mapped4 (s : State) : State :=
  { s with
    stage := 8, parts := [(0, { dies := 1, formed := true })],
    vfs := [(0, { ptroot := 0x100000, ranges := [(0, 0x0000000000000003F00000000007)] })],
    phys := (s.phys.write 0x100000 (leBytes 8 0x110001)).write 0x110000 (leBytes 8 7) }

/-- The placed grid with a lease over 0x20000 to 0x3FFFF, format slot 0 `.e4m3` accumulating in `.f32`, a dense, a compact and an
append-mode volume, and a tensor record. -/
def bind (g : Grid) : Grid :=
  { g with
    launch := { g.launch with leases := [⟨0x20000, 0x20000, true⟩] },
    fmts := [(0, 0x9CC)], rules := [(0, 0)], vols := [(0, volume 0x11 0), (1, volume 0x11 4), (2, volume 0x31 0)],
    recs := [(0, tensor)] }

/-- The instruction placed for the next step, its grid bound. -/
def ready (i : Instr) : State := (mapped4 (State.reset.withFetchWord 96 (encode i).toNat)).modGrid 0 bind

/-- The same with registers of the lane written. -/
def with_ (i : Instr) (ws : List (Opnd × Nat × Nat)) : State :=
  ws.foldl (fun s w => s.putD (laneOf i) w.1 w.2.1 w.2.2) (ready i)

/-- Two threads of one group about to run a collective. -/
def pair (i : Instr) : State :=
  let s := (ready i).modCore 0 (fun k => { k with
    threads := k.threads ++ k.threads.map (fun t => (1, { t.2 with tid := 1 })) })
  { s with cur := s.cur.map (fun x => { x with agents := [thr, thr1] }) }

/-- Bytes of memory set. -/
def bytesAt (l : List (Nat × List Byte)) (s : State) : State :=
  { s with phys := l.foldl (fun m x => m.write x.1 x.2) s.phys }

def start (s : State) (i : Instr) : State := began s (laneOf i) i
def going (s : State) (i : Instr) : Bool := runs s (laneOf i) i

/-- The lane passes the checks of R71 for the instruction. -/
def passes (i : Instr) : Bool := i.wellFormed && going (ready i) i

def yields {ε α : Type} (x : Except ε α) (p : α → Bool) : Bool :=
  match x with
  | .ok v => p v
  | .error _ => false

def some_ {α : Type} (x : Option α) (p : α → Bool) : Bool :=
  match x with
  | some v => p v
  | none => false

/-- The next state of an instruction; the state itself where it stops. -/
def after (i : Instr) (s : State) : State :=
  match exec i s with
  | .next t => t
  | _ => s

/-! ### Decoding: words written field by field from R57 and the encoding tables -/

def reads (w : IWord) (i : Instr) : Bool := (decode w).toOption == some i && encode i == w

/-- `BFI.64 g2, g4, zr, g6` (R95). -/
theorem test_decode_integer : reads
    (0b000011#6 ++ 0b000001#6 ++ 0b0111#4 ++ 0b00#2 ++ 0b00000000010#11 ++ 0b00000000100#11 ++ 0b10000000000#11 ++ 0b00000000110#11
      ++ 0b0111#4 ++ 0#30)
    (.bfi (rI (.g 2) (.g 4) (.lit 0) (.g 6) 7 0)) = true := by decide +kernel

/-- `LDX.n32.rlx.dev g5, [s3 + i32 g9 << 2 - 1]`: extend in bit 16, shift in bits 19:17, displacement in bits 15:0 (R125). -/
theorem test_decode_memory : reads
    (0b001010#6 ++ 0b000000#6 ++ 0b0111#4 ++ 0b00#2 ++ 0b00000000101#11 ++ 0b01000000011#11 ++ 0b00000001001#11 ++ 0#11
      ++ 0b0110#4 ++ 0b001#3 ++ 0b100#3 ++ 0b00#2 ++ 0b00#2 ++ 0b01011111111111111111#20)
    (.ldx (mI (.g 5) (.s 3) (.g 9) (.g 0) 6 1 4 0 0 0x5FFFF)) = true := by decide +kernel

/-- `?-p2 FFMA.f64.rz.sat g0, -g2, |g4|, g6` (R64, R138). -/
theorem test_decode_float : reads
    (0b001100#6 ++ 0b000011#6 ++ 0b1010#4 ++ 0b00#2 ++ 0#11 ++ 0b00000000010#11 ++ 0b00000000100#11 ++ 0b00000000110#11
      ++ 0b1000#4 ++ 0b01#2 ++ 0b1#1 ++ 0b100100#6 ++ 0#4 ++ 0#17)
    (.ffma { cm := { guard := 10, retain := 0, d := .g 0, a := .g 2, b := .g 4, c := .g 6 }, ty := 8, round := 1, sat := 1,
             mods := 0b100100, pred2 := 0, func := 0 }) = true := by decide +kernel

/-- `CALL s7, -1 line | slot 4` (R67). -/
theorem test_decode_control : reads
    (0b010100#6 ++ 0b000001#6 ++ 0b0111#4 ++ 0b00#2 ++ 0b01000000111#11 ++ 0#11 ++ 0#11 ++ 0#11
      ++ 0b100#3 ++ 0b000#3 ++ 0xFFFFFFF#28)
    (.call (bI (.s 7) 4 0xFFFFFFF)) = true := by decide +kernel

/-- `SEGRED.inc.max.f32.rm g1, g2, -p3` (R171). -/
theorem test_decode_group : reads
    (0b011001#6 ++ 0b000010#6 ++ 0b0111#4 ++ 0b00#2 ++ 0b00000000001#11 ++ 0b00000000010#11 ++ 0#11 ++ 0#11
      ++ 0b1001#4 ++ 0b11#2 ++ 0b0#1 ++ 0#6 ++ 0b1011#4 ++ 0b00000000000001010#17)
    (.segred { cm := ops (.g 1) (.g 2) (.g 0) (.g 0), ty := 9, round := 3, sat := 0, mods := 0, pred2 := 11, func := 10 })
    = true := by decide +kernel

/-- `LNCH.q5 s1, s2, s3` (R183). -/
theorem test_decode_lead : reads
    (0b011110#6 ++ 0b000000#6 ++ 0b0111#4 ++ 0b00#2 ++ 0b01000000001#11 ++ 0b01000000010#11 ++ 0b01000000011#11 ++ 0#11
      ++ 0#12 ++ 0b0000000000000000000101#22)
    (.lnch (xI (.s 1) (.s 2) (.s 3) (.g 0) 0 0 0 5)) = true := by decide +kernel

/-- `ATOM.xor.n64.acqrel.die g2, [g4 - 8], g6`, its op in offset bits 19:16 (R221). -/
theorem test_decode_atomic : reads
    (0b100000#6 ++ 0b000000#6 ++ 0b0111#4 ++ 0b00#2 ++ 0b00000000010#11 ++ 0b00000000100#11 ++ 0b00000000110#11 ++ 0#11
      ++ 0b0111#4 ++ 0b100#3 ++ 0b010#3 ++ 0b00#2 ++ 0b00#2 ++ 0b0101#4 ++ 0xFFF8#16)
    (.atom (mI (.g 2) (.g 4) (.g 6) (.g 0) 7 4 2 0 0 0x5FFF8)) = true := by decide +kernel

/-- `BWAIT.peer.team p1, [g4 + 32], g5, zr` (R234). -/
theorem test_decode_barrier : reads
    (0b100100#6 ++ 0b000011#6 ++ 0b0111#4 ++ 0b00#2 ++ 0b00000000001#11 ++ 0b00000000100#11 ++ 0b00000000101#11 ++ 0b10000000000#11
      ++ 0b1111#4 ++ 0b010#3 ++ 0b001#3 ++ 0b00#2 ++ 0b10#2 ++ 32#20)
    (.bwait (mI (.g 1) (.g 4) (.g 5) (.lit 0) 15 2 1 0 2 32)) = true := by decide +kernel

/-- `CMAKE h3, s4, s5, p6` (R246). -/
theorem test_decode_circle : reads
    (0b100101#6 ++ 0b000000#6 ++ 0b0111#4 ++ 0b00#2 ++ 0b00000000011#11 ++ 0b01000000100#11 ++ 0b01000000101#11 ++ 0b00000000110#11
      ++ 0b1111#4 ++ 0#30)
    (.cmake (rI (.g 3) (.s 4) (.s 5) (.g 6) 15 0)) = true := by decide +kernel

/-- `VFREE.all.v9` (R271). -/
theorem test_decode_volume : reads
    (0b101010#6 ++ 0b000000#6 ++ 0b0111#4 ++ 0b00#2 ++ 0#11 ++ 0#11 ++ 0#11 ++ 0#11
      ++ 0b000#3 ++ 0b01001#5 ++ 0b0000#4 ++ 0b0000000000001000000000#22)
    (.vfreeAll (xI (.g 0) (.g 0) (.g 0) (.g 0) 0 9 0 0x200)) = true := by decide +kernel

/-- `CPY.t17.exp.bpeer` from global to the C-store, coordinates `g4`, offset `g5`, object `g6` (R287). -/
theorem test_decode_copy : reads
    (0b101100#6 ++ 0b000000#6 ++ 0b0111#4 ++ 0b00#2 ++ 0#11 ++ 0b00000000100#11 ++ 0b00000000101#11 ++ 0b00000000110#11
      ++ 0b000#3 ++ 0b10001#5 ++ 0b0000#4 ++ 0#12 ++ 0b01#2 ++ 0b0#1 ++ 0b1#1 ++ 0b000#3 ++ 0b100#3)
    (.cpy (xI (.g 0) (.g 4) (.g 5) (.g 6) 0 17 0 0x144)) = true := by decide +kernel

/-- `MMA.cv3.f2.t5.k4.r8 s2, s4, g16` (R312). -/
theorem test_decode_matrix : reads
    (0b110001#6 ++ 0b000000#6 ++ 0b0111#4 ++ 0b00#2 ++ 0#11 ++ 0b01000000010#11 ++ 0b01000000100#11 ++ 0b00000010000#11
      ++ 0b010#3 ++ 0b00000#5 ++ 0b0011#4 ++ 0#11 ++ 0b101#3 ++ 0b0111#4 ++ 0b0011#4)
    (.mma (xI (.g 0) (.s 2) (.s 4) (.g 16) 2 0 3 0x573)) = true := by decide +kernel

/-- `SMERGE.f32.rz g2, g4, g6` (R347). -/
theorem test_decode_generation : reads
    (0b110111#6 ++ 0b000000#6 ++ 0b0111#4 ++ 0b00#2 ++ 0b00000000010#11 ++ 0b00000000100#11 ++ 0b00000000110#11 ++ 0#11
      ++ 0b1001#4 ++ 0b01#2 ++ 0#28)
    (.smerge { cm := ops (.g 2) (.g 4) (.g 6) (.g 0), ty := 9, round := 1, sat := 0, mods := 0, pred2 := 0, func := 0 }) = true := by
  decide +kernel

/-- `TXCLOSE g2, g4, g5` (R360). -/
theorem test_decode_text : reads
    (0b111010#6 ++ 0b000010#6 ++ 0b0111#4 ++ 0b00#2 ++ 0b00000000010#11 ++ 0b00000000100#11 ++ 0b00000000101#11 ++ 0#11
      ++ 0b1111#4 ++ 0#30)
    (.txclose (rI (.g 2) (.g 4) (.g 5) (.g 0) 15 0)) = true := by decide +kernel

/-- `SRET.endgrid p1, g4, g6` (R379). -/
theorem test_decode_system : reads
    (0b111100#6 ++ 0b000001#6 ++ 0b0111#4 ++ 0b00#2 ++ 0b00000000001#11 ++ 0b00000000100#11 ++ 0b00000000110#11 ++ 0#11
      ++ 0b1111#4 ++ 0#28 ++ 0b11#2)
    (.sretEndGrid (rI (.g 1) (.g 4) (.g 6) (.g 0) 15 3)) = true := by decide +kernel

/-- Every sample of every family decodes to itself from its own word. -/
def roundTrips (i : Instr) : Bool := decodeTableWord 96 (encode i).toNat == some i

theorem test_samples_round_trip : (samplesInteger ++ samplesMemory ++ samplesFloat ++ samplesControl ++ samplesGroup ++ samplesLead
    ++ samplesAtomic ++ samplesBarrier ++ samplesCircle ++ samplesVolume ++ samplesCopy ++ samplesMatrix ++ samplesGeneration
    ++ samplesText ++ samplesSystem).all roundTrips = true := by decide +kernel

/-! ### Ill-formed instructions, one for each check -/

def refuses (i : Instr) : Bool := !i.wellFormed && (decode (encode i)).toOption.isNone

def add (d a b c : Opnd) : Instr := .iadd (rI d a b c 6 0)

theorem test_ill_operation : Instr.wellFormed .refreshScrub = false := by decide
theorem test_ill_guard : refuses (.iadd { rI (.g 1) (.g 2) (.g 3) (.g 0) 6 0 with cm := { ops (.g 1) (.g 2) (.g 3) (.g 0) with guard := 15 } })
    = true := by decide +kernel
theorem test_ill_retain_unused : refuses (.iadd { rI (.g 1) (.g 2) (.g 3) (.g 0) 6 0 with
    cm := { ops (.g 1) (.g 2) (.g 3) (.g 0) with retain := 3 } }) = true := by decide +kernel
theorem test_ill_retain_zr : refuses (.iadd { rI (.g 1) (.lit 0) (.g 3) (.g 0) 6 0 with
    cm := { ops (.g 1) (.lit 0) (.g 3) (.g 0) with retain := 1 } }) = true := by decide +kernel
theorem test_ill_type : refuses (.iadd (rI (.g 1) (.g 2) (.g 3) (.g 0) 9 0)) = true := by decide +kernel
theorem test_ill_round : refuses (.iadd { rI (.g 1) (.g 2) (.g 3) (.g 0) 6 0 with round := 1 }) = true := by decide +kernel
theorem test_ill_sat : refuses (.and { rI (.g 1) (.g 2) (.g 3) (.g 0) 6 0 with sat := 1 }) = true := by decide +kernel
theorem test_ill_source_modifier : refuses (.iadd { rI (.g 1) (.g 2) (.g 3) (.g 0) 6 0 with mods := 1 }) = true := by decide +kernel
theorem test_ill_second_predicate : refuses (.iadd { rI (.g 1) (.g 2) (.g 3) (.g 0) 6 0 with pred2 := 7 }) = true := by decide +kernel
theorem test_ill_function : refuses (.isetp (rI (.g 1) (.g 2) (.g 3) (.g 0) 6 6)) = true := by decide +kernel
theorem test_ill_unused_operand : refuses (add (.g 1) (.g 2) (.g 3) (.g 1)) = true := by decide +kernel
theorem test_ill_pair_odd : refuses (.iadd (rI (.g 1) (.g 2) (.g 4) (.g 0) 7 0)) = true := by decide +kernel
theorem test_ill_s_index : refuses (add (.g 1) (.s 64) (.g 3) (.g 0)) = true := by decide +kernel
theorem test_ill_special_unlisted : refuses (add (.g 1) (.lit 24) (.g 3) (.g 0)) = true := by decide +kernel
theorem test_ill_special_destination : refuses (add (.lit 1) (.g 2) (.g 3) (.g 0)) = true := by decide +kernel
theorem test_ill_immediate_in_r_form : refuses (add (.g 1) (.imm 0) (.g 3) (.g 0)) = true := by decide +kernel
theorem test_ill_predicate_number : refuses (.isetp (rI (.g 8) (.g 2) (.g 3) (.g 0) 6 0)) = true := by decide +kernel
theorem test_ill_immediate_missing : refuses (.iaddImm (iI (.g 1) (.g 2) (.g 3) (.g 0) 0 1)) = true := by decide +kernel
theorem test_ill_float_immediate_high : refuses (.faddImm (iI (.g 1) (.g 2) (.imm 0) (.g 0) 2 0x10000)) = true := by decide +kernel
theorem test_ill_order : refuses (.ld (mI (.g 1) (.g 2) (.g 0) (.g 0) 6 7 0 0 0 0)) = true := by decide +kernel
theorem test_ill_scope_of_plain : refuses (.ld (mI (.g 1) (.g 2) (.g 0) (.g 0) 6 0 1 0 0 0)) = true := by decide +kernel
theorem test_ill_space : refuses (.ld (mI (.g 1) (.g 2) (.g 0) (.g 0) 6 0 0 0 3 0)) = true := by decide +kernel
theorem test_ill_quad_order : refuses (.ld (mI (.g 4) (.g 2) (.g 0) (.g 0) 15 1 0 0 0 0)) = true := by decide +kernel
theorem test_ill_atomic_plain : refuses (.atom (mI (.g 1) (.g 2) (.g 3) (.g 0) 6 0 0 0 0 0)) = true := by decide +kernel
theorem test_ill_branch_reserved : refuses (.bra { bI (.g 0) 0 1 with resv := 1 }) = true := by decide +kernel
theorem test_ill_volume_slot : refuses (.vld (xI (.g 1) (.g 2) (.g 0) (.g 0) 0 16 0 0)) = true := by decide +kernel
theorem test_ill_engine_slot : refuses (.vinv (xI (.g 0) (.g 0) (.g 0) (.g 0) 1 0 0 0)) = true := by decide +kernel
theorem test_ill_tile_mask : refuses (.mzero (xI (.g 0) (.g 0) (.g 0) (.g 0) 0 0 0 0)) = true := by decide +kernel
theorem test_ill_scale_run : refuses (.mma (xI (.g 0) (.s 2) (.s 63) (.g 0) 0 0 0 0x020)) = true := by decide +kernel
theorem test_ill_copy_space : refuses (.cpy (xI (.g 0) (.g 4) (.g 5) (.lit 0) 0 0 0 5)) = true := by decide +kernel
theorem test_ill_circle_operand : refuses (.cmake (rI (.g 8) (.g 4) (.g 5) (.g 2) 15 0)) = true := by decide +kernel

/-! ### Witnesses: a state and operands that meet the hypotheses of a statement, clause by clause -/

theorem test_records_accepted : volAccepted (volume 0x11 0) && volAccepted (volume 0x11 4) && volAccepted (volume 0x31 0)
    && tensorAccepted tensor = true := by decide +kernel

theorem test_witness_IntegerArithmetic_IntegerImmediates_LogicAndBits_PredicatesAndMoves : samplesInteger.all passes = true := by
  decide +kernel

def leaR : RForm := rI (.g 20) (.g 4) (.g 8) (.g 0) 2 0
def leaSum (ws : List (Opnd × Nat × Nat)) : Int :=
  (start (with_ (.lea leaR) ws) (.lea leaR)).val thr true 64 (.g 4) + valOf (start (with_ (.lea leaR) ws) (.lea leaR)) thr leaR (.g 8)
def leaI : IForm := iI (.g 20) (.g 4) (.imm 0) (.g 0) 0 1
def leaSumI (ws : List (Opnd × Nat × Nat)) : Int :=
  (start (with_ (.leaImm leaI) ws) (.leaImm leaI)).val thr true 64 (.g 4) + immInt leaI

theorem test_witness_AddressFormation :
    leaSum [(.g 4, 64, 2 ^ 55 - 1)] = 2 ^ 55 - 1 ∧ leaSum [(.g 4, 64, 2 ^ 55 - 1), (.g 8, 32, 1)] = 2 ^ 55
    ∧ leaSum [(.g 4, 64, 2 ^ 64 - 2 ^ 55)] = -(2 ^ 55) ∧ leaSum [(.g 4, 64, 2 ^ 64 - 2 ^ 55), (.g 8, 32, 2 ^ 32 - 1)] = -(2 ^ 55) - 1
    ∧ leaSumI [(.g 4, 64, 2 ^ 55 - 2)] = 2 ^ 55 - 1 ∧ leaSumI [(.g 4, 64, 2 ^ 55 - 1)] = 2 ^ 55
    ∧ going (with_ (.lea leaR) [(.g 4, 64, 2 ^ 55 - 1)]) (.lea leaR) = true
    ∧ going (with_ (.leaImm leaI) [(.g 4, 64, 2 ^ 55 - 1)]) (.leaImm leaI) = true := by decide +kernel

theorem test_witness_FloatArithmetic_FloatCompareConvert : samplesFloat.all passes = true := by decide +kernel

theorem test_witness_ControlFlow : samplesControl.all passes = true := by decide +kernel

theorem test_witness_GroupExchange_GroupReductions : samplesGroup.all (fun i =>
    runsGroup (pair i) [thr, thr1] i && present (pair i) [thr, thr1] i == [thr, thr1]) = true := by decide +kernel

def popR : RForm := rI (.g 20) (.g 0) (.lit 0) (.g 2) 15 0
def popState : State := (pair (.dqpop popR)).modCore 0 (fun k => k.modWg 0 (fun w =>
  { w with pushes := 1, queue := [(0, (5, 0))] }))

theorem test_witness_QueuePop : (runsGroup popState [thr, thr1] (.dqpop popR)
    && present popState [thr, thr1] (.dqpop popR) == [thr, thr1] && (groupBegan popState [thr, thr1] (.dqpop popR)).level thr == .t
    && (groupBegan popState [thr, thr1] (.dqpop popR)).hasEntry 0 0
      ((groupBegan popState [thr, thr1] (.dqpop popR)).groupOf thr)) = true := by decide +kernel

def pushR : RForm := rI (.g 0) (.s 4) (.s 8) (.g 2) 15 0
def lnchX : XForm := xI (.s 20) (.s 4) (.s 8) (.g 0) 0 0 0 0
def fworkX : XForm := xI (.g 0) (.s 4) (.g 0) (.g 0) 0 0 0 0
def queue0 (s : State) : State := s.modQueue 0 0 (fun q => { q with base := 0x28000, log := 1, enable := true })

theorem test_witness_LeadForms :
    (let s := ready (.dqpush pushR)
     going s (.dqpush pushR) && (((start s (.dqpush pushR)).flush 0).ctx ld0).wait == .run
       && !((start s (.dqpush pushR)).flush 0).queueFull 0 ((start s (.dqpush pushR)).place ld0))
    && [false, true].all (fun frozen =>
        let s := (queue0 (ready (.lnch lnchX))).modPart 0 (fun p => { p with frozen := frozen, held := if frozen then [(0, 0, 1)] else [] })
        let b := start s (.lnch lnchX)
        let q := (b.vf (vfKey (b.partOf ld0) ((b.vfOf ld0).getD 0))).queue 0
        let end_ := (b.part (b.partOf ld0)).heldIndex ((b.vfOf ld0).getD 0) 0 q.widx
        going s (.lnch lnchX) && q.enable && !q.qerr && (end_ - q.ridx).toNat != q.size
          && (b.part (b.partOf ld0)).frozen == frozen && end_ == (if frozen then 1 else 0)
          && (frozen || (b.ringCause (b.partOf ld0) ((b.vfOf ld0).getD 0) q (q.widx + 1)).isNone))
    && (let s := with_ (.fwork fworkX) [(.s 4, 64, 65536 - 32)]
        let b := start s (.fwork fworkX)
        going s (.fwork fworkX) && (checkOwn (b.astoreOf ld0) (b.opVal ld0 (.s 4) 32 : Nat) 32).isNone
          && ((b.flush 0).ctx ld0).wait == .run && (b.flush 0).gridNo ld0 == some 0)
    && passes (.wgdone (xI (.g 0) (.g 0) (.g 0) (.g 0) 0 0 0 0)) = true := by decide +kernel

/-! The last bytes of the lease, and of the A-store. -/

def globBase : List (Opnd × Nat × Nat) := [(.g 4, 64, 0x3FFFC), (.s 4, 64, 0x3FFFC)]
def storeBase : List (Opnd × Nat × Nat) := [(.g 4, 64, 65532), (.s 4, 64, 65532)]
def ldM : MForm := mI (.g 20) (.g 4) (.g 0) (.g 0) 6 0 0 0 0 0
def ldaM : MForm := mI (.g 20) (.g 4) (.g 0) (.g 0) 6 0 0 0 1 0
def ldsM : MForm := mI (.s 20) (.s 4) (.g 0) (.g 0) 6 0 0 0 0 0
def ldxM : MForm := mI (.g 20) (.lit 0) (.g 4) (.g 0) 6 0 0 0 0 0
def stM : MForm := mI (.g 0) (.g 4) (.g 8) (.g 0) 6 0 0 0 0 0
def staM : MForm := mI (.g 0) (.g 4) (.g 8) (.g 0) 6 0 0 0 1 0
def stxM : MForm := mI (.g 0) (.lit 0) (.g 4) (.g 12) 6 0 0 0 0 0

def plainOk (i : Instr) (f : MForm) (write : Bool) (ws : List (Opnd × Nat × Nat)) : Bool :=
  let b := start (with_ i ws) i
  going (with_ i ws) i && (b.checkSpace (laneOf i) f.space.toNat (b.base (laneOf i) f.space f.cm.a + toVal true 20 f.offset.toNat)
    (sizeBytes f.size) write (f.order != 0)).isNone
def indexedOk (i : Instr) (f : MForm) (write : Bool) (ws : List (Opnd × Nat × Nat)) : Bool :=
  let b := start (with_ i ws) i
  going (with_ i ws) i && (b.checkSpace (laneOf i) f.space.toNat (b.base (laneOf i) f.space f.cm.a
    + toVal (f.offset.getLsbD 16) 32 (b.opVal (laneOf i) f.cm.b 32) * ((2 ^ fld f.offset 17 3 : Nat) : Int)
    + toVal true 16 (fld f.offset 0 16)) (sizeBytes f.size) write (f.order != 0)).isNone

theorem test_witness_Loads : plainOk (.ld ldM) ldM false globBase && plainOk (.lda ldaM) ldaM false storeBase
    && plainOk (.lds ldsM) ldsM false [(.s 4, 64, 0x3FFFC)] && indexedOk (.ldx ldxM) ldxM false globBase = true := by decide +kernel

theorem test_witness_Stores : plainOk (.st stM) stM true globBase && plainOk (.sta staM) staM true storeBase
    && indexedOk (.stx stxM) stxM true globBase = true := by decide +kernel

def ldcsM : MForm := mI (.g 20) (.g 4) (.g 0) (.g 0) 6 0 0 0 1 0
def stcsM : MForm := mI (.g 0) (.g 4) (.g 8) (.g 0) 6 0 0 0 1 0
def ldgaM : MForm := mI (.g 0) (.g 4) (.g 8) (.g 12) 6 0 0 0 1 0
def ldgaWs : List (Opnd × Nat × Nat) := [(.g 4, 64, 0x3FFFC), (.g 8, 32, 16), (.g 12, 32, 0)]

theorem test_witness_StoreSpaceForms :
    (let s := with_ (.ldcs ldcsM) [(.g 4, 32, Config.cstoreBytes - 4)]
     going s (.ldcs ldcsM) && (checkCstore ((start s (.ldcs ldcsM)).ea thr ldcsM (off20 ldcsM)) 4).isNone)
    && (let s := with_ (.stcs stcsM) [(.g 4, 32, Config.cstoreBytes - 4)]
        going s (.stcs stcsM) && (checkCstore ((start s (.stcs stcsM)).ea thr stcsM (off20 stcsM)) 4).isNone)
    && (let s := with_ (.ldga ldgaM) ldgaWs
        let b := start s (.ldga ldgaM)
        let da := b.opVal thr (.g 8) 32
        let ba := b.opVal thr (.g 12) 32
        going s (.ldga ldgaM) && (b.checkGlobal thr ((b.opVal thr (.g 4) 64 : Nat) + off20 ldgaM) 4 false true).isNone
          && (b.checkSpace thr 1 da 4 true false).isNone && (b.checkSpace thr 1 ba 16 true false).isNone
          && !(decide (da < ba + 16) && decide (ba < da + 4)) && b.placeOf thr 1 da == .store 0 0 16 && b.placeOf thr 1 ba == .store 0 0 0)
    = true := by decide +kernel

/-- One past the lease, and one past the A-store. -/
def trapsWith (i : Instr) (f : MForm) (write : Bool) (ws : List (Opnd × Nat × Nat)) : Option Trap :=
  let b := start (with_ i ws) i
  if going (with_ i ws) i then b.checkSpace (laneOf i) f.space.toNat (b.ea (laneOf i) f (off20 f)) (sizeBytes f.size) write (f.order != 0)
  else none

/-- Of an indexed form, of an atomic, and of the three ranges of an `LDGA`. -/
def trapsIx (i : Instr) (f : MForm) (write : Bool) (ws : List (Opnd × Nat × Nat)) : Option Trap :=
  let b := start (with_ i ws) i
  if going (with_ i ws) i then b.checkSpace (laneOf i) f.space.toNat (b.eaIndexed (laneOf i) f) (sizeBytes f.size) write (f.order != 0)
  else none
def trapsAtom (i : Instr) (f : MForm) (n : Nat) : Option Trap :=
  let s := with_ i [(.g 4, 64, 0x20002)]
  let b := start s i
  if going s i then b.checkSpace thr f.space.toNat (b.ea thr f (off16 f)) n true true else none
def ldgaChecks (ga da ba : Nat) : List (Option Trap) :=
  let i := Instr.ldga (mI (.g 0) (.g 4) (.g 8) (.g 12) 6 0 0 0 1 0)
  let s := with_ i [(.g 4, 64, ga), (.g 8, 32, da), (.g 12, 32, ba)]
  let b := start s i
  if going s i then [b.checkGlobal thr (b.opVal thr (.g 4) 64) 4 false true, b.checkSpace thr 1 (b.opVal thr (.g 8) 32) 4 true false,
    b.checkSpace thr 1 (b.opVal thr (.g 12) 32) 16 true false] else []
def trapsCs (i : Instr) (f : MForm) : Option Trap :=
  let s := with_ i [(.g 4, 32, Config.cstoreBytes)]
  if going s i then checkCstore ((start s i).ea thr f (off20 f)) 4 else none
def dlTrap (ga : Nat) : Option Trap :=
  let f := mI (.g 0) (.g 4) (.g 0) (.g 0) 1 0 0 0 0 0
  let s := with_ (.cctlDl f) [(.g 4, 64, ga)]
  if going s (.cctlDl f) then (start s (.cctlDl f)).checkGlobal thr ((start s (.cctlDl f)).ea thr f (off20 f)) 1 false false else none

theorem test_witness_AccessTraps_other :
    trapsIx (.ldx ldxM) ldxM false [(.g 4, 64, 0x3FFFD)] = some ⟨.lease, 0x3FFFD⟩
    ∧ trapsIx (.stx stxM) stxM true [(.g 4, 64, 0x40000)] = some ⟨.lease, 0x40000⟩
    ∧ trapsCs (.ldcs ldcsM) ldcsM = some ⟨.storeBound, 0⟩ ∧ trapsCs (.stcs stcsM) stcsM = some ⟨.storeBound, 0⟩
    ∧ trapsAtom (.atom (mI (.g 20) (.g 4) (.g 8) (.g 0) 6 1 4 0 0 0)) (mI (.g 20) (.g 4) (.g 8) (.g 0) 6 1 4 0 0 0) 4 = some ⟨.align, 0x20002⟩
    ∧ trapsAtom (.atoma (mI (.g 0) (.g 4) (.g 8) (.g 0) 6 1 4 0 0 0)) (mI (.g 0) (.g 4) (.g 8) (.g 0) 6 1 4 0 0 0) 4 = some ⟨.align, 0x20002⟩
    ∧ trapsAtom (.cas (mI (.g 20) (.g 4) (.g 8) (.g 12) 6 1 4 0 0 0)) (mI (.g 20) (.g 4) (.g 8) (.g 12) 6 1 4 0 0 0) 4 = some ⟨.align, 0x20002⟩
    ∧ trapsAtom (.ticket (mI (.g 20) (.g 4) (.g 8) (.g 12) 7 1 4 0 0 0)) (mI (.g 20) (.g 4) (.g 8) (.g 12) 7 1 4 0 0 0) 8 = some ⟨.align, 0x20002⟩
    ∧ ldgaChecks 0x3FFFE 16 0 = [some ⟨.align, 0x3FFFE⟩, none, none]
    ∧ ldgaChecks 0x3FFFC 65536 0 = [none, some ⟨.storeBound, 0⟩, none]
    ∧ ldgaChecks 0x3FFFC 16 65528 = [none, none, some ⟨.align, 0⟩]
    ∧ ldgaChecks 0x3FFFC 12 0 = [none, none, none]
    ∧ dlTrap (2 ^ 55) = some ⟨.noncanon, 2 ^ 55⟩ ∧ dlTrap 0x40000 = some ⟨.lease, 0x40000⟩ := by decide +kernel

theorem test_witness_AccessTraps :
    trapsWith (.ld ldM) ldM false [(.g 4, 64, 0x3FFFD)] = some ⟨.lease, 0x3FFFD⟩
    ∧ trapsWith (.lda ldaM) ldaM false [(.g 4, 32, 65536)] = some ⟨.storeBound, 0⟩
    ∧ trapsWith (.lds ldsM) ldsM false [(.s 4, 64, 2 ^ 55)] = some ⟨.noncanon, 2 ^ 55⟩
    ∧ trapsWith (.st stM) stM true [(.g 4, 64, 0x3FFFD)] = some ⟨.lease, 0x3FFFD⟩
    ∧ trapsWith (.sta staM) staM true [(.g 4, 32, 2)] = some ⟨.align, 0⟩ := by decide +kernel

def dlM : MForm := mI (.g 0) (.g 4) (.g 0) (.g 0) 1 0 0 0 0 0
def pref1M : MForm := mI (.g 0) (.g 4) (.g 0) (.g 0) 15 0 0 0 0 0
def pref2M : MForm := mI (.g 0) (.g 4) (.g 0) (.g 0) 15 0 0 3 0 0
/-- A cache form, and what of the last byte of the lease it reaches. -/
def cacheCases : List (Instr × MForm × Nat) := [(.prefL1 pref1M, pref1M, 0x3FF80), (.prefL2 pref2M, pref2M, 0x3FF80), (.cctlDl dlM, dlM, 0x3FFFF)]
/-- A cache form fails at an address. -/
def fails (b : State) (va : Nat) (c : TrapCode) : Bool := match b.cacheAddr thr va with
  | .error t => t.code == c
  | .ok _ => false

theorem test_witness_CacheForms : [Instr.prefL1 (mI (.g 0) (.g 4) (.g 0) (.g 0) 15 0 0 0 0 0),
      .prefL2 (mI (.g 0) (.g 4) (.g 0) (.g 0) 15 0 0 3 0 0), .cctlIc (mI (.g 0) (.g 0) (.g 0) (.g 0) 0 0 0 0 0 0),
      .cctlDa (mI (.g 0) (.g 0) (.g 0) (.g 0) 2 0 0 0 0 0)].all passes
    && cacheCases.all (fun x =>
        let at_ (n : Nat) : State := start (with_ x.1 [(.g 4, 64, n)]) x.1
        let check (b : State) : Option Trap := b.checkGlobal thr (b.ea thr x.2.1 (off20 x.2.1)) 1 false false
        let b := at_ 0x3FFFF
        going (with_ x.1 [(.g 4, 64, 0x3FFFF)]) x.1 && (check (at_ 0x40000)).isSome && (check b).isNone && b.viaOf thr != .phys
          && yields (b.cacheAddr thr x.2.2) (· == x.2.2)
          && fails (({ b with vfs := [(0, { (b.vf 0) with ranges := [] })] } : State).modCore 0 (fun k => { k with tlb := [] })) x.2.2 .perm
          && fails (({ b with poison := [0x110007] } : State).modCore 0 (fun k => { k with tlb := [] })) x.2.2 .eccUe) = true := by decide +kernel

def atomM : MForm := mI (.g 20) (.g 4) (.g 8) (.g 0) 6 1 4 0 0 0
def casM : MForm := mI (.g 20) (.g 4) (.g 8) (.g 12) 6 1 4 0 0 0
def atomaM : MForm := mI (.g 0) (.g 4) (.g 8) (.g 0) 6 1 4 0 0 0
def ticketM : MForm := mI (.g 20) (.g 4) (.g 8) (.g 12) 7 1 4 0 0 0
def atomOk (i : Instr) (f : MForm) (n : Nat) : Bool :=
  let s := with_ i [(.g 4, 64, 0x40000 - n)]
  let b := start s i
  going s i && (b.checkSpace thr 0 (b.ea thr f (off16 f)) n true true).isNone

theorem test_witness_AtomicsAndFences : atomOk (.atom atomM) atomM 4 && atomOk (.cas casM) casM 4 && atomOk (.atoma atomaM) atomaM 4
    && atomOk (.ticket ticketM) ticketM 8 && passes (.fence (mI (.g 0) (.g 0) (.g 0) (.g 0) 15 3 4 0 0 0))
    && passes (.fence (mI (.g 0) (.g 0) (.g 0) (.g 0) 15 2 1 0 0 0)) = true := by decide +kernel

/-- The access of an instruction is pending and may be performed. -/
def pendingBy (i : Instr) (ws : List (Opnd × Nat × Nat)) (p : Pending → Bool) : Bool :=
  some_ ((after i (with_ i ws)).readyOp 0 0) p

theorem test_witness_PerformedAccesses :
    (let s := after (.ld ldM) (with_ (.ld ldM) globBase)
     pendingBy (.ld ldM) globBase (fun p => p.isLoad && p.agent.core == 0 && (s.core 0).loadSet p == [p]
       && ((s.core 0).loadSet p).all (s.core 0).opReady && decide (p.rest.length ≤ 1)))
    && pendingBy (.st stM) globBase (fun p => p.isStore && decide (p.rest.length ≤ 1))
    && (let s := after (.ldga ldgaM) (with_ (.ldga ldgaM) ldgaWs)
        pendingBy (.ldga ldgaM) ldgaWs (fun p => p.isLdga && ((s.core 0).loadSet p).all (s.core 0).opReady))
    && pendingBy (.slotldHdr (xI (.g 20) (.g 4) (.g 0) (.g 0) 0 0 0 2)) [(.g 4, 64, 0x20000)] (·.isStep)
    && pendingBy (.txstat (rI (.g 20) (.g 4) (.g 0) (.g 0) 15 0)) [(.g 4, 32, 0)] (·.isText)
    && (let t := after (.bexp (mI (.g 0) (.g 4) (.g 8) (.g 0) 15 1 4 0 0 0)) (with_ (.bexp (mI (.g 0) (.g 4) (.g 8) (.g 0) 15 1 4 0 0 0))
          [(.g 4, 64, 0x20040)])
        some_ (t.readyOp 0 0) (fun p => p.sameObject p && (t.core 0).pend.contains p))
    && pendingBy (.atom atomM) globBase (fun p => p.isAtomic
      && (((after (.atom atomM) (with_ (.atom atomM) globBase)).core 0).atomicSet p).all
        ((after (.atom atomM) (with_ (.atom atomM) globBase)).core 0).opReady) = true := by decide +kernel

def noTlb (s : State) : State := s.modCore 0 (fun k => { k with tlb := [] })
def cpyX : XForm := xI (.g 0) (.g 4) (.g 8) (.lit 0) 0 0 0 1
def copyState : State := (after (.cpy cpyX) (ready (.cpy cpyX))).modCore 0 (fun k =>
  { k with copies := k.copies.map (fun c => { c with accepted := true }) })

theorem test_witness_TableWalks :
    some_ ((noTlb (after (.ld ldM) (with_ (.ld ldM) globBase))).missOp 0 0x3FFFF) (fun q => q.via == .vf 0 0)
    && some_ (copyState.missCopy 0 0x3000F) (fun c => c.via == .vf 0 0) = true := by decide +kernel

/-! Barrier objects, in global memory at 0x20040. -/

def barM (d b c : Opnd) (order : BitVec 3) : MForm := mI d (.g 4) b c 15 order 4 0 0 0
def binitI : Instr := .binit (barM (.g 0) (.g 8) (.g 0) 3)
def barvI : Instr := .barv (barM (.g 20) (.g 8) (.g 2) 3)
def bexpI : Instr := .bexp (barM (.g 0) (.g 8) (.g 0) 1)
def bwaitI : Instr := .bwait (barM (.g 1) (.g 8) (.g 12) 2)
def btestI : Instr := .btest (barM (.g 20) (.g 8) (.g 2) 2)
def bexitI : Instr := .bexit (barM (.g 0) (.g 0) (.g 2) 3)
def binvalI : Instr := .binval (barM (.g 0) (.g 0) (.g 2) 3)
def barForms : List (Instr × MForm) := [(binitI, barM (.g 0) (.g 8) (.g 0) 3), (barvI, barM (.g 20) (.g 8) (.g 2) 3),
  (bexpI, barM (.g 0) (.g 8) (.g 0) 1), (bwaitI, barM (.g 1) (.g 8) (.g 12) 2), (btestI, barM (.g 20) (.g 8) (.g 2) 2),
  (bexitI, barM (.g 0) (.g 0) (.g 2) 3), (binvalI, barM (.g 0) (.g 0) (.g 2) 3)]

/-- The form about to run, its operand B, the object of 2 expected arrivals of which 1 is pending. -/
def barState (i : Instr) (b : Nat) : State :=
  bytesAt [(0x20040, { Obj.fresh 2 with pend := 1 }.bytes)] (with_ i [(.g 4, 64, 0x20040), (.g 8, 32, b)])
def named (s : State) (i : Instr) (f : MForm) : Bool := going s i && yields ((start s i).barObject thr f) (· == .glob 0x20040)

theorem test_witness_BarrierObjects :
    (let o : Obj := { Obj.fresh 2 with bexp := 8, bland := 8 }
     decide (o.pend < 3) && decide (2 ≤ o.pend) && (o.arrive 2).2.1 && !(o.arrive 1).2.1 && !(o.expect 1).2
       && decide (0xFFFFFFFF < o.bexp + 0xFFFFFFF8) && decide (0 < o.pend ∧ o.bland + 0xFFFFFFF7 ≤ 0xFFFFFFFF))
    && (let o : Obj := { Obj.fresh 4095 with pend := 0, bexp := 0xFFFFFFFF, bland := 0xFFFFFFFE, waiters := 65535, rsv := 65535 }
        decide (o.pend = 0 ∧ o.bland + 1 = o.bexp ∧ o.bexp < o.bland + 2)
          && decide (o.expa < 4096 ∧ o.pend < 4096 ∧ o.bexp < 2 ^ 32 ∧ o.bland < 2 ^ 32 ∧ o.waiters < 2 ^ 16 ∧ o.rsv < 2 ^ 16))
    = true := by decide

/-- The form has issued in `s` and may act: it is pending on the object, alone, and counts in `c`; what holds where it acts. -/
def barPends (i : Instr) (s : State) (c : Ctr) (p : State → Obj → Bool) : Bool :=
  let t := after i s
  some_ (t.readyOp 0 0) (fun q => q.agent.core == 0 && (t.core 0).atomicSet q == [q] && q.ctr == c
    && (match q.kind with
      | .bar _ r _ _ => r == .glob 0x20040
      | _ => false)
    && (let u := t.spoilObj 0 (.glob 0x20040) q.undef
        p u (u.objRead (.glob 0x20040))))
def hurtObj (s : State) : State := { s with poison := [0x2004F] }
/-- A second thread of the core waits on the object. -/
def withWaiter (s : State) : State := s.modCore 0 (fun k => { k with threads := k.threads ++ k.threads.map (fun t =>
  (1, { t.2 with tid := 1, ctx := { t.2.ctx with wait := .barrier (.glob 0x20040) 0 none 1 4 } })) })
/-- Where a `BWAIT` acts. -/
def waitHome (s : State) : State :=
  let b := start s bwaitI
  let f := barM (.g 1) (.g 8) (.g 12) 2
  ((b.flush 0).barEvent 0 (b.viaOf thr) (.glob 0x20040)).spoilObj 0 (.glob 0x20040)
    ((b.ctx thr).marked (b.spot thr f.space (b.ea thr f (off20 f))) 16)
def sound (t : State) (o : Obj) : Bool := !t.objHurt (.glob 0x20040) && o.consistent

theorem test_witness_BarrierForms :
    barForms.all (fun x => named (barState x.1 1) x.1 x.2)
    && [1, 4095].all (fun n => named (barState binitI n) binitI (barM (.g 0) (.g 8) (.g 0) 3)
        && (start (barState binitI n) binitI).opVal thr (.g 8) 32 == n)
    && [15, 16].all (fun n =>
        let u := waitHome (barState bwaitI n)
        (u.ctx thr).wait == .run && sound u (u.objRead (.glob 0x20040))
          && ((u.objRead (.glob 0x20040)).phase == BitVec.ofNat 4 ((start (barState bwaitI n) bwaitI).opVal thr (.g 8) 32)) == (n == 16))
    = true := by decide +kernel

theorem test_witness_BarrierForms_act :
    barPends binitI (barState binitI 1) .st (fun t o => !t.objHurt (.glob 0x20040) && o.valid && t.waitersOn (.glob 0x20040) == 0)
    && barPends binitI (bytesAt [(0x20040, List.replicate 16 0)] (withWaiter (barState binitI 1))) .st (fun t o =>
        !t.objHurt (.glob 0x20040) && !o.valid)
    && barPends barvI (barState barvI 4095) .ld sound && barPends bexpI (barState bexpI 8) .st sound
    && barPends btestI (barState btestI 15) .ld (fun t o => !t.objHurt (.glob 0x20040) && o.valid && o.phase != 15)
    && barPends btestI (barState btestI 0) .ld (fun t o => !t.objHurt (.glob 0x20040) && o.phase == 0)
    && barPends bexitI (barState bexitI 0) .ld (fun t o => sound t o && o.expa != 1 && o.pend != 0)
    && barPends bexitI (bytesAt [(0x20040, (Obj.fresh 1).bytes)] (barState bexitI 0)) .ld (fun t o => sound t o && o.expa == 1)
    && barPends binvalI (barState binvalI 0) .ld (fun t o => sound t o && t.waitersOn (.glob 0x20040) == 0)
    && barPends binvalI (withWaiter (barState binvalI 0)) .ld (fun t o => sound t o && t.waitersOn (.glob 0x20040) == 1)
    = true := by decide +kernel

def badForms : List (Instr × Ctr) := [(barvI, .ld), (bexpI, .st), (bexitI, .ld), (binvalI, .ld)]

theorem test_witness_BarrierTraps :
    barForms.all (fun x => let s := with_ x.1 [(.g 4, 64, 0x20048)]
      going s x.1 && (match (start s x.1).barObject thr x.2 with
        | .error t => t == ⟨.align, 0x20048⟩
        | .ok _ => false) && ((start s x.1).checkSpace thr x.2.space.toNat ((start s x.1).ea thr x.2 (off20 x.2)) 16 true true).isSome)
    && barForms.all (fun x => let s := noTlb ({ barState x.1 1 with poison := [0x110007] } : State)
      let b := start s x.1
      let ea := b.ea thr x.2 (off20 x.2)
      going s x.1 && (b.checkSpace thr x.2.space.toNat ea 16 true true).isNone && b.spot thr x.2.space ea == .glob 0x20040
        && (b.globObj 0 (b.viaOf thr) 0x20040).isNone && b.missCode (some 0) (b.core 0).tlb (b.viaOf thr) 0x20040 true == .eccUe)
    && (let f : MForm := { barM (.g 20) (.g 8) (.g 2) 3 with space := 1, scope := 0 }
        let s := with_ (.barv f) [(.g 4, 32, 65536 - 8)]
        let b := start s (.barv f)
        going s (.barv f) && (b.barObject thr f).toOption.isNone && (match b.spot thr f.space (b.ea thr f (off20 f)) with
          | .glob _ => false
          | _ => true))
    && [0, 4096].all (fun n => named (barState binitI n) binitI (barM (.g 0) (.g 8) (.g 0) 3)
      && (start (barState binitI n) binitI).opVal thr (.g 8) 32 == n)
    && [hurtObj (barState bwaitI 0), bytesAt [(0x20040, { Obj.fresh 1 with pend := 2 }.bytes)] (barState bwaitI 0)].all (fun s =>
        let u := waitHome s
        named s bwaitI (barM (.g 1) (.g 8) (.g 12) 2) && (u.ctx thr).wait == .run
          && u.objHurt (.glob 0x20040) == (u.objRead (.glob 0x20040)).consistent) = true := by decide +kernel

theorem test_witness_BarrierTraps_act :
    barPends btestI (hurtObj (barState btestI 0)) .ld (fun t _ => t.objHurt (.glob 0x20040))
    && badForms.all (fun x => barPends x.1 (bytesAt [(0x20040, { Obj.fresh 1 with pend := 2 }.bytes)] (barState x.1 0)) x.2 (fun t o =>
      !t.objHurt (.glob 0x20040) && !o.consistent))
    && barPends binitI (withWaiter (barState binitI 1)) .st (fun t o =>
      !t.objHurt (.glob 0x20040) && o.valid && t.waitersOn (.glob 0x20040) == 1) = true := by decide +kernel

/-- A thread that waits since clock 0, at a clock. -/
def waiting (a : Agent) (w : Wait) (clock : Nat) : State :=
  ({ ready (.nop (rI (.g 0) (.g 0) (.g 0) (.g 0) 0 0)) with clock := clock, cur := none } : State).modCtx a (fun c => { c with wait := w })

def circle1 : Machine.Circle := { gen := 1, key := 9, vf := some 0, home := 0, members := [⟨.thread 0 0 0, 0, true, false, false⟩] }
def inCircle (s : State) : State := s.modPart 0 (fun p => { p with circles := [(0, circle1)] })

theorem test_witness_WaitsRunOut :
    (let s := waiting thr (.barrier (.glob 0x20040) 0 (some 5) 1 4) 5
     (s.ctx thr).wait == .barrier (.glob 0x20040) 0 (some 5) 1 4 && !s.objHurt (.glob 0x20040) && (hurtObj s).objHurt (.glob 0x20040))
    && (((waiting thr (.push 1 (some 5) 1) 5).ctx thr).wait == .push 1 (some 5) 1)
    && (((waiting thr (.pop true (.g 20) (some 5) 1) 5).ctx thr).wait == .pop true (.g 20) (some 5) 1)
    && (let s := inCircle (waiting thr (.circle (circle1.handle 0) 0 (some 5) (.g 20) 1) 5)
        (s.ctx thr).wait == .circle (circle1.handle 0) 0 (some 5) (.g 20) 1 && (s.circleOf thr (circle1.handle 0)) == some circle1)
    && (let s := waiting thr (.circle (circle1.handle 0) 0 (some 5) (.g 20) 1) 5
        (s.ctx thr).wait == .circle (circle1.handle 0) 0 (some 5) (.g 20) 1 && (s.circleOf thr (circle1.handle 0)).isNone)
    && (let s := (waiting thr .run 0x04000000).modCore 0 (fun k => { k with threads := k.threads.flatMap (fun t =>
          [(t.1, { t.2 with heldFrom := some 0 }), (t.1 + 1, { t.2 with tid := 1, ctx := { t.2.ctx with pc := 5 } })]) })
        (s.thread? thr).isSome && ((s.thread? thr).bind (·.heldFrom)) == some 0 && (s.ctx thr).wait == .run
          && decide ((s.core 0).cwdog.toNat ≠ 0 ∧ 0 + (s.core 0).cwdog.toNat ≤ s.clock) && !s.reconverged thr)
    && (let s := (waiting thr (.barrier (.glob 0x20040) 0 none 1 4) 7).modCore 0 (fun k => { k with bwdog := 7 })
        (s.ctx thr).wait.unbounded && decide ((s.core 0).bwdog.toNat ≠ 0 ∧ (s.ctx thr).waitFrom + (s.core 0).bwdog.toNat ≤ s.clock))
    = true := by decide +kernel

/-! Circles: key 9 at index 0, the placed thread its member. -/

def circR (d a b : Opnd) (ty : BitVec 4) (fn : BitVec 17) : RForm := rI d a b (.g 2) ty fn
def cmakeI : Instr := .cmake (circR (.g 1) (.g 4) (.g 8) 15 0)
def cjoinI : Instr := .cjoin (circR (.g 1) (.g 4) (.g 8) 15 0)
def cleaveI : Instr := .cleave (circR (.g 1) (.g 0) (.g 0) 15 0)
def cfreeI : Instr := .cfree (circR (.g 1) (.g 0) (.g 0) 15 0)
def cqueryI : Instr := .cquery (circR (.g 20) (.g 1) (.g 0) 15 0)
def hnd : Word := circle1.handle 0
/-- A form with the handle in `h1`, A and B in `g4` and `g8`. -/
def circState (i : Instr) (a b : Nat) : State := (inCircle (with_ i [(.g 4, 32, a), (.g 8, 32, b)])).writeH thr 1 hnd
def other (s : State) : State := s.modPart 0 (fun p =>
  { p with circles := [(0, { circle1 with members := [⟨.lead 0 0, 1, true, false, false⟩] })] })

theorem test_witness_CircleForms :
    (let s := circState cmakeI 9 65535
     let b := start s cmakeI
     going s cmakeI && b.opVal thr (.g 4) 32 == 9 && (b.part (b.partOf thr)).byKey (b.circleVf thr) 9 == some (0, circle1)
       && b.circleReach thr circle1)
    && (let s := circState cmakeI 10 65535
        let b := start s cmakeI
        going s cmakeI && ((b.part (b.partOf thr)).byKey (b.circleVf thr) 10).isNone && (b.part (b.partOf thr)).freeIndex == some 1
          && b.opVal thr (.g 8) 32 == 65535 && decide ((b.part (b.partOf thr)).belongs (b.idOf thr) < Config.circlesPerAgent))
    && (let s := other (circState cjoinI hnd.toNat 65535)
        let b := start s cjoinI
        going s cjoinI && !b.foreignCircle thr hnd && some_ (b.circleOf thr hnd) (fun c => b.circleReach thr c
          && !(c.members.any (fun m => m.rank == 65535)) && (c.member (b.idOf thr)).isNone && decide (c.members.length < Config.circleMembers))
          && decide ((b.part (b.partOf thr)).belongs (b.idOf thr) < Config.circlesPerAgent))
    && (let s := other (circState cleaveI 0 0)
        let b := start s cleaveI
        going s cleaveI && some_ (b.circleOf thr (b.readH thr 1)) (fun c => b.circleReach thr c && (c.member (b.idOf thr)).isNone))
    && [cleaveI, cfreeI, cqueryI].all (fun i =>
        let s := circState i 0 0
        let b := start s i
        going s i && !b.foreignCircle thr (b.readH thr 1) && b.circleOf thr (b.readH thr 1) == some circle1
          && b.circleReach thr circle1 && circle1.members == [⟨b.idOf thr, 0, true, false, false⟩])
    && [Instr.cbar (circR (.g 20) (.g 1) (.g 8) 15 0), .cvote (circR (.g 1) (.g 1) (.g 0) 15 0),
        .cred (circR (.g 20) (.g 1) (.g 8) 6 0)].all (fun i =>
        let s := circState i 0 0
        let b := start s i
        going s i && some_ (b.circleOf thr (b.readH thr 1)) (fun c => b.circleReach thr c && some_ (c.member (b.idOf thr)) (fun m => c.slotFor m != .held))
          && ((b.flush 0).ctx thr).wait == .run)
    = true := by decide +kernel

/-- The circle's home is a die behind closed ends. -/
def farCircle (s : State) : State := s.modPart 0 (fun p => { p with circles := [(0, { circle1 with home := 39 })] })

theorem test_witness_CircleForms_far :
    [cmakeI, cjoinI, cleaveI, cfreeI, cqueryI, Instr.cbar (circR (.g 20) (.g 1) (.g 8) 15 0), .cvote (circR (.g 1) (.g 1) (.g 0) 15 0),
      .cred (circR (.g 20) (.g 1) (.g 8) 6 0)].all (fun i =>
        let s := farCircle (circState i (if i == cmakeI then 9 else hnd.toNat) 65535)
        let b := start s i
        going s i && !b.foreignCircle thr hnd && b.readH thr 1 == hnd
          && (b.part (b.partOf thr)).byKey (b.circleVf thr) 9 == some (0, { circle1 with home := 39 })
          && b.circleOf thr hnd == some { circle1 with home := 39 } && !b.circleReach thr { circle1 with home := 39 }) = true := by
  decide +kernel

/-! Volumes: a leaf of tile 0 at 0x21000. -/

def volX (d a b c : Opnd) (flags : BitVec 22) (slot : BitVec 5) : XForm := xI d a b c 0 slot 0 flags
def vldX : BitVec 5 → XForm := volX (.g 20) (.g 4) (.g 0) (.g 0) 0
def vstX : BitVec 5 → XForm := volX (.g 0) (.g 4) (.g 8) (.g 0) 0
def vredX : BitVec 5 → XForm := volX (.g 0) (.g 4) (.g 8) (.g 0) 6
def leafEntry (kind : Nat) : Nat × List Byte := (0x20200, leBytes 8 (0x21000 + kind))
/-- The last element of tile 0, or the last coordinate in extent. -/
def volState (i : Instr) (c : Nat) (l : List (Nat × List Byte)) : State := bytesAt l (with_ i [(.g 4, 32, c), (.g 8, 32, 5)])
def cached (s : State) : State := s.modCore 0 (fun k => { k with clb := [⟨0, 0, 0, 0x21000⟩] })

/-- Coordinates in extent; the leaf is in the look-aside buffer, and the access passes its checks. -/
def volHeld (i : Instr) (f : XForm) (write : Bool) (k : PendKind) (n : Ctr) : Bool :=
  let s := cached (volState i 1023 [leafEntry 1])
  let b := start s i
  let d := b.volDesc thr f
  let c := b.volCoords thr f d
  going s i && (d.check c write).isNone && !d.append && ((b.core 0).clbFind (b.volName thr f) (d.tileOf c)) == some 0x21000
    && yields ((b.volCached thr (b.volName thr f) (d.tileOf c) 0x21000).volDense thr d 0x21000 (d.elemOf c) write write 1 4 k n)
      (fun _ => true)

/-- A walk from a miss, and what it finds. -/
def volWalked (i : Instr) (f : XForm) (c : Nat) (l : List (Nat × List Byte)) (p : State → VolDesc → Walked → Bool) : Bool :=
  let s := volState i c l
  let b := start s i
  let d := b.volDesc thr f
  let cs := b.volCoords thr f d
  going s i && (d.check cs false).isNone && ((b.core 0).clbFind (b.volName thr f) (d.tileOf cs)).isNone
    && yields ((b.volMiss thr).volFind thr d (d.tileOf cs)) (fun w => p (b.volMiss thr) d w)

/-- The same for a form that asks at the tree's home (R276, R278). -/
def volAsked (i : Instr) (f : XForm) (c : Nat) (l : List (Nat × List Byte)) (p : State → VolDesc → Walked → Bool) : Bool :=
  let s := volState i c l
  let b := start s i
  let d := b.volDesc thr f
  let cs := b.volCoords thr f d
  going s i && (d.check cs false).isNone && yields ((b.volAsk thr).volFind thr d (d.tileOf cs)) (fun w => p (b.volAsk thr) d w)

/-- The access of a write passes at a dense leaf. -/
def denseAt (x : XForm) (k : PendKind) (o : Bool) (ord sc : BitVec 3) (t : State) (d : VolDesc) : Bool :=
  yields ((t.volCached thr (t.volName thr x) 0 0x21000).volDense thr d 0x21000 1023 true o ord sc k .st) (fun _ => true)
/-- The walk of a write to an absent tile allocates it, dense, or compact, with element 1,023 then read and written. -/
def allocates (x : XForm) (compact : Bool) (k : PendKind) (o : Bool) (ord sc : BitVec 3) (t : State) (d : VolDesc) (w : Walked) : Bool :=
  w.entry == .absent && yields (t.volAllocate thr d 0 w) (fun r =>
    match r with
    | .ok t w2 => w2.entry == .leaf 0x21000 compact && (if compact then yields (t.volGet thr d 0x21000 1023) (· == 7)
        && yields (t.volPut thr d w2 0x21000 1023 5) (fun _ => true) else denseAt x k o ord sc t d)
    | .full _ => false)
def storedElem : PendKind := .store (leBytes 4 5)
def reducedElem : PendKind := .atom (.lit 0) 0 6 5

theorem test_witness_VolumeElements_written :
    volWalked (.vst (vstX 0)) (vstX 0) 1023 [leafEntry 1] (fun t d w => w.entry == .leaf 0x21000 false && denseAt (vstX 0) storedElem false 0 0 t d)
    && volWalked (.vred (vredX 0)) (vredX 0) 1023 [leafEntry 1] (fun t d w =>
        w.entry == .leaf 0x21000 false && denseAt (vredX 0) reducedElem true 1 4 t d)
    && volWalked (.vst (vstX 0)) (vstX 0) 1023 [] (allocates (vstX 0) false storedElem false 0 0)
    && volWalked (.vred (vredX 0)) (vredX 0) 1023 [] (allocates (vredX 0) false reducedElem true 1 4)
    && volWalked (.vst (vstX 1)) (vstX 1) 1023 [] (allocates (vstX 1) true storedElem false 0 0)
    && volWalked (.vred (vredX 1)) (vredX 1) 1023 [] (allocates (vredX 1) true reducedElem true 1 4) = true := by decide +kernel

theorem test_witness_VolumeElements :
    volHeld (.vld (vldX 0)) (vldX 0) false (.load (.g 20) false) .ld
    && volHeld (.vst (vstX 0)) (vstX 0) true (.store (leBytes 4 5)) .st
    && volHeld (.vred (vredX 0)) (vredX 0) true (.atom (.lit 0) 0 6 5) .st
    && volWalked (.vld (vldX 0)) (vldX 0) 1023 [leafEntry 1] (fun _ _ w => w.entry == .leaf 0x21000 false)
    && volWalked (.vld (vldX 1)) (vldX 1) 1023 [leafEntry 3] (fun t d w =>
        w.entry == .leaf 0x21000 true && yields (t.volGet thr d 0x21000 1023) (· == 7))
    && volWalked (.vld (vldX 0)) (vldX 0) 4095 [] (fun _ _ w => w.entry == .absent)
    && [(Instr.vst (vstX 1), vstX 1), (.vred (vredX 1), vredX 1)].all (fun x => volWalked x.1 x.2 1023 [leafEntry 3] (fun t d w =>
        w.entry == .leaf 0x21000 true && yields (t.volGet thr d 0x21000 1023) (· == 7)
          && yields (t.volPut thr d w 0x21000 1023 5) (fun _ => true)))
    && (let s := volState (.vst (vstX 2)) 4095 [(0x20010, leBytes 4 1)]
        let b := start s (.vst (vstX 2))
        let d := b.volDesc thr (vstX 2)
        going s (.vst (vstX 2)) && (d.check (b.volCoords thr (vstX 2) d) true).isNone && d.append
          && yields ((b.volAsk thr).volAppend thr d) (fun r => decide (32 * (r.2.2.1 - r.2.2.2 + 1) ≤ 4096 * r.2.1)
            && yields ((b.volAsk thr).volWrites thr [(r.1 + 32 * (r.2.2.1 - r.2.2.2), List.replicate 32 0), (d.pool + 0x30, leBytes 8 (r.2.2.1 + 1))])
              (fun _ => true))) = true := by decide +kernel

def vprobeX : BitVec 5 → XForm := volX (.g 20) (.g 4) (.g 0) (.g 0) 0
def vfreeX : BitVec 5 → XForm := volX (.g 0) (.g 4) (.g 0) (.g 0) 0
def vallX : BitVec 5 → XForm := volX (.g 0) (.g 0) (.g 0) (.g 0) 0x200
def volForms (k : BitVec 5) : List (Instr × XForm) := [(.vld (vldX k), vldX k), (.vred (vredX k), vredX k),
  (.vprobe (vprobeX k), vprobeX k), (.vtouch (vprobeX k), vprobeX k), (.vfree (vfreeX k), vfreeX k)]

/-- Coordinate 4,096, one past the extent, is met. -/
def outOfExtent (x : Instr × XForm) : Bool :=
  let s := volState x.1 4096 []
  let d := (start s x.1).volDesc thr x.2
  going s x.1 && !d.append && (((start s x.1).volCoords thr x.2 d).zip d.ext).any (fun p => decide (p.2 ≤ p.1))
def appends (x : Instr × XForm) : Bool := let s := volState x.1 0 []; going s x.1 && ((start s x.1).volDesc thr x.2).append

theorem test_witness_VolumeTraps : (volForms 0).all outOfExtent && outOfExtent (.vst (vstX 0), vstX 0) && (volForms 2).all appends
    && appends (.vfreeAll (vallX 2), vallX 2) = true := by decide +kernel

/-- What `VFREE` of a present tile meets, and `VFREE.all`. -/
def frees (s : State) (d : VolDesc) (entries : List (Nat × List Byte)) (leaves : List Nat) (tile : Option Nat) (f : XForm) (hi : Nat) :
    Bool :=
  yields (s.volWrites thr entries) (fun s1 => yields ((s1.volShoot thr f tile).volPool thr d) (fun p =>
    yields ((s1.volShoot thr f tile).pushBlocks thr leaves p.free) (fun r => yields (r.1.volWrites thr [(d.pool, leBytes 8 r.2),
      (d.pool + 0x24, leBytes 4 (p.tilesLive + hi))]) (fun _ => true))))

def vpoolX : XForm := xI (.g 1) (.g 4) (.g 8) (.g 12) 0 0 0 0
def poolOk (region n next : Nat) (full : Bool) : Bool :=
  let i := Instr.vpool vpoolX
  let s := bytesAt [(0x20008, leBytes 8 region ++ leBytes 4 1 ++ leBytes 4 next)] (with_ i [(.g 4, 64, 0x20000), (.g 8, 64, 0x3F000), (.g 12, 32, n)])
  let b := start s i
  going s i && (b.poolRights thr 0x20000 0x3F000 n).isNone
    && b.opVal thr (.g 12) 32 == n && yields ((b.volAsk thr).volRead thr 0x20000 0x40) (fun r =>
      (leAt r 8 8 == 0 || decide (leAt r 0x14 4 < leAt r 0x10 4) || n == 0) != full
        && (!full || yields ((b.volAsk thr).volWrites thr [(0x20008, leBytes 8 0x3F000 ++ leBytes 4 n ++ leBytes 4 0),
          (0x20038, leBytes 8 (leAt r 0x30 8))]) (fun _ => true)))

theorem test_witness_VolumeManagement :
    [(leafEntry 1, false), (leafEntry 3, true)].all (fun x =>
      volAsked (.vprobe (vprobeX 0)) (vprobeX 0) 0 [x.1] (fun _ _ w => w.entry == .leaf 0x21000 x.2)
      && volWalked (.vtouch (vprobeX 0)) (vprobeX 0) 0 [x.1] (fun _ _ w => w.entry == .leaf 0x21000 x.2))
    && volAsked (.vprobe (vprobeX 0)) (vprobeX 0) 0 [] (fun _ _ w => w.entry == .absent)
    && [(0, false), (1, true)].all (fun (x : BitVec 5 × Bool) =>
      volWalked (.vtouch (vprobeX x.1)) (vprobeX x.1) 0 [] (fun t d w => w.entry == .absent && yields (t.volAllocate thr d 0 w) (fun r =>
        match r with
        | .ok _ w2 => w2.entry == .leaf 0x21000 x.2
        | .full _ => false)))
    && volAsked (.vfree (vfreeX 0)) (vfreeX 0) 0 [] (fun _ _ w => w.entry == .absent)
    && volAsked (.vfree (vfreeX 0)) (vfreeX 0) 0 [leafEntry 1] (fun t d w => w.entry == .leaf 0x21000 false
        && frees t d [(w.at_, leBytes 8 0)] [0x21000] (some 0) (vfreeX 0) (2 ^ 32 - 1))
    && (let s := volState (.vfreeAll (vallX 0)) 0 [leafEntry 1]
        let b := (start s (.vfreeAll (vallX 0))).volAsk thr
        let d := b.volDesc thr (vallX 0)
        going s (.vfreeAll (vallX 0)) && !d.append && yields (b.volTree thr d 8 0 d.root) (· == ([0x21000], []))
          && frees b d [(d.root, List.replicate 512 0), (d.pool + 0x18, leBytes 8 0), (d.pool + 0x20, leBytes 4 0),
            (d.pool + 0x2C, leBytes 4 0)] [0x21000] none (vallX 0) (2 ^ 32 - 1))
    && passes (.vinv (volX (.g 0) (.g 0) (.g 0) (.g 0) 0 0))
    && poolOk 0x21000 1 0 false && poolOk 0x21000 0 1 false && poolOk 0 1 1 false && poolOk 0x21000 1 1 true = true := by decide +kernel

/-! Copies: a tile of 16 bytes into the A-store, the object at 0. -/

def cpymX : XForm := xI (.g 0) (.g 4) (.g 8) (.lit 0) 0 0 0 2
def cpysX : XForm := xI (.g 0) (.g 4) (.g 8) (.lit 0) 0 0 0 8
def cpyrX : XForm := xI (.g 0) (.g 4) (.g 8) (.lit 0) 0 0 0 1
def expX : XForm := xI (.g 0) (.g 4) (.g 8) (.g 12) 0 0 0 0x41
/-- The copy forms, each with an operand B that passes its checks at the end of the A-store, and one that does not. -/
def copyForms : List (Nat × Instr × XForm × List (Opnd × Nat × Nat) × List (Opnd × Nat × Nat)) :=
  [(0, .cpy cpyX, cpyX, [(.g 8, 32, 65520)], [(.g 8, 32, 65536)]), (1, .cpym cpymX, cpymX, [(.g 8, 32, 0x10FFF)], [(.g 8, 32, 0x20000)]),
   (2, .cpys cpysX, cpysX, [(.g 8, 32, 65520)], [(.g 8, 32, 65528)]),
   (3, .cpyr cpyrX, cpyrX, [(.g 4, 128, 0x30000), (.g 8, 32, 65536)], [(.g 4, 128, 0x30001), (.g 8, 32, 16)])]
def owaitR (func : BitVec 17) : RForm := rI (.g 0) (.g 0) (.g 0) (.g 0) 15 func

/-- The engine's queue is full. -/
def fullCopies (s : State) : State := s.modCore 0 (fun k =>
  { k with copies := List.replicate Config.copyQueue { s.copyCmd 0 cpyX thr with accepted := false } })

theorem test_witness_CopyForms :
    copyForms.all (fun x =>
      let b := start (with_ x.2.1 x.2.2.2.1) x.2.1
      let s := fullCopies (with_ x.2.1 x.2.2.2.1)
      going (with_ x.2.1 x.2.2.2.1) x.2.1 && !(b.core 0).copiesFull && (b.copyCheck x.1 x.2.2.1 thr (b.copyCmd x.1 x.2.2.1 thr)).isNone
        && !copyExp x.2.2.1 && going s x.2.1 && ((start s x.2.1).core 0).copiesFull)
    && copyForms.all (fun x =>
      let b := start (with_ x.2.1 x.2.2.2.2) x.2.1
      going (with_ x.2.1 x.2.2.2.2) x.2.1 && !(b.core 0).copiesFull && (b.copyCheck x.1 x.2.2.1 thr (b.copyCmd x.1 x.2.2.1 thr)).isSome)
    && (let s := (with_ (.cpy expX) [(.g 8, 32, 65520)]).storeWrite 0 0 0 (Obj.fresh 1).bytes
        let b := start s (.cpy expX)
        let c := b.copyCmd 0 expX thr
        going s (.cpy expX) && !(b.core 0).copiesFull && copyExp expX && (b.copyCheck 0 expX thr c).isNone
          && (b.copyCount c 0 false (c.credits (List.range c.n))).2.isNone)
    && (let s := (ready (.owait (owaitR 0xFF0F))).modCtx thr (fun c => { c with cp := 0 })
        going s (.owait (owaitR 0xFF0F)) && ((start s (.owait (owaitR 0xFF0F))).ctx thr).owaitMet 0xFF0F)
    && (let s := (ready (.owait (owaitR 0xFF0F))).modCtx thr (fun c => { c with cp := 1 })
        going s (.owait (owaitR 0xFF0F)) && !((start s (.owait (owaitR 0xFF0F))).ctx thr).owaitMet 0xFF0F)
    && passes (.ofence (rI (.g 0) (.g 0) (.g 0) (.g 0) 15 0)) = true := by decide +kernel

theorem test_witness_CopyEngine :
    (let s := after (.cpy cpyX) (ready (.cpy cpyX))
     some_ ((s.core 0).copies.find? (fun x => !x.accepted)) (fun c => c.id == 0)
       && decide (((s.core 0).copies.filter (·.accepted)).length < Config.copyQueue))
    && some_ ((copyState.core 0).copiesAtWork.find? (fun x => x.id == 0)) (fun c =>
        c.chunks == 1 && !c.landed.contains 0 && !c.waitsRegion (copyState.core 0) (c.chunk 0))
    && (let s := copyState.modCore 0 (fun k => { k with copies := k.copies.map (fun c => { c with landed := [0] }) })
        some_ ((s.core 0).copiesAtWork.find? (fun x => x.id == 0)) (fun c => c.landed.length == c.chunks)) = true := by decide +kernel

/-! The matrix array. -/

def msetX : XForm := xI (.g 1) (.g 4) (.g 0) (.g 0) 0 0 0 0
def mzeroX : XForm := xI (.g 0) (.g 0) (.g 0) (.g 0) 0 0 0 1
def drainX (flags : BitVec 22) (c : Opnd) : XForm := xI (.g 0) (.g 4) (.g 8) c 0 0 0 flags
def qdualX : XForm := xI (.g 0) (.g 4) (.g 8) (.g 0) 0 0 0 9
def qscanX : XForm := xI (.g 0) (.g 4) (.g 0) (.g 0) 0 0 0 0
def mchkX : XForm := xI (.g 20) (.g 0) (.g 0) (.g 0) 0 0 0 0
def mxOp (i : Instr) (n : Nat) (s : State) : State := s.modCore 0 (fun k => { k with
  mxOps := (List.range n).map (fun j => { id := j, agent := .thread 0 0 0, wg := 0, via := .vf 0 0, grid := 0, pc := 0, kind := .mzero 1 }),
  cstore := if i == .mzero mzeroX then k.cstore else k.cstore })
/-- Room in the sequencer, or none. -/
def seqAt (i : Instr) (ws : List (Opnd × Nat × Nat)) (n : Nat) : Bool × Bool :=
  let b := start (mxOp i n (with_ i ws)) i
  (going (mxOp i n (with_ i ws)) i && (b.wg? thr).isSome, b.seqFull thr)
def seqOk (i : Instr) (ws : List (Opnd × Nat × Nat)) : Bool :=
  seqAt i ws (Config.seqOps - 1) == (true, false) && seqAt i ws Config.seqOps == (true, true)
def drainWs : List (Opnd × Nat × Nat) := [(.g 4, 64, 0x20000), (.g 8, 64, 512), (.g 12, 64, 0x3FFF8)]
def drainOk (i : Instr) (f : XForm) (mode : Nat) : Bool :=
  let b := start (with_ i drainWs) i
  seqOk i drainWs && (b.drainCheck thr f mode (b.opVal thr (.g 4) 64) (b.opVal thr (.g 8) 64 % 2 ^ 32)
    (if mode = 2 then b.opVal thr (.g 12) 64 else 0)).isNone
def fmt0 : BitVec 64 := 0x9CC

theorem test_witness_MatrixForms :
    [(4089, true), (4090, false)].all (fun x =>
      let s := with_ (.mset msetX) [(.g 4, 32, x.1)]
      let b := start s (.mset msetX)
      going s (.mset msetX) && ((((b.wg? thr).bind (fun w => lookupN w.cvs 0)).getD {}).signed == 0
        && decide (b.opVal thr (.g 4) 32 ≤ 4089)) == x.2)
    && seqOk (.mzero mzeroX) []
    && drainOk (.mdrain (drainX 9 (.g 0))) (drainX 9 (.g 0)) 0 && drainOk (.mdrainAdd (drainX 0x89 (.g 0))) (drainX 0x89 (.g 0)) 1
    && drainOk (.mdrainAddOrd (drainX 0x109 (.g 12))) (drainX 0x109 (.g 12)) 2
    && seqOk (.qdual qdualX) [] && (let b := start (with_ (.qdual qdualX) [(.g 4, 32, 0), (.g 8, 32, 65536 - qdualWrite fmt0)]) (.qdual qdualX)
        (b.quantCheck thr [(b.opVal thr (.g 4) 32, qdualRead qdualX), (b.opVal thr (.g 8) 32, qdualWrite fmt0)]).isNone
          && ((b.gridOf thr).map (·.fmtOf qdualX)) == some fmt0)
    && seqOk (.qscan qscanX) [] && (let b := start (with_ (.qscan qscanX) [(.g 4, 32, 65536 - qscanWrite fmt0)]) (.qscan qscanX)
        (b.quantCheck thr [(b.opVal thr (.g 4) 32, qscanWrite fmt0)]).isNone)
    && passes (.mchk mchkX) && ((start (ready (.mchk mchkX)) (.mchk mchkX)).core 0).mxOps == []
    && (let s := mxOp (.mchk mchkX) 1 (ready (.mchk mchkX))
        going s (.mchk mchkX) && ((start s (.mchk mchkX)).core 0).mxOps.any (fun o => o.wg == 0)) = true := by decide +kernel

def mmaX : XForm := xI (.g 0) (.s 4) (.s 8) (.g 12) 0 0 0 0
def snap0 (a : DWord) : Snapshot :=
  { form := sigForm mmaX, sparse := false, aVal := a, bScales := [], pc := 0x10000, since := 0, op := 0 }
def mmaState (r : ConvReg) : State :=
  (ready (.mma mmaX)).modCore 0 (fun k => k.modWg 0 (fun w => { w with cvs := [(0, r)] }))
def mmaMeets (r : ConvReg) (p : State → ConvReg → Bool) : Bool :=
  let t := start (mmaState r) (.mma mmaX)
  going (mmaState r) (.mma mmaX) && (t.gridOf thr).isSome && some_ (t.wg? thr) (fun w => p t ((lookupN w.cvs 0).getD {}))

theorem test_witness_SignatureSets :
    mmaMeets {} (fun _ r => r.count == 0)
    && mmaMeets { count := 2, signed := 1, snap := some (snap0 16) } (fun t r => r.count != 0
        && some_ r.snap (fun sn => sn.aVal != BitVec.ofNat 64 (t.opVal thr (.s 4) 64)))
    && mmaMeets { count := 2 } (fun t r => r.count == 2 && r.snap.isNone && r.signed + 1 != r.count
        && (mmaCheck fmt0 false mmaX (BitVec.ofNat 64 (t.opVal thr (.s 4) 64)) (t.astoreOf thr)).isNone)
    && mmaMeets { count := 1 } (fun t r => r.signed + 1 == r.count && r.snap.isNone && !t.seqFull thr && !fmtScale fmt0)
    && mmaMeets { count := 2, signed := 1, snap := some (snap0 0) } (fun t r => r.signed + 1 == r.count && !t.seqFull thr
        && some_ r.snap (fun sn => sn.form == sigForm mmaX && !sn.sparse && sn.aVal == BitVec.ofNat 64 (t.opVal thr (.s 4) 64)))
    = true := by decide +kernel

def rows64 : List Place := (List.range 64).map (fun i => .store 0 0 (512 * i))
def ordered (st : MxState) : MxOp :=
  { id := 3, agent := .thread 0 0 0, wg := 0, via := .vf 0 0, grid := 0, pc := 0x10000, state := st,
    kind := .drain 2 (drainX 0x109 (.g 12)) rows64 5 0x3FFF8 }
def mxState (o : MxOp) (word : Nat) (clock : Nat) : State :=
  { bytesAt [(0x3FFF8, leBytes 8 word)] ((ready (.mzero mzeroX)).modCore 0 (fun k => { k with mxOps := [o] })) with clock := clock }

theorem test_witness_MatrixSequencer :
    (let s := mxState (ordered .waiting) 5 0
     some_ ((s.core 0).findMx 3) (fun o => s.mayStart 0 o))
    && some_ (((mxState (ordered .running) 5 0).core 0).findMx 3) (fun o => o.state == .running)
    && (let s := mxState (ordered (.atWord 0)) 5 0
        some_ ((s.core 0).findMx 3) (fun o => o.state == .atWord 0 && yields (s.orderWord 0 o 0x3FFF8) (· == 5)
          && yields (s.applyOrdered 0 o (s.mxFmt o (drainX 0x109 (.g 12))) (drainX 0x109 (.g 12)) rows64 5 0x3FFF8)
            (fun _ => true)))
    && (let s := mxState (ordered (.atWord 0)) 4 0x04000000
        some_ ((s.core 0).findMx 3) (fun o => o.state == .atWord 0 && decide ((s.core 0).cwdog.toNat ≠ 0
          ∧ 0 + (s.core 0).cwdog.toNat ≤ s.clock + o.waited) && yields (s.orderWord 0 o 0x3FFF8) (· == 4)
          && (({ s with poison := [0x3FFF8] } : State).orderWord 0 o 0x3FFF8).toOption.isNone))
    && [(AgentId.thread 0 0 0, some thr), (.thread 9 0 0, none)].all (fun x =>
        let s : State := { mmaState { count := 2, signed := 1, snap := some (snap0 0), signers := [(x.1, .g 12)] } with
          clock := 0x04000000 }
        some_ ((s.core 0).wg 0) (fun w => some_ (lookupN w.cvs 0) (fun r => r.snap == some (snap0 0)
          && r.signers.head?.bind (fun y => (s.modCore 0 (fun k => k.modWg 0 (fun w =>
            { w with cvs := putN w.cvs 0 { count := 2 } }))).locate y.1) == x.2))
          && decide ((s.core 0).cwdog.toNat ≠ 0 ∧ (snap0 0).since + (s.core 0).cwdog.toNat ≤ s.clock)) = true := by decide +kernel

/-! Blocks: two slots at 0x20000, of VF 0. -/

def blockWord0 : Nat := 2 ^ 63 + 2 * 2 ^ 16
def blkState (i : Instr) (k : Nat) (slots : List Nat) : State :=
  bytesAt ((0x20008, leBytes 8 blockWord0) :: slots.zipIdx.map (fun x => (0x20040 + 8 * x.2, leBytes 8 x.1)))
    (with_ i [(.g 4, 64, 0x20000), (.g 8, 32, k), (.g 12, 64, 0x3C0000000005)])
def castX : XForm := xI (.g 20) (.g 4) (.g 8) (.g 12) 0 0 0 0
def rdX : XForm := xI (.g 20) (.g 4) (.g 8) (.g 0) 0 0 0 0
def markX : XForm := xI (.g 20) (.g 4) (.g 8) (.g 0) 0 0 0 1
def hdrX : XForm := xI (.g 20) (.g 4) (.g 0) (.g 0) 0 0 0 2
def openX : XForm := xI (.g 20) (.g 4) (.g 0) (.g 0) 0 0 0 0
def passX : XForm := xI (.g 20) (.g 4) (.g 0) (.g 0) 0 0 0 1

def stepForms : List (Instr × Option Nat × Bool) := [(.cast castX, some 1, true), (.slotldRd rdX, some 1, false), (.slotldMark markX, some 1, true),
  (.slotldHdr hdrX, none, false), (.frontOpen openX, none, true), (.frontPass passX, none, true)]

theorem test_witness_GenerationSteps : stepForms.all (fun x =>
    let s := blkState x.1 1 [0, 0]
    let b := start s x.1
    let at_ (n : Nat) : State := start (with_ x.1 [(.g 4, 64, n), (.g 8, 32, 1)]) x.1
    going s x.1 && (b.stepCheck thr 0x20000 x.2.1 x.2.2).isNone && (b.xlate 0 (b.viaOf thr) 0x20000 false).isSome
      && 0x20008 % 64 != 0 && ((at_ 0x40000).checkGlobal thr 0x40000 64 x.2.2 false).isSome
      && ((at_ 0x3FFC0).checkGlobal thr 0x3FFC0 64 x.2.2 false).isNone
      && ((at_ 0x3FFC0).checkGlobal thr (0x3FFC0 + 64 + 8 * 1 : Nat) 8 x.2.2 false).isSome) = true := by decide +kernel

/-- A step on the block is pending and may be performed. -/
def stepHome (i : Instr) (k : Nat) (word : Nat) (slots : List Nat) (p : State → Pending → StepOp → Block → Bool) : Bool :=
  let t := after i (bytesAt [(0x20008, leBytes 8 word)] (blkState i k slots))
  some_ (t.readyOp 0 0) (fun q => q.agent == thr && yields (t.blockRead q.home q.place.addr) (fun b => match q.kind with
    | .step o _ _ => p t q o b
    | _ => false))
def found (t : State) (q : Pending) (b : Block) (slot : Option Nat) : Bool :=
  yields (t.blockFollow q.home b slot) (fun _ => true) && (b.void || b.epoch == t.blockEpoch q.home b)
def voidWord : Nat := blockWord0 + 2 ^ 62
def wholeOk (t : State) (q : Pending) (b : Block) : Bool := yields (t.blockCheck q.home 0x20000 (64 + 8 * b.n) true) (fun _ => true)

theorem test_witness_GenerationSteps_cast :
    [blockWord0, voidWord].all (fun w => stepHome (.cast castX) 1 w [0, 0] (fun t q o b => match o with
      | .cast k tok c rule => found t q b (some k) && b.void == (w == voidWord) && yields (t.blockWord q.home (b.slotAt k)) (fun v =>
          let r := castSlot rule b.pass (Slot8.ofWord v) tok c
          r.2 && yields (t.putWord q.home (b.slotAt k) r.1.word) (fun s2 => yields (s2.refront q.home b (setFld b.word 40 11 1))
            (fun w => yields (s2.putWord q.home (b.at_ + 8) w) (fun _ => true))))
      | _ => false))
    && stepHome (.cast castX) 5 blockWord0 [0, 0] (fun t q o _ => (t.stepOn q.home 0x20000 o).toOption.isNone) = true := by decide +kernel

theorem test_witness_GenerationSteps_slot :
    [(Instr.slotldRd rdX, false, 0), (.slotldMark markX, true, 1), (.slotldMark markX, true, 2)].all (fun x =>
      stepHome x.1 1 blockWord0 [0, x.2.2] (fun t q o b => o == .slot x.2.1 1 && found t q b (some 1) && !b.void
        && yields (t.blockWord q.home (b.slotAt 1)) (fun v => (Slot8.ofWord v).state == x.2.2
          && yields (t.putWord q.home (b.slotAt 1) { Slot8.ofWord v with cached := true }.word) (fun _ => true))))
    && stepHome (.slotldHdr hdrX) 0 blockWord0 [0, 0] (fun t q o b => o == .header && found t q b none) = true := by decide +kernel

theorem test_witness_GenerationSteps_front :
    stepHome (.frontOpen openX) 0 blockWord0 [0, 0] (fun t q o b => o == .opening && wholeOk t q b && decide (1 ≤ b.n ∧ b.n ≤ 1024)
        && b.reservedOk && q.via.vf? == some b.vf && yields (t.blockWrite q.home 0x20040 (List.replicate (8 * b.n) 0)) (fun s1 =>
          yields (s1.blockWrite q.home 0x20010 (leBytes 2 (t.blockEpoch q.home b))) (fun s2 =>
            yields (s2.putWord q.home 0x20008 (setFld (setFld (setFld 0 63 1 1) 52 6 b.vf) 16 11 b.n)) (fun _ => true))))
    && [blockWord0, voidWord].all (fun w => stepHome (.frontPass passX) 0 w [0, 0] (fun t q o b => match o with
      | .pass kmin => wholeOk t q b && found t q b none && b.void == (w == voidWord)
        && yields ((List.range b.n).mapM (fun k => (t.blockWord q.home (b.slotAt k)).map (fun v => (k, Slot8.ofWord v)))) (fun rs =>
          yields ((castOffs (kmin - b.finals) rs).foldlM (fun (t : State) x =>
            t.putWord q.home (b.slotAt x.1) { x.2 with state := 2, pass := b.pass }.word) t) (fun s2 =>
              yields (s2.refront q.home b (setFld (setFld b.word 32 8 (b.pass + 1)) 40 11 0)) (fun w =>
                yields (s2.putWord q.home 0x20008 w) (fun _ => true))))
      | _ => false)) = true := by decide +kernel

theorem test_witness_MergeAndRandom : [Instr.smerge (rI (.g 20) (.g 4) (.g 8) (.g 0) 9 0), .rngk (rI (.g 20) (.g 4) (.g 8) (.g 12) 9 0),
    .rngk (rI (.g 20) (.g 4) (.g 8) (.g 12) 7 0)].all passes = true := by decide +kernel

/-! Text: stream 0 of VF 0 on edge die 0. -/

def txtakeR : RForm := rI (.g 20) (.g 4) (.g 8) (.g 0) 15 0
def txcloseR : RForm := rI (.g 20) (.g 4) (.g 8) (.g 0) 15 0
def txstatR : RForm := rI (.g 20) (.g 4) (.g 0) (.g 0) 15 0
def txemitR : RForm := rI (.g 20) (.g 4) (.g 8) (.g 0) 15 0
def vocX : XForm := xI (.g 20) (.g 4) (.g 0) (.g 0) 0 0 0 0
def stream0 : Stream := { vf := 0, part := 0, request := 1, peer := 0, context := 0 }
def request1 : TxRequest := { request := 1, stream := 0, slot := 0, maxNew := 1, tokens := [3] }
def withStream (k : Stream) (s : State) : State := s.modEdge 0 (fun e => { e with streams := [(0, k)] })
/-- A block of two slots, one of them final at the front, of stream 0. -/
def emitBlock : List (Nat × List Byte) :=
  [(0x20008, leBytes 8 (blockWord0 + 1)), (0x20014, leBytes 4 0), (0x20040, leBytes 8 2)]
def image : List (Nat × List Byte) := [(0x30000, leBytes 4 0x4A564F43 ++ leBytes 4 256 ++ leBytes 4 0 ++ leBytes 4 1 ++ leBytes 8 0x40
  ++ leBytes 8 0x140 ++ leBytes 8 0x540 ++ leBytes 8 0x560 ++ leBytes 8 0xD60 ++ leBytes 8 0xD60)]

theorem test_witness_TextForms :
    (let b (n : Nat) : State := start (with_ (.txtake txtakeR) [(.g 4, 64, n), (.g 8, 32, 1)]) (.txtake txtakeR)
     passes (.txtake txtakeR) && ((b 0x20000).checkGlobal thr 0x20000 (32 + 4 * 1) true false).isNone && ((b 0x20000).vfOf thr).isSome
       && 0x20008 % 16 != 0 && ((b 0x3FFE0).checkGlobal thr 0x3FFE0 (32 + 4 * 1) true false).isSome)
    && (let b (n : Nat) : State := start (with_ (.txemit txemitR) [(.g 4, 64, n)]) (.txemit txemitR)
        passes (.txemit txemitR) && ((b 0x20000).checkGlobal thr 0x20000 64 false false).isNone && ((b 0x20000).vfOf thr).isSome
          && 0x20010 % 64 != 0 && ((b 0x40000).checkGlobal thr 0x40000 64 false false).isSome)
    && [Instr.txclose txcloseR, .txstat txstatR].all (fun i => passes i && [0, 63].all (fun vf =>
        let b := start (with_ i [(.g 4, 32, vf * 2 ^ 24)]) i
        (b.vfOf thr == some (sidVf (b.opVal thr (.g 4) 32))) == (vf == 0))) = true := by decide +kernel

/-- A text form is pending and may be performed. -/
def textHome (i : Instr) (s : State) (p : State → Pending → TextOp → Bool) : Bool :=
  let t := after i s
  some_ (t.readyOp 0 0) (fun q => q.agent == thr && q.via == .vf 0 0 && match q.kind with
    | .text o _ => p t q o
    | _ => false)
/-- A firewall port of edge die 0 that lets nothing pass. -/
def portShut (s : State) : State := s.modDie 0 (fun d => { d with fw := [(4, { edge := false })] })
def taking (cap : Nat) (q : List TxRequest) (f : State → State) (p : State → Pending → Bool) : Bool :=
  textHome (.txtake txtakeR) (f ((with_ (.txtake txtakeR) [(.g 4, 64, 0x20000), (.g 8, 32, cap)]).modTx 0 0 (fun t => { t with queue := q })))
    (fun t k o => o == .take 0 cap && ((t.edge 0).txOf 0).queue == q && p t k)

theorem test_witness_TextForms_take :
    taking 0 [] id (fun t _ => t.edgePath 0 0) && taking 0 [request1] id (fun t _ => t.edgePath 0 0)
    && taking 0 [] portShut (fun t _ => !t.edgePath 0 0)
    && taking 1 [request1] id (fun t k => yields (t.blockWrite k.home 0x20000 (leBytes 8 1 ++ leBytes 4 (streamId 0 0 0) ++ leBytes 4 0
        ++ leBytes 4 1 ++ leBytes 4 1 ++ List.replicate 8 0 ++ leBytes 4 3)) (fun _ => true)) = true := by decide +kernel

theorem test_witness_TextForms_close_stat : [Instr.txclose txcloseR, .txstat txstatR].all (fun i =>
    [(stream0, true), ({ stream0 with closed := true }, false)].all (fun x =>
      textHome i (withStream x.1 (with_ i [(.g 4, 32, 0)])) (fun t _ o => (o == .close 0 0 || o == .stat 0) && t.edgePath 0 (sidEdge 0)
        && t.streamOf 0 0 == some x.1 && x.1.open_ == x.2))
    && textHome i (with_ i [(.g 4, 32, 0)]) (fun t _ _ => (t.streamOf 0 0).isNone)
    && textHome i (portShut (with_ i [(.g 4, 32, 0)])) (fun t _ _ => !t.edgePath 0 (sidEdge 0))) = true := by decide +kernel

def emitMeets (lim : Nat) (s0 : State → State) (p : State → Pending → Block → Bool) : Bool :=
  let i := Instr.txemit txemitR
  textHome i (s0 (bytesAt emitBlock (with_ i [(.g 4, 64, 0x20000), (.g 8, 32, lim)]))) (fun t q o =>
    o == .emit lim && yields (t.blockRead q.home 0x20000) (fun b => yields (t.blockFollow q.home b none) (fun _ => true)
      && b.vf == 0 && sidVf b.stream == 0 && p t q b))
def imageAt0 (s : State) : State := bytesAt image (s.modTx 0 0 (fun t => { t with vocab := [(0, 0x30000)] }))
/-- The stream's next slots, and the tokens of its image. -/
def emitSlots (sent : Nat) (t : State) (q : Pending) (b : Block) (p : Image → List (BitVec 64) → Bool) : Bool :=
  let k := { stream0 with block := some 0x20000, sent := sent }
  t.streamOf 0 b.stream == some k && ((List.range (min 1 b.frontier)).filter (fun i => decide (sent ≤ i))).all (fun i =>
      yields (t.blockCheck q.home (b.slotAt i) 8 false) (fun _ => true))
    && yields (((List.range (min 1 b.frontier)).filter (fun i => decide (sent ≤ i))).mapM (fun i => t.blockWord q.home (b.slotAt i)))
      (p (t.streamImage q.home 0 k))

theorem test_witness_TextForms_emit :
    emitMeets 0 id (fun t _ b => t.edgePath 0 (sidEdge b.stream) && (t.streamOf 0 b.stream).isNone)
    && emitMeets 0 portShut (fun t _ b => !t.edgePath 0 (sidEdge b.stream) && (t.streamOf 0 b.stream).isNone)
    && emitMeets 1 (fun s => imageAt0 (withStream { stream0 with block := some 0x20000 } s)) (fun t q b => emitSlots 0 t q b (fun m ws =>
        ws != [] && yields (t.vocab m) (fun v => yields (ws.mapM (fun w => t.tokenText m v (Slot8.ofWord w).token)) (fun _ => true)
          && (({ t with poison := [0x30560] } : State).tokenText m v 0).toOption.isNone)
          && (({ t with poison := [0x30000] } : State).vocab m).toOption.isNone))
    && emitMeets 1 (withStream { stream0 with block := some 0x20000, sent := 1 }) (fun t q b => emitSlots 1 t q b (fun _ ws => ws == []))
    && [{ stream0 with closed := true }, { stream0 with block := some 0x21000, n0 := 1 }].all (fun k0 => emitMeets 1 (withStream k0) (fun t _ b =>
        some_ (t.streamOf 0 b.stream) (fun k => k.open_ != k.closed && (k.closed || (k.block.any (· != 0x20000) && decide (k.sent < k.n0))))))
    && textHome (.txemit txemitR) (with_ (.txemit txemitR) [(.g 4, 64, 0x20000)]) (fun t q o => (t.textOn q.home 0x20000 o).toOption.isNone)
    = true := by decide +kernel

/-- Where an image stands, in the last pages of a block of 2^30 bytes; all but its header reads as 0. -/
abbrev vocAt : Nat := 2 ^ 43 - 0x1000

def vocRegs (base : Nat) : Regs 32 := [(4, BitVec.ofNat 32 base), (5, BitVec.ofNat 32 (base / 2 ^ 32))]

/-- A supervisor thread that works for VF 0 and is about to issue `VOCLOAD` of an address, with the request of a thread of a grid
selected; page tables and the header of the image in memory. Every field is written out: the kernel checks the image faster so. -/
def vocState (base : Nat) : State :=
  { State.reset with
    stage := 8, parts := [(0, { dies := 1, formed := true })],
    vfs := [(0, { ptroot := 0, ranges := [(0, 0x3FFF00000000007)] })],
    phys := [(0, 1), (2, 1), (0x1FFF8, 7), (0x3FFFF000, 0x43), (0x3FFFF001, 0x4F), (0x3FFFF002, 0x56), (0x3FFFF003, 0x4A),
      (0x3FFFF005, 1), (0x3FFFF00C, 1), (0x3FFFF010, 0x40), (0x3FFFF018, 0x40), (0x3FFFF019, 1), (0x3FFFF020, 0x40), (0x3FFFF021, 5), (0x3FFFF028, 0x60),
      (0x3FFFF029, 5), (0x3FFFF030, 0x60), (0x3FFFF031, 0xD), (0x3FFFF038, 0x60), (0x3FFFF039, 0xD)],
    grids := [(0, { part := 0, vf := 0, queue := 0, index := 0, entry := 0, record := 0, state := .running,
                    launch := { leases := [⟨vocAt, 0x10000, true⟩] } })],
    cores := [(0, { vf := some (0, 0), wgs := [(0, { grid := 0, lin := 0, aBase := 0, aSize := 0 })],
                    mail := [(0, { agent := thr, record := [], code := .brk })],
                    threads := [(0, {}), (Config.supSlot, { level := .s, stran := 0, g := vocRegs base })] })],
    cur := some { core := 0, agents := [sup], pc := 0, paired := false } }

def voc0 : Vocab :=
  { magic := 0x4A564F43, count := 256, merges := 0, logH := 1, classes := 0x40, byteMap := 0x140, pairs := 0x540, texts := 0x560,
    bytes := 0xD60, length := 0xD60 }

def vocImage (at_ : Nat) : Image := { via := .vf 0 0, base := at_, edges := List.range 4 }

def vocRuns (s : State) (base : Nat) : Bool :=
  runs s sup (.vocload vocX) && s.vfOf sup == some 0 && s.viaOf sup == .vf 0 0 && s.opVal sup (.g 4) 64 == base
    && (List.range 4).all (fun e => s.edgePath (dieOf sup.core) e)

def vocGives (s : State) (base status : Nat) : Bool :=
  yields (s.vocab (vocImage base)) (fun h => yields (s.vocabStatus (vocImage base) h) (· == status))

theorem test_witness_TextForms_vocload : vocRuns (vocState 0) 0 = true := by decide +kernel

theorem test_witness_TextForms_vocload_image : (vocRuns (vocState vocAt) vocAt
    && yields ((vocState vocAt).blockCheck ((vocState vocAt).homeOf sup) vocAt 64 false) (fun _ => true)
    && yields ((vocState vocAt).blockCheck ((vocState vocAt).homeOf sup) vocAt 0xD60 false) (fun _ => true)) = true := by decide +kernel

def zeros (n : Nat) : List Byte := List.replicate n 0

theorem leAt_zeros (k o n : Nat) : leAt (zeros k) o n = 0 := by
  have h : ∀ j, leNat (List.replicate j 0#8) = 0 := by
    intro j
    induction j with
    | zero => rfl
    | succ j ih => simp [List.replicate_succ, leNat, ih]
  simp [leAt, zeros, List.drop_replicate, List.take_replicate, h]

/-- What an image gives where nothing keeps its bytes from being read. -/
theorem imgRead_plain {s : State} {m : Image} {off n pa : Nat} {bs : List Byte}
    (hp : s.piecesBy none [] m.via false (granules n) (m.base + off) n = some [(pa, n)])
    (he : m.edges.all (fun e => s.edgeReach e pa) = true) (hq : s.poisoned pa n = false) (hr : s.phys.read pa n = bs) :
    s.imgRead m off n = .ok bs := by
  unfold State.imgRead
  dsimp only
  rw [hp]
  simp [he, hq, hr]

theorem edgeReach_die0 (s : State) (e : Nat) {pa : Nat} (h : pa < 64000000000) : s.edgeReach e pa = s.edgeReach e 0 := by
  have h1 : isHbm pa = true := by simp [isHbm]; omega
  have h2 : pa / 2 ^ 36 = 0 := by omega
  have h3 : isHbm 0 = true := by decide
  unfold State.edgeReach
  dsimp only
  rw [h1, h2, h3, Nat.zero_div, if_pos rfl, if_pos rfl]

theorem ok_then {α β : Type} (x : α) (f : α → VolRes β) : ((.ok x : VolRes α) >>= f) = f x := rfl

theorem voc_paths : (vocImage vocAt).edges.all (fun e => (vocState vocAt).edgeReach e 0) = true := by decide +kernel

theorem voc_reach {pa : Nat} (h : pa < 64000000000) : (vocImage vocAt).edges.all (fun e => (vocState vocAt).edgeReach e pa) = true := by
  simp only [edgeReach_die0 _ _ h]; exact voc_paths

theorem voc_zeros {off n pa : Nat}
    (hp : (vocState vocAt).piecesBy none [] (vocImage vocAt).via false (granules n) ((vocImage vocAt).base + off) n = some [(pa, n)])
    (h : pa < 64000000000) (hr : (vocState vocAt).phys.read pa n = zeros n) :
    (vocState vocAt).imgRead (vocImage vocAt) off n = .ok (zeros n) :=
  imgRead_plain hp (voc_reach h) (by simp [State.poisoned, vocState, State.reset]) hr

/-- The header of the image by R360. -/
def vocHead : List Byte := leBytes 4 0x4A564F43 ++ leBytes 4 256 ++ leBytes 4 0 ++ leBytes 4 1 ++ leBytes 8 0x40 ++ leBytes 8 0x140
  ++ leBytes 8 0x540 ++ leBytes 8 0x560 ++ leBytes 8 0xD60 ++ leBytes 8 0xD60

theorem test_witness_TextForms_vocload_header : (vocState vocAt).vocab (vocImage vocAt) = .ok voc0 := by
  have h : (vocState vocAt).imgRead (vocImage vocAt) 0 64 = .ok vocHead :=
    imgRead_plain (pa := 0x3FFFF000) (by decide +kernel) (voc_reach (by decide)) (by decide +kernel) (by decide +kernel)
  have k : (⟨leAt vocHead 0 4, leAt vocHead 4 4, leAt vocHead 8 4, leAt vocHead 12 4, leAt vocHead 16 8, leAt vocHead 24 8,
      leAt vocHead 32 8, leAt vocHead 40 8, leAt vocHead 48 8, leAt vocHead 56 8⟩ : Vocab) = voc0 := by decide +kernel
  unfold State.vocab
  rw [h, ← k]
  rfl

theorem test_witness_TextForms_vocload_good : (vocState vocAt).vocabStatus (vocImage vocAt) voc0 = .ok 0 := by
  have hm : (vocState vocAt).imgRead (vocImage vocAt) 0x140 1024 = .ok (zeros 1024) :=
    voc_zeros (pa := 0x3FFFF140) (by decide +kernel) (by decide) (by decide +kernel)
  have hp : ∀ i < 2, (vocState vocAt).imgRead (vocImage vocAt) (0x540 + 16 * i) 16 = .ok (zeros 16) := by
    intro i hi
    match i, hi with
    | 0, _ => exact voc_zeros (pa := 0x3FFFF540) (by decide +kernel) (by decide) (by decide +kernel)
    | 1, _ => exact voc_zeros (pa := 0x3FFFF550) (by decide +kernel) (by decide) (by decide +kernel)
  have ht : (vocState vocAt).imgRead (vocImage vocAt) 0x560 2048 = .ok (zeros 2048) :=
    voc_zeros (pa := 0x3FFFF560) (by decide +kernel) (by decide) (by decide +kernel)
  have hp0 := hp 0 (by decide)
  have hp1 := hp 1 (by decide)
  have r2 : List.range (2 ^ voc0.logH) = [0, 1] := rfl
  unfold State.vocabStatus
  dsimp only
  rw [if_neg (by decide), r2]
  simp [voc0, ok_then, hm, hp0, hp1, ht, leAt_zeros]

theorem test_witness_TextForms_vocload_bad : vocGives (vocState (vocAt + 64)) (vocAt + 64) 1 = true := by decide +kernel

theorem test_witness_TextForms_vocload_poison :
    ((({ vocState vocAt with poison := [0x3FFFF000] } : State).vocab (vocImage vocAt)).toOption.isNone
      && (({ vocState vocAt with poison := [0x3FFFF140] } : State).vocabStatus (vocImage vocAt) voc0).toOption.isNone) = true := by
  decide +kernel

theorem test_witness_TextForms_vocload_odd : ((vocState (vocAt + 8)).opVal sup (.g 4) 64 % 64 != 0) = true := by decide +kernel

/-- Nothing is settled or retained before the effect. -/
theorem test_vocload_began (b : Nat) : began (vocState b) sup (.vocload vocX) = vocState b := rfl

/-! System instructions, the mailbox and the issue unit. -/

theorem test_witness_SystemForms : samplesSystem.all passes
    && [(0, true), (255, true), (256, false)].all (fun x =>
      let i := Instr.sclear (rI (.g 20) (.g 4) (.g 0) (.g 0) 15 0)
      let s := with_ i [(.g 4, 32, x.1)]
      let t := s.modCore 0 (fun k => { k with wgs := [(0, { grid := 0, lin := 0, aBase := 0, aSize := 0 })] })
      going s i && decide ((start s i).opVal sup (.g 4) 32 < 256) == x.2 && ((start s i).core 0).wgs == []
        && going t i && ((start t i).core 0).wgs != []) = true := by decide +kernel

def sretR (fn : BitVec 17) : RForm := rI (.g 1) (.g 4) (.g 8) (.g 0) 15 fn
def sretForms : List Instr := [.sretResume (sretR 0), .sretReissue (sretR 1), .sretReissueNomatch (sretR 2), .sretEndGrid (sretR 3)]
def mailed (i : Instr) (a : Agent) : State :=
  (ready i).modCore 0 (fun k => { k with
    mail := [(0, { agent := a, record := [], code := .trap })],
    threads := (0, { level := .t }) :: k.threads })

/-- Where the answer of `SRET` begins. -/
def came (b : State) : State := ((b.flush 0).collect sup (some (.mail 0))).publish sup (some (.mail 0))

theorem test_witness_SupervisorReturn : sretForms.all (fun i =>
      going (ready i) i && (lookupN ((start (ready i) i).core 0).mail ((start (ready i) i).opVal sup (.g 4) 32 % 64)).isNone
      && going (mailed i thr) i && (lookupN ((start (mailed i thr) i).core 0).mail 0).isSome
      && (came (start (mailed i thr) i)).level thr == .t && (came (start (mailed i sup) i)).level sup != .t) = true := by
  decide +kernel

/-- A load of a poisoned byte is pending. -/
def hurtLoad (s : State) : State :=
  { s.post thr (.glob 0x20000) 4 0 0 0 (.load (.g 20) false) .ld with poison := [0x20000] }

theorem test_witness_Posts :
    (let s := after (.trap (rI (.g 20) (.g 4) (.g 8) (.g 0) 15 0)) (ready (.trap (rI (.g 20) (.g 4) (.g 8) (.g 0) 15 0)))
     (s.ctx thr).request.isSome && freeN (s.core (s.mailboxOf thr)).mail Config.mailSlots == some 0 && !s.postsLater thr
       && ((s.flush 0).ctx thr).request == (s.ctx thr).request)
    && (let s := hurtLoad (after (.trap (rI (.g 20) (.g 4) (.g 8) (.g 0) 15 0)) (ready (.trap (rI (.g 20) (.g 4) (.g 8) (.g 0) 15 0))))
        (s.ctx thr).request.isSome && freeN (s.core (s.mailboxOf thr)).mail Config.mailSlots == some 0 && !s.postsLater thr
          && ((s.flush 0).ctx thr).request.isNone)
    && ((((ready (.sretResume (sretR 0))).modCtx sup (fun c => { c with wait := .supTrap .lease 5 64 })).ctx sup).wait == .supTrap .lease 5 64)
    && ((ready (.sretResume (sretR 0))).level sup == .s) = true := by decide +kernel

def idleAt (i : Instr) (k : Core → Core) : State := { (ready i).modCore 0 k with cur := none }
def nopI : Instr := .nop (rI (.g 0) (.g 0) (.g 0) (.g 0) 0 0)
def doneI : Instr := .wgdone (xI (.g 0) (.g 0) (.g 0) (.g 0) 0 0 0 0)
def poisonLine (s : State) : State := { s with poison := [0x10000] }

theorem test_witness_IssueUnit_fetch :
    (let s := idleAt nopI (fun k => { k with icache := [] })
     s.cur == none && ((s.wantsLine 0 0x10000).filterMap (fun a => if (s.cachedLine a).isNone then (s.linePa a).map (a, ·) else none))
       == [(thr, 0x10000), (ld0, 0x10000)])
    && (let s := idleAt nopI (fun k => { k with icache := k.icache.map (fun l => (l.1, { l.2 with failed := true })) })
        s.cur == none && (((s.wantsLine 0 0x10000).filter (fun a => ((s.cachedLine a).map (·.failed)).getD false)).filterMap s.linePa)
          == [0x10000, 0x10000] && (s.lineInL2 0x10000).2 && !((poisonLine s).lineInL2 0x10000).2) = true := by decide +kernel

theorem test_witness_IssueUnit_issue :
    (let s := idleAt nopI id
     s.cur == none && s.bundle 0 == [thr] && !s.atCollective thr
       && (((s.pass 1).modCore 0 (fun k => { k with leadLast := false })).passMatch [thr]).2 == [thr])
    && (let s := idleAt nopI (fun k => { k with bpm := [(0, 0x8000000000010000)] })
        s.cur == none && s.bundle 0 == [thr] && !s.atCollective thr
          && (((s.pass 1).modCore 0 (fun k => { k with leadLast := false })).passMatch [thr]).2 == [])
    && (let s := idleAt doneI id
        s.nextLead 0 == some ld0
          && (((s.modCore 0 (fun k => { k with leadTurn := 1, leadLast := true })).pass 1).passMatch [ld0]).2 == [ld0])
    && (let s := idleAt doneI (fun k => { k with bpm := [(3, 0xC000000000010000)] })
        s.nextLead 0 == some ld0
          && (((s.modCore 0 (fun k => { k with leadTurn := 1, leadLast := true })).pass 1).passMatch [ld0]).2 == [])
    && [(0, true), (63, false)].all (fun x =>
        let s := (ready (.barv (barM (.g 20) (.g 8) (.g 2) 3))).modCtx thr (fun c => { c with ld := x.1 })
        ({ core := 0, agents := [thr], pc := 0x10000, paired := false, second := true } : Issue).agents.all s.ready == x.2)
    && (let s := idleAt nopI (fun k => k.modThread 0 (fun t => { t with readyFor := Config.agedClocks }))
        some_ ((s.core 0).thread 0) (fun t => t.level == .t && !t.aged && decide (Config.agedClocks ≤ t.readyFor))) = true := by
  decide +kernel

/-! ### Witnesses: the distributor, the edges and the surroundings -/

/-- A machine of one partition of die 0 with page tables, queue 0 of VF 0 enabled. -/
def plain : State := queue0 (mapped4 State.reset)
def plainQ (f : Queue → Queue) : State := plain.modQueue 0 0 f
def queued1 (e : Queued) : State := plainQ (fun q => { q with widx := 1, pending := [e] })

theorem test_witness_QueueWrites :
    plain.hasVf 0 0 && !(plain.part 0).frozen && !(plain.vf 0).resetting
    && (let s := plain.modVf 0 (fun v => { v with resetAt := 5 }); s.hasVf 0 0 && (s.vf 0).resetting)
    && [RegName.lqBase 0 0 63, .lqSize 0 0 0, .lqCtl 0 0 0, .vfPtRoot 0 0, .txCtl 0 0 3, .txNote 0 0 3].all (fun r =>
        regExists r && regTenant r == some (0, 0))
    && [RegName.mdId, .mdCollect 1, .mdCport, .fwCtl 0 4, .ptStat 39, .ptServe 0].all (fun r => regExists r && (regTenant r).isNone)
    && (let q := (plain.vf 0).queue 0
        q.enable && !q.qerr && (plain.ringCause 0 0 q 1).isNone && q.widx == 0 && plain.ringCause 0 0 q 3 == some 0x04
          && (plain.ringCause 0 0 q q.widx).isNone)
    && !(((plainQ (fun q => { q with enable := false })).vf 0).queue 0).enable
    && (((plainQ (fun q => { q with qerr := true })).vf 0).queue 0).qerr
    && ((plain.modPart 0 (fun p => { p with frozen := true })).part 0).frozen
    && (0x171#32).getLsbD 8 && (0x171#64).getLsbD 8
    && (let q := ((queued1 ⟨0, 0, false⟩).vf 0).queue 0; decide ((0 - q.ridx).toNat < q.pending.length ∧ q.pending.length ≤ (1 - q.ridx).toNat))
    && (let s := (ready nopI).modGrid 0 (fun g => { g with index := 1 })
        (s.grids.filter (fun g => g.2.part == 0 && g.2.vf == 0 && g.2.queue == 0 && g.2.index == 1 && !g.2.state.over)).getLast?.isSome)
    = true := by decide +kernel

/-- A launch record (R190) at 0x22000: one group of 8 threads of 8 registers, no lead. -/
def record (wgs : Nat) : List (Nat × List Byte) :=
  [(0x22000, leBytes 8 0x10000 ++ leBytes 4 64 ++ leBytes 4 0xFFFFFFFF ++ leBytes 4 0 ++ leBytes 2 wgs ++ leBytes 2 1 ++ leBytes 2 1
    ++ leBytes 2 0 ++ leBytes 2 8 ++ leBytes 1 1 ++ leBytes 8 0 ++ leBytes 1 1)]
def entry0 : List (Nat × List Byte) := [(0x28000, leBytes 8 0x22000)]

theorem test_witness_LaunchLife_validate :
    (let s := queued1 ⟨0, 0, true⟩
     some_ ((s.vf 0).queue 0).pending.head? (·.cancelled) && !((s.vf 0).queue 0).qerr && !(s.part 0).frozen)
    && (let s := bytesAt entry0 (queued1 ⟨0, 0, false⟩)
        some_ (s.vfRead 0 0 (((s.vf 0).queue 0).entryAt 0) 8) (fun b => leNat b == 0x22000) && s.refusal 0 0 0x22000 == some 0x12)
    && (let s := bytesAt (entry0 ++ record 1) (queued1 ⟨0, 0, false⟩)
        some_ ((s.vf 0).queue 0).pending.head? (fun e => !e.cancelled) && (s.refusal 0 0 0x22000).isNone) = true := by decide +kernel

def object2 : Dep := { addr := 0x20040, kind := 2, phase := 15 }
def waitingGrid (l : Launch) : State := plain.modVf 0 id |> fun s =>
  { s with grids := [(0, { part := 0, vf := 0, queue := 0, index := 0, entry := 0x28000, record := 0x22000, launch := l })] }
def launch1 : Launch := { text := 0x10000, textLen := 64 }
def fworkState (team : Nat) (f : Grid → Grid) : State := (ready nopI).modGrid 0 (fun g =>
  f { g with launch := { g.launch with team := team }, fwork := [(.lead 0 0, 32, 0x10000)] })
/-- A running grid all of whose workgroups are placed and gone. -/
def doneGrid : State := { plain with
  grids := [(0, { part := 0, vf := 0, queue := 0, index := 0, entry := 0x28000, record := 0x22000, launch := launch1,
                  state := .running, nextTeam := 1 })] }

theorem test_witness_LaunchLife :
    (let s := waitingGrid { launch1 with deps := [object2] }
     some_ (s.grid 0) (fun g => g.state == .waiting && g.launch.deps.any (fun d => d.kind == 2 && (s.depObject g.part g.vf d).isNone)))
    && (let s := bytesAt [(0x20040, (Obj.fresh 1).bytes)] (waitingGrid { launch1 with deps := [object2], fmtAddr := [(0, 0x24000)] })
        some_ (s.grid 0) (fun g => g.state == .waiting && !g.launch.deps.any (fun d => d.kind == 2 && (s.depObject g.part g.vf d).isNone)
          && g.launch.deps.all (s.depMet g) && (s.bound g.part g.vf g.launch).isNone))
    && (let s := bytesAt [(0x24000, leBytes 8 0x9CC)] (waitingGrid { launch1 with fmtAddr := [(0, 0x24000)] })
        some_ (s.grid 0) (fun g => g.launch.deps.all (s.depMet g) && (s.bound g.part g.vf g.launch).isSome))
    && [(fworkState 2 id, 2, none), (fworkState 1 (fun g => { g with nextTeam := 0, launch := { g.launch with gx := 2 } }), 1, some 0),
        (fworkState 1 (fun g => { g with nextTeam := g.launch.wgs }), 1, none)].all (fun x =>
        some_ (x.1.grid 0) (fun g => g.fwork.length == 1 && g.launch.team == x.2.1 && (x.2.1 == 2 || g.remaining == x.2.2)
          && x.1.locate (.lead 0 0) == some ld0))
    && (let s := doneGrid.sweep 0
        some_ (s.grid 0) (fun g => g.state == .running && g.placed == [] && g.skeins == [] && decide (g.launch.wgs ≤ g.nextTeam * g.launch.team)
          && s.reports.all (fun r => r.grid != 0))) = true := by decide +kernel

/-! Teams: a running grid 0 of one team, and a waiting grid 1. -/

def runningGrid (l : Launch) : Grid :=
  { part := 0, vf := 0, queue := 0, index := 0, entry := 0x28000, record := 0x22000, launch := l, state := .running, ceiling := 7 }
def placedAt (stopping : Option Nat) (yielded : Bool) : Placed := { core := 0, places := [0], since := 0, yielded := yielded, stopping := stopping }
def skein0 (intact : Bool) : Skein :=
  { wgs := [], threads := [], stores := [], cstores := [], wstores := [], copies := [], drains := [], savedAt := 0, intact := intact }
def teamState (gs : NMap Grid) (k : Core → Core) : State := ({ plain with grids := gs } : State).modCore 0 k
def oneTeam : Grid := runningGrid launch1
/-- Grid 0 holds core 0 alone, exclusively. -/
def holds (p : Placed) : Grid := { runningGrid { launch1 with exclusive := true } with nextTeam := 1, placed := [(0, p)] }
def wg0 : Core → Core := fun k => { k with vf := some (0, 0), wgs := [(0, { grid := 0, lin := 0, aBase := 0, aSize := 0 })] }

/-- Grid 0 swept, with a waiting team 0 that comes next to a cluster of core 15. -/
def comesNext (g : Grid) (saved : Bool) (p : State → Grid → Bool) : Bool :=
  let s := (teamState [(0, g)] id).sweep 0
  let w : Waiting := { grid := 0, team := 0, saved := saved, since := 0 }
  some_ (s.grid 0) (fun g => (g.waitingTeams 0).contains w && (s.clusters 0 g 0).contains 15 && s.placeable w && s.firstToPlace 0 w && p s g)
def coopTeams : Grid := { oneTeam with launch := { launch1 with coop := true, gx := 2 } }

theorem test_witness_Teams_place :
    comesNext oneTeam false (fun _ g => !g.launch.coop)
    && comesNext coopTeams false (fun _ g => g.launch.coop && g.clustersNeeded == 2)
    && [true, false].all (fun intact =>
      comesNext { oneTeam with nextTeam := 1, skeins := [(0, skein0 intact)] } true (fun _ g =>
        some_ (lookupN g.skeins 0) (fun k => k.intact == intact) && g.state == .running && !g.launch.coop)
      && comesNext { coopTeams with nextTeam := 2, skeins := [(0, skein0 true), (1, skein0 intact)] } true (fun _ g =>
        (lookupN g.skeins 0).isSome && g.state == .running && g.launch.coop && g.placed == []
          && g.skeins.all (fun x => x.2.intact) == intact)) = true := by decide +kernel

/-- Grids of 16 cores: the waiting one fits only where the resident one is. -/
def wide (l : Launch) : Launch := { l with team := 16, gx := 16, exclusive := true }
def sixteen (p : Placed) (pri : Nat) : State :=
  { plain with
    grids := [(0, { runningGrid (wide launch1) with nextTeam := 1, placed := [(0, { p with places := List.replicate 16 0 })] }),
              (1, runningGrid (wide { launch1 with priority := pri }))],
    cores := (List.range 16).map (fun c => (c, wg0 {})) }

/-- The season of the cluster of grid 0's team is over; which waiting team, and where, takes its cores. -/
def seasonMeets (s : State) (p : Placed) (found : Option (Waiting × List Nat)) : Bool :=
  some_ (s.grid 0) (fun g => lookupN g.placed 0 == some p && s.seasonOver g p
    && ((sortBy (fun w => (7 - s.rotationPriority g.part w) * 2 ^ 128 + w.since) ((s.waitingTeams g.part).filter (fun w =>
      decide (w.since ≤ s.lastEnd g p ∧ g.priority ≤ s.rotationPriority g.part w) && (w.grid != 0 || w.team != 0)))).findSome?
        (fun w => (s.claims (fun _ x q => s.seasonOver x q && decide (x.priority ≤ s.rotationPriority g.part w)) w p.core
          g.launch.team).map (w, ·))) == found)
def sixteenAt (p : Placed) : Placed := { p with places := List.replicate 16 0 }
def team1 : Waiting := { grid := 1, team := 0, saved := false, since := 0 }

theorem test_witness_Teams_season_preempt :
    seasonMeets (sixteen (placedAt none true) 0) (sixteenAt (placedAt none true)) (some (team1, [0]))
    && seasonMeets { sixteen (placedAt none false) 0 with clock := 0x005265C0 } (sixteenAt (placedAt none false)) (some (team1, [0]))
    && seasonMeets { (sixteen (placedAt none false) 0).modGrid 1 (fun g => { g with nextTeam := 1 }) with clock := 0x005265C0 }
        (sixteenAt (placedAt none false)) none
    && (let s := sixteen (placedAt none false) 1
        some_ (s.grid 0) (fun g => some_ (lookupN g.placed 0) (fun p => p.stopping.isNone
          && ((sortBy (fun w => s.orderKey g.part (s.rotationPriority g.part w) w) ((s.waitingTeams g.part).filter (fun w =>
            decide (g.priority < s.rotationPriority g.part w) && !s.placeable w))).findSome? (fun w =>
              (s.claims (fun _ x _ => decide (x.priority < s.rotationPriority g.part w)) w p.core g.launch.team).map (w, ·)))
                == some (team1, [0])))) = true := by decide +kernel

/-- Grid 0 holds core 0, its team is asked to stop, and a copy of it is under way. -/
def draining (d : Option Nat) : State :=
  { copyState.modGrid 0 (fun g => { g with placed := [(0, { placedAt (some 0) false with draining := d })] }) with clock := Config.copyDrainClocks }

theorem test_witness_Teams_stop :
    (let p := placedAt (some 0) false
     let s : State := { teamState [(0, holds p)] (fun k => { wg0 k with threads := [(0, { level := .t }), (1, { level := .t, tid := 1, ctx := { pc := 1 } })] })
       with clock := 0x0000D2F0 }
     some_ (s.grid 0) (fun g => lookupN g.placed 0 == some p && !s.teamStopped p && decide (0 + (s.part g.part).rctmo.toNat ≤ s.clock)))
    && [none, some 0].all (fun d => some_ ((draining d).grid 0) (fun g => some_ (lookupN g.placed 0) (fun p => p.stopping == some 0
        && p.draining == d && (draining d).teamStopped p && (draining d).copiesRun p
        && decide (d.getD 0 + Config.copyDrainClocks ≤ (draining d).clock))))
    && [oneTeam, coopTeams].all (fun g0 =>
        let s := teamState [(0, { g0 with nextTeam := 2, placed := [(0, placedAt (some 0) false), (1, placedAt (some 0) false)] })] wg0
        s.cur == none && some_ (s.grid 0) (fun g => g.stopsWith 0 != [] && (g.stopsWith 0).all (fun t => some_ (lookupN g.placed t) (fun q =>
          q.stopping.isSome && s.teamStopped q && !s.copiesRun q))))
    && (let s := teamState [] (fun k => { k with wOld := [(7, none)] }); lookupN (s.core 0).wOld 7 == some none)
    && (let s := teamState [(0, { oneTeam with launch := { launch1 with coop := true, gx := 257 } })] id
        some_ (s.grid 0) (fun g => g.launch.coop && g.state == .running && decide ((s.part g.part).cores < g.launch.wgs)))
    && (let s := teamState [(0, { oneTeam with launch := { launch1 with coop := true, gx := 16 }, state := .coopWait })] id
        some_ (s.grid 0) (fun g => g.state == .coopWait && decide (g.launch.wgs ≤ (s.part g.part).cores))) = true := by decide +kernel

/-- A trap is on its way, of a running grid, and of one that is over. -/
def reported (st : LaunchState) (lanes : List Nat) : State :=
  { (ready nopI).modGrid 0 (fun g => { g with state := st }) with
    reports := lanes.map (fun n => { grid := 0, code := .lease, pc := 0x10000, core := 0, va := 0, since := 0, at_ := 0x10000, lane := some n }) }

theorem test_witness_GridEnds :
    (ready nopI).level thr == .t && (ready nopI).gridNo thr == some 0 && ((ready nopI).thread? thr).isSome
    && ((ready nopI).ctx thr).wait != .exited && (ready doneI).level ld0 == .t && ((ready doneI).lead? ld0).isSome
    && [LaunchState.running, .ended].all (fun st => let s := reported st [511]
        some_ s.reports[0]? (fun r => !s.trapsBefore 0 r && !s.lowerLane r) && some_ (s.grid 0) (fun g => g.state.over == (st == .ended)))
    && (let s := reported .running [1, 0]
        some_ s.reports[0]? (fun r => some_ s.reports[1]? (fun q => q.grid == r.grid && q.core == r.core && q.at_ == r.at_
          && q.since == r.since && q.lane == some 0 && r.lane == some 1))) = true := by decide +kernel

/-! An edge die that serves VF 0 at address 5, port 7. -/

def edgeOn (f : TxRegs → TxRegs) (e : Edge → Edge) : State :=
  plain.modEdge 0 (fun x => e { x with tx := [(0, f { enable := true, addr := 5, port := 7, peers := [(0, 0x10000000000000000000000000000000000)],
                                                      vocab := [(3, 0x30000)] })] })
def packet (len : Nat) (last : Bool) : Packet :=
  { dstAddr := 5, dstPort := 7, srcAddr := 9, context := 1, supported := true, payload := List.replicate len 0, last := last }
def reqBytes (slot : Nat) : List Byte := frameHeader 1 77 slot 10 1 ++ [65]
def msg (b : List Byte) : Message := { part := 0, vf := 0, peer := 9, context := 1, bytes := b, vocab := [(3, 0x30000)] }
def cancelBytes : List Byte := frameHeader 4 77 0 0 0
def full (e : Edge) : Edge := { e with streams := List.replicate Config.streamsPerEdge (0, stream0) }
/-- The last packet of a request frame. -/
def lastPacket : Packet := { packet 0 true with payload := reqBytes 3 }
/-- As many requests of VF 0 as its queue takes. -/
def fullQueue (e : Edge) : Edge := { e with inbox := List.replicate Config.requestsPerQueue (msg (reqBytes 3)) }
def admittedBy (e : Edge) (p : Packet) : Bool :=
  p.supported && !decide (4096 < p.payload.length) && (e.txOf 0).enable && (e.txOf 0).peers.any (fun x => peerAdmits x.2 p.srcAddr)
def tooMany (e : Edge) (p : Packet) : Bool :=
  leAt (e.sofar p.context ++ p.payload) 3 1 == 1 && decide (Config.requestsPerQueue ≤ e.heldFor 0)

theorem test_streams_full (e : Edge) : (full e).freeStream = none := by
  simp [full, Edge.freeStream, Edge.openStreams, stream0]

theorem test_witness_EdgeDies_packets :
    [(packet 4097 false, false), (packet 4096 false, true), (lastPacket, true)].all (fun x =>
      let s := edgeOn id id
      let e := s.edge 0
      s.up && e.named x.1 == [0] && admittedBy e x.1 == x.2 && !e.closedCtx.contains x.1.context && !tooMany e x.1)
    && (let e := (edgeOn (fun t => { t with enable := false }) id).edge 0
        e.named (packet 0 true) == [0] && !admittedBy e (packet 0 true) && !e.closedCtx.contains 1)
    && (let e := (edgeOn id fullQueue).edge 0
        e.named lastPacket == [0] && admittedBy e lastPacket && !e.closedCtx.contains 1 && tooMany e lastPacket)
    && (let e := (edgeOn id (fun e => { e with closedCtx := [1] })).edge 0
        e.named lastPacket == [0] && admittedBy e lastPacket && e.closedCtx.contains lastPacket.context)
    && (let e := ((edgeOn id id).modEdge 0 (fun e => { e with tx := (1, e.txOf 0) :: e.tx })).edge 0
        e.named lastPacket == [1, 0]) = true := by decide +kernel

def text1 : TextIn := { part := 0, vf := 0, request := 77, stream := 0, slot := 3, image := 0x30000, maxNew := 1, text := [65] }
/-- A text waits; whether the queue holds a request, the address to notify, the object there. -/
def textWaits (queued : Bool) (note : DWord) (o : Obj) (p : State → Bool) : Bool :=
  let s := bytesAt ((0x20040, o.bytes) :: image) (edgeOn (fun t => { t with note := note, queue := if queued then [request1] else [] })
    (fun e => { e with texts := [text1] }))
  let e := s.edge 0
  e.texts == [text1] && (e.texts.findSome? (s.imageFails 0)).isNone && yields (s.tokens (text1.imageOn 0) text1.text) (fun _ => true)
    && (e.txOf 0).queue.isEmpty == !queued && (e.txOf 0).note == note && p (s.modEdge 0 (fun e => { e with texts := [] }))

theorem test_witness_EdgeDies_frames :
    (let e := (edgeOn id (fun e => { e with inbox := [msg (reqBytes 3)] })).edge 0
     e.inbox == [msg (reqBytes 3)] && !isCancel (msg (reqBytes 3)) && requestOk (msg (reqBytes 3)) && e.freeStream == some 0
       && !isCancel (msg (reqBytes 4)) && !requestOk (msg (reqBytes 4)))
    && (let e := (edgeOn id (fun e => { e with inbox := [msg cancelBytes], streams := [(2, { stream0 with request := 77, peer := 9 })] })).edge 0
        isCancel (msg cancelBytes) && some_ (e.streams.find? (fun k => k.2.part == 0 && k.2.vf == 0 && k.2.request == 77 && k.2.peer == 9
          && !k.2.closed && k.2.closing.isNone)) (fun x => x.1 == 2))
    && (let s : State := { (edgeOn id (fun e => { e with texts := [text1] })).modGrid 0 id with poison := [0x30000] }
        (s.edge 0).texts == [text1] && (s.tokens (text1.imageOn 0) text1.text).toOption.isNone
          && (({ s with grids := (ready nopI).grids } : State).grids.filter (s.imageGrid text1)).length == 1)
    && textWaits false 0 (Obj.fresh 1) (fun _ => true) && textWaits true 0x20040 (Obj.fresh 1) (fun _ => true)
    && textWaits false 0x20040 (Obj.fresh 1) (fun u => (u.notify (.vf 0 0) 0x20040).isSome)
    && textWaits false 0x20040 { Obj.fresh 1 with valid := false } (fun u => (u.notify (.vf 0 0) 0x20040).isNone)
    && (let e := (edgeOn id (fun e => { e with streams := [(0, { stream0 with ready := List.replicate 4065 1, closing := some (0, 0) })] })).edge 0
        some_ (lookupN e.streams 0) (fun k => !k.closed && k.ready != []))
    && (let e := (edgeOn id (fun e => { e with streams := [(0, { stream0 with closing := some (0, 0) })] })).edge 0
        some_ (lookupN e.streams 0) (fun k => !k.closed && k.ready == [] && k.closing == some (0, 0))) = true := by decide +kernel

/-- What a write of the high word of an entry of VF 0 would commit, over a low word that waits. -/
def committed (lo hi : DWord) : BitVec 128 := (hi ++ lo) &&& 0x000FFFFFFFFFFFFFFFFFFFFFFFFFFF0F#128

theorem test_witness_PartitionsAndVfs :
    plain.hasVf 0 0 && !(plain.vf 0).resetting
    && (List.range 6).all (fun n => let s := plain.modVf 0 (fun v => { v with resetAt := n })
        s.hasVf 0 0 && (s.vf 0).resetAt == n && (s.vf 0).resetting == (n != 0))
    && (let s := plain.modVf 0 (fun v => { v with busy := true, removing := some (some 65536) }); (s.vf 0).busy && (s.vf 0).removing == some (some 65536))
    && [(0, 1), (0, 4), (39, 0), (39, 4)].all (fun x => hasEnd x.1 x.2 && ((plain.die x.1).fwOf x.2).closed) && !hasEnd 0 0 && !hasEnd 1 4
    && rangeMapped (committed 0x0003F00000000007 0) && !(committed 0 0).getLsbD 0
    && (let e := committed 0x0003F00000000007 0xFFFFFFFFFFFFFFFF; e.getLsbD 0 && !rangeMapped e) = true := by decide +kernel

/-- Tray 0 may name VF 0; and where the corner die's end takes no edge traffic. -/
def bound0 : State := { plain with trays := [(0, [0])] }
def closedMesh : State := bound0.modDie 0 (fun d => { d with fw := [(4, { edge := false })] })
def admitting : State := bound0.modPart 0 (fun p => { p with admits := [(0, 2 ^ 119 + 2 ^ 120 + 2 ^ 121 + 2 ^ 109)] })
def lastIpa : Nat := 0x3FFFF0
def reaches0 (s : State) (ipa n : Nat) (write : Bool) (r : Reached) : Bool := s.linkTakes 0 ipa n && s.chaskoReach 0 0 0 ipa n write == r
def admits0 (n : Nat) (write : Bool) : Bool := (admitting.peerReach 1 0 write 0xFFC0 n).isSome
def drainRows : List (Nat × List Word) := [(0xFE00, List.replicate 128 0)]

def postedW : Instr := .chaskoPostedWrite 0 0 0 lastIpa (List.replicate 16 1)
def peerW : Instr := .peerAccess 1 0 0xFFC0 0 (.write (List.replicate 64 1))
/-- Two bytes of each of two writes over links are left to land, and a choice of order stands in the oracle. -/
def begunW : State := { bound0 with
  landing := [{ what := postedW, rest := [(lastIpa, 1), (lastIpa + 1, 1)] }, { what := peerW, rest := [(0xFFC0, 1), (0xFFC1, 1)] }],
  oracle := [2, 5] }

theorem test_witness_LinksAndPeers :
    [true, false].all (fun w => reaches0 bound0 lastIpa 16 w (.memory [(lastIpa, 16)]) && reaches0 bound0 windowIpa 16 w .registers
      && reaches0 closedMesh lastIpa 16 w .dropped && !plain.bindsTray 0 0 0 && plain.linkTakes 0 lastIpa 16)
    && bound0.linkOpen 0 && atomTypeOk 5 7 && bound0.chaskoReach 0 0 0 0x3FFFF8 8 true == .memory [(0x3FFFF8, 8)]
    && !bound0.poisoned 0x3FFFF8 8 && bound0.oracle == [] && (bound0.begun postedW).isNone && (bound0.begun peerW).isNone
    && begunW.landing.any (overLink 0) && (bound0.landEarlier 0 0 [(0x3FFFF8, 1)]).landing == []
    && begunW.oracle == [2, 5] && (begunW.begun postedW).isSome && (begunW.begun peerW).isSome
    && [7, 8].all (fun n => let s := bound0.modEdge 3 (fun e => { e with retries := n }); (s.edge 3).linkUp && (s.edge 3).retries == n)
    = true := by decide +kernel

theorem test_witness_LinksAndPeers_peers :
    admitting.up && 1023 != admitting.mdId.toNat && (bound0.peerReach 1 0 false 0xFFC0 4).isNone
    && admits0 64 false && admits0 64 true && admitting.poison == []
    && [PeerKind.atomic 0 6 5, .cas 6 0 1, .ticket 1 9].all (fun k =>
        peerOk 0xFFC0 k && (peerAtom k).isSome && admits0 (peerSize k) true)
    && peerOk 0 (.drain 9 9 0 false drainRows none) && (match admitting.peerDrain 1 0 9 9 0 false drainRows with
      | .ok _ => true
      | .error _ => false) = true := by decide +kernel

/-- The serving kernel of partition 0 is grid 0, whose text line is poisoned. -/
def servingHurt : State :=
  let s := (ready nopI).modGrid 0 (fun g => { g with record := 0x22000 })
  ({ s with poison := [0x10000] } : State).modPart 0 (fun p => { p with serve := 0x22000, serveVf := 0x80 })
def frozenPart : State :=
  ((ready nopI).modPart 0 (fun p => { p with frozen := true, serving := some 0 })).modCore 0 (fun k => k.modWg 0 (fun w => { w with pushes := 1 }))

theorem test_witness_ModuleEvents :
    (((plain.modDie 3 (fun d => { d with held := true })).dies.filter (fun d => d.2.held)).map (·.1)) == [3]
    && (servingHurt.parts.filterMap (fun p => ((servingHurt.servingGrid p.1).filter (fun g => servingHurt.memoryHurt g.2)).map (p.1, ·))).length == 1
    && (frozenPart.parts.filter (fun p => frozenPart.mayUnfreeze p.2)).length == 1
    && !plain.panicked && ({ plain with panicked := true } : State).panicked
    && [3, 5, 6, 7].all (fun k => decide (({ plain with stage := k } : State).stage < 8)) = true := by decide +kernel

/-! ### Witnesses: the step, registers, frames -/

theorem test_witness_DecodeEncode : samplesMatrix.all (·.wellFormed) = true := by decide +kernel

def badWord : State := State.reset.withFetchWord 96 0
/-- A thread whose PC names slot 5, which no fetch takes. -/
def badPc : State := (ready nopI).modCtx thr (fun c => { c with pc := 0x10005 })

/-- The second slot of a pair is next, and its thread is ready there, or its counter is full. -/
def secondSlot (ld : Nat) : State :=
  let s := (ready (.ld ldM)).modCtx thr (fun c => { c with ld := ld })
  { s with cur := s.cur.map (fun x => { x with second := true }) }

theorem test_witness_StepRunsDecoded_second :
    (secondSlot 0).agenda == [] && some_ (secondSlot 0).cur (fun x => x.second && x.agents == [thr] && x.agents.all (secondSlot 0).ready
      && some_ ((secondSlot 0).openIssue x) (fun u => match u.fetch thr with
        | .word w => yields (decode w) (· == .ld ldM)
        | _ => false))
    && some_ (secondSlot 63).cur (fun x => x.second && !x.agents.all (secondSlot 63).ready) = true := by decide +kernel

theorem test_witness_StepRunsDecoded :
    (match (ready nopI).fetch thr with
      | .word w => yields (decode w) (· == nopI)
      | _ => false)
    && (ready nopI).agenda == [] && some_ (ready nopI).cur (fun x => x.agents == [thr] && !x.second && ((ready nopI).openIssue x).isSome)
    && (match badWord.fetch thr with
      | .word w => (decode w).toOption.isNone
      | _ => false)
    && some_ badWord.cur (fun x => x.agents == [thr])
    && [ready nopI, badWord, badPc].all (fun s => (s.ctx thr).wait == .run)
    && (let s := (ready nopI).modCtx thr (fun c => { c with wait := .stopped })
        some_ s.cur (fun x => (x.agents.filter (fun a => (s.ctx a).wait == .run)).isEmpty))
    && (match badPc.fetch thr with
      | .trap t => t == ⟨.illPc, 0⟩
      | _ => false)
    && (let s : State := { ready nopI with agenda := [.refreshScrub, .bringUp] }; s.agenda.length == 2) = true := by decide +kernel

theorem test_witness_StepRunsDecoded_groups :
    (let i := Instr.vote (rI (.g 1) (.g 2) (.g 0) (.g 0) 15 0)
     let s := pair i
     let one : State := { s with cur := s.cur.map (fun x => { x with agents := [thr] }) }
     some_ (form i) (·.coll) && some_ s.cur (fun x => s.wholeGroups i x.agents != [] && x.agents.all (fun a =>
         (s.ctx a).wait == .run && (s.groupMates a).all x.agents.contains && (match s.fetch a with
           | .word w => yields (decode w) (· == i)
           | _ => false)))
       && some_ one.cur (fun x => one.wholeGroups i x.agents == [])) = true := by decide +kernel

theorem test_witness_StepRunsDecoded_schedule :
    (idleAt nopI id).cur == none && (firstOf (idleAt nopI id).phases (idleAt nopI id)).isSome
    && State.reset.cur == none && (firstOf ({ State.reset with stage := 8 } : State).phases { State.reset with stage := 8 }).isNone = true := by
  decide +kernel

def condNop (g : BitVec 4) : Instr := .iadd { rI (.g 20) (.g 4) (.g 8) (.g 0) 6 0 with cm := { ops (.g 20) (.g 4) (.g 8) (.g 0) with guard := g } }

theorem test_witness_IssueChecks :
    [(Instr.iadd (rI (.g 256) (.g 4) (.g 8) (.g 0) 6 0), thr)].all (fun x => some_ (form x.1) (fun f => !f.coll
        && !(ready x.1).issueOk x.2 f))
    && [condNop 0].all (fun i => some_ (form i) (fun f => !f.coll && (ready i).issueOk thr f && !(ready i).guardTrue thr f.cm.guard))
    && (let i := Instr.lda (mI (.g 20) (.g 4) (.g 0) (.g 0) 6 0 0 0 0 0)
        some_ (form i) (fun f => !f.coll && (ready i).issueOk thr f && (ready i).guardTrue thr f.cm.guard && !f.space))
    && (let i := Instr.ldcs ldcsM
        let s := (ready i).modGrid 0 (fun g => { g with launch := { g.launch with exclusive := false } })
        some_ (form i) (fun f => !f.coll && s.issueOk thr f && s.guardTrue thr f.cm.guard && f.space && f.excl && !s.exclusive thr))
    && (let i := Instr.iadd (rI (.g 20) (.g 4) (.g 8) (.g 0) 6 0)
        let s := (ready i).modCore 0 (fun k => k.modThread 0 (fun t => { t with bad := [8] }))
        some_ (form i) (fun f => !f.coll && s.issueOk thr f && s.guardTrue thr f.cm.guard && f.space && !f.excl && s.badOperand thr f))
    && some_ (ready nopI).cur (fun x => x.agents == [thr]) = true := by decide +kernel

theorem test_witness_RegisterFile : ((ready nopI).thread? thr).isSome && ((ready doneI).lead? ld0).isSome
    && ((ready nopI).putD thr (.g 508) 128 (2 ^ 127 + 5)).opVal thr (.g 508) 128 == 2 ^ 127 + 5
    && (((ready doneI).putD ld0 (.s 63) 64 (2 ^ 64 - 1)).opVal ld0 (.s 63) 64 == 2 ^ 64 - 1) = true := by decide +kernel

def nexts (i : Instr) (s : State) : Bool :=
  match exec i s with
  | .next _ => true
  | _ => false

theorem test_witness_RegisterFrame : (samplesInteger ++ samplesFloat ++ samplesControl).all (fun i =>
    some_ (form i) (fun f => registerOnly f || f.major == 22) && (ready i).cur.isSome && nexts i (ready i)) = true := by
  decide +kernel

theorem test_witness_AccessIssueFrame : samplesMemory.all (fun i => some_ (form i) issuesAccess && (ready i).cur.isSome && nexts i (ready i))
    = true := by decide +kernel

theorem test_witness_PerformedFrame :
    pendingBy (.ld ldM) globBase (·.isLoad) && pendingBy (.st stM) globBase (fun p => p.got == [] && !p.undef && decide (p.rest.length ≤ 1))
    && pendingBy (.atom atomM) globBase (fun p => p.isAtomic
      && ((after (.atom atomM) (with_ (.atom atomM) globBase)).core 0).atomicSet p == [p])
    && nexts (.loadReturn 0 0) (after (.ld ldM) (with_ (.ld ldM) globBase)) && nexts (.storePerformed 0 0) (after (.st stM) (with_ (.st stM) globBase))
    && nexts (.storePerformed 0 0) (after (.sta staM) (with_ (.sta staM) storeBase))
    && nexts (.storePerformed 0 0) (after (.stcs stcsM) (with_ (.stcs stcsM) [(.g 4, 32, Config.cstoreBytes - 4)]))
    && nexts (.atomicAtHome 0 0) (after (.atom atomM) (with_ (.atom atomM) globBase))
    && nexts (.ldgaLanding 0 0) (after (.ldga ldgaM) (with_ (.ldga ldgaM) ldgaWs))
    && [Instr.slotldHdr hdrX, .cast castX].all (fun i =>
      let s := after i (blkState i 1 [0, 0])
      nexts (.loadReturn 0 0) s && some_ (s.readyOp 0 0) (fun p => match p.kind, p.place with
        | .step _ _ _, .glob b => p.via == .vf 0 0 && (s.core 0).tlb.any (fun e => e.part == 0 && e.vf == 0
            && decide (e.va ≤ b ∧ b + 64 + 8 * 1024 ≤ e.va + e.size))
        | _, _ => false)) = true := by decide +kernel

theorem test_witness_BarrierFrame :
    barForms.all (fun x => named (barState x.1 1) x.1 x.2 && (barState x.1 1).cur.isSome && nexts x.1 (barState x.1 1))
    && [(barvI, Instr.loadReturn 0 0, Ctr.ld), (btestI, .loadReturn 0 0, .ld), (binitI, .storePerformed 0 0, .st),
        (bexpI, .storePerformed 0 0, .st)].all (fun x =>
        barPends x.1 (barState x.1 1) x.2.2 (fun _ _ => true) && nexts x.2.1 (after x.1 (barState x.1 1))) = true := by
  decide +kernel

theorem test_witness_MemoryStaysCanonical : State.reset.phys.wf && (ready nopI).phys.wf
    && (match step (ready nopI) with
      | .next t => t.phys.wf
      | _ => false) = true := by decide +kernel


/-! ### Single steps with expected values from the spec -/

/-- The instruction leaves a value in a register. -/
def gives (i : Instr) (ws : List (Opnd × Nat × Nat)) (o : Opnd) (w v : Nat) : Bool :=
  i.wellFormed && (after i (with_ i ws)).opVal (laneOf i) o w == v
def flagsOf (i : Instr) (ws : List (Opnd × Nat × Nat)) : Nat := ((after i (with_ i ws)).ctx (laneOf i)).fstat.toNat
def predOf (i : Instr) (ws : List (Opnd × Nat × Nat)) (p : Nat) : Bool := (after i (with_ i ws)).readP (laneOf i) p

def ab (a b : Nat) : List (Opnd × Nat × Nat) := [(.g 4, 32, a), (.g 8, 32, b)]
def abc (a b c : Nat) : List (Opnd × Nat × Nat) := ab a b ++ [(.g 12, 32, c)]
def rT (ty : BitVec 4) : RForm := rI (.g 20) (.g 4) (.g 8) (.g 0) ty 0
def rS (ty : BitVec 4) : RForm := { rT ty with sat := 1 }
def rA (ty : BitVec 4) : RForm := rI (.g 20) (.g 4) (.g 0) (.g 0) ty 0
def r3 (ty : BitVec 4) : RForm := rI (.g 20) (.g 4) (.g 8) (.g 12) ty 0

-- spec/05, "Worked results"
theorem test_iadd_wraps : gives (.iadd (rT 0)) (ab 100 50) (.g 20) 32 0xFFFFFF96 = true := by decide +kernel
theorem test_iadd_saturates : gives (.iadd (rS 0)) (ab 100 50) (.g 20) 32 0x7F = true := by decide +kernel
theorem test_isub_saturates : gives (.isub (rS 6)) (ab 3 5) (.g 20) 32 0 = true := by decide +kernel
theorem test_imulh_signed : gives (.imulh (rT 2)) (ab 0x80000000 0x80000000) (.g 20) 32 0x40000000 = true := by decide +kernel
theorem test_imulh_unsigned : gives (.imulh (rT 6)) (ab 0xFFFFFFFF 0xFFFFFFFF) (.g 20) 32 0xFFFFFFFE = true := by decide +kernel
theorem test_idiv : (gives (.idiv (rT 2)) (ab 0xFFFFFFF9 2) (.g 20) 32 0xFFFFFFFD
    && gives (.idiv (rT 2)) (ab 0xFFFFFFF9 0) (.g 20) 32 0xFFFFFFFF
    && gives (.idiv (rT 2)) (ab 0x80000000 0xFFFFFFFF) (.g 20) 32 0x80000000) = true := by decide +kernel
theorem test_irem : (gives (.irem (rT 2)) (ab 0xFFFFFFF9 2) (.g 20) 32 0xFFFFFFFF
    && gives (.irem (rT 2)) (ab 0xFFFFFFF9 0) (.g 20) 32 0xFFFFFFF9
    && gives (.irem (rT 2)) (ab 0x80000000 0xFFFFFFFF) (.g 20) 32 0) = true := by decide +kernel
theorem test_iabs_saturates : gives (.iabs { rA 2 with sat := 1 }) (ab 0x80000000 0) (.g 20) 32 0x7FFFFFFF = true := by
  decide +kernel
theorem test_ineg_unsigned : gives (.ineg { rA 6 with sat := 1 }) (ab 5 0) (.g 20) 32 0 = true := by decide +kernel
theorem test_bfx : gives (.bfx (rT 2)) (ab 0xF0A0 0x0808) (.g 20) 32 0xFFFFFFF0 = true := by decide +kernel
theorem test_sra_past_width : gives (.sra (rT 6)) (ab 0x80000000 40) (.g 20) 32 0xFFFFFFFF = true := by decide +kernel
theorem test_rot_past_width : gives (.rot (rT 6)) (ab 0x80000001 36) (.g 20) 32 0x18 = true := by decide +kernel
theorem test_clz_zero : gives (.clz (rA 6)) (ab 0 0) (.g 20) 32 32 = true := by decide +kernel
theorem test_lea_canonical : gives (.lea { rT 2 with func := 2 }) [(.g 4, 64, 0x007FFFFFFFFFFFF0), (.g 8, 32, 0xFFFFFFFC)] (.g 20) 64
    0x007FFFFFFFFFFFE0 = true := by decide +kernel
-- hand-worked by spec/05 R96 to R105
theorem test_imad_wraps_once : gives (.imad (r3 6)) (abc 0x10000 0x10000 7) (.g 20) 32 7 = true := by decide +kernel
theorem test_imadw_signed : gives (.imadw (r3 2)) [(.g 4, 32, 0xFFFFFFFF), (.g 8, 32, 2), (.g 12, 64, 1)] (.g 20) 64
    0xFFFFFFFFFFFFFFFF = true := by decide +kernel
theorem test_imin_imax : (gives (.imin (rT 2)) (ab 0xFFFFFFFF 1) (.g 20) 32 0xFFFFFFFF
    && gives (.imax (rT 6)) (ab 0xFFFFFFFF 1) (.g 20) 32 0xFFFFFFFF) = true := by decide +kernel
theorem test_andn : gives (.andn (rT 6)) (ab 0xFF 0x0F) (.g 20) 32 0xF0 = true := by decide +kernel
theorem test_shl_shr_past_width : (gives (.shl (rT 6)) (ab 1 32) (.g 20) 32 0 && gives (.shr (rT 6)) (ab 0x80000000 0x11F) (.g 20) 32 1)
    = true := by decide +kernel
theorem test_bfi : gives (.bfi (r3 6)) (abc 0xAB 0x0804 0xFFFFFFFF) (.g 20) 32 0xFFFFFABF = true := by decide +kernel
theorem test_popc_brev : (gives (.popc (rA 7)) [(.g 4, 64, 0x8000000000000001)] (.g 20) 32 2
    && gives (.brev (rA 6)) (ab 1 0) (.g 20) 32 0x80000000) = true := by decide +kernel
theorem test_isetp_signed : (predOf (.isetp { rI (.g 1) (.g 4) (.g 8) (.g 0) 2 2 with pred2 := 7 }) (ab 0xFFFFFFFF 0) 1
    && !predOf (.isetp { rI (.g 1) (.g 4) (.g 8) (.g 0) 6 2 with pred2 := 7 }) (ab 0xFFFFFFFF 0) 1) = true := by decide +kernel
theorem test_sel : gives (.sel { rT 6 with pred2 := 15 }) (ab 1 2) (.g 20) 32 2 = true := by decide +kernel
theorem test_plog_all : predOf (.plog (rI (.g 1) (.g 7) (.g 7) (.g 7) 15 0x80)) [] 1 = true := by decide +kernel
theorem test_movi_extends : gives (.movi (iI (.g 8) (.imm 0) (.g 0) (.g 0) 2 0xFFFFFFFF)) [] (.g 8) 64 0xFFFFFFFFFFFFFFFF = true := by
  decide +kernel
theorem test_movh_keeps_low : gives (.movh (iI (.g 20) (.imm 0) (.g 0) (.g 0) 0 0x12345678)) [(.g 20, 64, 0x9ABCDEF0)] (.g 20) 64
    0x123456789ABCDEF0 = true := by decide +kernel
theorem test_lead_extends : gives (.iadd (rI (.s 20) (.s 4) (.s 8) (.g 0) 2 0)) [] (.s 20) 64 0 = true := by decide +kernel

-- spec/04, "Worked conversions", and spec/07 R157
def cvt (src dst : Nat) (round : BitVec 2) (sat : BitVec 1) : Instr :=
  .fcvt { rI (.g 20) (.g 4) (.g 0) (.g 0) (BitVec.ofNat 4 src) (BitVec.ofNat 17 dst) with round := round, sat := sat }
def cvtTo (src dst : Nat) (round : BitVec 2) (sat : BitVec 1) (x v fl : Nat) : Bool :=
  gives (cvt src dst round sat) (ab x 0) (.g 20) 32 v && flagsOf (cvt src dst round sat) (ab x 0) == fl

theorem test_convert_e4m3 : (cvtTo 9 12 0 0 0x3E99999A 0x2A 16 && cvtTo 9 12 0 0 0x43E80000 0x7E 16
    && cvtTo 9 12 0 0 0x43EB0000 0x7F 20 && cvtTo 9 12 0 1 0x43EB0000 0x7E 20
    && cvtTo 9 12 0 0 0x3A83126F 0x01 24 && cvtTo 9 12 0 0 0x3A800000 0x00 24) = true := by decide +kernel
theorem test_convert_narrow : (cvtTo 9 14 0 0 0x40200000 0x4 16 && cvtTo 9 14 0 0 0xC0A00000 0xE 16 && cvtTo 9 14 0 0 0x40E00000 0x7 20
    && cvtTo 9 13 1 0 0x47C35000 0x7B 20 && cvtTo 9 11 0 0 0x3F808000 0x3F80 16) = true := by decide +kernel
def cvtScl (sat : BitVec 1) : Instr := .fcvt { rI (.g 20) (.g 4) (.g 8) (.g 0) 9 0x1C with sat := sat }
theorem test_convert_scaled : (gives (cvtScl 0) (ab 0x447A0000 0x3EE00000) (.g 20) 32 0x7E && gives (cvtScl 0) (ab 0x44898000 0x3EE00000) (.g 20) 32 0x7F
    && gives (cvtScl 1) (ab 0x44898000 0x3EE00000) (.g 20) 32 0x7E) = true := by decide +kernel

-- spec/07, "Worked example: a seed and one Newton step"
theorem test_rsqs : (gives (.rsqs (rA 9)) (ab 0x40800000 0) (.g 20) 32 0x3EFFF800 && gives (.rsqs (rA 9)) (ab 1 0) (.g 20) 32 0x64B4FF80
    && gives (.rsqs (rA 9)) (ab 0 0) (.g 20) 32 0x7F800000 && flagsOf (.rsqs (rA 9)) (ab 0 0) == 2) = true := by decide +kernel
theorem test_rcps_overflows : (gives (.rcps (rA 9)) (ab 1 0) (.g 20) 32 0x7F800000 && flagsOf (.rcps (rA 9)) (ab 1 0) == 20) = true := by
  decide +kernel
theorem test_fmul_overflows : (gives (.fmul (rT 9)) (ab 0x64B4FF80 0x64B4FF80) (.g 20) 32 0x7F800000
    && flagsOf (.fmul (rT 9)) (ab 0x64B4FF80 0x64B4FF80) == 20 && gives (.fmul (rT 9)) (ab 1 0x64B4FF80) (.g 20) 32 0x1A34FF80) = true := by
  decide +kernel
theorem test_ffma_rounds_once : (gives (.ffma { r3 9 with mods := 32 }) (abc 0x1A34FF80 0x64B4FF80 0x3F800000) (.g 20) 32 0x39769FF8
    && flagsOf (.ffma { r3 9 with mods := 32 }) (abc 0x1A34FF80 0x64B4FF80 0x3F800000) == 0
    && gives (.ffma (r3 9)) (abc 0x38F69FF8 0x64B4FF80 0x64B4FF80) (.g 20) 32 0x64B504F3) = true := by decide +kernel
theorem test_fmul_zero_infinity : (gives (.fmul (rT 9)) (ab 0 0x7F800000) (.g 20) 32 0x7FC00000
    && flagsOf (.fmul (rT 9)) (ab 0 0x7F800000) == 1) = true := by decide +kernel

-- hand-worked by spec/07
theorem test_fadd_zero_sign : (gives (.fadd { rT 9 with round := 3 }) (ab 0x3F800000 0xBF800000) (.g 20) 32 0x80000000
    && gives (.fadd (rT 9)) (ab 0x3F800000 0xBF800000) (.g 20) 32 0) = true := by decide +kernel
theorem test_fsub_f16 : gives (.fsub (rT 10)) (ab 0x7BFF 0xFBFF) (.g 20) 32 0x7C00 = true := by decide +kernel
theorem test_fmin_zeros : (gives (.fmin (rT 9)) (ab 0 0x80000000) (.g 20) 32 0x80000000
    && gives (.fmax (rT 9)) (ab 0x7FC00000 0x80000000) (.g 20) 32 0x80000000) = true := by decide +kernel
theorem test_fsetp_unordered : (!predOf (.fsetp { rI (.g 1) (.g 4) (.g 8) (.g 0) 9 1 with pred2 := 7 }) (ab 0x7FC00000 0) 1
    && predOf (.fsetp { rI (.g 1) (.g 4) (.g 8) (.g 0) 9 9 with pred2 := 7 }) (ab 0x7FC00000 0) 1
    && flagsOf (.fsetp { rI (.g 1) (.g 4) (.g 8) (.g 0) 9 2 with pred2 := 7 }) (ab 0x7FC00000 0) == 1) = true := by decide +kernel
theorem test_fclass : (gives (.fclass (rA 9)) (ab 0x7F800001 0) (.g 20) 32 1 && gives (.fclass (rA 9)) (ab 0x80000001 0) (.g 20) 32 16) = true := by
  decide +kernel
theorem test_fdiv : (gives (.fdiv (rT 9)) (ab 0x3F800000 0x40400000) (.g 20) 32 0x3EAAAAAB && gives (.fdiv (rT 9)) (ab 0x3F800000 0x80000000) (.g 20) 32
    0xFF800000 && flagsOf (.fdiv (rT 9)) (ab 0x3F800000 0x80000000) == 2) = true := by decide +kernel
theorem test_fsqrt : (gives (.fsqrt (rA 9)) (ab 0x40000000 0) (.g 20) 32 0x3FB504F3 && gives (.fsqrt (rA 9)) (ab 0x80000000 0) (.g 20) 32 0x80000000)
    = true := by decide +kernel
theorem test_fexp2 : (gives (.fexp2 (rA 9)) (ab 0x40400000 0) (.g 20) 32 0x41000000 && flagsOf (.fexp2 (rA 9)) (ab 0x40400000 0) == 0
    && gives (.fexp2 (rA 9)) (ab 0x3F000000 0) (.g 20) 32 0x3FB504F3 && flagsOf (.fexp2 (rA 9)) (ab 0x3F000000 0) == 16) = true := by decide +kernel
theorem test_flog2 : (gives (.flog2 (rA 9)) (ab 0x41000000 0) (.g 20) 32 0x40400000 && flagsOf (.flog2 (rA 9)) (ab 0x41000000 0) == 0
    && gives (.flog2 (rA 9)) (ab 0 0) (.g 20) 32 0xFF800000 && flagsOf (.flog2 (rA 9)) (ab 0 0) == 2) = true := by decide +kernel
theorem test_frnd : (gives (.frnd { rA 9 with round := 1 }) (ab 0xBE99999A 0) (.g 20) 32 0x80000000
    && flagsOf (.frnd { rA 9 with round := 1 }) (ab 0xBE99999A 0) == 0) = true := by decide +kernel
theorem test_fscale : (gives (.fscale (rT 9)) (ab 0x3F800000 0xFFFFFF6B) (.g 20) 32 1 && gives (.fscale (rT 9)) (ab 0x3F800000 200) (.g 20) 32 0x7F800000)
    = true := by decide +kernel
theorem test_fexpo : (gives (.fexpo (rA 9)) (ab 1 0) (.g 20) 32 0xFFFFFF6B && gives (.fexpo (rA 9)) (ab 0x80000000 0) (.g 20) 32 0x80000000
    && flagsOf (.fexpo (rA 9)) (ab 0x80000000 0) == 2) = true := by decide +kernel
theorem test_fexpo_f64 : gives (.fexpo (rA 8)) [(.g 4, 64, 0x7FE0000000000000), (.g 20, 64, 0x1234567800000000)] (.g 20) 64
    0x12345678000003FF = true := by decide +kernel
theorem test_f2i : (gives (.f2i (rI (.g 20) (.g 4) (.g 0) (.g 0) 9 0)) (ab 0xC3010000 0) (.g 20) 32 0xFFFFFF80
    && gives (.f2i (rI (.g 20) (.g 4) (.g 0) (.g 0) 9 6)) (ab 0x40200000 0) (.g 20) 32 2
    && flagsOf (.f2i (rI (.g 20) (.g 4) (.g 0) (.g 0) 9 6)) (ab 0x40200000 0) == 16) = true := by decide +kernel
theorem test_i2f_overflows : (gives (.i2f (rI (.g 20) (.g 4) (.g 0) (.g 0) 6 10)) (ab 65520 0) (.g 20) 32 0x7C00
    && gives (.i2f (rI (.g 20) (.g 4) (.g 0) (.g 0) 6 9)) (ab 16777217 0) (.g 20) 32 0x4B800000) = true := by decide +kernel
theorem test_fadd_f64_immediate : gives (.faddImm (iI (.g 20) (.g 4) (.imm 0) (.g 0) 1 0x3F800000)) [(.g 4, 64, 0x3FF0000000000000)] (.g 20) 64
    0x4000000000000000 = true := by decide +kernel

-- spec/06 and spec/10, hand-worked
/-- A load issued and returned. -/
def loaded (i : Instr) (s : State) : State := after (.loadReturn 0 0) (after i s)
def stored (i : Instr) (s : State) : State := after (.storePerformed 0 0) (after i s)
def atomicDone (i : Instr) (s : State) : State := after (.atomicAtHome 0 0) (after i s)
def mT (size : BitVec 4) : MForm := mI (.g 20) (.g 4) (.g 8) (.g 0) size 0 0 0 0 0
def at20 : List (Opnd × Nat × Nat) := [(.g 4, 64, 0x20001), (.g 8, 64, 0x1122334455667788)]

theorem test_ld_extends : [(0, 0xFFFFFF80), (4, 0x80), (1, 0xFFFFFF80), (5, 0xFF80), (6, 0x7F01FF80)].all (fun x =>
    (loaded (.ld { mT x.1 with cm := ops (.g 20) (.g 4) (.g 0) (.g 0) })
      (bytesAt [(0x20001, [0x80, 0xFF, 0x01, 0x7F])] (with_ (.ld { mT x.1 with cm := ops (.g 20) (.g 4) (.g 0) (.g 0) }) at20))).opVal
        thr (.g 20) 32 == x.2) = true := by decide +kernel
theorem test_ld_counts : ((after (.ld ldM) (with_ (.ld ldM) globBase)).ctx thr).ld = 1
    ∧ ((loaded (.ld ldM) (with_ (.ld ldM) globBase)).ctx thr).ld = 0 := by decide +kernel
theorem test_st_little_endian : (stored (.st { mT 7 with cm := ops (.g 0) (.g 4) (.g 8) (.g 0) })
    (with_ (.st { mT 7 with cm := ops (.g 0) (.g 4) (.g 8) (.g 0) }) at20)).phys.read 0x20000 10
      = [0, 0x88, 0x77, 0x66, 0x55, 0x44, 0x33, 0x22, 0x11, 0] := by decide +kernel
/-- `LDX` with shift 2 and offset 16 (spec/06, "Worked example: a gather"), the base 0 of an unset argument. -/
def ldxG : MForm := { mI (.g 20) (.s 4) (.g 8) (.g 0) 9 0 0 0 0 0 with offset := 0x40010 }
theorem test_ldx_address : (((after (.ldx ldxG) (with_ (.ldx ldxG) [(.g 8, 32, 0x8001)])).core 0).pend.map (·.place)) = [.glob 0x20014] := by
  decide +kernel
theorem test_atom_add : (atomicDone (.atom atomM) (bytesAt [(0x3FFFC, leBytes 4 0xFFFFFFFF)]
    (with_ (.atom atomM) (globBase ++ [(.g 8, 32, 3)])))).phys.read 0x3FFFC 4 = [2, 0, 0, 0]
    ∧ (atomicDone (.atom atomM) (bytesAt [(0x3FFFC, leBytes 4 0xFFFFFFFF)]
    (with_ (.atom atomM) (globBase ++ [(.g 8, 32, 3)])))).opVal thr (.g 20) 32 = 0xFFFFFFFF := by decide +kernel
theorem test_atom_operations : atomOp 7 6 5 5 = 0 ∧ atomOp 7 6 4 5 = 5 ∧ atomOp 8 6 0 5 = 5 ∧ atomOp 8 6 6 5 = 5 ∧ atomOp 8 6 3 5 = 2
    ∧ atomOp 1 2 0xFFFFFFFF 0 = 0xFFFFFFFF ∧ atomOp 1 6 0xFFFFFFFF 0 = 0 ∧ atomOp 0 9 0x4B800000 0x3F800000 = 0x4B800000 := by
  decide +kernel
-- spec/10, "Worked examples": counts 2, 1, 3 and 0 on a counter of 5 with the limit 8
theorem test_ticket : atomResult (.ticket (.lit 0) 2 8) 5 = (7, 5) ∧ atomResult (.ticket (.lit 0) 1 8) 7 = (8, 7)
    ∧ atomResult (.ticket (.lit 0) 3 8) 8 = (8, 2 ^ 64 - 1) ∧ atomResult (.ticket (.lit 0) 0 8) 8 = (8, 8) := by decide +kernel
theorem test_cas : atomResult (.cas (.lit 0) 5 9) 5 = (9, 5) ∧ atomResult (.cas (.lit 0) 5 9) 6 = (6, 6) := by decide +kernel
-- spec/06, "Worked example: a gather": lane 6 of a base that runs into the gap, and a sum past 2^64
theorem test_address_checks : (ready (.ld ldM)).checkGlobal thr 0x7FFFFFFFFFFFFE 4 false false = some ⟨.noncanon, 0x7FFFFFFFFFFFFE⟩
    ∧ (ready (.ld ldM)).checkGlobal thr 0xFFFFFFFFFFFFFFFE 4 false false = some ⟨.crossTop, 0xFFFFFFFFFFFFFFFE⟩
    ∧ (ready (.ld ldM)).checkGlobal thr (-1) 4 false false = some ⟨.noncanon, 0xFFFFFFFFFFFFFFFF⟩
    ∧ (ready (.ld ldM)).checkGlobal thr 0x3FFFD 1 true true = none ∧ (ready (.ld ldM)).checkGlobal thr 0x10000 4 true true
      = some ⟨.perm, 0x10000⟩ := by decide +kernel

-- spec/08: two threads at one collective, and the spec's worked trees
/-- Threads 0 and 1 of a group with a value each in `g4` and `g8`. -/
def pairOf (i : Instr) (x0 y0 x1 y1 : Nat) : State :=
  ((((pair i).putD thr (.g 4) 32 x0).putD thr (.g 8) 32 y0).putD thr1 (.g 4) 32 x1).putD thr1 (.g 8) 32 y1
def both (i : Instr) (s : State) (o : Opnd) (w : Nat) : Nat × Nat := ((after i s).opVal thr o w, (after i s).opVal thr1 o w)

theorem test_vote_ballot : both (.vote (rI (.g 20) (.g 2) (.g 0) (.g 0) 15 3))
    ((pairOf (.vote (rI (.g 20) (.g 2) (.g 0) (.g 0) 15 3)) 0 0 0 0).writeP thr1 2 true) (.g 20) 64 = (2, 2) := by decide +kernel
theorem test_shfl_up : both (.shfl (rI (.g 20) (.g 4) (.g 8) (.g 0) 6 1)) (pairOf (.shfl (rI (.g 20) (.g 4) (.g 8) (.g 0) 6 1)) 5 1 7 1) (.g 20) 32
    = (5, 5) := by decide +kernel
theorem test_match : both (.matchv (rA 6)) (pairOf (.matchv (rA 6)) 5 0 5 0) (.g 20) 64 = (3, 3)
    ∧ both (.matchv (rA 6)) (pairOf (.matchv (rA 6)) 5 0 6 0) (.g 20) 64 = (1, 2) := by decide +kernel
theorem test_gred : both (.gred (rA 2)) (pairOf (.gred (rA 2)) 0xFFFFFFFF 0 8 0) (.g 20) 32 = (7, 7) := by decide +kernel
theorem test_scan_exclusive : both (.scan { rA 2 with func := 9 }) (pairOf (.scan { rA 2 with func := 9 }) 5 0 8 0) (.g 20) 32
    = (0x7FFFFFFF, 5) := by decide +kernel
theorem test_segred : both (.segred { rA 2 with pred2 := 7 }) (pairOf (.segred { rA 2 with pred2 := 7 }) 5 0 8 0) (.g 20) 32 = (5, 8) := by
  decide +kernel
-- spec/04, the example of R89: 2^24, 1, 1, 1, 0, 0, 0, 0 give 16,777,218
theorem test_fixed_tree : fixedTree (redOp 0 9 0) 6 [(0, (0x4B800000, 0)), (1, (0x3F800000, 0)), (2, (0x3F800000, 0)), (3, (0x3F800000, 0)),
    (4, (0, 0)), (5, (0, 0)), (6, (0, 0)), (7, (0, 0))] = some (0x4B800001, 16) := by decide +kernel
-- spec/08, "Worked example: REBAL and SEGRED over ragged counts"
def ragged : List (Nat × Nat × Nat) := startsFrom 0 [(0, 3), (1, 0), (2, 2), (3, 1), (4, 0), (5, 4), (6, 1), (7, 2)]
theorem test_rebal : rebalWord ragged 13 4 = 2 + 2 ^ 32 * 1 + 2 ^ 64 * 13 + 2 ^ 96 * 3
    ∧ rebalWord ragged 13 9 = 5 + 2 ^ 32 * 3 + 2 ^ 64 * 13 + 2 ^ 96 * 6
    ∧ rebalWord ragged 13 14 = 0xFFFFFFFF + 2 ^ 32 * 1 + 2 ^ 64 * 13 + 2 ^ 96 * 13 := by decide +kernel

-- branches (R67, R168): the target of a backward branch, a call's return PC
theorem test_bra_back : ((after (.bra (bI (.g 0) 2 0xFFFFFFF)) (ready (.bra (bI (.g 0) 2 0xFFFFFFF)))).ctx thr).pc = 0x10000 - 64 + 2
    ∧ ((after (.bra (bI (.g 0) 2 0xFFFFFFF)) (ready (.bra (bI (.g 0) 2 0xFFFFFFF)))).ctx thr).byBranch = true := by decide +kernel
theorem test_call_return : gives (.call (bI (.g 20) 0 1)) [] (.g 20) 64 0x10001 = true := by decide +kernel
theorem test_callx_reads_first : ((after (.callx (rI (.g 4) (.g 4) (.g 0) (.g 0) 15 0))
    (with_ (.callx (rI (.g 4) (.g 4) (.g 0) (.g 0) 15 0)) [(.g 4, 64, 0x2000)])).ctx thr).pc = 0x2000 := by decide +kernel
theorem test_exit : ((after (.exit (rI (.g 0) (.g 0) (.g 0) (.g 0) 15 0)) (ready (.exit (rI (.g 0) (.g 0) (.g 0) (.g 0) 15 0)))).ctx thr).wait
    = .exited := by decide +kernel

-- spec/11, "Worked example: two parties and an overrun": the object's low word step by step
def parties1 : Obj := (Obj.fresh 2).arrive 1 |>.1
def parties4 : Obj := (parties1.arrive 3).1
def parties5 : Obj := (parties4.arrive 1).1
theorem test_two_parties : (Obj.fresh 2).low = 0x00200240 ∧ parties1.low = 0x00100240 ∧ parties4.low = 0x00100250 ∧ parties5.low = 0x00200251
    ∧ (parties1.arrive 3).2 = (false, false) ∧ (parties4.arrive 1).2 = (true, true) := by decide +kernel
-- spec/11, "Worked example: a join, a fault and a reduction": ranks 0 and 2 of phase 2 give 5.5
def phaseTwo : Machine.Circle := { circle1 with
  phase := 2, fault := true,
  members := [⟨.thread 0 0 0, 0, true, false, false⟩, ⟨.thread 1 0 0, 1, true, false, true⟩, ⟨.thread 2 0 0, 2, true, false, false⟩],
  now := [(.thread 2 0 0, .red 0 9 0 0x40800000), (.thread 1 0 0, .quiet), (.thread 0 0 0, .red 0 9 0 0x3FC00000)] }
theorem test_circle_reduction : (phaseTwo.redResult 0 9 0).1 = 0x40B00000 ∧ phaseTwo.phaseDone = true ∧ mixedPhase phaseTwo.now = false
    ∧ phaseTwo.boundary.members.length = 2 ∧ phaseTwo.boundary.now = [] := by decide +kernel
-- R255: what CQUERY writes of it
theorem test_circle_query : phaseTwo.query (.thread 0 0 0) (phaseTwo.handle 0) = 0x002F000300001000 := by decide +kernel
-- R248: a member that has arrived in the current phase arrives for the next; one that has arrived in both is held
theorem test_slots : phaseTwo.slotFor ⟨.thread 0 0 0, 0, true, false, false⟩ = .next
    ∧ { phaseTwo with next := [(.thread 0 0 0, .bar)] }.slotFor ⟨.thread 0 0 0, 0, true, false, false⟩ = .held := by decide +kernel

-- spec/14, "Worked example: a path, a compact leaf and an escape"
def deep : VolDesc :=
  { pool := 0, tiles := 8, rank := 3, elemLog := 2, append := false, budget := 0, levels := 4,
    ext := [4096, 4096, 64], tile := [4, 4, 2], background := 0 }
theorem test_volume_path : deep.total = 2 ^ 20 ∧ deep.tileOf [1000, 37, 9] = 131646
    ∧ (List.range 4).map (deep.path 131646) = [0, 32, 8, 62] ∧ deep.elemOf [1000, 37, 9] = 344 := by decide +kernel
/-- The example's volume at 0x20000, in slot 1: rank 2, extents 64:64, tiles 32:32, budget 2. -/
def small : List Byte := leBytes 8 0x20000 ++ leBytes 4 8 ++ leBytes 1 0x12 ++ leBytes 1 2 ++ leBytes 2 1 ++ leBytes 4 63 ++ leBytes 4 63
  ++ leBytes 8 0 ++ leBytes 1 5 ++ leBytes 1 5 ++ leBytes 30 0
theorem test_volume_accepted : volAccepted small = true := by decide +kernel
def inSmall (i : Instr) (x y v : Nat) (l : List (Nat × List Byte)) : State :=
  (bytesAt l (with_ i [(.g 8, 64, x + 2 ^ 32 * y), (.g 12, 32, v)])).modGrid 0 (fun g => { g with vols := [(1, small)] })
/-- The next state of the instruction, run on the example's volume. -/
def ranSmall (i : Instr) (x y v : Nat) (l : List (Nat × List Byte)) : State := after i (inSmall i x y v l)
def words (s : State) (l : List (Nat × Nat)) : List Nat := l.map (fun x => leNat (s.phys.read x.1 x.2))
def smallX (d b : Opnd) (flags : BitVec 22) : XForm := xI d (.g 8) b (.g 0) 0 1 0 flags
theorem test_vst_allocates : words (ranSmall (.vst (smallX (.g 0) (.g 12) 0)) 5 3 0x3FC00000 []) [(0x20200, 8), (0x20008, 8), (0x20010, 4),
    (0x20014, 4), (0x20024, 4), (0x21000, 2), (0x21010, 8), (0x21018, 8)] = [0x21003, 0x21000, 8, 1, 1, 1, 101, 0x3FC00000] := by
  decide +kernel
/-- Tile 0 compact with the pairs of steps 2 to 4. -/
def twoPairs (v : Nat) : List (Nat × List Byte) := [(0x20200, leBytes 8 0x21003), (0x21000, leBytes 2 2),
  (0x21010, leBytes 8 101 ++ leBytes 8 v ++ leBytes 8 102 ++ leBytes 8 0x40000000)]
theorem test_vst_escapes : words (ranSmall (.vst (smallX (.g 0) (.g 12) 0)) 0 0 0x40400000 (twoPairs 0x3FE00000)) [(0x20200, 8),
    (0x21000, 4), (0x21000 + 404, 4), (0x21000 + 408, 4), (0x21010, 4)] = [0x21005, 0x40400000, 0x3FE00000, 0x40000000, 0] := by
  decide +kernel
theorem test_vred_compact : words (ranSmall (.vred (smallX (.g 0) (.g 12) 9)) 5 3 0x3E800000 (twoPairs 0x3FC00000)) [(0x21018, 8)]
    = [0x3FE00000] := by decide +kernel
theorem test_vld_background : ((ranSmall (.vld (smallX (.g 14) (.g 0) 0)) 5 3 0 []).opVal thr (.g 14) 32) = 0 := by decide +kernel
theorem test_vprobe_entry : ((ranSmall (.vprobe (smallX (.g 16) (.g 0) 0)) 31 31 0 [(0x20200, leBytes 8 0x21005)]).opVal thr (.g 16) 64)
    = 0x21005 := by decide +kernel
-- R277: a freed leaf heads the free list
theorem test_vfree_pushes : words (ranSmall (.vfree (smallX (.g 0) (.g 0) 0)) 0 0 0 [(0x20200, leBytes 8 0x21005), (0x20000, leBytes 8 0x25000),
    (0x20024, leBytes 4 1)]) [(0x20200, 8), (0x20000, 8), (0x21000, 8), (0x20024, 4)] = [0, 0x21000, 0x25000, 0] := by decide +kernel
-- R264: an entry that the part cannot follow
theorem test_entries : Entry.read false 0x21003 = none ∧ Entry.read true 0x21009 = none ∧ Entry.read true 0x21201 = none
    ∧ Entry.read false 0x21201 = some (.node 0x21200) ∧ Entry.read true 0x21005 = some (.leaf 0x21000 false) := by decide +kernel
-- R280: the first record of an append-mode volume
theorem test_vst_append : words (after (.vst (vstX 2)) (volState (.vst (vstX 2)) 9 [])) [(0x21000, 4), (0x21010, 8), (0x20030, 8)]
    = [9, 5, 1] := by decide +kernel

-- spec/15, "Worked example: an overhanging tile"
def img : List Byte := leBytes 8 0x30000 ++ leBytes 1 9 ++ leBytes 1 2 ++ leBytes 6 0 ++ leBytes 4 9 ++ leBytes 4 5 ++ leBytes 8 0
  ++ leBytes 8 4 ++ leBytes 8 64 ++ leBytes 16 0 ++ leBytes 2 7 ++ leBytes 2 3 ++ leBytes 4 0 ++ leBytes 8 0xBF800000 ++ leBytes 48 0
theorem test_tensor_accepted : tensorAccepted img = true ∧ (Tensor.ofBytes img).bytes = 128 := by decide +kernel
theorem test_tile_edges : [0, 5, 6, 8, 13, 14, 16].map ((Tensor.ofBytes img).globalOf [4, 4])
    = [some 0x30110, some 0x30124, none, some 0x30150, some 0x30164, none, none] := by decide +kernel
theorem test_tile_negative : (Tensor.ofBytes img).globalOf [-1, -1] 0 = none ∧ (Tensor.ofBytes img).globalOf [-1, -1] 9 = some 0x30000 := by
  decide +kernel
def imgI : Instr := .cpy cpyX
/-- The lead's copy, as its first chunk lands: the source at 0x30110, the tile at A-store 0x200. -/
def imgState : State := (bytesAt [(0x30110, leBytes 4 0x42880000)]
    ((with_ imgI [(.g 4, 64, 4 + 2 ^ 34), (.g 8, 32, 0x200)]).modGrid 0 (fun g => { g with recs := [(0, img)] })))
def landed6 : State :=
  match execCopyChunkLand 0 0 0 ((after imgI imgState).modCore 0 (fun k => k.modCopy 0 (fun c => { c with accepted := true }))) with
  | .next s => s
  | _ => State.reset
theorem test_cpy_lands : ((landed6.storeRead 0 0 0x200 4), (landed6.storeRead 0 0 0x218 4), (landed6.storeRead 0 0 0x27C 4))
    = (leBytes 4 0x42880000, leBytes 4 0xBF800000, leBytes 4 0xBF800000) := by decide +kernel

-- spec/16, "Worked example: scales, two blocks and a saturating drain": row 1, one column; A 1.0 then 2.0, B 0.5 then -0.25
def vals (code n raw : Nat) : List FVal := List.replicate n (elemVal code raw)
def block0 : List (List Nat) := promoteTile 9 [[0]] [(vals 12 128 0x38, elemVal 9 0x40000000)] [vals 12 128 0x30] (elemVal 9 0x3E000000)
theorem test_promotion : block0 = [[0x41800000]]
    ∧ promoteTile 9 block0 [(vals 12 128 0x40, elemVal 9 0x3F800000)] [vals 12 128 0xA8] (elemVal 9 0x3D800000) = [[0x41400000]] := by
  decide +kernel
/-- The drained codes of the table: C of 4, 12, 68, 444, 460, 468, 508. -/
theorem test_drain_saturates : [0x40800000, 0x41400000, 0x42880000, 0x43DE0000, 0x43E60000, 0x43EA0000, 0x43FE0000].map
      (fun c => (drainElem 9 12 0 true false 0 c).1) = [0x48, 0x54, 0x68, 0x7E, 0x7E, 0x7E, 0x7E]
    ∧ (drainElem 9 12 0 false false 0 0x43EA0000).1 = 0x7F ∧ (drainElem 9 12 0 true false 0 0x43FE0000).2 = 0x14 := by decide +kernel
-- R308: element (k, n) of a dense block of 8-bit elements lies at 2,048·(k div 16) + 16·n + k mod 16
theorem test_dense_column : columnChunk ((leBytes 2064 0) ++ [0x38] ++ leBytes 100 0) 1 1 = 0x38 :: List.replicate 15 0 := by decide +kernel
theorem test_spread : spreadKept [true, false, false, true] [elemVal 12 0x38, elemVal 12 0x40] = [elemVal 12 0x38, .fin false 0 0,
    .fin false 0 0, elemVal 12 0x40] := by decide +kernel
-- "Worked example: QDUAL": rows 0 and 5, column 1
theorem test_quant_row0 : (let q := quantBlock 12 true (elemVal 9 0x40E00000 :: elemVal 9 0x3DCCCCCD :: vals 9 126 0)
    (q.1, q.2.1.take 3, q.2.2)) == (0x3C800000, [0x7E, 0x4D, 0], (16 : FFlags)) := by decide +kernel
theorem test_quant_column1 : (let q := quantBlock 12 true (elemVal 9 0x3DCCCCCD :: vals 9 4 0 ++ [elemVal 9 0xC0600000] ++ vals 9 122 0)
    (q.1, q.2.1.take 6)) == (0x3C000000, [0x55, 0, 0, 0, 0, 0xFE]) := by decide +kernel
theorem test_quant_nan : (quantBlock 12 true (elemVal 9 0x7FC00000 :: vals 9 127 0)).1 = 0x7FC00000 := by decide +kernel
-- "Worked example: ordered drains from three dies": 2^24, then 1.0 twice
theorem test_drain_add : (drainElem 9 9 0 false true 0 0x4B800000).1 = 0x4B800000
    ∧ (drainElem 9 9 0 false true 0x4B800000 0x3F800000).1 = 0x4B800000 ∧ (drainElem 9 9 0 false true 0x40000000 0x4B800000).1 = 0x4B800001 := by
  decide +kernel

-- spec/18, "Worked example: one pass over four slots"; R351
theorem test_rule : ruleAccepted 0x0002_3800_3B33#128 = true ∧ ruleFinal 0x0002_3800_3B33#128 = 0x3B33 ∧ ruleKmin 0x0002_3800_3B33#128 = 2 := by
  decide +kernel
def casts4 : List Slot8 := [(0x101, 0x3B9A), (0x202, 0x38CD), (0x303, 0x38CD), (0x404, 0x34CD)].map (fun x =>
  (castSlot 0x0002_3800_3B33#128 0 (Slot8.ofWord 0) x.1 x.2).1)
theorem test_casts : casts4.map (fun r => r.word.toNat) = [0x000003B9A0010102, 0x0000038CD0020201, 0x0000038CD0030301, 0x0000034CD0040400] := by
  decide +kernel
/-- The next state of a step on a block, and of its performing at its home. -/
def atHome (i : Instr) (s : State) : State := after (.loadReturn 0 0) (after i s)
/-- The block at 0x20000 after the four casts. -/
def fourCast : List (Nat × List Byte) :=
  [(0x20008, leBytes 8 0x8050010000040001), (0x20040, casts4.flatMap (fun r => leBytes 8 r.word.toNat))]
def passI : Instr := .frontPass (xI (.g 20) (.g 4) (.g 0) (.g 0) 0 1 0 1)
def passed4 : State := atHome passI ((bytesAt fourCast (with_ passI [(.g 4, 64, 0x20000)])).modGrid 0 (fun g =>
  { g with rules := [(1, 0x0002_3800_3B33#128)] }))
theorem test_front_pass : words passed4 [(0x20008, 8), (0x20048, 8), (0x20050, 8)] = [0x8050000100040002, 0x0000038CD0020202, 0x0000038CD0030301]
    ∧ passed4.opVal thr (.g 20) 64 = 0x8050000100040002 := by decide +kernel
def mark0 : Instr := .slotldMark (xI (.g 20) (.g 4) (.g 8) (.g 0) 0 0 0 1)
def marked (k : Nat) : Nat := (atHome mark0 (bytesAt fourCast (with_ mark0 [(.g 4, 64, 0x20000), (.g 8, 32, k)]))).opVal thr (.g 20) 64
theorem test_marks : marked 0 = 0x000003B9A0010106 ∧ marked 2 = 0x0000038CD0030301 := by decide +kernel
-- R347: a step on a block of an older epoch
def voided4 : State := atHome mark0 ((bytesAt fourCast (with_ mark0 [(.g 4, 64, 0x20000), (.g 8, 32, 2)])).modVf (vfKey 0 5) (fun v =>
  { v with epoch := 1 }))
theorem test_void : words voided4 [(0x20008, 8), (0x20040, 8), (0x20050, 8)] = [0xC050010000040001, 0x000003B9A0010102, 0x0000038CD0030303] := by
  decide +kernel
theorem test_rngk : rngValue 0 0 0 = 0x4E782362DCF7D6C7 ∧ rngValue 0 0 1 = 0x88957DFA2DFBE405 := by decide +kernel
theorem test_rngk_f32 : gives (.rngk (rI (.g 20) (.g 4) (.g 8) (.g 12) 9 0)) [(.g 12, 32, 1)] (.g 20) 32 0x3F08957D = true := by decide +kernel
-- R348: empty partials, and (1, 2) with (0, 2): 2·1 + 2·0.5
theorem test_smerge : mergePartials 0 0xFF800000 0 0xFF800000 0 = ((0xFF800000, 0), 0)
    ∧ mergePartials 0 0x3F800000 0x40000000 0 0x40000000 = ((0x3F800000, 0x40400000), 0) := by decide +kernel

-- spec/20, "Worked example": pieces, merges, held bytes
def cls20 : List Byte := (List.replicate 32 1) ++ [0x82] ++ List.replicate 223 1
def text (l : List Nat) : List Byte := l.map (BitVec.ofNat 8)
theorem test_pieces : splitPieces cls20 [] (text [116, 104, 101, 32, 116, 104, 101]) = [text [116, 104, 101], text [32, 116, 104, 101]] := by
  decide +kernel
def look20 (l r : Nat) : VolRes (Option (Nat × Nat)) :=
  .ok (if (l, r) = (116, 104) then some (0, 256) else if (l, r) = (256, 101) then some (1, 257)
    else if (l, r) = (32, 257) then some (2, 258) else if (l, r) = (104, 101) then some (3, 259) else none)
theorem test_merges : (mergeAll look20 3 [116, 104, 101]).toOption = some [257] ∧ (mergeAll look20 4 [32, 116, 104, 101]).toOption = some [258]
    ∧ (mergeAll (fun l r => .ok (if l = 97 ∧ r = 97 then some (0, 300) else none)) 3 [97, 97, 97]).toOption = some [300, 97] := by decide +kernel
theorem test_held : ((stream0.output (text [99, 97, 102, 0xC3])).ready, (stream0.output (text [99, 97, 102, 0xC3])).held)
      = (text [99, 97, 102], text [0xC3])
    ∧ ({ stream0 with held := text [0xC3] }.output (text [0xA9, 33])).ready = text [0xC3, 0xA9, 33]
    ∧ (stream0.output (text [0xF0, 0x80])).held = [] ∧ (stream0.output (text [0xF0, 0x90, 0x80])).held = text [0xF0, 0x90, 0x80] := by
  decide +kernel
-- R356: edge die 2, VF 5, stream 9; R360: the start of a search
theorem test_stream_id : streamId 2 5 9 = 0x85000009 ∧ sidEdge 0x85000009 = 2 ∧ sidVf 0x85000009 = 5 := by decide
theorem test_pair_hash : pairHash 4 1 0 = 9 ∧ pairHash 4 0 1 = 8 ∧ pairHash 4 1 1 = 1 := by decide +kernel
-- R357: a prefix of 8 bits
theorem test_peer : peerAdmits (BitVec.ofNat 137 (2 ^ 136 + 8 * 2 ^ 128 + 0xFE * 2 ^ 120)) (BitVec.ofNat 128 (0xFE * 2 ^ 120 + 5)) = true
    ∧ peerAdmits (BitVec.ofNat 137 (2 ^ 136 + 8 * 2 ^ 128 + 0xFE * 2 ^ 120)) (BitVec.ofNat 128 (0xFD * 2 ^ 120)) = false := by decide +kernel

-- spec/21: R374 record of a TRAP.5, R381 end codes, R385 fields, R387
def trap5 : Instr := .trap (rI (.g 20) (.g 4) (.g 8) (.g 0) 15 5)
def postedMail : Option Mail :=
  match execResumableTrapPost thr (after trap5 (with_ trap5 [(.g 4, 64, 7), (.g 8, 64, 9)])) with
  | .next t => lookupN (t.core 0).mail 0
  | _ => none
theorem test_trap_record : postedMail.map (·.record) = some [0x10000, 0x10, 1, 7, 9, 5, 0x10001, 0] := by decide +kernel
theorem test_brk_stays : ((after (.brk (rI (.g 0) (.g 0) (.g 0) (.g 0) 15 3)) (ready (.brk (rI (.g 0) (.g 0) (.g 0) (.g 0) 15 3)))).ctx thr).pc
    = 0x10000 := by decide +kernel
theorem test_end_codes : (endCodeOf 0x07, endCodeOf 0x09, endCodeOf 0x13, endCodeOf 0x0F, endCodeOf 0x1FF) = (.perm, .trap, .vfReset, .trap, .trap) := by
  decide
def ctl (i : Nat) : RForm := rI (.g 20) (.g 0) (.g 0) (.g 0) 6 (BitVec.ofNat 17 i)
theorem test_crd_level : gives (.crd (ctl 0x080)) [] (.g 20) 32 0 = true := by decide +kernel
theorem test_crd_cwdog : (State.reset.modCore 0 id).readCtl ⟨0, .thread Config.supSlot⟩ 0x010 = 0x04000000
    ∧ State.reset.readCtl ⟨0, .thread Config.supSlot⟩ 0x012 = 54000 ∧ State.reset.readCtl ⟨0, .thread Config.supSlot⟩ 0x013 = 5400000 := by
  decide +kernel
theorem test_cwr_fields : ((ready (.sretResume (sretR 0))).writeCtl sup 0x020 0x12345).readCtl sup 0x020 = 0x12340
    ∧ ((ready (.sretResume (sretR 0))).writeCtl sup 0x040 0xFFFFFFFF).readCtl sup 0x040 = 0x007F01FF
    ∧ ((ready (.sretResume (sretR 0))).writeCtl sup 0x014 0xFF).readCtl sup 0x014 = 0x7F := by decide +kernel
theorem test_sclear_resident : ((after (.sclear (rI (.g 20) (.g 4) (.g 0) (.g 0) 15 0)) ((with_ (.sclear (rI (.g 20) (.g 4) (.g 0) (.g 0) 15 0)) []).modCore 0
    (fun k => { k with wgs := [(0, { grid := 0, lin := 0, aBase := 0, aSize := 0 })] }))).opVal sup (.g 20) 32) = 0xFFFFFFFF := by
  decide +kernel

-- spec/23, "Worked example: one translation"
def trans3 : State :=
  { State.reset with
    vfs := [(vfKey 0 3, { ptroot := 0x100000, ranges := [(0, BitVec.ofNat 128 (0x12 * 2 ^ 44 + 7)), (3, 0x000000500000000008FFF00000800007#128)] })],
    phys := ((Mem.write [] 0x100000 (leBytes 8 0x110001)).write 0x112468 (leBytes 8 0x120001)).write 0x120158 (leBytes 8 0x80000007) }
theorem test_stage_two : (trans3.vf (vfKey 0 3)).ipaToPa 0x80078ABC false = some 0x5000078ABC := by decide +kernel
theorem test_translation : (trans3.walk none 0 3 0x012345678ABC).map (fun t => t.pa + (0x012345678ABC - t.va)) = some 0x5000078ABC := by
  decide +kernel
-- R392: a connected set of dies, and two that are not neighbours; R396
theorem test_connected : meshConnected 0x303#40 = true ∧ meshConnected 0x5#40 = false ∧ meshConnected 0x180#40 = false := by decide +kernel
theorem test_map : isHbm 63999999999 = true ∧ isHbm 64000000000 = false ∧ isHbm (2 ^ 36) = true := by decide +kernel
-- R397: a 16-byte register takes effect with its highest word
theorem test_window_wide : ((State.reset.monWrite 0x100000100 5).mdCollect, ((State.reset.monWrite 0x100000100 5).monWrite 0x100000108 6).mdCollect)
    = (0, 0x60000000000000005#128) := by decide +kernel

-- R7, R55: a write of `pt` is no result; R107: `SREAD` of `fstat` reads what `FADD` ORs into it; R45: `BARV` and an addition pair otherwise
def env0 : IssueEnv := (ready nopI).issueEnv thr
def dep (i j : Instr) : Bool := (((form i).bind (fun f => (form j).map (env0.depends f))).getD false)
def sreadFstat : Instr := .sread (rI (.g 20) (.lit 23) (.g 0) (.g 0) 6 0)
theorem test_depends : dep (.barv (barM (.g 28) (.g 8) (.g 7) 3)) (condNop 7) = false
    ∧ dep (.barv (barM (.g 28) (.g 8) (.g 2) 3)) (condNop 2) = true
    ∧ dep (.fadd (rI (.g 24) (.g 4) (.g 8) (.g 0) 9 0)) sreadFstat = true ∧ dep (condNop 7) sreadFstat = true
    ∧ dep (.iadd (rI (.g 24) (.g 4) (.g 8) (.g 0) 6 0)) sreadFstat = false := by decide +kernel
-- R62: a write of the predicate that the buffer retains empties it
theorem test_retained_predicate : (({ opBuf := some { bank := .pred, opnd := .g 2, width := 1, value := 1 } } : Ctx).writeP 2 true).opBuf = none
    ∧ (({ opBuf := some { bank := .pred, opnd := .g 2, width := 1, value := 1 } } : Ctx).writeP 3 true).opBuf.isSome = true := by decide
-- R54, R381: a `TRAP` in the last slot of a line, answered: what follows was produced by it
theorem test_resume_producer : (({ pc := 0x10004 } : Ctx).goTo 0x10004 0x10040).srcPc = 0x10004
    ∧ (({ pc := 0x10004, srcPc := 0x10003 } : Ctx).goTo 0x10004 0x10004).srcPc = 0x10003 := by decide
-- R131, R217: an `LDGA` of 4 bytes touches 4 bytes of its destination
theorem test_ldga_span : (PendKind.ldga 0 0 0x100 0 0 0x40).spans 4 = [(.store 0 0 0x100, 4)] := rfl
-- R373: a second trap of a supervisor thread waits behind the first
theorem test_second_trap : ((((ready (.sretResume (sretR 0))).raiseAt sup ⟨.lease, 5⟩ 64).raiseAt sup ⟨.perm, 6⟩ 65).ctx sup).later = [(.perm, 6, 65)]
    ∧ ((((ready (.sretResume (sretR 0))).raiseAt sup ⟨.lease, 5⟩ 64).raiseAt sup ⟨.perm, 6⟩ 65).ctx sup).wait = .supTrap .lease 5 64 := by
  decide +kernel
-- R353, R357: a VF counts an unsupported packet on a closed context; R368: a context whose packets are all delivered is closed
theorem test_drop_counted : (((after (.uetPacket 0 { lastPacket with supported := false }) (edgeOn id (fun e => { e with closedCtx := [1] }))).edge 0).txOf 0).drop
    = 1 := by decide +kernel
theorem test_idle_context : ((((after (.uetPacket 0 lastPacket) (edgeOn id id)).modEdge 0 (fun e => { e with inbox := [] })).resetText 0 0).edge 0).closedCtx
    = [1] := by decide +kernel
-- R398: a page without write access under an `rw` lease ends the grid at a read; R407: 32 bytes of HBM4E cannot be corrected
theorem test_read_denied : (noTlb (bytesAt [(0x110000, leBytes 8 3)] (after (.ld ldM) (with_ (.ld ldM) globBase)))).walkDenied (some 0) [] (.vf 0 0)
      [⟨0x20000, 0x20000, true⟩] 0x3FFFC 4 = true
    ∧ (bytesAt [(0x110000, leBytes 8 3)] (ready nopI)).walkDenied (some 0) [] (.vf 0 0) [⟨0x20000, 0x20000, false⟩] 0x3FFFC 4 = false := by
  decide +kernel
theorem test_strike : ({ plain with oracle := [2, 0x10045, 0] } : State).strike.poison = (List.range 32).map (0x10040 + ·) := by decide +kernel
-- R406: what another module admits is by partition
def rights5 : State := { plain with mdId := 1, peerRights := [(0, 5, 0, 0xFFFF, true, false)] }
theorem test_peer_rights : (rights5.route 5 0x8000000000010 false, rights5.route 4 0x8000000000010 false, rights5.route 5 0x8000000000010 true)
    = (some 0x8000000000010, none, none) := by decide +kernel
-- R214: of two bytes over a link the later may land first
theorem test_link_byte : (words (after postedW { begunW with oracle := [2] }) [(lastIpa, 1), (lastIpa + 1, 1)]) = [0, 1]
    ∧ words (after postedW (after postedW { begunW with oracle := [2] })) [(lastIpa, 1), (lastIpa + 1, 1)] = [1, 1] := by decide +kernel
-- R216: an acquire of an object observes what a release there hands on, one of another object does not
def handed : State := ((ready nopI).modCore 0 (fun k => { k with fresh := [{ id := 0, place := .store 0 0 0, old := [0], seen := [.lead 0 0] }] })).publish
  ld0 (some (.at_ (.store 0 0 64))) 0
theorem test_acquire_chain : ((handed.acquire thr 0 (some (.at_ (.store 0 0 64)))).core 0).fresh.map (·.seen.length) = [2]
    ∧ ((handed.acquire thr 0 (some (.at_ (.store 0 0 80)))).core 0).fresh.map (·.seen.length) = [1] := by decide +kernel
-- R410: measurement 5 changes with the supervisor image
theorem test_measured_image : plain.measured 5 0 0 ≠ ({ plain with supImage := { plain.supImage with entry := 64 } } : State).measured 5 0 0 := by
  decide +kernel

end Sys2Proof.Tests
end

section
/-!
Integer arithmetic, logic and bit fields (spec/05 R96 to R101). A per-lane instruction whose lane ends with its effect done completes with
that effect; the three shapes of the integer forms (`arithR`, `logicR`, `countR`) are instances of it, and each instruction is one of the
shapes with its own function of the operands.
-/

namespace Sys2Proof.Proofs

open Sys2Proof.Machine Sys2Proof.Safety Sys2Proof.Laws

/-! ### Completion of a per-lane instruction -/

/-- Only an instruction that has a form runs. -/
theorem exists_form_of_runs {s : State} {a : Agent} {i : Instr} (h : runs s a i = true) : ∃ f, form i = some f := by
  cases hf : form i with
  | some f => exact ⟨f, rfl⟩
  | none => simp [runs, hf] at h

/-- A per-lane instruction whose lane always ends with `effect` done completes with `effect` (R71 step 6). -/
theorem completes_of_perLane {s : State} {a : Agent} {i : Instr} {body : Agent → State → LaneOut} {effect : State → State}
    (hexec : exec i s = perLane (form i) body s) (hbody : ∀ t, body a t = .done (effect t)) : Completes s a i effect := by
  intro hruns
  obtain ⟨f, hf⟩ := exists_form_of_runs hruns
  rw [hexec]
  exact perLane_done hf hruns (hbody _)

/-! ### The shapes of the integer forms -/

section
variable {s : State} {a : Agent} {i : Instr} {f : RForm}

/-- An arithmetic form puts its fitted exact value (R96). -/
theorem completes_of_arithR (e : Int → Int → Int → Int) (hexec : exec i s = arithR i f e s) :
    Completes s a i (fun t => putFit a f (e (valOf t a f f.cm.a) (valOf t a f f.cm.b) (valOf t a f f.cm.c)) t) :=
  completes_of_perLane hexec (fun _ => rfl)

/-- A logic, shift or field form puts the pattern that it makes of A at its type and of B at `wb` bits (R99, R100). -/
theorem completes_of_logicR (wb : Nat) (g : Nat → Nat → Nat → Nat) (hexec : exec i s = logicR i f wb g s) :
    Completes s a i (fun t => putBits a f (g (tyW f.ty) (bitsOf t a f f.cm.a) (t.opVal a f.cm.b wb)) t) :=
  completes_of_perLane hexec (fun _ => rfl)

/-- A count or a reversal puts an unsigned result of `wd` bits (R101). -/
theorem completes_of_countR (wd : Nat) (g : Nat → Nat → Nat) (hexec : exec i s = countR i f wd g s) :
    Completes s a i (fun t => t.putInt a f.cm.d false wd (g (tyW f.ty) (bitsOf t a f f.cm.a))) :=
  completes_of_perLane hexec (fun _ => rfl)

end

/-! ### The instructions that have a body of their own -/

/-- `IMADW` fits the sum of a 32-bit product and a 64-bit addend to 64 bits (R97). -/
theorem completes_imadw (s : State) (a : Agent) (f : RForm) :
    Completes s a (.imadw f) (fun t => t.putInt a f.cm.d (tySigned f.ty) 64 (toBits 64 (fit (f.sat == 1) (tySigned f.ty) 64
      (t.val a (tySigned f.ty) 32 f.cm.a * t.val a (tySigned f.ty) 32 f.cm.b + t.val a (tySigned f.ty) 64 f.cm.c)))) :=
  completes_of_perLane rfl (fun _ => rfl)

/-- `BFI` puts the field that B names of A into C (R100). -/
theorem completes_bfi (s : State) (a : Agent) (f : RForm) :
    Completes s a (.bfi f) (fun t => t.putInt a f.cm.d false (tyW f.ty)
      (bfiBits (tyW f.ty) (bitsOf t a f f.cm.a) (t.opVal a f.cm.b 32) (bitsOf t a f f.cm.c))) :=
  completes_of_perLane rfl (fun _ => rfl)

/-! ### The statements -/

/-- Settles O1: each form is `arithR` with the exact value of R96 to R98, but for `IMADW`, which mixes widths. -/
theorem integerArithmetic : Obligations.IntegerArithmetic := by
  intro s a f
  refine ⟨?iadd, ?isub, ?imul, ?imad, ?iabs, ?ineg, ?imin, ?imax, ?imulh, ?imadw, ?idiv, ?irem⟩
  case iadd => exact completes_of_arithR (fun x y _ => x + y) rfl
  case isub => exact completes_of_arithR (fun x y _ => x - y) rfl
  case imul => exact completes_of_arithR (fun x y _ => x * y) rfl
  case imad => exact completes_of_arithR (fun x y z => x * y + z) rfl
  case iabs => exact completes_of_arithR (fun x _ _ => x.natAbs) rfl
  case ineg => exact completes_of_arithR (fun x _ _ => -x) rfl
  case imin => exact completes_of_arithR (fun x y _ => min x y) rfl
  case imax => exact completes_of_arithR (fun x y _ => max x y) rfl
  case imulh => exact completes_of_arithR (fun x y _ => Int.fdiv (x * y) ((2 ^ tyW f.ty : Nat) : Int)) rfl
  case imadw => exact completes_imadw s a f
  case idiv => exact completes_of_arithR (fun x y _ => divInt (tySigned f.ty) (tyW f.ty) x y) rfl
  case irem => exact completes_of_arithR (fun x y _ => remInt x y) rfl

/-- Settles O3: logic reads B at the type's width, shifts and `BFX` at 32 bits, and counts read A alone; `BFI` has a third operand. -/
theorem logicAndBits : Obligations.LogicAndBits := by
  intro s a f
  refine ⟨?and, ?or, ?xor, ?andn, ?shl, ?shr, ?sra, ?rot, ?bfx, ?bfi, ?popc, ?clz, ?brev⟩
  case and => exact completes_of_logicR (tyW f.ty) (fun _ x y => Nat.land x y) rfl
  case or => exact completes_of_logicR (tyW f.ty) (fun _ x y => Nat.lor x y) rfl
  case xor => exact completes_of_logicR (tyW f.ty) (fun _ x y => Nat.xor x y) rfl
  case andn => exact completes_of_logicR (tyW f.ty) andnBits rfl
  case shl => exact completes_of_logicR 32 shlBits rfl
  case shr => exact completes_of_logicR 32 shrBits rfl
  case sra => exact completes_of_logicR 32 sraBits rfl
  case rot => exact completes_of_logicR 32 rotBits rfl
  case bfx => exact completes_of_logicR 32 (bfxBits (tySigned f.ty)) rfl
  case bfi => exact completes_bfi s a f
  case popc => exact completes_of_countR 32 popcBits rfl
  case clz => exact completes_of_countR 32 clzBits rfl
  case brev => exact completes_of_countR (tyW f.ty) brevBits rfl

end Sys2Proof.Proofs
end

section
/-!
Group collectives (spec/08 R175 to R181). A collective whose body is always done completes with that effect over the present threads of its
group; the reductions and scans (R178 to R180) are one shape, `reduceBy`, which differ in the positions that a thread's tree lets in.
-/

namespace Sys2Proof.Proofs

open Sys2Proof.Machine Sys2Proof.Safety Sys2Proof.Laws

/-! ### Completion of a collective -/

/-- Only an instruction that has a form runs for a group. -/
theorem exists_form_of_runsGroup {s : State} {as : List Agent} {i : Instr} (h : runsGroup s as i = true) :
    ∃ f, form i = some f := by
  cases hf : form i with
  | some f => exact ⟨f, rfl⟩
  | none => simp [runsGroup, hf] at h

/-- A collective whose body is always done with `effect` completes with it over the present threads (R172). -/
theorem groupCompletes_of_perGroup {s : State} {as : List Agent} {i : Instr} {body : List Agent → List Agent → State → GroupOut}
    {effect : List Agent → State → State} (hexec : exec i s = perGroup (form i) body s)
    (hbody : ∀ ps t, body ps as t = .done (effect ps t)) : GroupCompletes s as i effect := by
  intro hruns
  obtain ⟨f, hf⟩ := exists_form_of_runsGroup hruns
  rw [hexec]
  exact perGroup_runs hf hruns (hbody _ _)

/-! ### Votes, shuffles and matches -/

section
variable (s : State) (as : List Agent) (f : RForm)

/-- A present thread's vote: its predicate after the negate bit (R175). -/
def voteOf (f : RForm) (t : State) (x : Agent) : Bool := t.readP x f.cm.a.num != f.func.getLsbD 2

/-- `VOTE.bal` writes every present thread the mask of the positions that vote true. -/
theorem groupCompletes_vote_ballot (hmode : fld f.func 0 2 = 3) :
    GroupCompletes s as (.vote f) (fun ps t =>
      ps.foldl (fun u x => u.putD x f.cm.d 64 (maskOf ((ps.filter (voteOf f t)).map t.posOf))) t) := by
  refine groupCompletes_of_perGroup rfl (fun ps t => ?_)
  simp only [hmode]
  rfl

/-- The other modes of `VOTE` write every present thread one predicate of all the votes. -/
theorem groupCompletes_vote_predicate (hmode : fld f.func 0 2 ≠ 3) :
    GroupCompletes s as (.vote f) (fun ps t =>
      ps.foldl (fun u x => u.writeP x f.cm.d.num (voteResult (fld f.func 0 2) (ps.map (voteOf f t)))) t) := by
  refine groupCompletes_of_perGroup rfl (fun ps t => ?_)
  split
  · rename_i hballot
    exact absurd hballot hmode
  · rfl

/-- The present thread whose position a shuffle of `x` names, if there is one (R176). -/
def shflSource (f : RForm) (ps : List Agent) (t : State) (x : Agent) : Option Agent :=
  ps.find? (fun y => ((t.posOf y : Nat) : Int) == shflFrom (fld f.func 0 2) (t.posOf x) (t.opVal x f.cm.b 32))

/-- `SHFL` writes each present thread the A of its source, and its own A where no present position is named. -/
theorem groupCompletes_shfl :
    GroupCompletes s as (.shfl f) (fun ps t =>
      (ps.map (fun x => (x, t.opVal ((shflSource f ps t x).getD x) f.cm.a (tyW f.ty)))).foldl
        (fun u p => u.putD p.1 f.cm.d (tyW f.ty) p.2) t) := by
  refine groupCompletes_of_perGroup rfl (fun ps t => ?_)
  have hvalue : ∀ x, t.opVal ((shflSource f ps t x).getD x) f.cm.a (tyW f.ty)
      = match shflSource f ps t x with
        | some y => t.opVal y f.cm.a (tyW f.ty)
        | none => t.opVal x f.cm.a (tyW f.ty) := by
    intro x
    cases shflSource f ps t x <;> rfl
  simp only [hvalue]
  rfl

/-- `MATCH` writes each present thread the mask of the positions whose A equals its own (R177). -/
theorem groupCompletes_matchv :
    GroupCompletes s as (.matchv f) (fun ps t =>
      (ps.map (fun x => (x, maskOf ((ps.filter (fun y =>
        t.opVal y f.cm.a (tyW f.ty) == t.opVal x f.cm.a (tyW f.ty))).map t.posOf)))).foldl
        (fun u p => u.putD p.1 f.cm.d 64 p.2) t) :=
  groupCompletes_of_perGroup rfl (fun _ _ => rfl)

end

/-! ### Reductions, scans and `REBAL` -/

/-- The fixed tree of R89 over the A values of the present positions that `keep` lets in, or the identity of the operation over none. -/
def keptTree (f : RForm) (t : State) (ps : List Agent) (keep : Nat → Bool) : Node :=
  (fixedTree (redOp (fld f.func 0 3) f.ty.toNat f.round.toNat) 6
    ((t.values ps f.cm.a (tyW f.ty)).filter (fun v => keep v.1))).getD (redIdentity (fld f.func 0 3) f.ty.toNat, 0)

/-- A reduction gives each present thread the tree over the positions that its form lets in (R178 to R180). -/
theorem groupCompletes_of_reduceBy {s : State} {i : Instr} {f : RForm} (as : List Agent)
    (keep : State → List Agent → Nat → Nat → Bool) (hexec : exec i s = reduceBy i f keep s) :
    GroupCompletes s as i (fun ps t =>
      t.giveNodes f.cm.d (tyW f.ty) (ps.map (fun x => (x, keptTree f t ps (keep t ps (t.posOf x)))))) :=
  groupCompletes_of_perGroup hexec (fun _ _ => rfl)

/-- `SEGRED` lets in the positions of the thread's own segment, and of those only the ones up to its own for `.inc` (R180). -/
def segKeep (f : RForm) (t : State) (ps : List Agent) (i k : Nat) : Bool :=
  t.segStart ps (fun x => t.readPQ x f.pred2) k == t.segStart ps (fun x => t.readPQ x f.pred2) i
    && (!f.func.getLsbD 3 || decide (k ≤ i))

/-- `REBAL` packs for each present thread the owner of the item that it asks for (R181). -/
theorem groupCompletes_rebal (s : State) (as : List Agent) (f : RForm) :
    GroupCompletes s as (.rebal f) (fun ps t =>
      let counts := ps.map (fun x => (t.posOf x, t.opVal x f.cm.a 32))
      (ps.map (fun x => (x, rebalWord (startsFrom 0 counts) (counts.foldl (fun n c => n + c.2) 0) (t.opVal x f.cm.b 32)))).foldl
        (fun u p => u.putD p.1 f.cm.d 128 p.2) t) :=
  groupCompletes_of_perGroup rfl (fun _ _ => rfl)

/-! ### The statements -/

/-- Settles O9: the modes of `VOTE` are two effects, a mask in D or a predicate; a shuffle reads its source or itself. -/
theorem groupExchange : Obligations.GroupExchange := by
  intro s as f
  refine ⟨?ballot, ?predicate, ?shfl, ?matchv⟩
  case ballot => exact groupCompletes_vote_ballot s as f
  case predicate => exact groupCompletes_vote_predicate s as f
  case shfl => exact groupCompletes_shfl s as f
  case matchv => exact groupCompletes_matchv s as f

/-- Settles O10: `GRED`, `SCAN` and `SEGRED` are `reduceBy` with the positions of R178 to R180; `REBAL` has a body of its own. -/
theorem groupReductions : Obligations.GroupReductions := by
  intro s as f
  refine ⟨?gred, ?scan, ?segred, ?rebal⟩
  case gred => exact groupCompletes_of_reduceBy as (fun _ _ _ _ => true) rfl
  case scan =>
    exact groupCompletes_of_reduceBy as (fun _ _ i k => if f.func.getLsbD 3 then decide (k < i) else decide (k ≤ i)) rfl
  case segred => exact groupCompletes_of_reduceBy as (segKeep f) rfl
  case rebal => exact groupCompletes_rebal s as f

end Sys2Proof.Proofs
end

section
/-!
The generation instructions that write only registers (spec/18 R348, R350): `SMERGE` has one effect, `RNGK` one for each type of its D.
-/

namespace Sys2Proof.Proofs

open Sys2Proof.Machine Sys2Proof.Safety Sys2Proof.Laws

section
variable (s : State) (a : Agent) (f : RForm)

/-- The merge of the partials in A and B: each holds its maximum in the low word and its sum in the high word (R348). -/
def mergeOf (t : State) : (Nat × Nat) × FFlags :=
  mergePartials f.round.toNat (t.opVal a f.cm.a 64 % 2 ^ 32) (t.opVal a f.cm.a 64 / 2 ^ 32)
    (t.opVal a f.cm.b 64 % 2 ^ 32) (t.opVal a f.cm.b 64 / 2 ^ 32)

/-- `SMERGE` raises the flags of the merge and packs the merged partial into D (R348). -/
theorem completes_smerge :
    Completes s a (.smerge f) (fun t =>
      (t.flag a (mergeOf a f t).2).putD a f.cm.d 64 ((mergeOf a f t).1.1 + 2 ^ 32 * (mergeOf a f t).1.2)) :=
  completes_of_perLane rfl (fun _ => rfl)

/-- The generator's value of the seed in A, the sequence in B and the counter in C (R350). -/
def rngOf (t : State) : Nat :=
  (rngValue (BitVec.ofNat 64 (t.opVal a f.cm.a 64)) (BitVec.ofNat 64 (t.opVal a f.cm.b 64))
    (BitVec.ofNat 32 (t.opVal a f.cm.c 32))).toNat

/-- `RNGK.n64` writes the whole value. -/
theorem completes_rngk_n64 (hty : f.ty = 7) :
    Completes s a (.rngk f) (fun t => t.putD a f.cm.d 64 (rngOf a f t)) :=
  completes_of_perLane rfl (fun _ => if_pos hty)

/-- `RNGK.f32` writes the value's upper 24 bits over 2^24, which FP32 holds exactly. -/
theorem completes_rngk_f32 (hty : f.ty ≠ 7) :
    Completes s a (.rngk f) (fun t =>
      t.putD a f.cm.d 32 (roundFin (ffmt 9) 0 false false (rngOf a f t / 2 ^ 40) (-24)).1) :=
  completes_of_perLane rfl (fun _ => if_neg hty)

end

/-! ### The statement -/

/-- Settles O35: `SMERGE` has one effect, and the type of `RNGK` says which of its two it has. -/
theorem mergeAndRandom : Obligations.MergeAndRandom := by
  intro s a f
  refine ⟨?smerge, ?n64, ?f32⟩
  case smerge => exact completes_smerge s a f
  case n64 => exact completes_rngk_n64 s a f
  case f32 => exact completes_rngk_f32 s a f

end Sys2Proof.Proofs
end

section
/-!
Decoding and encoding (spec/03 R57 to R70). Every constructor has its lemma in `Laws/PerInstr.lean`; what is left is to put them together,
and that each arm of the opcode map packs its word again.
-/

namespace Sys2Proof.Proofs

open Sys2Proof.Machine Sys2Proof.Laws

/-! ### From an instruction to its word and back -/

/-- The opcode map gives the word of every well-formed instruction back: one case for each row of the opcode table. An operation has no
form, so it is not well-formed. -/
theorem decodeAt_encode (i : Instr) : Encoding.Statement i := by
  cases i
  case iadd f => exact Encoding.iadd f
  case iaddImm f => exact Encoding.iaddImm f
  case isub f => exact Encoding.isub f
  case imul f => exact Encoding.imul f
  case imulImm f => exact Encoding.imulImm f
  case imulh f => exact Encoding.imulh f
  case imad f => exact Encoding.imad f
  case imadw f => exact Encoding.imadw f
  case idiv f => exact Encoding.idiv f
  case irem f => exact Encoding.irem f
  case iabs f => exact Encoding.iabs f
  case ineg f => exact Encoding.ineg f
  case imin f => exact Encoding.imin f
  case iminImm f => exact Encoding.iminImm f
  case imax f => exact Encoding.imax f
  case imaxImm f => exact Encoding.imaxImm f
  case and f => exact Encoding.and f
  case andImm f => exact Encoding.andImm f
  case or f => exact Encoding.or f
  case orImm f => exact Encoding.orImm f
  case xor f => exact Encoding.xor f
  case xorImm f => exact Encoding.xorImm f
  case andn f => exact Encoding.andn f
  case andnImm f => exact Encoding.andnImm f
  case shl f => exact Encoding.shl f
  case shlImm f => exact Encoding.shlImm f
  case shr f => exact Encoding.shr f
  case shrImm f => exact Encoding.shrImm f
  case sra f => exact Encoding.sra f
  case sraImm f => exact Encoding.sraImm f
  case rot f => exact Encoding.rot f
  case rotImm f => exact Encoding.rotImm f
  case bfx f => exact Encoding.bfx f
  case bfi f => exact Encoding.bfi f
  case popc f => exact Encoding.popc f
  case clz f => exact Encoding.clz f
  case brev f => exact Encoding.brev f
  case isetp f => exact Encoding.isetp f
  case sel f => exact Encoding.sel f
  case plog f => exact Encoding.plog f
  case mov f => exact Encoding.mov f
  case movi f => exact Encoding.movi f
  case movh f => exact Encoding.movh f
  case lea f => exact Encoding.lea f
  case leaImm f => exact Encoding.leaImm f
  case nop f => exact Encoding.nop f
  case sread f => exact Encoding.sread f
  case ld f => exact Encoding.ld f
  case st f => exact Encoding.st f
  case lda f => exact Encoding.lda f
  case sta f => exact Encoding.sta f
  case ldcs f => exact Encoding.ldcs f
  case stcs f => exact Encoding.stcs f
  case ldx f => exact Encoding.ldx f
  case stx f => exact Encoding.stx f
  case ldga f => exact Encoding.ldga f
  case prefL1 f => exact Encoding.prefL1 f
  case prefL2 f => exact Encoding.prefL2 f
  case cctlIc f => exact Encoding.cctlIc f
  case cctlDl f => exact Encoding.cctlDl f
  case cctlDa f => exact Encoding.cctlDa f
  case fadd f => exact Encoding.fadd f
  case faddImm f => exact Encoding.faddImm f
  case fsub f => exact Encoding.fsub f
  case fmul f => exact Encoding.fmul f
  case fmulImm f => exact Encoding.fmulImm f
  case ffma f => exact Encoding.ffma f
  case ffmaImm f => exact Encoding.ffmaImm f
  case fmin f => exact Encoding.fmin f
  case fmax f => exact Encoding.fmax f
  case fsetp f => exact Encoding.fsetp f
  case fclass f => exact Encoding.fclass f
  case fdiv f => exact Encoding.fdiv f
  case fsqrt f => exact Encoding.fsqrt f
  case rcps f => exact Encoding.rcps f
  case rsqs f => exact Encoding.rsqs f
  case fexp2 f => exact Encoding.fexp2 f
  case flog2 f => exact Encoding.flog2 f
  case frnd f => exact Encoding.frnd f
  case fscale f => exact Encoding.fscale f
  case fexpo f => exact Encoding.fexpo f
  case f2i f => exact Encoding.f2i f
  case i2f f => exact Encoding.i2f f
  case fcvt f => exact Encoding.fcvt f
  case bra f => exact Encoding.bra f
  case call f => exact Encoding.call f
  case brx f => exact Encoding.brx f
  case callx f => exact Encoding.callx f
  case ret f => exact Encoding.ret f
  case exit f => exact Encoding.exit f
  case vote f => exact Encoding.vote f
  case shfl f => exact Encoding.shfl f
  case matchv f => exact Encoding.matchv f
  case gred f => exact Encoding.gred f
  case scan f => exact Encoding.scan f
  case segred f => exact Encoding.segred f
  case rebal f => exact Encoding.rebal f
  case lds f => exact Encoding.lds f
  case dqpush f => exact Encoding.dqpush f
  case dqpop f => exact Encoding.dqpop f
  case lnch f => exact Encoding.lnch f
  case fwork f => exact Encoding.fwork f
  case wgdone f => exact Encoding.wgdone f
  case atom f => exact Encoding.atom f
  case cas f => exact Encoding.cas f
  case atoma f => exact Encoding.atoma f
  case ticket f => exact Encoding.ticket f
  case fence f => exact Encoding.fence f
  case binit f => exact Encoding.binit f
  case barv f => exact Encoding.barv f
  case bexp f => exact Encoding.bexp f
  case bwait f => exact Encoding.bwait f
  case btest f => exact Encoding.btest f
  case bexit f => exact Encoding.bexit f
  case binval f => exact Encoding.binval f
  case cmake f => exact Encoding.cmake f
  case cjoin f => exact Encoding.cjoin f
  case cleave f => exact Encoding.cleave f
  case cfree f => exact Encoding.cfree f
  case cquery f => exact Encoding.cquery f
  case cbar f => exact Encoding.cbar f
  case cvote f => exact Encoding.cvote f
  case cred f => exact Encoding.cred f
  case vld f => exact Encoding.vld f
  case vst f => exact Encoding.vst f
  case vred f => exact Encoding.vred f
  case vprobe f => exact Encoding.vprobe f
  case vtouch f => exact Encoding.vtouch f
  case vfree f => exact Encoding.vfree f
  case vfreeAll f => exact Encoding.vfreeAll f
  case vpool f => exact Encoding.vpool f
  case vinv f => exact Encoding.vinv f
  case cpy f => exact Encoding.cpy f
  case cpym f => exact Encoding.cpym f
  case cpys f => exact Encoding.cpys f
  case cpyr f => exact Encoding.cpyr f
  case owait f => exact Encoding.owait f
  case ofence f => exact Encoding.ofence f
  case mset f => exact Encoding.mset f
  case mzero f => exact Encoding.mzero f
  case mma f => exact Encoding.mma f
  case mmas f => exact Encoding.mmas f
  case mdrain f => exact Encoding.mdrain f
  case mdrainAdd f => exact Encoding.mdrainAdd f
  case mdrainAddOrd f => exact Encoding.mdrainAddOrd f
  case mchk f => exact Encoding.mchk f
  case qdual f => exact Encoding.qdual f
  case qscan f => exact Encoding.qscan f
  case cast f => exact Encoding.cast f
  case slotldRd f => exact Encoding.slotldRd f
  case slotldMark f => exact Encoding.slotldMark f
  case slotldHdr f => exact Encoding.slotldHdr f
  case frontOpen f => exact Encoding.frontOpen f
  case frontPass f => exact Encoding.frontPass f
  case smerge f => exact Encoding.smerge f
  case rngk f => exact Encoding.rngk f
  case txtake f => exact Encoding.txtake f
  case txemit f => exact Encoding.txemit f
  case txclose f => exact Encoding.txclose f
  case txstat f => exact Encoding.txstat f
  case vocload f => exact Encoding.vocload f
  case trap f => exact Encoding.trap f
  case sretResume f => exact Encoding.sretResume f
  case sretReissue f => exact Encoding.sretReissue f
  case sretReissueNomatch f => exact Encoding.sretReissueNomatch f
  case sretEndGrid f => exact Encoding.sretEndGrid f
  case yield f => exact Encoding.yield f
  case brk f => exact Encoding.brk f
  case crd f => exact Encoding.crd f
  case cwr f => exact Encoding.cwr f
  case perf f => exact Encoding.perf f
  case sclear f => exact Encoding.sclear f
  all_goals exact fun h => Bool.noConfusion h

/-! ### From a word to its instruction and back -/

/-- A property of an instruction that takes the fields of its word by `of`, where the instruction's own word is the pack `p` of them. -/
def OfFields {α : Type} (P : Instr → Prop) (p : α → IWord) (of : IWord → α) (w : IWord) : Prop :=
  ∀ c : α → Instr, (∀ f, encode (c f) = p f) → P (c (of w))

/-- Cases on the opcode map: every arm makes an instruction of the word's own fields that has the arm's major and minor; an opcode that
stands for several instructions does so in each. -/
theorem decodeAt_cases {P : Instr → Prop} {M n : Nat} {w : IWord} {i : Instr} (hr : OfFields P (packR M n) rOf w)
    (hi : OfFields P (packI M n) iOf w) (hm : OfFields P (packM M n) mOf w) (hb : OfFields P (packB M n) bOf w)
    (hx : OfFields P (packX M n) xOf w) (h : decodeAt M n w = some i) : P i := by
  unfold decodeAt at h
  split at h
  case h_50 => cases h
  all_goals
    simp only [decodeMajor1, decodeMajor2, decodeMajor3, decodeMajor4, decodeMajor5, decodeMajor6, decodeMajor8, decodeMajor9,
      decodeMajor10, decodeMajor11, decodeMajor12, decodeMajor13, decodeMajor14, decodeMajor15, decodeMajor16, decodeMajor17,
      decodeMajor20, decodeMajor21, decodeMajor22, decodeMajor24, decodeMajor25, decodeMajor26, decodeMajor28, decodeMajor29,
      decodeMajor30, decodeMajor32, decodeMajor33, decodeMajor34, decodeMajor35, decodeMajor36, decodeMajor37, decodeMajor38,
      decodeMajor40, decodeMajor41, decodeMajor42, decodeMajor44, decodeMajor45, decodeMajor48, decodeMajor49, decodeMajor50,
      decodeMajor51, decodeMajor54, decodeMajor55, decodeMajor56, decodeMajor58, decodeMajor59, decodeMajor60, decodeMajor61,
      decodeMajor62] at h
    split at h
    all_goals cases h
  all_goals
    repeat' split
  -- the format of the arm's instruction decides which of the five applies
  all_goals
    first | apply hr | apply hx | apply hm | apply hi | apply hb
    exact fun _ => rfl

theorem encode_of_decodeAt {w : IWord} {i : Instr} (h : decodeAt (majorOf w) (minorOf w) w = some i) : encode i = w :=
  decodeAt_cases (P := fun i => encode i = w) (fun _ hc => (hc _).trans (packR_rOf w)) (fun _ hc => (hc _).trans (packI_iOf w))
    (fun _ hc => (hc _).trans (packM_mOf w)) (fun _ hc => (hc _).trans (packB_bOf w)) (fun _ hc => (hc _).trans (packX_xOf w)) h

/-! ### The statement -/

/-- Settles O50: the opcode map inverts the encoder on well-formed instructions, and the encoder inverts the opcode map on every word. -/
theorem decodeEncode : Obligations.DecodeEncode := by
  refine ⟨fun i hwf => ?_, fun w i hdec => ?_⟩
  · simp [decode, decodeAt_encode i hwf, hwf]
  · unfold decode at hdec
    split at hdec
    · cases hdec
    · rename_i j hat
      split at hdec
      · cases hdec
        exact ⟨by assumption, encode_of_decodeAt hat⟩
      · cases hdec

end Sys2Proof.Proofs
end


section
/-! O2, O4 to O8: the forms that only compute, and control flow. Each is one lane body whose result the model writes out, so each
conjunct names the shape of its form. -/



namespace Sys2Proof.Proofs

open Sys2Proof.Machine Sys2Proof.Safety Sys2Proof.Laws

/-! ### A lane that has one result -/

section
variable {s : State} {a : Agent} {i : Instr} {body : Agent → State → LaneOut}

/-- A per-lane instruction whose lane is done with `effect` where it begins completes with `effect`. -/
theorem completes_of_began {effect : State → State} (hexec : exec i s = perLane (form i) body s)
    (hbody : body a (began s a i) = .done (effect (began s a i))) : Completes s a i effect := by
  intro hruns
  obtain ⟨f, hf⟩ := exists_form_of_runs hruns
  rw [hexec]
  exact perLane_done hf hruns hbody

/-- A per-lane instruction whose lane traps where it begins traps. -/
theorem traps_of_began {tr : Trap} (hexec : exec i s = perLane (form i) body s)
    (hbody : body a (began s a i) = .trap tr) : Traps s a i tr := by
  intro hruns
  obtain ⟨f, hf⟩ := exists_form_of_runs hruns
  rw [hexec]
  exact perLane_trap hf hruns hbody

/-- A per-lane instruction whose lane always goes to `target` with `effect` jumps there. -/
theorem jumps_of_perLane {target : State → Int} {effect : State → State} (hexec : exec i s = perLane (form i) body s)
    (hbody : ∀ t, body a t = .jump (effect t) (target t)) : Jumps s a i target effect := by
  intro hruns
  obtain ⟨f, hf⟩ := exists_form_of_runs hruns
  rw [hexec]
  exact perLane_jump hf hruns (hbody _)

/-- A per-lane instruction whose lane goes nowhere stays. -/
theorem stays_of_began {effect : State → State} (hexec : exec i s = perLane (form i) body s)
    (hbody : body a (began s a i) = .stay (effect (began s a i))) : Stays s a i effect := by
  intro hruns
  obtain ⟨f, hf⟩ := exists_form_of_runs hruns
  rw [hexec]
  exact perLane_stay hf hruns hbody

end

/-! ### The shapes of the forms -/

section
variable {s : State} {a : Agent} {i : Instr}

/-- An arithmetic immediate form puts its wrapped exact value (R65, R96). -/
theorem completes_of_arithI {f : IForm} (e : Int → Int → Int) (hexec : exec i s = arithI i f e s) :
    Completes s a i (fun t => putFitI a f (e (valOfI t a f) (immInt f)) t) :=
  completes_of_perLane hexec (fun _ => rfl)

/-- A logic or shift immediate form puts the pattern that it makes of A and the immediate. -/
theorem completes_of_logicI {f : IForm} (g : Nat → Nat → Nat → Nat) (hexec : exec i s = logicI i f g s) :
    Completes s a i (fun t => putBitsI a f (g (ityW f.ity) (bitsOfI t a f) (immVal f.ity f.imm)) t) :=
  completes_of_perLane hexec (fun _ => rfl)

/-- A floating form puts its result and flags, of its operands after their modifiers (R139). -/
theorem completes_of_floatR {f : RForm} (g : FFmt → FVal → FVal → FVal → Nat × FFlags) (hexec : exec i s = floatR i f g s) :
    Completes s a i (fun t => putFloat a f
      (g (ffmt f.ty.toNat) (floatOf t a f 0 f.cm.a) (floatOf t a f 1 f.cm.b) (floatOf t a f 2 f.cm.c)) t) :=
  completes_of_perLane hexec (fun _ => rfl)

/-- A floating immediate form takes the widened immediate as its last operand (R65). -/
theorem completes_of_floatI {f : IForm} (g : FFmt → FVal → FVal → FVal → Nat × FFlags) (hexec : exec i s = floatI i f g s) :
    Completes s a i (fun t => putFloatI a f
      (g (ffmt (fImmType f.ity.toNat)) (floatOfI t a f f.cm.a) (floatOfI t a f f.cm.b) (floatImm f)) t) :=
  completes_of_perLane hexec (fun _ => rfl)

/-- A form that works on the codes of its operands puts `wd` bits (R142, R155). -/
theorem completes_of_floatCode {f : RForm} (wd : Nat) (g : FFmt → Nat → Nat → Nat × FFlags)
    (hexec : exec i s = floatCode i f wd g s) :
    Completes s a i (fun t => t.putF a f.cm.d wd
      (g (ffmt f.ty.toNat) (t.fsrc a f.ty.toNat f.mods 0 f.cm.a) (t.fsrc a f.ty.toNat f.mods 1 f.cm.b))) :=
  completes_of_perLane hexec (fun _ => rfl)

end

/-! ### Address formation -/

section
variable {s : State} {a : Agent} {i : Instr} {d : Opnd}

/-- The address is canonical where it lies in [-2^55, 2^55) (R106). -/
theorem leaOut_canonical {e : Int} (h : -(2 ^ 55 : Int) ≤ e ∧ e < 2 ^ 55) (t : State) :
    leaOut a d e t = .done (t.putInt a d true 64 (toBits 64 e)) := by
  obtain ⟨hlo, hhi⟩ := h
  exact if_pos ⟨by omega, by omega⟩

/-- Another sum is the trap's address. -/
theorem leaOut_noncanonical {e : Int} (h : ¬ (-(2 ^ 55 : Int) ≤ e ∧ e < 2 ^ 55)) (t : State) :
    leaOut a d e t = .trap ⟨.noncanon, toBits 64 e⟩ :=
  if_neg (fun hc => h ⟨by omega, by omega⟩)

/-- A form whose lane forms the address `sum` writes it where it is canonical and traps otherwise; the sum is of the state in which
the lane begins. -/
theorem addressForm (sum : Agent → State → Int) (hexec : exec i s = perLane (form i) (fun a t => leaOut a d (sum a t) t) s) :
    (-(2 ^ 55 : Int) ≤ sum a (began s a i) ∧ sum a (began s a i) < 2 ^ 55 →
      Completes s a i (fun t => t.putInt a d true 64 (toBits 64 (sum a (began s a i)))))
    ∧ (¬ (-(2 ^ 55 : Int) ≤ sum a (began s a i) ∧ sum a (began s a i) < 2 ^ 55) →
      Traps s a i ⟨.noncanon, toBits 64 (sum a (began s a i))⟩) :=
  ⟨fun h => completes_of_began hexec (leaOut_canonical h _), fun h => traps_of_began hexec (leaOut_noncanonical h _)⟩

end

/-! ### The statements -/

/-- Settles O2: the immediate forms are `arithI` and `logicI` with the function of R96, R99 or R100, but for the two moves. -/
theorem integerImmediates : Obligations.IntegerImmediates := by
  intro s a f
  refine ⟨?iadd, ?imul, ?imin, ?imax, ?and, ?or, ?xor, ?andn, ?shl, ?shr, ?sra, ?rot, ?movi, ?movh⟩
  case iadd => exact completes_of_arithI (fun x y => x + y) rfl
  case imul => exact completes_of_arithI (fun x y => x * y) rfl
  case imin => exact completes_of_arithI (fun x y => min x y) rfl
  case imax => exact completes_of_arithI (fun x y => max x y) rfl
  case and => exact completes_of_logicI (fun _ x y => Nat.land x y) rfl
  case or => exact completes_of_logicI (fun _ x y => Nat.lor x y) rfl
  case xor => exact completes_of_logicI (fun _ x y => Nat.xor x y) rfl
  case andn => exact completes_of_logicI (fun w x y => Nat.land x (2 ^ w - 1 - y % 2 ^ w)) rfl
  case shl => exact completes_of_logicI shlBits rfl
  case shr => exact completes_of_logicI shrBits rfl
  case sra => exact completes_of_logicI sraBits rfl
  case rot => exact completes_of_logicI rotBits rfl
  case movi => exact completes_of_perLane rfl (fun _ => rfl)
  case movh => exact completes_of_perLane rfl (fun _ => rfl)

/-- `SEL` reads the operand that its predicate chooses (R103). -/
theorem completes_sel (s : State) (a : Agent) (f : RForm) :
    Completes s a (.sel f) (fun t => t.putInt a f.cm.d false (tyW f.ty)
      (if t.readPQ a f.pred2 then bitsOf t a f f.cm.a else bitsOf t a f f.cm.b)) := by
  refine completes_of_perLane rfl (fun t => ?_)
  cases hp : t.readPQ a f.pred2 <;> simp [bitsOf]

/-- Settles O4: each form has one lane body, which has one result. -/
theorem predicatesAndMoves : Obligations.PredicatesAndMoves := by
  intro s a f
  refine ⟨?isetp, ?sel, ?plog, ?mov, ?sread, ?nop⟩
  case isetp => exact completes_of_perLane rfl (fun _ => rfl)
  case sel => exact completes_sel s a f
  case plog => exact completes_of_perLane rfl (fun _ => rfl)
  case mov => exact completes_of_perLane rfl (fun _ => rfl)
  case sread => exact completes_of_perLane rfl (fun _ => rfl)
  case nop => exact completes_of_perLane rfl (fun _ => rfl)

/-- Settles O5: both forms of `LEA` are `addressForm` of their sum. -/
theorem addressFormation : Obligations.AddressFormation := by
  intro s a
  constructor
  · intro f
    exact addressForm (s := s) (a := a) (i := .lea f) (d := f.cm.d)
      (fun a t => t.val a true 64 f.cm.a + valOf t a f f.cm.b * ((2 ^ fld f.func 0 3 : Nat) : Int)) rfl
  · intro f
    exact addressForm (s := s) (a := a) (i := .leaImm f) (d := f.cm.d) (fun a t => t.val a true 64 f.cm.a + immInt f) rfl

/-- Settles O6: the register forms are `floatR` and the immediate forms `floatI`; `FSCALE` reads an integer and `FEXPO` writes one. -/
theorem floatArithmetic : Obligations.FloatArithmetic := by
  intro s a
  constructor
  · intro f
    refine ⟨?fadd, ?fsub, ?fmul, ?ffma, ?fdiv, ?fsqrt, ?rcps, ?rsqs, ?fexp2, ?flog2, ?fscale, ?fexpo⟩
    case fadd => exact completes_of_floatR (fun m x y _ => fAdd m f.round.toNat (f.sat == 1) x y) rfl
    case fsub => exact completes_of_floatR (fun m x y _ => fAdd m f.round.toNat (f.sat == 1) x y.opp) rfl
    case fmul => exact completes_of_floatR (fun m x y _ => fMul m f.round.toNat (f.sat == 1) x y) rfl
    case ffma => exact completes_of_floatR (fun m x y z => fFma m f.round.toNat (f.sat == 1) x y z) rfl
    case fdiv => exact completes_of_floatR (fun m x y _ => fDiv m f.round.toNat (f.sat == 1) x y) rfl
    case fsqrt => exact completes_of_floatR (fun m x _ _ => fSqrt m f.round.toNat x) rfl
    case rcps => exact completes_of_floatR (fun m x _ _ => fRcps m x) rfl
    case rsqs => exact completes_of_floatR (fun m x _ _ => fRsqs m x) rfl
    case fexp2 => exact completes_of_floatR (fun m x _ _ => fExp2 m f.round.toNat (f.sat == 1) x) rfl
    case flog2 => exact completes_of_floatR (fun m x _ _ => fLog2 m f.round.toNat x) rfl
    case fscale => exact completes_of_perLane rfl (fun _ => rfl)
    case fexpo => exact completes_of_perLane rfl (fun _ => rfl)
  · intro f
    refine ⟨?fadd, ?fmul, ?ffma⟩
    case fadd => exact completes_of_floatI (fun m x _ k => fAdd m 0 false x k) rfl
    case fmul => exact completes_of_floatI (fun m x _ k => fMul m 0 false x k) rfl
    case ffma => exact completes_of_floatI (fun m x y k => fFma m 0 false x y k) rfl

/-- `FCVT` without a scale converts A alone; with one it scales the value by B, which is an FP32 (R156, R157). -/
theorem completes_fcvt (s : State) (a : Agent) (f : RForm) :
    Completes s a (.fcvt f) (fun t => t.putF a f.cm.d (tyWn (fld f.func 0 4))
      (if f.func.getLsbD 4 then
        fConvScaled (ffmt (fld f.func 0 4)) f.round.toNat (f.sat == 1) (floatOf t a f 0 f.cm.a)
          (unpackF (ffmt 9) (t.fsrc a 9 f.mods 1 f.cm.b))
      else fConv (ffmt (fld f.func 0 4)) f.round.toNat (f.sat == 1) (floatOf t a f 0 f.cm.a))) :=
  completes_of_perLane rfl (fun _ => rfl)

/-- Settles O7: the forms on codes are `floatCode`; the bit 4 of `FCVT`'s function says which of its two conversions it has. -/
theorem floatCompareConvert : Obligations.FloatCompareConvert := by
  intro s a f
  refine ⟨?fmin, ?fmax, ?fsetp, ?fclass, ?frnd, ?f2i, ?i2f, ?plain, ?scaled⟩
  case fmin => exact completes_of_floatCode (tyW f.ty) (fun m x y => fMinMax m true x y) rfl
  case fmax => exact completes_of_floatCode (tyW f.ty) (fun m x y => fMinMax m false x y) rfl
  case fsetp => exact completes_of_perLane rfl (fun _ => rfl)
  case fclass => exact completes_of_floatCode 32 (fun m x _ => (fClass m x, 0)) rfl
  case frnd => exact completes_of_floatCode (tyW f.ty) (fun m x _ => fRnd m f.round.toNat x) rfl
  case f2i => exact completes_of_perLane rfl (fun _ => rfl)
  case i2f => exact completes_of_perLane rfl (fun _ => rfl)
  case plain =>
    intro hplain
    simpa only [hplain, Bool.false_eq_true, if_false] using completes_fcvt s a f
  case scaled =>
    intro hscaled
    simpa only [hscaled, if_true] using completes_fcvt s a f

/-- Settles O8: a branch or a call jumps to the target that its form names, and `EXIT` stays. -/
theorem controlFlow : Obligations.ControlFlow := by
  intro s a
  constructor
  · intro f
    exact ⟨jumps_of_perLane rfl (fun _ => rfl), jumps_of_perLane rfl (fun _ => rfl)⟩
  · intro f
    exact ⟨jumps_of_perLane rfl (fun _ => rfl), jumps_of_perLane rfl (fun _ => rfl), jumps_of_perLane rfl (fun _ => rfl),
      stays_of_began rfl rfl⟩

end Sys2Proof.Proofs
end


section
/-!
Memory instructions, and the forms of the lead (spec/06, spec/09, spec/10; O11 to O18). A lane that begins checks its address and is
then pending, done or trapped; one lemma per shape of a lane says which, and each instruction is an instance of its shape.
-/

namespace Sys2Proof.Proofs

open Sys2Proof.Machine Sys2Proof.Safety Sys2Proof.Laws

/-! ### Loads and stores -/

section
variable {s : State} {a : Agent} {i : Instr} {f : MForm} {ea : Agent → State → Int}

/-- A load form whose address passes its checks is pending. -/
theorem completes_of_loadOut (hexec : exec i s = perLane (form i) (fun a t => loadOut a f (ea a t) t) s)
    (hfine : (began s a i).checkSpace a f.space.toNat (ea a (began s a i)) (sizeBytes f.size) false (f.order != 0) = none) :
    Completes s a i (fun t => t.post a (t.spot a f.space (ea a t)) (sizeBytes f.size) f.order f.scope f.cache
      (.load f.cm.d (tySigned f.size)) .ld) :=
  completes_of_began hexec (loadOut_ok hfine)

theorem traps_of_loadOut {x : Trap} (hexec : exec i s = perLane (form i) (fun a t => loadOut a f (ea a t) t) s)
    (hbad : (began s a i).checkSpace a f.space.toNat (ea a (began s a i)) (sizeBytes f.size) false (f.order != 0) = some x) :
    Traps s a i x :=
  traps_of_began hexec (loadOut_trap hbad)

/-- A store form whose address passes its checks is pending with the data that it reads. -/
theorem completes_of_storeOut {d : Opnd} (hexec : exec i s = perLane (form i) (fun a t => storeOut a f (ea a t) d t) s)
    (hfine : (began s a i).checkSpace a f.space.toNat (ea a (began s a i)) (sizeBytes f.size) true (f.order != 0) = none) :
    Completes s a i (fun t => t.post a (t.spot a f.space (ea a t)) (sizeBytes f.size) f.order f.scope f.cache
      (.store (leBytes (sizeBytes f.size) (t.opVal a d (8 * sizeBytes f.size)))) .st) :=
  completes_of_began hexec (storeOut_ok hfine)

theorem traps_of_storeOut {d : Opnd} {x : Trap} (hexec : exec i s = perLane (form i) (fun a t => storeOut a f (ea a t) d t) s)
    (hbad : (began s a i).checkSpace a f.space.toNat (ea a (began s a i)) (sizeBytes f.size) true (f.order != 0) = some x) :
    Traps s a i x :=
  traps_of_began hexec (storeOut_trap hbad)

end

/-! ### Atomics -/

section
variable {s : State} {a : Agent} {i : Instr} {f : MForm} {n : Nat} {k : Agent → State → PendKind} {c : Ctr}

/-- An atomic whose address fails its checks traps (R223). -/
theorem atomicOut_trap {k : PendKind} {x : Trap} (h : s.checkSpace a f.space.toNat (s.ea a f (off16 f)) n true true = some x) :
    atomicOut a f n k c s = .trap x := by
  simp only [atomicOut, h]

/-- An atomic whose address passes its checks is pending with the operands that it reads. -/
theorem completes_of_atomicOut (hexec : exec i s = perLane (form i) (fun a t => atomicOut a f n (k a t) c t) s)
    (hfine : (began s a i).checkSpace a f.space.toNat ((began s a i).ea a f (off16 f)) n true true = none) :
    Completes s a i (fun t => t.post a (t.spot a f.space (t.ea a f (off16 f))) n f.order f.scope 0 (k a t) c) :=
  completes_of_began hexec (atomicOut_ok hfine)

theorem traps_of_atomicOut {x : Trap} (hexec : exec i s = perLane (form i) (fun a t => atomicOut a f n (k a t) c t) s)
    (hbad : (began s a i).checkSpace a f.space.toNat ((began s a i).ea a f (off16 f)) n true true = some x) :
    Traps s a i x :=
  traps_of_began hexec (atomicOut_trap hbad)

end

/-! ### The C-store and `LDGA` -/

section
variable (s : State) (a : Agent) (f : MForm)

/-- The lane of a C-store form: `k` is the access, once its range passes its check (R127). -/
def cstoreOut (kind : Agent → State → PendKind) (c : Ctr) (a : Agent) (t : State) : LaneOut :=
  match checkCstore (t.ea a f (off20 f)) (sizeBytes f.size) with
  | some x => .trap x
  | none => .done (t.post a (.cstore (t.ea a f (off20 f)).toNat) (sizeBytes f.size) 0 0 0 (kind a t) c)

variable {s a f} {i : Instr} {kind : Agent → State → PendKind} {c : Ctr}

theorem completes_of_cstoreOut (hexec : exec i s = perLane (form i) (cstoreOut f kind c) s)
    (hfine : checkCstore ((began s a i).ea a f (off20 f)) (sizeBytes f.size) = none) :
    Completes s a i (fun t => t.post a (.cstore (t.ea a f (off20 f)).toNat) (sizeBytes f.size) 0 0 0 (kind a t) c) :=
  completes_of_began hexec (by simp only [cstoreOut, hfine])

theorem traps_of_cstoreOut {x : Trap} (hexec : exec i s = perLane (form i) (cstoreOut f kind c) s)
    (hbad : checkCstore ((began s a i).ea a f (off20 f)) (sizeBytes f.size) = some x) : Traps s a i x :=
  traps_of_began hexec (by simp only [cstoreOut, hbad])

end

section
variable (t : State) (a : Agent) (f : MForm)

/-- The three addresses of an `LDGA` (R131): what it reads, where it lands, and the object that it credits. -/
def ldgaFrom : Int := (t.opVal a f.cm.a 64 : Nat) + off20 f
def ldgaTo : Nat := t.opVal a f.cm.b 32
def ldgaObj : Nat := t.opVal a f.cm.c 32

/-- The lane of an `LDGA`: its three checks in order, the overlap, and then the access. -/
def ldgaOut : LaneOut :=
  match t.checkGlobal a (ldgaFrom t a f) (sizeBytes f.size) false true with
  | some x => .trap x
  | none =>
    match t.checkSpace a f.space.toNat (ldgaTo t a f) (sizeBytes f.size) true false with
    | some x => .trap x
    | none =>
      match t.checkSpace a f.space.toNat (ldgaObj t a f) 16 true false with
      | some x => .trap x
      | none =>
        if ldgaTo t a f < ldgaObj t a f + 16 ∧ ldgaObj t a f < ldgaTo t a f + sizeBytes f.size then .trap ⟨.barBad, 0⟩
        else
          match t.placeOf a f.space.toNat (ldgaTo t a f), t.placeOf a f.space.toNat (ldgaObj t a f) with
          | .store c w d, .store x y z =>
            .done (t.post a (.glob (BitVec.ofInt 64 (ldgaFrom t a f)).toNat) (sizeBytes f.size) 0 0 f.cache
              (.ldga c w d x y z) .ld)
          | _, _ => .trap ⟨.storeBound, 0⟩

theorem exec_ldga (s : State) : exec (.ldga f) s = perLane (form (.ldga f)) (fun a t => ldgaOut t a f) s := rfl

variable {t a f}

section
variable (hfrom : t.checkGlobal a (ldgaFrom t a f) (sizeBytes f.size) false true = none)
include hfrom

theorem ldgaOut_trap_to {x : Trap} (hto : t.checkSpace a f.space.toNat (ldgaTo t a f) (sizeBytes f.size) true false = some x) :
    ldgaOut t a f = .trap x := by
  simp only [ldgaOut, hfrom, hto]

variable (hto : t.checkSpace a f.space.toNat (ldgaTo t a f) (sizeBytes f.size) true false = none)
include hto

theorem ldgaOut_trap_obj {x : Trap} (hobj : t.checkSpace a f.space.toNat (ldgaObj t a f) 16 true false = some x) :
    ldgaOut t a f = .trap x := by
  simp only [ldgaOut, hfrom, hto, hobj]

variable (hobj : t.checkSpace a f.space.toNat (ldgaObj t a f) 16 true false = none)
include hobj

theorem ldgaOut_overlap (h : ldgaTo t a f < ldgaObj t a f + 16 ∧ ldgaObj t a f < ldgaTo t a f + sizeBytes f.size) :
    ldgaOut t a f = .trap ⟨.barBad, 0⟩ := by
  simp only [ldgaOut, hfrom, hto, hobj, h, and_self, if_true]

theorem ldgaOut_ok {c w d x y z : Nat}
    (hapart : ¬ (ldgaTo t a f < ldgaObj t a f + 16 ∧ ldgaObj t a f < ldgaTo t a f + sizeBytes f.size))
    (hd : t.placeOf a f.space.toNat (ldgaTo t a f) = .store c w d)
    (hb : t.placeOf a f.space.toNat (ldgaObj t a f) = .store x y z) :
    ldgaOut t a f = .done (t.post a (.glob (BitVec.ofInt 64 (ldgaFrom t a f)).toNat) (sizeBytes f.size) 0 0 f.cache
      (.ldga c w d x y z) .ld) := by
  simp only [ldgaOut, hfrom, hto, hobj, hapart, if_false, hd, hb]

end

theorem ldgaOut_trap_from {x : Trap} (hfrom : t.checkGlobal a (ldgaFrom t a f) (sizeBytes f.size) false true = some x) :
    ldgaOut t a f = .trap x := by
  simp only [ldgaOut, hfrom]

end

/-! ### Prefetches and cache controls -/

section
variable {s : State} {a : Agent} {va : Nat} {act : State → Nat → State}

/-- A cache form whose address translates acts on the physical address and fills the TLB. -/
theorem cacheOut_ok {pa : Nat} (h : s.cacheAddr a va = .ok pa) :
    s.cacheOut a va act = .done ((act s pa).fillTlb a.core (s.viaOf a) va) := by
  simp only [State.cacheOut, h]

/-- Where a firewall or an invalid entry stops the walk the grid ends with `PERM`, and a closed firewall keeps its mark. -/
theorem cacheOut_perm {x : Trap} (h : s.cacheAddr a va = .error x) (hvia : s.viaOf a ≠ .phys) (hx : x.code = .perm) :
    s.cacheOut a va act = .stay ((s.noteDrop a.core (s.viaOf a) x.va).raise a x) := by
  simp only [State.cacheOut, h, hvia, if_false, State.laneOf, hx, if_true]

theorem cacheOut_trap {x : Trap} (h : s.cacheAddr a va = .error x) (hvia : s.viaOf a ≠ .phys) (hx : x.code ≠ .perm) :
    s.cacheOut a va act = .trap x := by
  simp only [State.cacheOut, h, hvia, if_false, State.laneOf, hx]

/-- A prefetch of an address that fails a check is dropped (R134). -/
theorem prefOut_dropped {ea : Int} (h : (s.checkGlobal a ea 1 false false).isSome = true) : s.prefOut a ea act = .done s := by
  simp only [State.prefOut, h, if_true]

/-- Another prefetch walks to the block of 128 bytes. -/
theorem prefOut_walks {ea : Int} (h : s.checkGlobal a ea 1 false false = none) :
    s.prefOut a ea act = s.cacheOut a ((BitVec.ofInt 64 ea).toNat / 128 * 128)
      (fun s pa => (act s pa).perfEvent a.core 6 (s.vfOf a) 1) := by
  simp only [State.prefOut, h, Option.isSome_none, Bool.false_eq_true, if_false]

variable {i : Instr} {body : Agent → State → LaneOut}

/-- What a failed walk of a cache form does to its lane: it stays with its grid's end on its way, or traps. -/
theorem walkFails_of_cacheOut (hexec : exec i s = perLane (form i) body s)
    (hbody : body a (began s a i) = (began s a i).cacheOut a va act) (x : Trap) (hvia : (began s a i).viaOf a ≠ .phys)
    (hx : (began s a i).cacheAddr a va = .error x) :
    (x.code = .perm → Stays s a i (fun u => (u.noteDrop a.core (u.viaOf a) x.va).raise a x))
    ∧ (x.code ≠ .perm → Traps s a i x) :=
  ⟨fun hperm => stays_of_began hexec (hbody.trans (cacheOut_perm hx hvia hperm)),
    fun hperm => traps_of_began hexec (hbody.trans (cacheOut_trap hx hvia hperm))⟩

theorem completes_of_cacheOut {pa : Nat} (hexec : exec i s = perLane (form i) body s)
    (hbody : body a (began s a i) = (began s a i).cacheOut a va act) (hpa : (began s a i).cacheAddr a va = .ok pa) :
    Completes s a i (fun t => (act t pa).fillTlb a.core (t.viaOf a) va) :=
  completes_of_began hexec (hbody.trans (cacheOut_ok hpa))

/-- A prefetch that passes the checks and translates does `act` at the block and counts as a request to L2. -/
theorem completes_of_prefOut {ea : Agent → State → Int} {act : Agent → State → Nat → State} {pa : Nat}
    (hexec : exec i s = perLane (form i) (fun a t => t.prefOut a (ea a t) (act a)) s)
    (hfine : (began s a i).checkGlobal a (ea a (began s a i)) 1 false false = none)
    (hpa : (began s a i).cacheAddr a ((BitVec.ofInt 64 (ea a (began s a i))).toNat / 128 * 128) = .ok pa) :
    Completes s a i (fun t => ((act a t pa).perfEvent a.core 6 (t.vfOf a) 1).fillTlb a.core (t.viaOf a)
      ((BitVec.ofInt 64 (ea a (began s a i))).toNat / 128 * 128)) :=
  completes_of_cacheOut (act := fun s pa => (act a s pa).perfEvent a.core 6 (s.vfOf a) 1) hexec (prefOut_walks hfine) hpa

end

section
variable {s : State} {a : Agent} {f : MForm}

/-- The lane of a `CCTL.dl`: of the checks of an access only the two on the form of the address stop it (R135). -/
def cctlDlOut (f : MForm) (a : Agent) (t : State) : LaneOut :=
  match t.checkGlobal a (t.ea a f (off20 f)) 1 false false with
  | some x => if x.code = .noncanon ∨ x.code = .crossTop then .trap x else .done t
  | none => t.cacheOut a (BitVec.ofInt 64 (t.ea a f (off20 f))).toNat (fun s pa => s.modCore a.core (fun k => k.l1Drop pa 1))

theorem exec_cctlDl (f : MForm) (s : State) : exec (.cctlDl f) s = perLane (form (.cctlDl f)) (cctlDlOut f) s := rfl

theorem cctlDlOut_trap {t : State} {x : Trap} (h : t.checkGlobal a (t.ea a f (off20 f)) 1 false false = some x)
    (hx : x.code = .noncanon ∨ x.code = .crossTop) : cctlDlOut f a t = .trap x := by
  simp only [cctlDlOut, h, hx, if_true]

theorem cctlDlOut_dropped {t : State} {x : Trap} (h : t.checkGlobal a (t.ea a f (off20 f)) 1 false false = some x)
    (hx : ¬ (x.code = .noncanon ∨ x.code = .crossTop)) : cctlDlOut f a t = .done t := by
  simp only [cctlDlOut, h, hx, if_false]

theorem cctlDlOut_walks {t : State} (h : t.checkGlobal a (t.ea a f (off20 f)) 1 false false = none) :
    cctlDlOut f a t = t.cacheOut a (BitVec.ofInt 64 (t.ea a f (off20 f))).toNat
      (fun s pa => s.modCore a.core (fun k => k.l1Drop pa 1)) := by
  simp only [cctlDlOut, h]

end

/-! ### The forms of the lead -/

section
variable {s : State} {a : Agent}

/-- The lane of a `DQPUSH` of a lead that does not wait yet, into a queue that is not full (R187). -/
theorem completes_dqpush {f : RForm} (hrun : (((began s a (.dqpush f)).flush a.core).ctx a).wait = .run)
    (hroom : ((began s a (.dqpush f)).flush a.core).queueFull a.core ((began s a (.dqpush f)).place a) = false) :
    Completes s a (.dqpush f) (fun b =>
      (((((began s a (.dqpush f)).flush a.core).enqueue a.core (b.place a) (BitVec.ofNat 64 (b.opVal a f.cm.a 64))).writeP a
        f.cm.c.num true).settleQueue a.core (b.place a))) := by
  refine completes_of_began rfl ?_
  simp only [hrun, hroom, ne_eq, not_true_eq_false, if_false, Bool.false_eq_true]

end

/-! ### The statements -/

/-- Settles O13: the four loads are `loadOut` at their address. -/
theorem loads : Obligations.Loads := by
  intro s a f
  refine ⟨?ld, ?lda, ?lds, ?ldx⟩
  case ld => exact completes_of_loadOut (ea := fun a t => t.ea a f (off20 f)) rfl
  case lda => exact completes_of_loadOut (ea := fun a t => t.ea a f (off20 f)) rfl
  case lds => exact completes_of_loadOut (ea := fun a t => t.ea a f (off20 f)) rfl
  case ldx => exact completes_of_loadOut (ea := fun a t => t.eaIndexed a f) rfl

/-- Settles O14: the three stores are `storeOut` at their address. -/
theorem stores : Obligations.Stores := by
  intro s a f
  refine ⟨?st, ?sta, ?stx⟩
  case st => exact completes_of_storeOut (ea := fun a t => t.ea a f (off20 f)) rfl
  case sta => exact completes_of_storeOut (ea := fun a t => t.ea a f (off20 f)) rfl
  case stx => exact completes_of_storeOut (ea := fun a t => t.eaIndexed a f) rfl

/-- Settles O15: the C-store forms are `cstoreOut`, and `LDGA` passes its three checks and the one of its overlap. -/
theorem storeSpaceForms : Obligations.StoreSpaceForms := by
  intro s a f
  refine ⟨?ldcs, ?stcs, ?ldga⟩
  case ldcs =>
    exact completes_of_cstoreOut (kind := fun _ _ => .load f.cm.d (tySigned f.size)) rfl
  case stcs =>
    exact completes_of_cstoreOut
      (kind := fun a t => .store (leBytes (sizeBytes f.size) (t.opVal a f.cm.b (8 * sizeBytes f.size)))) rfl
  case ldga =>
    intro b ga da ba c w d x y z hfrom hto hobj hapart hd hb
    exact completes_of_began (exec_ldga f s) (ldgaOut_ok hfrom hto hobj hapart hd hb)

/-- Settles O16: each form traps by the shape of its lane. -/
theorem accessTraps : Obligations.AccessTraps := by
  intro s a f x
  refine ⟨?ld, ?lda, ?lds, ?st, ?sta, ?ldx, ?stx, ?ldcs, ?stcs, ?atomics, ?ticket, ?ldga, ?cctl⟩
  case ld => exact traps_of_loadOut (ea := fun a t => t.ea a f (off20 f)) rfl
  case lda => exact traps_of_loadOut (ea := fun a t => t.ea a f (off20 f)) rfl
  case lds => exact traps_of_loadOut (ea := fun a t => t.ea a f (off20 f)) rfl
  case st => exact traps_of_storeOut (ea := fun a t => t.ea a f (off20 f)) rfl
  case sta => exact traps_of_storeOut (ea := fun a t => t.ea a f (off20 f)) rfl
  case ldx => exact traps_of_loadOut (ea := fun a t => t.eaIndexed a f) rfl
  case stx => exact traps_of_storeOut (ea := fun a t => t.eaIndexed a f) rfl
  case ldcs => exact traps_of_cstoreOut (kind := fun _ _ => .load f.cm.d (tySigned f.size)) rfl
  case stcs =>
    exact traps_of_cstoreOut
      (kind := fun a t => .store (leBytes (sizeBytes f.size) (t.opVal a f.cm.b (8 * sizeBytes f.size)))) rfl
  case atomics =>
    simp only [List.mem_cons, List.not_mem_nil, or_false]
    rintro i (rfl | rfl | rfl) hbad
    · exact traps_of_atomicOut (k := fun a t => .atom f.cm.d (atomOpOf f) f.size.toNat
        (BitVec.ofNat 64 (t.opVal a f.cm.b (8 * sizeBytes f.size)))) rfl hbad
    · exact traps_of_atomicOut (k := fun a t => .atom (.lit 0) (atomOpOf f) f.size.toNat
        (BitVec.ofNat 64 (t.opVal a f.cm.b (8 * sizeBytes f.size)))) rfl hbad
    · exact traps_of_atomicOut (k := fun a t => .cas f.cm.d (BitVec.ofNat 64 (t.opVal a f.cm.b (8 * sizeBytes f.size)))
        (BitVec.ofNat 64 (t.opVal a f.cm.c (8 * sizeBytes f.size)))) rfl hbad
  case ticket =>
    exact traps_of_atomicOut (k := fun a t => .ticket f.cm.d (BitVec.ofNat 32 (t.opVal a f.cm.b 32))
      (BitVec.ofNat 64 (if f.cm.c = .lit 0 then 2 ^ 64 - 1 else t.opVal a f.cm.c 64))) rfl
  case ldga =>
    refine ⟨?from_, ?to_, ?obj, ?overlap⟩
    case from_ => exact fun hfrom => traps_of_began (exec_ldga f s) (ldgaOut_trap_from hfrom)
    case to_ => exact fun hfrom hto => traps_of_began (exec_ldga f s) (ldgaOut_trap_to hfrom hto)
    case obj => exact fun hfrom hto hobj => traps_of_began (exec_ldga f s) (ldgaOut_trap_obj hfrom hto hobj)
    case overlap =>
      exact fun hfrom hto hobj hlo hhi => traps_of_began (exec_ldga f s) (ldgaOut_overlap hfrom hto hobj ⟨hlo, hhi⟩)
  case cctl =>
    exact fun hbad => ⟨fun hx => traps_of_began (exec_cctlDl f s) (cctlDlOut_trap hbad hx),
      fun hx => completes_of_began (exec_cctlDl f s) (cctlDlOut_dropped hbad hx)⟩

/-- Settles O17: a prefetch is dropped by its checks or walks, and a `CCTL.dl` that passes them walks. -/
theorem cacheForms : Obligations.CacheForms := by
  intro s a f
  refine ⟨?prefetch, ?l1, ?l2, ?ic, ?da, ?dl⟩
  case prefetch =>
    simp only [List.mem_cons, List.not_mem_nil, or_false]
    rintro i (rfl | rfl)
    · exact ⟨fun hbad => completes_of_began (effect := id) rfl (prefOut_dropped hbad),
        fun hfine x hvia hx => walkFails_of_cacheOut rfl (prefOut_walks hfine) x hvia hx⟩
    · exact ⟨fun hbad => completes_of_began (effect := id) rfl (prefOut_dropped hbad),
        fun hfine x hvia hx => walkFails_of_cacheOut rfl (prefOut_walks hfine) x hvia hx⟩
  case l1 =>
    intro pa i hfine hpa
    exact completes_of_prefOut (ea := fun a t => t.ea a f (off20 f)) 
      (act := fun a t pa => if t.poisoned pa 128 then t else t.l1Fill a.core pa 128 true 0) rfl hfine hpa
  case l2 =>
    intro pa i hfine hpa
    exact completes_of_prefOut (ea := fun a t => t.ea a f (off20 f)) (act := fun _ t _ => t) rfl hfine hpa
  case ic => exact completes_of_perLane rfl (fun _ => rfl)
  case da => exact completes_of_perLane rfl (fun _ => rfl)
  case dl =>
    intro i hfine
    refine ⟨fun x hvia hx => walkFails_of_cacheOut (exec_cctlDl f s) (cctlDlOut_walks hfine) x hvia hx, fun pa hpa => ?_⟩
    exact completes_of_cacheOut (act := fun s pa => s.modCore a.core (fun k => k.l1Drop pa 1)) (exec_cctlDl f s)
      (cctlDlOut_walks hfine) hpa

/-- Settles O18: the atomics are `atomicOut` with their kind, and a fence has one effect for a release and one for what acquires. -/
theorem atomicsAndFences : Obligations.AtomicsAndFences := by
  intro s a f
  refine ⟨?atom, ?atoma, ?cas, ?ticket, ?release, ?acquire⟩
  case atom => exact completes_of_atomicOut (k := fun a t => .atom f.cm.d (atomOpOf f) f.size.toNat
      (BitVec.ofNat 64 (t.opVal a f.cm.b (8 * sizeBytes f.size)))) rfl
  case atoma => exact completes_of_atomicOut (k := fun a t => .atom (.lit 0) (atomOpOf f) f.size.toNat
      (BitVec.ofNat 64 (t.opVal a f.cm.b (8 * sizeBytes f.size)))) rfl
  case cas => exact completes_of_atomicOut (k := fun a t => .cas f.cm.d
      (BitVec.ofNat 64 (t.opVal a f.cm.b (8 * sizeBytes f.size))) (BitVec.ofNat 64 (t.opVal a f.cm.c (8 * sizeBytes f.size)))) rfl
  case ticket =>
    exact completes_of_atomicOut (k := fun a t => .ticket f.cm.d (BitVec.ofNat 32 (t.opVal a f.cm.b 32))
      (BitVec.ofNat 64 (if f.cm.c = .lit 0 then 2 ^ 64 - 1 else t.opVal a f.cm.c 64))) rfl
  case release => exact fun horder => completes_of_began rfl (by simp only [horder, if_true])
  case acquire => exact fun horder => completes_of_began rfl (by simp only [horder, if_false])

/-- Settles O11: the group's first present thread finds an entry, so the group takes it. -/
theorem queuePop : Obligations.QueuePop := by
  intro s as f x xs hpresent hlevel hentry hruns
  obtain ⟨fm, hf⟩ := exists_form_of_runsGroup hruns
  refine perGroup_runs hf hruns ?_
  simp only [hpresent, hlevel, hentry, ne_eq, not_true_eq_false, if_false, if_true]

/-- Settles O12: each form takes the path that its hypotheses choose. -/
theorem leadForms : Obligations.LeadForms := by
  intro s a
  refine ⟨?dqpush, ?lnch, ?fwork, ?wgdone⟩
  case dqpush =>
    intro f t hrun hroom
    exact completes_dqpush hrun hroom
  case lnch =>
    intro f b n q end_ written henable hqerr hroom
    constructor
    · intro hfrozen hcause
      refine completes_of_began rfl ?_
      simp only [b, n, q, end_, written] at *
      simp only [henable, hqerr, hroom, hfrozen, hcause, if_false, Bool.not_true, Bool.false_eq_true]
    · intro hfrozen
      refine completes_of_began rfl ?_
      simp only [b, n, q, end_, written] at *
      simp only [henable, hqerr, hroom, hfrozen, if_false, if_true, Bool.not_true, Bool.false_eq_true]
  case fwork =>
    intro f g b hfine hrun hgrid
    refine completes_of_began rfl ?_
    simp only [b] at *
    simp only [hfine, hrun, hgrid, ne_eq, not_true_eq_false, if_false]
  case wgdone => exact fun f => stays_of_began rfl rfl

end Sys2Proof.Proofs
end


section
/-!
Barrier objects and forms, accesses that are performed, walks, and waits that run out (O19 to O24): what an operation of the machine
does where it is enabled.
-/

namespace Sys2Proof.Proofs

open Sys2Proof.Machine Sys2Proof.Safety Sys2Proof.Laws

/-! ### The operations on a barrier object -/

section
variable (o : Obj) (n : Nat)

/-- The phase of a complete object advances, and its expectation starts again (R231). -/
theorem complete_of_done (h : o.pend = 0 ∧ o.bland = o.bexp) :
    o.complete = ({ o with phase := o.phase + 1, pend := o.expa, bexp := 0, bland := 0 }, true) := if_pos h

theorem complete_of_open (h : ¬ (o.pend = 0 ∧ o.bland = o.bexp)) : o.complete = (o, false) := if_neg h

/-- Completion keeps the two overflow flags. -/
theorem complete_bovr : o.complete.1.bovr = o.bovr := by
  unfold Obj.complete; split <;> rfl

/-- An arrival of at most `pend` lowers it and completes the object where nothing is left. -/
theorem arrive_of_le (h : n ≤ o.pend) :
    o.arrive n = (({ o with pend := o.pend - n } : Obj).complete.1, ({ o with pend := o.pend - n } : Obj).complete.2, true) := by
  unfold Obj.arrive
  rw [if_neg (by omega)]

theorem arrive_of_gt (h : o.pend < n) : o.arrive n = ({ o with aovr := true }, false, false) := if_pos h

theorem expect_of_le (h : o.bexp + n ≤ 0xFFFFFFFF) : o.expect n = ({ o with bexp := o.bexp + n } : Obj).complete := by
  unfold Obj.expect
  rw [if_neg (by omega)]

/-- An expectation past the field's largest value sets `bovr`. -/
theorem expect_bovr (h : 0xFFFFFFFF < o.bexp + n) : (o.expect n).1.bovr = true := by
  unfold Obj.expect
  rw [if_pos h, complete_bovr]

/-- A credit of an object that still expects arrivals only counts its bytes. -/
theorem credit_of_pend (hp : 0 < o.pend) (h : o.bland + n ≤ 0xFFFFFFFF) :
    o.credit n = ({ o with bland := o.bland + n }, false) := by
  unfold Obj.credit
  rw [if_neg (by omega)]
  simp only [show ¬ (o.pend = 0 ∧ o.bland + n > o.bexp) by omega, if_false]
  exact complete_of_open _ (by simp only; omega)

/-- The credit that brings the last byte completes the object. -/
theorem credit_of_last (hp : o.pend = 0) (h : o.bland + n = o.bexp) (hmax : o.bexp ≤ 0xFFFFFFFF) :
    o.credit n = ({ o with phase := o.phase + 1, pend := o.expa, bexp := 0, bland := 0 }, true) := by
  unfold Obj.credit
  rw [if_neg (by omega)]
  simp only [show ¬ (o.pend = 0 ∧ o.bland + n > o.bexp) by omega, if_false]
  exact complete_of_done _ ⟨hp, h⟩

/-- A credit of more bytes than are expected sets `bovr`. -/
theorem credit_bovr (hp : o.pend = 0) (h : o.bexp < o.bland + n) : (o.credit n).1.bovr = true := by
  unfold Obj.credit
  rw [complete_bovr]
  split
  · split <;> rfl
  · simp only [hp, true_and, h, if_true]

end

/-! ### The bytes of an object -/

/-- The bytes of a value hold it, as far as they reach. -/
theorem leNat_leBytes (n v : Nat) : leNat (leBytes n v) = v % 256 ^ n := by
  induction n generalizing v with
  | zero => simp [leBytes, leNat, Nat.mod_one]
  | succ n ih =>
    rw [Nat.pow_succ', Nat.mod_mul]
    simp only [leBytes, leNat, ih, BitVec.toNat_ofNat, Nat.reducePow]

theorem length_leBytes (n v : Nat) : (leBytes n v).length = n := by
  induction n generalizing v with
  | zero => rfl
  | succ n ih => rw [leBytes, List.length_cons, ih]

/-- A bit of a value is the flag that stands there. -/
theorem getLsbD_of_bit {w x i : Nat} (b : Bool) (hi : i < w) (h : x / 2 ^ i % 2 = b.toNat) : (BitVec.ofNat w x).getLsbD i = b := by
  rw [BitVec.getLsbD_ofNat, Nat.testBit_eq_decide_div_mod_eq, h]
  cases b <;> simp [hi]

/-- An object whose fields fit is read back from its bytes (R230). -/
theorem ofBytes_bytes (o : Obj) (he : o.expa < 4096) (hp : o.pend < 4096) (hx : o.bexp < 2 ^ 32) (hl : o.bland < 2 ^ 32)
    (hw : o.waiters < 2 ^ 16) (hr : o.rsv < 2 ^ 16) : Obj.ofBytes o.bytes = o := by
  obtain ⟨phase, aovr, bovr, valid, rsv7, expa, pend, bexp, bland, waiters, rsv⟩ := o
  simp only at he hp hx hl hw hr
  have hphase := phase.isLt
  have haovr := aovr.toNat_le
  have hbovr := bovr.toNat_le
  have hvalid := valid.toNat_le
  have hrsv7 := rsv7.toNat_le
  have hlen : ∀ v, (leBytes 16 v).take 16 = leBytes 16 v := fun v =>
    List.take_of_length_le (Nat.le_of_eq (length_leBytes 16 v))
  simp only [Obj.ofBytes, Obj.bytes, Obj.low, hlen, leNat_leBytes]
  rw [Nat.mod_eq_of_lt he, Nat.mod_eq_of_lt hp, Nat.mod_eq_of_lt hx, Nat.mod_eq_of_lt hl, Nat.min_eq_left (by omega),
    Nat.mod_eq_of_lt (show rsv < 65536 from hr)]
  simp only [Obj.mk.injEq, fld, BitVec.toNat_ofNat]
  refine ⟨?phase, ?aovr, ?bovr, ?valid, ?rsv7, ?expa, ?pend, ?bexp, ?bland, ?waiters, ?rsv⟩
  case phase => apply BitVec.eq_of_toNat_eq; simp only [BitVec.extractLsb'_toNat, BitVec.toNat_ofNat]; omega
  case aovr | bovr | valid | rsv7 =>
    exact getLsbD_of_bit _ (by decide) (by omega)
  all_goals omega

/-! ### Accesses that are performed -/

section
variable {s : State} {core op : Nat} {p : Pending}

/-- An access is performed only where it is among those of its core, and nothing before it stands in its way. -/
theorem readyOp_iff : s.readyOp core op = some p ↔ (s.core core).findOp op = some p ∧ (s.core core).opReady p = true := by
  simp only [State.readyOp, Option.bind_eq_some_iff, Option.ite_none_right_eq_some, Option.some.injEq]
  constructor
  · rintro ⟨q, hq, hr, rfl⟩
    exact ⟨hq, hr⟩
  · rintro ⟨hq, hr⟩
    exact ⟨p, hq, hr, rfl⟩

/-- The access that a number names has that number. -/
theorem id_of_findOp {k : Core} (h : k.findOp op = some p) : p.id = op := by
  simpa using List.find?_some h

/-- A set of accesses of which each may go is performed together. -/
theorem performSet_ready {name : String} (h : ((s.core p.agent.core).atomicSet p).all (s.core p.agent.core).opReady = true) :
    s.performSet p name = .next (((s.core p.agent.core).atomicSet p).foldl (fun t q => t.perform q) s) := by
  simp only [State.performSet, h, if_true]

variable (hready : s.readyOp core op = some p)
include hready

theorem exec_loadReturn_loads (hkind : p.isLoad = true) (hset : ((s.core core).loadSet p).all (s.core core).opReady = true) :
    exec (.loadReturn core op) s = .next (s.performLoads ((s.core core).loadSet p)) := by
  change execLoadReturn core op s = _
  simp only [execLoadReturn, hready, hkind, hset, if_true]

theorem exec_loadReturn_home (hkind : p.isStep = true ∨ p.isText = true) :
    exec (.loadReturn core op) s = .next (s.perform p) := by
  change execLoadReturn core op s = _
  have hload : p.isLoad = false := by
    unfold Pending.isLoad
    split
    · rename_i hk
      simp [Pending.isStep, Pending.isText, hk] at hkind
    · rfl
  simp only [execLoadReturn, hready, hload, Bool.or_eq_true, hkind, Bool.false_eq_true, if_false, if_true]

theorem exec_storePerformed_store {bs : List Byte} (hkind : p.kind = .store bs) :
    exec (.storePerformed core op) s = .next (s.performStoreStep p bs) := by
  change execStorePerformed core op s = _
  simp only [execStorePerformed, hready, hkind]

theorem exec_ldgaLanding (hkind : p.isLdga = true) (hset : ((s.core core).loadSet p).all (s.core core).opReady = true) :
    exec (.ldgaLanding core op) s = .next (((s.core core).loadSet p).foldl (fun t q => t.perform q) s) := by
  change execLdgaLanding core op s = _
  simp only [execLdgaLanding, hready, hkind, hset, Bool.and_self, if_true]

variable (htogether : ((s.core p.agent.core).atomicSet p).all (s.core p.agent.core).opReady = true)
include htogether

theorem exec_atomicAtHome (hkind : p.isAtomic = true) :
    exec (.atomicAtHome core op) s = .next (((s.core p.agent.core).atomicSet p).foldl (fun t q => t.perform q) s) := by
  change execAtomicAtHome core op s = _
  simp only [execAtomicAtHome, hready, hkind, if_true, performSet_ready htogether]

/-- A barrier form acts by the operation of the counter that it is counted in (R245). -/
theorem exec_bar_of_ctr (hkind : p.isBar = true) :
    (p.ctr = .ld → exec (.loadReturn core op) s = .next (((s.core p.agent.core).atomicSet p).foldl (fun t q => t.perform q) s))
    ∧ (p.ctr = .st →
      exec (.storePerformed core op) s = .next (((s.core p.agent.core).atomicSet p).foldl (fun t q => t.perform q) s)) := by
  obtain ⟨k, r, d, n, hk⟩ : ∃ k r d n, p.kind = .bar k r d n := by
    unfold Pending.isBar at hkind
    split at hkind
    · rename_i hk
      exact ⟨_, _, _, _, hk⟩
    · cases hkind
  constructor
  · intro hctr
    change execLoadReturn core op s = _
    simp only [execLoadReturn, hready, Pending.isLoad, Pending.isStep, Pending.isText, Pending.isBar, hk, hctr, beq_self_eq_true,
      Bool.or_self, Bool.false_eq_true, Bool.and_self, if_false, if_true, performSet_ready htogether]
  · intro hctr
    change execStorePerformed core op s = _
    simp only [execStorePerformed, hready, hk, hctr, beq_self_eq_true, if_true, performSet_ready htogether]

end

/-! ### Where an access has no choice of its parts -/

/-- One choice is no choice, and draws nothing from the oracle. -/
theorem pick_one (s : State) : s.pick 1 = (0, s) := rfl

/-- Units of which at most one is left are at most one without repetition. -/
theorem length_eraseDups_of_short {us : List (Nat × Nat)} (h : us.length ≤ 1) : us.eraseDups.length ≤ 1 := by
  match us, h with
  | [], _ => simp
  | [x], _ => simp [List.eraseDups_cons]

/-- A lone load of which at most one unit is left returns whole. -/
theorem performLoads_single {s : State} {core op : Nat} {p : Pending} {d : Opnd} {x : Bool} (hready : s.readyOp core op = some p)
    (hkind : p.kind = .load d x) (hcore : p.agent.core = core) (hshort : p.rest.length ≤ 1) :
    s.performLoads [p] = s.performLoad p d x := by
  have hfind : (s.core p.agent.core).findOp p.id = some p := by
    rw [hcore, id_of_findOp (readyOp_iff.1 hready).1]
    exact (readyOp_iff.1 hready).1
  have hunits : ([p].flatMap (·.rest)).eraseDups.length ≤ 1 := by
    simpa using length_eraseDups_of_short hshort
  simp only [State.performLoads, hunits, if_true, pick_one, List.foldl, hfind, hkind]

/-- A store of which at most one unit is left is written whole. -/
theorem performStoreStep_short {s : State} {p : Pending} {bs : List Byte} (hshort : p.rest.length ≤ 1) :
    s.performStoreStep p bs = s.performStore p bs := by
  simp only [State.performStoreStep, hshort, if_true, pick_one, true_or]

/-- Forms of one issue on one object overlap, so they are performed together (R211, R245). -/
theorem mem_atomicSet_of_sameObject {k : Core} {p q : Pending} (hobj : p.sameObject q = true) (hmem : q ∈ k.pend)
    (hissue : q.sameIssue p = true) : q ∈ k.atomicSet p := by
  have hparts : q.isBar = true ∧ q.sameObject p = true := by
    unfold Pending.sameObject at hobj
    split at hobj
    · rename_i hp hq
      rw [beq_iff_eq] at hobj
      simp [Pending.isBar, Pending.sameObject, hp, hq, hobj]
    · cases hobj
  obtain ⟨hbar, hsame⟩ := hparts
  simp only [Core.atomicSet, List.mem_filter, hmem, hbar, hissue, Pending.overlaps, hsame, Bool.or_true, Bool.and_self, true_and]

/-! ### Barrier forms at their home -/

section
variable {s : State} {op : Nat} {p : Pending} {k : BarKind} {r : ObjRef} {d : Opnd} {pred : Nat}

/-- A lone form acts on its object, by the operation of its counter. -/
theorem exec_bar_alone (hready : s.readyOp p.agent.core op = some p) (halone : (s.core p.agent.core).atomicSet p = [p])
    (hkind : p.kind = .bar k r d pred) {t : State} (hact : s.performBar p k r d pred = t) :
    (p.ctr = .ld → exec (.loadReturn p.agent.core op) s = .next t)
    ∧ (p.ctr = .st → exec (.storePerformed p.agent.core op) s = .next t) := by
  have htogether : ((s.core p.agent.core).atomicSet p).all (s.core p.agent.core).opReady = true := by
    simpa [halone] using (readyOp_iff.1 hready).2
  have hset : ((s.core p.agent.core).atomicSet p).foldl (fun t q => t.perform q) s = t := by
    simp only [halone, List.foldl, State.perform, hkind, hact]
  rw [← hset]
  exact exec_bar_of_ctr hready htogether (by simp only [Pending.isBar, hkind])

/-- The result that a form gives its agent, where it is alive (R245). -/
def barResult (p : Pending) (pred : Nat) (t : State) (v : Bool) : State :=
  (if (t.ctx p.agent).alive then t.writeP p.agent pred v else t).retire p

variable {n : Nat} {ph : BitVec 4}
variable (hhurt : (s.spoilObj p.agent.core r p.undef).objHurt r = true)

include hhurt in
/-- A poisoned object ends the grid, whatever the form (R407). -/
theorem performBar_hurt : s.performBar p k r d pred = (s.spoilObj p.agent.core r p.undef).opFails p ⟨.eccUe, 0⟩ := by
  simp only [State.performBar, hhurt, if_true]

variable (hwhole : (s.spoilObj p.agent.core r p.undef).objHurt r = false)
include hwhole

theorem performBar_binit (hfree : ((s.spoilObj p.agent.core r p.undef).objRead r).valid = false
      ∨ (s.spoilObj p.agent.core r p.undef).waitersOn r = 0) :
    s.performBar p (.binit n) r d pred = ((((s.spoilObj p.agent.core r p.undef).publish p.agent (some (.at_ r))
      p.scope.toNat).objWrite p.agent.core r (Obj.fresh n)).retire p) := by
  have hfree' : ¬ (((s.spoilObj p.agent.core r p.undef).objRead r).valid = true
      ∧ (s.spoilObj p.agent.core r p.undef).waitersOn r ≠ 0) := by
    rintro ⟨hvalid, hwaiters⟩
    rcases hfree with h | h
    · rw [h] at hvalid; cases hvalid
    · exact hwaiters h
  simp only [State.performBar, hwhole, Bool.false_eq_true, if_false, hfree']

theorem performBar_binit_bad (hvalid : ((s.spoilObj p.agent.core r p.undef).objRead r).valid = true)
    (hwaiters : (s.spoilObj p.agent.core r p.undef).waitersOn r ≠ 0) :
    s.performBar p (.binit n) r d pred = (s.spoilObj p.agent.core r p.undef).opFails p ⟨.barBad, 0⟩ := by
  simp only [State.performBar, hwhole, Bool.false_eq_true, if_false, hvalid, hwaiters, ne_eq, not_false_eq_true, and_self, if_true]

theorem performBar_btest_still (h : ((s.spoilObj p.agent.core r p.undef).objRead r).valid = false
      ∨ ((s.spoilObj p.agent.core r p.undef).objRead r).phase = ph) :
    s.performBar p (.btest ph) r d pred = barResult p pred ((s.spoilObj p.agent.core r p.undef).giveBack p d 32
      ((s.spoilObj p.agent.core r p.undef).objRead r).low) false := by
  have hmoved : (((s.spoilObj p.agent.core r p.undef).objRead r).valid
      && ((s.spoilObj p.agent.core r p.undef).objRead r).phase != ph) = false := by
    rcases h with h | h <;> simp [h]
  simp only [State.performBar, hwhole, Bool.false_eq_true, if_false, hmoved, barResult]

theorem performBar_btest_moved (hvalid : ((s.spoilObj p.agent.core r p.undef).objRead r).valid = true)
    (hphase : ((s.spoilObj p.agent.core r p.undef).objRead r).phase ≠ ph) :
    s.performBar p (.btest ph) r d pred = barResult p pred (((s.spoilObj p.agent.core r p.undef).acquire p.agent p.scope.toNat
      (some (.at_ r))).giveBack p d 32 ((s.spoilObj p.agent.core r p.undef).objRead r).low) true := by
  simp only [State.performBar, hwhole, Bool.false_eq_true, if_false, hvalid, bne_iff_ne.2 hphase, Bool.and_self, if_true, barResult]

/-- A form that needs a consistent object fails on another (R236). -/
theorem performBar_inconsistent (hbad : ((s.spoilObj p.agent.core r p.undef).objRead r).consistent = false)
    (hk : ∃ n, k = .barv n ∨ k = .bexp n ∨ k = .bexit ∨ k = .binval) :
    s.performBar p k r d pred = (s.spoilObj p.agent.core r p.undef).opFails p ⟨.barBad, 0⟩ := by
  obtain ⟨n, rfl | rfl | rfl | rfl⟩ := hk <;> simp only [State.performBar, hwhole, hbad, Bool.false_eq_true, if_false]

variable (hsound : ((s.spoilObj p.agent.core r p.undef).objRead r).consistent = true)
include hsound

theorem performBar_barv :
    s.performBar p (.barv n) r d pred = barResult p pred ((((s.spoilObj p.agent.core r p.undef).publish p.agent (some (.at_ r))
      p.scope.toNat).objDone p.agent.core r (((s.spoilObj p.agent.core r p.undef).objRead r).arrive n).1
      (((s.spoilObj p.agent.core r p.undef).objRead r).arrive n).2.1).giveBack p d 32
        ((s.spoilObj p.agent.core r p.undef).objRead r).phase.toNat)
      (((s.spoilObj p.agent.core r p.undef).objRead r).arrive n).2.2 := by
  simp only [State.performBar, hwhole, hsound, Bool.false_eq_true, if_false, if_true, barResult]

theorem performBar_bexp :
    s.performBar p (.bexp n) r d pred = ((s.spoilObj p.agent.core r p.undef).objDone p.agent.core r
      (((s.spoilObj p.agent.core r p.undef).objRead r).expect n).1
      (((s.spoilObj p.agent.core r p.undef).objRead r).expect n).2).retire p := by
  simp only [State.performBar, hwhole, hsound, Bool.false_eq_true, if_false, if_true]

theorem performBar_bexit_last (h : ((s.spoilObj p.agent.core r p.undef).objRead r).expa = 1
      ∨ ((s.spoilObj p.agent.core r p.undef).objRead r).pend = 0) :
    s.performBar p .bexit r d pred = barResult p pred (((s.spoilObj p.agent.core r p.undef).publish p.agent (some (.at_ r))
      p.scope.toNat).objWrite p.agent.core r { (s.spoilObj p.agent.core r p.undef).objRead r with aovr := true }) false := by
  simp only [State.performBar, hwhole, hsound, Bool.false_eq_true, if_false, if_true, h, barResult]

theorem performBar_bexit (hexpa : ((s.spoilObj p.agent.core r p.undef).objRead r).expa ≠ 1)
    (hpend : ((s.spoilObj p.agent.core r p.undef).objRead r).pend ≠ 0) :
    s.performBar p .bexit r d pred = barResult p pred (((s.spoilObj p.agent.core r p.undef).publish p.agent (some (.at_ r))
      p.scope.toNat).objDone p.agent.core r
      ({ (s.spoilObj p.agent.core r p.undef).objRead r with
        expa := ((s.spoilObj p.agent.core r p.undef).objRead r).expa - 1 }.arrive 1).1
      ({ (s.spoilObj p.agent.core r p.undef).objRead r with
        expa := ((s.spoilObj p.agent.core r p.undef).objRead r).expa - 1 }.arrive 1).2.1) true := by
  simp only [State.performBar, hwhole, hsound, Bool.false_eq_true, if_false, if_true, hexpa, hpend, or_self, barResult]

theorem performBar_binval (h : (s.spoilObj p.agent.core r p.undef).waitersOn r = 0) :
    s.performBar p .binval r d pred = barResult p pred ((s.spoilObj p.agent.core r p.undef).objWrite p.agent.core r
      { (s.spoilObj p.agent.core r p.undef).objRead r with valid := false }) true := by
  simp only [State.performBar, hwhole, hsound, Bool.false_eq_true, if_false, if_true, h, barResult]

theorem performBar_binval_waiters (h : (s.spoilObj p.agent.core r p.undef).waitersOn r ≠ 0) :
    s.performBar p .binval r d pred = barResult p pred (s.spoilObj p.agent.core r p.undef) false := by
  simp only [State.performBar, hwhole, hsound, Bool.false_eq_true, if_false, if_true, h, barResult]

end

/-! ### Barrier forms at their issue -/

section
variable {s : State} {a : Agent} {f : MForm}

/-- A form that only checks its object is pending with what it reads. -/
theorem completes_of_barrierOut {i : Instr} {k : Agent → State → BarKind} {d : Opnd} {n : Nat} {c : Ctr} {r : ObjRef}
    (hexec : exec i s = perLane (form i) (fun a t => barrierOut a f (k a t) d n c t) s)
    (hobj : (began s a i).barObject a f = .ok r) :
    Completes s a i (fun t =>
      t.post a (t.spot a f.space (t.ea a f (off20 f))) 16 f.order f.scope 0 (.bar (k a t) r d n) c) :=
  completes_of_began hexec (barrierOut_ok hobj)

/-- The lane of a `BINIT`: the count is checked after the object (R237). -/
def binitOut (f : MForm) (a : Agent) (t : State) : LaneOut :=
  match t.barObject a f with
  | .error x => t.barFails a f x
  | .ok _ =>
    if t.opVal a f.cm.b 32 = 0 ∨ 4095 < t.opVal a f.cm.b 32 then .trap ⟨.barBad, 0⟩
    else barrierOut a f (.binit (t.opVal a f.cm.b 32)) (.lit 0) 7 .st t

theorem exec_binit (f : MForm) (s : State) : exec (.binit f) s = perLane (form (.binit f)) (binitOut f) s := rfl

theorem binitOut_count {t : State} {r : ObjRef} (hobj : t.barObject a f = .ok r)
    (hcount : t.opVal a f.cm.b 32 = 0 ∨ 4095 < t.opVal a f.cm.b 32) : binitOut f a t = .trap ⟨.barBad, 0⟩ := by
  simp only [binitOut, hobj, hcount, if_true]

theorem binitOut_ok {t : State} {r : ObjRef} (hobj : t.barObject a f = .ok r) (hlo : 1 ≤ t.opVal a f.cm.b 32)
    (hhi : t.opVal a f.cm.b 32 ≤ 4095) :
    binitOut f a t = .done (t.post a (t.spot a f.space (t.ea a f (off20 f))) 16 f.order f.scope 0
      (.bar (.binit (t.opVal a f.cm.b 32)) r (.lit 0) 7) .st) := by
  simp only [binitOut, hobj, barrierOut_ok hobj, show ¬ (t.opVal a f.cm.b 32 = 0 ∨ 4095 < t.opVal a f.cm.b 32) by omega, if_false]

/-- The state in which a `BWAIT` reads its object: what its core has pending is performed, and the bytes of an object on which a
matrix operation works are undefined (R239). -/
def bwaitHome (f : MForm) (r : ObjRef) (a : Agent) (t : State) : State :=
  ((t.flush a.core).barEvent a.core (t.viaOf a) r).spoilObj a.core r
    ((t.ctx a).marked (t.spot a f.space (t.ea a f (off20 f))) 16)

/-- The lane of a `BWAIT`. -/
def bwaitOut (f : MForm) (a : Agent) (t : State) : LaneOut :=
  match t.barObject a f with
  | .error x => t.barFails a f x
  | .ok r =>
    if ((bwaitHome f r a t).ctx a).wait ≠ .run then .stay (bwaitHome f r a t)
    else if (bwaitHome f r a t).objHurt r then .trap ⟨.eccUe, 0⟩
    else if !((bwaitHome f r a t).objRead r).consistent then .trap ⟨.barBad, 0⟩
    else if ((bwaitHome f r a t).objRead r).phase ≠ BitVec.ofNat 4 (t.opVal a f.cm.b 32) then
      .done ((((bwaitHome f r a t).enterWait a).acquire a f.scope.toNat (some (.at_ r))).writeP a f.cm.d.num true)
    else
      .stay ((((bwaitHome f r a t).enterWait a).park a (.barrier r (BitVec.ofNat 4 (t.opVal a f.cm.b 32))
        (if t.opVal a f.cm.c 32 = 0 then none else some (t.clock + t.opVal a f.cm.c 32)) f.cm.d.num
        f.scope.toNat)).refreshWaiters a.core r)

theorem exec_bwait (f : MForm) (s : State) : exec (.bwait f) s = perLane (form (.bwait f)) (bwaitOut f) s := rfl

variable {t : State} {r : ObjRef} (hobj : t.barObject a f = .ok r) (hrun : ((bwaitHome f r a t).ctx a).wait = .run)
include hobj hrun

theorem bwaitOut_hurt (hhurt : (bwaitHome f r a t).objHurt r = true) : bwaitOut f a t = .trap ⟨.eccUe, 0⟩ := by
  simp only [bwaitOut, hobj, hrun, ne_eq, not_true_eq_false, if_false, hhurt, if_true]

variable (hwhole : (bwaitHome f r a t).objHurt r = false)
include hwhole

theorem bwaitOut_inconsistent (hbad : ((bwaitHome f r a t).objRead r).consistent = false) :
    bwaitOut f a t = .trap ⟨.barBad, 0⟩ := by
  simp only [bwaitOut, hobj, hrun, ne_eq, not_true_eq_false, if_false, hwhole, hbad, Bool.false_eq_true, Bool.not_false, if_true]

variable (hsound : ((bwaitHome f r a t).objRead r).consistent = true)
include hsound

theorem bwaitOut_goes (hphase : ((bwaitHome f r a t).objRead r).phase ≠ BitVec.ofNat 4 (t.opVal a f.cm.b 32)) :
    bwaitOut f a t
      = .done ((((bwaitHome f r a t).enterWait a).acquire a f.scope.toNat (some (.at_ r))).writeP a f.cm.d.num true) := by
  simp only [bwaitOut, hobj, hrun, ne_eq, not_true_eq_false, if_false, hwhole, hsound, Bool.false_eq_true, Bool.not_true, hphase,
    not_false_eq_true, if_true]

theorem bwaitOut_waits (hphase : ((bwaitHome f r a t).objRead r).phase = BitVec.ofNat 4 (t.opVal a f.cm.b 32)) :
    bwaitOut f a t
      = .stay ((((bwaitHome f r a t).enterWait a).park a (.barrier r (BitVec.ofNat 4 (t.opVal a f.cm.b 32))
        (if t.opVal a f.cm.c 32 = 0 then none else some (t.clock + t.opVal a f.cm.c 32)) f.cm.d.num
        f.scope.toNat)).refreshWaiters a.core r) := by
  simp only [bwaitOut, hobj, hrun, ne_eq, not_true_eq_false, if_false, hwhole, hsound, Bool.false_eq_true, Bool.not_true, hphase]

end

/-! ### Addresses of barrier objects that do not pass -/

section
variable {s t : State} {a : Agent} {f : MForm} {i : Instr} {x : Trap} {body : Agent → State → LaneOut}

/-- What `barObject` says of an address that fails its checks. -/
theorem barObject_of_check (h : t.checkSpace a f.space.toNat (t.ea a f (off20 f)) 16 true true = some x) :
    t.barObject a f = .error x := by
  simp only [State.barObject, h]

theorem barObject_of_miss {va : Nat} (h : t.checkSpace a f.space.toNat (t.ea a f (off20 f)) 16 true true = none)
    (hspot : t.spot a f.space (t.ea a f (off20 f)) = .glob va) (hmiss : t.globObj a.core (t.viaOf a) va = none) :
    t.barObject a f = .error ⟨t.missCode (some (dieOf a.core)) (t.core a.core).tlb (t.viaOf a) va true, va⟩ := by
  simp only [State.barObject, h, hspot, hmiss]

theorem barFails_of_store (hspot : ∀ va, t.spot a f.space (t.ea a f (off20 f)) ≠ .glob va) : t.barFails a f x = .trap x := by
  unfold State.barFails
  split
  · rename_i va hva _
    exact absurd hva (hspot va)
  · rfl

/-- A lane that fails as its object does: it traps, but where a global object does not translate it stays with its grid's end on its
way. -/
theorem barrierTraps_of_fails (hexec : exec i s = perLane (form i) body s)
    (hbody : ∀ x, (began s a i).barObject a f = .error x → body a (began s a i) = (began s a i).barFails a f x) :
    ((began s a i).checkSpace a f.space.toNat ((began s a i).ea a f (off20 f)) 16 true true = some x → Traps s a i x)
    ∧ (∀ va, (began s a i).checkSpace a f.space.toNat ((began s a i).ea a f (off20 f)) 16 true true = none →
      (began s a i).spot a f.space ((began s a i).ea a f (off20 f)) = .glob va →
      (began s a i).globObj a.core ((began s a i).viaOf a) va = none →
      Stays s a i (fun u => (u.noteDrop a.core (u.viaOf a) va).raise a
        ⟨u.missCode (some (dieOf a.core)) (u.core a.core).tlb (u.viaOf a) va true, va⟩))
    ∧ ((began s a i).barObject a f = .error x →
      (∀ va, (began s a i).spot a f.space ((began s a i).ea a f (off20 f)) ≠ .glob va) → Traps s a i x) := by
  refine ⟨fun hcheck => ?_, fun va hcheck hspot hmiss => ?_, fun herr hspot => ?_⟩
  · exact traps_of_began hexec ((hbody x (barObject_of_check hcheck)).trans (barFails_trap hcheck))
  · exact stays_of_began hexec ((hbody _ (barObject_of_miss hcheck hspot hmiss)).trans (barFails_drop hcheck hspot))
  · exact traps_of_began hexec ((hbody x herr).trans (barFails_of_store hspot))

end

/-! ### The statements -/

/-- Settles O19: each kind of access by the operation that performs it. -/
theorem performedAccesses : Obligations.PerformedAccesses := by
  intro s core op p hready together applied
  refine ⟨?loads, ?load, ?store, ?ldga, ?home, ?sameObject, ?atomic, ?bar⟩
  case loads => exact fun hkind hset => exec_loadReturn_loads hready hkind hset
  case load =>
    intro d x hkind hcore halone hshort
    have hload : p.isLoad = true := by simp only [Pending.isLoad, hkind]
    rw [exec_loadReturn_loads hready hload (by simpa [halone] using (readyOp_iff.1 hready).2), halone,
      performLoads_single hready hkind hcore hshort]
  case store =>
    intro bs hkind
    refine ⟨exec_storePerformed_store hready hkind, fun hshort => ?_⟩
    rw [exec_storePerformed_store hready hkind, performStoreStep_short hshort]
  case ldga => exact fun hkind hset => exec_ldgaLanding hready hkind hset
  case home => exact fun hkind => exec_loadReturn_home hready hkind
  case sameObject => exact fun q hobj hmem hissue => mem_atomicSet_of_sameObject hobj hmem hissue
  case atomic => exact fun hkind htogether => exec_atomicAtHome hready htogether hkind
  case bar => exact fun hkind htogether => exec_bar_of_ctr hready htogether hkind

/-- Settles O20: the walk that the operation names is one of a pending access or of a copy at work. -/
theorem tableWalks : Obligations.TableWalks := by
  intro s core va part vf
  constructor
  · intro q hq hvia
    change execTlbMissWalk core false va s = _
    simp only [execTlbMissWalk, hq, hvia, Bool.false_eq_true, if_false]
    split
    · rfl
    · split <;> rfl
  · intro c hc hvia
    change execTlbMissWalk core true va s = _
    simp only [execTlbMissWalk, hc, hvia, if_true]
    split
    · rfl
    · split <;> rfl

/-- Settles O21: each operation by the fields that it changes before the object completes. -/
theorem barrierObjects : Obligations.BarrierObjects := by
  intro o n
  refine ⟨?aovr, ?arrive, ?expect, ?expectOver, ?credit, ?last, ?creditOver, ?bytes⟩
  case aovr => exact arrive_of_gt o n
  case arrive =>
    intro hle
    rw [arrive_of_le o n hle]
    by_cases hdone : o.pend - n = 0 ∧ o.bland = o.bexp
    · rw [complete_of_done _ hdone]
      exact ⟨rfl, ⟨fun _ => ⟨by omega, hdone.2⟩, fun _ => rfl⟩, fun _ => rfl, fun h => nomatch h⟩
    · rw [complete_of_open _ hdone]
      exact ⟨rfl, ⟨fun h => (nomatch h), fun h => absurd ⟨by omega, h.2⟩ hdone⟩, fun h => (nomatch h), fun _ => rfl⟩
  case expect =>
    intro hle hopen
    rw [expect_of_le o n hle] at hopen ⊢
    unfold Obj.complete at hopen ⊢
    split at hopen
    · cases hopen
    · rename_i hc
      rw [if_neg hc]
  case expectOver => exact expect_bovr o n
  case credit => exact credit_of_pend o n
  case last => exact credit_of_last o n
  case creditOver => exact credit_bovr o n
  case bytes => exact ofBytes_bytes o

/-- Settles O22: at its issue a form is pending or a `BWAIT` reads its object; at its home it acts by its kind. -/
theorem barrierForms : Obligations.BarrierForms := by
  constructor
  · intro s a f r named n ph pends
    refine ⟨?binit, ?barv, ?bexp, ?btest, ?bexit, ?binval, ?bwait⟩
    case binit => exact fun hlo hhi hobj => completes_of_began (exec_binit f s) (binitOut_ok hobj hlo hhi)
    case barv => exact completes_of_barrierOut (k := fun a t => .barv (t.opVal a f.cm.b 32)) rfl
    case bexp => exact completes_of_barrierOut (k := fun a t => .bexp (t.opVal a f.cm.b 32)) rfl
    case btest => exact completes_of_barrierOut (k := fun a t => .btest (BitVec.ofNat 4 (t.opVal a f.cm.b 32))) rfl
    case bexit => exact completes_of_barrierOut (k := fun _ _ => .bexit) rfl
    case binval => exact completes_of_barrierOut (k := fun _ _ => .binval) rfl
    case bwait =>
      intro home u hobj hrun hwhole hsound
      exact ⟨fun hphase => completes_of_began (exec_bwait f s) (bwaitOut_goes hobj hrun hwhole hsound hphase),
        fun hphase => stays_of_began (exec_bwait f s) (bwaitOut_waits hobj hrun hwhole hsound hphase)⟩
  · intro s op p r d pred c u freed o hready halone hwhole gives acts
    have act : ∀ {k t}, s.performBar p k r d pred = t → acts k t :=
      fun h hkind => exec_bar_alone hready halone hkind h
    refine ⟨?binit, ?counts, ?btest, ?exits⟩
    case binit => exact fun n hfree => act (performBar_binit hwhole hfree)
    case counts => exact fun n hsound => ⟨act (performBar_barv hwhole hsound), act (performBar_bexp hwhole hsound)⟩
    case btest =>
      exact fun ph => ⟨fun h => act (performBar_btest_still hwhole h),
        fun hvalid hphase => act (performBar_btest_moved hwhole hvalid hphase)⟩
    case exits =>
      exact fun hsound => ⟨fun h => act (performBar_bexit_last hwhole hsound h),
        fun hexpa hpend => act (performBar_bexit hwhole hsound hexpa hpend),
        fun h => act (performBar_binval hwhole hsound h), fun h => act (performBar_binval_waiters hwhole hsound h)⟩

/-- Settles O23: every form fails as its object does, and at its home by the state of the object. -/
theorem barrierTraps : Obligations.BarrierTraps := by
  constructor
  · intro s a f
    refine ⟨?forms, ?count, ?bwait⟩
    case forms =>
      intro x
      simp only [List.mem_cons, List.not_mem_nil, or_false]
      rintro i (rfl | rfl | rfl | rfl | rfl | rfl | rfl)
      · exact barrierTraps_of_fails (exec_binit f s) (fun x h => by simp only [binitOut, h])
      · exact barrierTraps_of_fails rfl (fun x h => barrierOut_fails h)
      · exact barrierTraps_of_fails rfl (fun x h => barrierOut_fails h)
      · exact barrierTraps_of_fails (exec_bwait f s) (fun x h => by simp only [bwaitOut, h])
      · exact barrierTraps_of_fails rfl (fun x h => barrierOut_fails h)
      · exact barrierTraps_of_fails rfl (fun x h => barrierOut_fails h)
      · exact barrierTraps_of_fails rfl (fun x h => barrierOut_fails h)
    case count => exact fun r hobj hcount => traps_of_began (exec_binit f s) (binitOut_count hobj hcount)
    case bwait =>
      intro r b u hobj hrun
      exact ⟨fun hhurt => traps_of_began (exec_bwait f s) (bwaitOut_hurt hobj hrun hhurt),
        fun hwhole hbad => traps_of_began (exec_bwait f s) (bwaitOut_inconsistent hobj hrun hwhole hbad)⟩
  · intro s op p k r d pred hready halone hkind u fails
    refine ⟨?hurt, ?inconsistent, ?binit⟩
    case hurt => exact fun hhurt => exec_bar_alone hready halone hkind (performBar_hurt hhurt)
    case inconsistent => exact fun hwhole hbad hk => exec_bar_alone hready halone hkind (performBar_inconsistent hwhole hbad hk)
    case binit =>
      rintro n hwhole rfl hvalid hwaiters
      exact exec_bar_alone hready halone hkind (performBar_binit_bad hwhole hvalid hwaiters)

/-- Settles O24: a bounded wait by its kind, and the two watchdogs. -/
theorem waitsRunOut : Obligations.WaitsRunOut := by
  intro s a
  refine ⟨?barrier, ?push, ?pop, ?circle, ?gone, ?collective, ?watchdog⟩
  case barrier =>
    intro r ph lim p sc hwait hlim
    constructor
    · intro hwhole
      change execWaitPhaseTimeout a s = _
      simp only [execWaitPhaseTimeout, State.timeOut, hwait, Wait.limit, Nat.not_lt.2 hlim, hwhole, Bool.false_eq_true, if_false]
    · intro hhurt
      change execWaitPhaseTimeout a s = _
      simp only [execWaitPhaseTimeout, State.timeOut, hwait, Wait.limit, Nat.not_lt.2 hlim, hhurt, if_false, if_true]
  case push =>
    intro v lim p hwait hlim
    change execWaitPhaseTimeout a s = _
    simp only [execWaitPhaseTimeout, State.timeOut, hwait, Wait.limit, Nat.not_lt.2 hlim, if_false]
  case pop =>
    intro b d lim p hwait hlim
    change execWaitPhaseTimeout a s = _
    simp only [execWaitPhaseTimeout, State.timeOut, hwait, Wait.limit, Nat.not_lt.2 hlim, if_false]
  case circle =>
    intro h ph lim d p k hwait hlim hk
    change execWaitPhaseTimeout a s = _
    simp only [execWaitPhaseTimeout, State.timeOut, hwait, Wait.limit, Nat.not_lt.2 hlim, if_false, hk]
  case gone =>
    intro h ph lim d p hwait hlim hk
    change execWaitPhaseTimeout a s = _
    simp only [execWaitPhaseTimeout, State.timeOut, hwait, Wait.limit, Nat.not_lt.2 hlim, if_false, hk]
  case collective =>
    intro t at_ hthread hheld hwait hdog hlim hspread
    change execCollectiveWatchdogTimeout a s = _
    simp only [execCollectiveWatchdogTimeout, hthread, Option.bind_some, hheld, hdog, hlim, hwait, hspread, ne_eq, not_false_eq_true,
      Bool.not_false, and_self, if_true]
  case watchdog =>
    intro hunbounded hdog hlim
    change execBarrierWaitWatchdog a s = _
    simp only [execBarrierWaitWatchdog, hunbounded, hdog, hlim, ne_eq, not_false_eq_true, and_self, if_true]
    generalize (s.ctx a).wait = w
    cases w <;> rfl

end Sys2Proof.Proofs
end


section
/-!
Circles (spec/11 R246 to R258; O25). A form finds its circle, reaches its home or is dropped by a firewall there, and then completes at
once or waits for a phase.
-/

namespace Sys2Proof.Proofs

open Sys2Proof.Machine Sys2Proof.Safety Sys2Proof.Laws

section
variable {a : Agent} {h : Word} {c : Machine.Circle} {t : State}

/-- A form of a circle that stands acts on it where its core reaches it. -/
theorem liveCircle_reach {act : Machine.Circle → State → LaneOut} (hc : t.circleOf a h = some c)
    (hreach : t.circleReach a c = true) : liveCircle a h act t = act c t := by
  simp only [liveCircle, hc, atHome_reach hreach]

theorem liveCircle_drop {act : Machine.Circle → State → LaneOut} (hc : t.circleOf a h = some c)
    (hreach : t.circleReach a c = false) :
    liveCircle a h act t = .stay ((t.markDrop (t.closedEnds false (dieOf a.core))).raise a ⟨.perm, 0⟩) := by
  simp only [liveCircle, hc, atHome_drop hreach]

/-- An arrival of a member that the phase does not hold back is recorded, and its issuer waits (R255). -/
theorem arriveOut_waits {k : ArriveKind} {lim p : Nat} {d : Opnd} {m : Member} (hc : t.circleOf a h = some c)
    (hreach : t.circleReach a c = true) (hm : c.member (t.idOf a) = some m) (hslot : c.slotFor m ≠ .held)
    (hrun : ((t.flush a.core).ctx a).wait = .run) :
    arriveOut a h k lim d p t
      = .stay (((((t.flush a.core).publish a (some (.circle (t.partOf a) (handleIx h) c.gen
          (c.phaseOf (c.slotFor m)).toNat)) 3).enterWait a).park a (.circle h (c.phaseOf (c.slotFor m))
          (if lim = 0 then none else some (t.clock + lim)) d p)).setCircle (t.partOf a) (handleIx h)
          (c.record (t.idOf a) (c.slotFor m) k)) := by
  simp only [arriveOut, liveCircle_reach hc hreach, hm]
  cases hs : c.slotFor m with
  | held => exact absurd hs hslot
  | now => simp only [hrun, ne_eq, not_true_eq_false, if_false]
  | next => simp only [hrun, ne_eq, not_true_eq_false, if_false]

theorem arriveOut_drop {k : ArriveKind} {lim p : Nat} {d : Opnd} (hc : t.circleOf a h = some c)
    (hreach : t.circleReach a c = false) :
    arriveOut a h k lim d p t = .stay ((t.markDrop (t.closedEnds false (dieOf a.core))).raise a ⟨.perm, 0⟩) :=
  liveCircle_drop hc hreach

end

section
variable {s : State} {a : Agent} {f : RForm} {c : Machine.Circle}

/-- `CMAKE` of a key that stands gives that circle. -/
theorem completes_cmake_known {ix : Nat} (hkey : BitVec.ofNat 32 ((began s a (.cmake f)).opVal a f.cm.a 32) ≠ 0)
    (hc : ((began s a (.cmake f)).part ((began s a (.cmake f)).partOf a)).byKey ((began s a (.cmake f)).circleVf a)
      (BitVec.ofNat 32 ((began s a (.cmake f)).opVal a f.cm.a 32)) = some (ix, c))
    (hreach : (began s a (.cmake f)).circleReach a c = true) :
    Completes s a (.cmake f) (fun t => (t.writeH a f.cm.d.num (c.handle ix)).writeP a f.cm.c.num false) := by
  refine completes_of_began rfl ?_
  simp only [hkey, if_false, hc, atHome_reach hreach]

theorem stays_cmake_drop {ix : Nat} (hkey : BitVec.ofNat 32 ((began s a (.cmake f)).opVal a f.cm.a 32) ≠ 0)
    (hc : ((began s a (.cmake f)).part ((began s a (.cmake f)).partOf a)).byKey ((began s a (.cmake f)).circleVf a)
      (BitVec.ofNat 32 ((began s a (.cmake f)).opVal a f.cm.a 32)) = some (ix, c))
    (hreach : (began s a (.cmake f)).circleReach a c = false) :
    Stays s a (.cmake f) (fun t => (t.markDrop (t.closedEnds false (dieOf a.core))).raise a ⟨.perm, 0⟩) := by
  refine stays_of_began rfl ?_
  simp only [hkey, if_false, hc, atHome_drop hreach]

/-- `CMAKE` of a private key, or of one that no circle has, makes a circle at the lowest free index (R251). -/
theorem completes_cmake_new {ix : Nat}
    (hkey : BitVec.ofNat 32 ((began s a (.cmake f)).opVal a f.cm.a 32) = 0
      ∨ ((began s a (.cmake f)).part ((began s a (.cmake f)).partOf a)).byKey ((began s a (.cmake f)).circleVf a)
        (BitVec.ofNat 32 ((began s a (.cmake f)).opVal a f.cm.a 32)) = none)
    (hix : ((began s a (.cmake f)).part ((began s a (.cmake f)).partOf a)).freeIndex = some ix)
    (hrank : (began s a (.cmake f)).opVal a f.cm.b 32 ≤ 65535)
    (hmany : ((began s a (.cmake f)).part ((began s a (.cmake f)).partOf a)).belongs ((began s a (.cmake f)).idOf a)
      < Config.circlesPerAgent) :
    Completes s a (.cmake f) (fun t =>
      let c : Machine.Circle := {
        gen := (lookupN (t.part (t.partOf a)).gens ix).getD 1, key := BitVec.ofNat 32 (t.opVal a f.cm.a 32), vf := t.circleVf a,
        home := dieOf a.core, members := [{ id := t.idOf a, rank := t.opVal a f.cm.b 32, counted := true }] }
      ((t.modPart (t.partOf a) (fun p => { p with circles := putN p.circles ix c })).writeH a f.cm.d.num (c.handle ix)).writeP a
        f.cm.c.num true) := by
  refine completes_of_began rfl ?_
  have hnone : (if BitVec.ofNat 32 ((began s a (.cmake f)).opVal a f.cm.a 32) = 0 then none
      else ((began s a (.cmake f)).part ((began s a (.cmake f)).partOf a)).byKey ((began s a (.cmake f)).circleVf a)
        (BitVec.ofNat 32 ((began s a (.cmake f)).opVal a f.cm.a 32))) = none := by
    rcases hkey with hkey | hkey <;> simp [hkey]
  simp only [hnone, hix, Nat.not_lt.2 hrank, Nat.not_le.2 hmany, or_self, if_false]

/-- `CJOIN` of a circle with room, by a new rank of an agent that is not a member (R252). -/
theorem completes_cjoin
    (hown : (began s a (.cjoin f)).foreignCircle a (BitVec.ofNat 32 ((began s a (.cjoin f)).opVal a f.cm.a 32)) = false)
    (hc : (began s a (.cjoin f)).circleOf a (BitVec.ofNat 32 ((began s a (.cjoin f)).opVal a f.cm.a 32)) = some c)
    (hreach : (began s a (.cjoin f)).circleReach a c = true) (hrank : (began s a (.cjoin f)).opVal a f.cm.b 32 ≤ 65535)
    (hnew : c.members.any (fun m => m.rank == (began s a (.cjoin f)).opVal a f.cm.b 32) = false)
    (hout : c.member ((began s a (.cjoin f)).idOf a) = none) (hroom : c.members.length < Config.circleMembers)
    (hmany : ((began s a (.cjoin f)).part ((began s a (.cjoin f)).partOf a)).belongs ((began s a (.cjoin f)).idOf a)
      < Config.circlesPerAgent) :
    Completes s a (.cjoin f) (fun t =>
      let k : Machine.Circle :=
        { c with members := c.members ++ [{ id := t.idOf a, rank := t.opVal a f.cm.b 32, counted := false }] }
      ((t.modPart (t.partOf a) (fun p =>
        { p with circles := putN p.circles (handleIx (BitVec.ofNat 32 (t.opVal a f.cm.a 32))) k })).writeH a f.cm.d.num
        (BitVec.ofNat 32 (t.opVal a f.cm.a 32))).writeP a f.cm.c.num true) := by
  refine completes_of_began rfl ?_
  simp only [hown, hc, atHome_reach hreach, Nat.not_lt.2 hrank, hnew, hout, Nat.not_le.2 hroom, Nat.not_le.2 hmany,
    Option.isSome_none, Bool.false_eq_true, or_self, if_false]

theorem stays_cjoin_drop
    (hown : (began s a (.cjoin f)).foreignCircle a (BitVec.ofNat 32 ((began s a (.cjoin f)).opVal a f.cm.a 32)) = false)
    (hc : (began s a (.cjoin f)).circleOf a (BitVec.ofNat 32 ((began s a (.cjoin f)).opVal a f.cm.a 32)) = some c)
    (hreach : (began s a (.cjoin f)).circleReach a c = false) :
    Stays s a (.cjoin f) (fun t => (t.markDrop (t.closedEnds false (dieOf a.core))).raise a ⟨.perm, 0⟩) := by
  refine stays_of_began rfl ?_
  simp only [hown, hc, atHome_drop hreach, Bool.false_eq_true, if_false]

/-- `CLEAVE` of a counted member arrives once more, quietly, and leaves when the phase completes (R253). -/
theorem completes_cleave_counted {m : Member}
    (hc : (began s a (.cleave f)).circleOf a ((began s a (.cleave f)).readH a f.cm.d.num) = some c)
    (hreach : (began s a (.cleave f)).circleReach a c = true)
    (hm : c.member ((began s a (.cleave f)).idOf a) = some m) (hcounted : m.counted = true) :
    Completes s a (.cleave f) (fun t => ((((t.flush a.core).publish a
      (some (.circle (t.partOf a) (handleIx (t.readH a f.cm.d.num)) c.gen c.phase.toNat)) 3).setCircle (t.partOf a)
        (handleIx (t.readH a f.cm.d.num))
        { c with now := if arrived c.now (t.idOf a) then c.now else c.now ++ [(t.idOf a, .quiet)],
                 members := c.members.map (fun x => if x.id == t.idOf a then { x with leaving := true } else x) }).writeH a
        f.cm.d.num 0).writeP a f.cm.c.num true) := by
  refine completes_of_began rfl ?_
  simp only [liveCircle_reach hc hreach, hm, hcounted, Bool.not_true, Bool.false_eq_true, if_false]
  cases arrived c.now ((began s a (.cleave f)).idOf a) <;> rfl

/-- `CQUERY` of a circle of the VF. -/
theorem completes_cquery (hown : (began s a (.cquery f)).foreignCircle a ((began s a (.cquery f)).readH a f.cm.a.num) = false)
    (hc : (began s a (.cquery f)).circleOf a ((began s a (.cquery f)).readH a f.cm.a.num) = some c)
    (hreach : (began s a (.cquery f)).circleReach a c = true) :
    Completes s a (.cquery f) (fun t =>
      (t.putInt a f.cm.d false 64 (c.query (t.idOf a) (t.readH a f.cm.a.num))).writeP a f.cm.c.num true) := by
  refine completes_of_began rfl ?_
  simp only [hown, Bool.false_eq_true, if_false, hc, atHome_reach hreach]

theorem stays_cquery_drop (hown : (began s a (.cquery f)).foreignCircle a ((began s a (.cquery f)).readH a f.cm.a.num) = false)
    (hc : (began s a (.cquery f)).circleOf a ((began s a (.cquery f)).readH a f.cm.a.num) = some c)
    (hreach : (began s a (.cquery f)).circleReach a c = false) :
    Stays s a (.cquery f) (fun t => (t.markDrop (t.closedEnds false (dieOf a.core))).raise a ⟨.perm, 0⟩) := by
  refine stays_of_began rfl ?_
  simp only [hown, Bool.false_eq_true, if_false, hc, atHome_drop hreach]

end

/-! ### The statement -/

/-- Settles O25: each form by the circle that it finds. -/
theorem circleForms : Obligations.CircleForms := by
  intro s a f ret key rank
  refine ⟨?known, ?new, ?join, ?absent, ?leave, ?free, ?query, ?waits, ?drops, ?makeDrop, ?joinDrop⟩
  case known => exact fun ix c hkey hc hreach => completes_cmake_known hkey hc hreach
  case new => exact fun ix hkey hix hrank hmany => completes_cmake_new hkey hix hrank hmany
  case join =>
    exact fun c hown hc hreach hrank hnew hout hroom hmany => completes_cjoin hown hc hreach hrank hnew hout hroom hmany
  case absent =>
    intro c b hc hreach hm
    refine completes_of_began rfl ?_
    simp only [b] at *
    simp only [liveCircle_reach hc hreach, hm]
  case leave => exact fun c m hc hreach hm hcounted => completes_cleave_counted hc hreach hm hcounted
  case free =>
    intro c m b hc hreach hmembers hid hcounted
    refine completes_of_began rfl ?_
    simp only [b] at *
    simp only [liveCircle_reach hc hreach, hmembers, hid, hcounted, and_self, if_true, ret]
  case query => exact fun c hown hc hreach => completes_cquery hown hc hreach
  case waits =>
    exact ⟨fun c m hc hreach hm hslot hrun => stays_of_began rfl (arriveOut_waits hc hreach hm hslot hrun),
      fun c m hc hreach hm hslot hrun => stays_of_began rfl (arriveOut_waits hc hreach hm hslot hrun),
      fun c m hc hreach hm hslot hrun => stays_of_began rfl (arriveOut_waits hc hreach hm hslot hrun)⟩
  case drops =>
    intro c x hx b hown hc hreach
    simp only [List.mem_cons, List.not_mem_nil, or_false] at hx
    obtain rfl | rfl | rfl | rfl | rfl | rfl := hx
    · exact stays_of_began rfl (liveCircle_drop hc hreach)
    · exact stays_of_began rfl (liveCircle_drop hc hreach)
    · exact stays_cquery_drop (hown rfl) hc hreach
    · exact stays_of_began rfl (arriveOut_drop hc hreach)
    · exact stays_of_began rfl (arriveOut_drop hc hreach)
    · exact stays_of_began rfl (arriveOut_drop hc hreach)
  case makeDrop => exact fun ix c hkey hc hreach => stays_cmake_drop hkey hc hreach
  case joinDrop => exact fun c hown hc hreach => stays_cjoin_drop hown hc hreach

end Sys2Proof.Proofs
end


section
/-!
Coordinate volumes (spec/14; O26 to O28). A form checks its coordinates, and then acts on the leaf that the look-aside buffer holds, that a
walk finds, or that it allocates.
-/

namespace Sys2Proof.Proofs

open Sys2Proof.Machine Sys2Proof.Safety Sys2Proof.Laws

/-! ### Requests to the home of a volume -/

section
variable {α : Type} (s : State) (a : Agent)

/-- A request that succeeds gives its lane's outcome. -/
theorem laneOf_ok (o : LaneOut) : s.laneOf a (.ok o) = o := rfl

/-- What follows a request that succeeds. -/
theorem volRes_bind_ok {β : Type} (x : α) (g : α → VolRes β) : (Except.ok x >>= g) = g x := rfl

theorem volRes_map_ok {β : Type} (x : α) (g : α → β) : (Except.map g (.ok x : VolRes α)) = .ok (g x) := rfl

end

/-- Only a form that append mode takes passes its checks there (R273). -/
theorem append_of_check {d : VolDesc} {c : List Nat} (h : d.check c false = none) : d.append = false := by
  cases happend : d.append with
  | false => rfl
  | true => rw [check_append happend] at h; cases h

/-! ### The leaf of a tile -/

section
variable {f : XForm} {a : Agent} {t u : State} {d : VolDesc} {tile leaf : Nat} {w w2 : Walked} {compact : Bool}
  {act : State → Walked → Nat → Bool → VolRes LaneOut}

/-- A present leaf is acted on where a walk finds it; a dense one enters the look-aside buffer (R269). -/
theorem volWith_leaf (hw : (t.volMiss a).volFind a d tile = .ok w) (hentry : w.entry = .leaf leaf compact) :
    volWith f a t d tile act = (t.volMiss a).laneOf a
      (act (if compact then t.volMiss a else (t.volMiss a).volCached a (t.volName a f) tile leaf) w leaf compact) := by
  simp only [volWith, hw, volRes_bind_ok, hentry]

/-- An absent leaf is allocated first (R275). -/
theorem volWith_absent (hw : (t.volMiss a).volFind a d tile = .ok w) (hentry : w.entry = .absent)
    (halloc : (t.volMiss a).volAllocate a d tile w = .ok (.ok u w2)) (hentry2 : w2.entry = .leaf leaf compact) :
    volWith f a t d tile act = (t.volMiss a).laneOf a
      (act (if compact then u else u.volCached a (t.volName a f) tile leaf) w2 leaf compact) := by
  simp only [volWith, hw, volRes_bind_ok, hentry, halloc, hentry2]

end

/-! ### Element writes -/

section
variable (red : Option (Nat × Nat))

/-- Whether an element write is an atomic, its order and its scope: a `VRED` is like an `ATOMA.rlx.dev` (R275). -/
def writeOrdered : Bool := red.isSome
def writeOrder : BitVec 3 := if red.isSome then 1 else 0
def writeScope : BitVec 3 := if red.isSome then 4 else 0

/-- The access of an element write at a dense leaf, and the element that it leaves in a compact one. -/
def writeKind (d : VolDesc) (b : Nat) : PendKind :=
  match red with
  | none => .store (leBytes d.elem b)
  | some (op, ty) => .atom (.lit 0) op ty (BitVec.ofNat 64 b)
def writeElem (b x : Nat) : Nat :=
  match red with
  | none => b
  | some (op, ty) => atomOp op ty x b

variable {red} {f : XForm} {a : Agent} {t : State} (b : Nat)

/-- The tile and the element that a form's coordinates name. -/
def formTile (f : XForm) (a : Agent) (t : State) : Nat := (t.volDesc a f).tileOf (t.volCoords a f (t.volDesc a f))
def formElem (f : XForm) (a : Agent) (t : State) : Nat := (t.volDesc a f).elemOf (t.volCoords a f (t.volDesc a f))

/-- The data of an element write. -/
def formData (f : XForm) (a : Agent) (t : State) : Nat := t.opVal a f.cm.b (8 * (t.volDesc a f).elem)

/-- The state in which the leaf that a form of `t` has found stands in the look-aside buffer. -/
def formCached (f : XForm) (a : Agent) (t s : State) (leaf : Nat) : State := s.volCached a (t.volName a f) (formTile f a t) leaf

/-- An element write at a dense leaf. -/
def writeDense (red : Option (Nat × Nat)) (f : XForm) (a : Agent) (t s : State) (leaf : Nat) : VolRes State :=
  s.volDense a (t.volDesc a f) leaf (formElem f a t) true (writeOrdered red) (writeOrder red) (writeScope red)
    (writeKind red (t.volDesc a f) (formData f a t)) .st

/-- What an element write does with a leaf that it has walked to. -/
def writeLeaf (red : Option (Nat × Nat)) (f : XForm) (a : Agent) (t s : State) (w : Walked) (leaf : Nat) (compact : Bool) :
    VolRes LaneOut :=
  if compact then do
    let x ← s.volGet a (t.volDesc a f) leaf (formElem f a t)
    let s1 ← s.volPut a (t.volDesc a f) w leaf (formElem f a t) (writeElem red (formData f a t) x)
    .ok (.done s1)
  else (writeDense red f a t s leaf).map .done

variable {u v : State} {leaf x : Nat} {w w2 : Walked}

theorem writeLeaf_dense (h : writeDense red f a t u leaf = .ok v) : writeLeaf red f a t u w leaf false = .ok (.done v) := by
  simp only [writeLeaf, Bool.false_eq_true, if_false, h, volRes_map_ok]

theorem writeLeaf_compact (hget : u.volGet a (t.volDesc a f) leaf (formElem f a t) = .ok x)
    (hput : u.volPut a (t.volDesc a f) w leaf (formElem f a t) (writeElem red (formData f a t) x) = .ok v) :
    writeLeaf red f a t u w leaf true = .ok (.done v) := by
  simp only [writeLeaf, if_true, hget, hput, volRes_bind_ok]

variable (hcheck : (t.volDesc a f).check (t.volCoords a f (t.volDesc a f)) red.isNone = none)
  (happend : (t.volDesc a f).append = false)
include hcheck happend

/-- An element write whose tile's leaf is in the look-aside buffer. -/
theorem volStoreOut_held (hheld : (t.core a.core).clbFind (t.volName a f) (formTile f a t) = some leaf)
    (hdense : writeDense red f a t (formCached f a t t leaf) leaf = .ok v) : volStoreOut f a t red = .done v := by
  have hout : volStoreOut f a t red = t.laneOf a ((writeDense red f a t (formCached f a t t leaf) leaf).map .done) := by
    simp only [formTile] at hheld
    cases red <;> simp only [volStoreOut, hcheck, happend, Bool.false_eq_true, if_false, hheld] <;> rfl
  rw [hout, hdense]
  rfl

variable (hmiss : (t.core a.core).clbFind (t.volName a f) (formTile f a t) = none)
include hmiss

/-- One whose tile is not there walks. -/
theorem volStoreOut_walks :
    volStoreOut f a t red = volWith f a t (t.volDesc a f) (formTile f a t) (writeLeaf red f a t) := by
  simp only [formTile] at hmiss
  cases red <;> simp only [volStoreOut, hcheck, happend, Bool.false_eq_true, if_false, hmiss] <;> rfl

variable (hw : (t.volMiss a).volFind a (t.volDesc a f) (formTile f a t) = .ok w)
include hw

theorem volStoreOut_leaf {compact : Bool} (hentry : w.entry = .leaf leaf compact)
    (hact : writeLeaf red f a t (if compact then t.volMiss a else formCached f a t (t.volMiss a) leaf) w leaf compact
      = .ok (.done v)) :
    volStoreOut f a t red = .done v := by
  rw [volStoreOut_walks hcheck happend hmiss, volWith_leaf hw hentry]
  exact (congrArg _ hact).trans (laneOf_ok ..)

theorem volStoreOut_absent {compact : Bool} (hentry : w.entry = .absent)
    (halloc : (t.volMiss a).volAllocate a (t.volDesc a f) (formTile f a t) w = .ok (.ok u w2)) (hentry2 : w2.entry = .leaf leaf compact)
    (hact : writeLeaf red f a t (if compact then u else formCached f a t u leaf) w2 leaf compact = .ok (.done v)) :
    volStoreOut f a t red = .done v := by
  rw [volStoreOut_walks hcheck happend hmiss, volWith_absent hw hentry halloc hentry2]
  exact (congrArg _ hact).trans (laneOf_ok ..)

end

section
variable {s : State} {a : Agent} {i : Instr} {f : XForm} (red : Option (Nat × Nat))

/-- An element write completes by where the leaf of its tile stands: in the look-aside buffer, dense or compact where a walk finds it,
or dense or compact where it is allocated. -/
theorem elementWrites (hexec : exec i s = perLane (form i) (fun a t => volStoreOut f a t red) s)
    (hcheck : ((began s a i).volDesc a f).check ((began s a i).volCoords a f ((began s a i).volDesc a f)) red.isNone = none)
    (happend : ((began s a i).volDesc a f).append = false) :
    let b := began s a i
    let d := b.volDesc a f
    let walked (w : Walked) : Prop := (b.core a.core).clbFind (b.volName a f) (formTile f a b) = none
      ∧ (b.volMiss a).volFind a d (formTile f a b) = .ok w
    let dense (t : State) (leaf : Nat) (u : State) : Prop := writeDense red f a b (formCached f a b t leaf) leaf = .ok u
    let compact (t : State) (w : Walked) (leaf x : Nat) (u : State) : Prop := t.volGet a d leaf (formElem f a b) = .ok x
      ∧ t.volPut a d w leaf (formElem f a b) (writeElem red (formData f a b) x) = .ok u
    let fresh (w : Walked) (t : State) (w2 : Walked) : Prop := w.entry = .absent
      ∧ (b.volMiss a).volAllocate a d (formTile f a b) w = .ok (.ok t w2)
    (∀ leaf u, (b.core a.core).clbFind (b.volName a f) (formTile f a b) = some leaf → dense b leaf u → Completes s a i (fun _ => u))
    ∧ (∀ w leaf u, walked w → w.entry = .leaf leaf false → dense (b.volMiss a) leaf u → Completes s a i (fun _ => u))
    ∧ (∀ w leaf x u, walked w → w.entry = .leaf leaf true → compact (b.volMiss a) w leaf x u → Completes s a i (fun _ => u))
    ∧ (∀ w t w2 leaf u, walked w → fresh w t w2 → w2.entry = .leaf leaf false → dense t leaf u → Completes s a i (fun _ => u))
    ∧ (∀ w t w2 leaf x u, walked w → fresh w t w2 → w2.entry = .leaf leaf true → compact t w2 leaf x u →
      Completes s a i (fun _ => u)) := by
  intro b d walked dense compact fresh
  refine ⟨?held, ?dense, ?compact, ?newDense, ?newCompact⟩
  case held => exact fun leaf u hheld hdense => completes_of_began hexec (volStoreOut_held hcheck happend hheld hdense)
  case dense =>
    exact fun w leaf u ⟨hmiss, hw⟩ hentry hdense =>
      completes_of_began hexec (volStoreOut_leaf hcheck happend hmiss hw hentry (writeLeaf_dense hdense))
  case compact =>
    exact fun w leaf x u ⟨hmiss, hw⟩ hentry ⟨hget, hput⟩ =>
      completes_of_began hexec (volStoreOut_leaf hcheck happend hmiss hw hentry (writeLeaf_compact hget hput))
  case newDense =>
    exact fun w t w2 leaf u ⟨hmiss, hw⟩ ⟨hentry, halloc⟩ hentry2 hdense =>
      completes_of_began hexec (volStoreOut_absent hcheck happend hmiss hw hentry halloc hentry2 (writeLeaf_dense hdense))
  case newCompact =>
    exact fun w t w2 leaf x u ⟨hmiss, hw⟩ ⟨hentry, halloc⟩ hentry2 ⟨hget, hput⟩ =>
      completes_of_began hexec (volStoreOut_absent hcheck happend hmiss hw hentry halloc hentry2 (writeLeaf_compact hget hput))

end

/-! ### `VLD`, and `VST` in append mode -/

section
variable {f : XForm} {a : Agent} {t u : State}

section
variable {leaf x : Nat} {w : Walked} (hcheck : (t.volDesc a f).check (t.volCoords a f (t.volDesc a f)) false = none)
include hcheck

/-- A load of a dense leaf is pending. -/
theorem vldOut_held (hheld : (t.core a.core).clbFind (t.volName a f) (formTile f a t) = some leaf)
    (hdense : (formCached f a t t leaf).volDense a (t.volDesc a f) leaf (formElem f a t) false false 0 0 (.load f.cm.d false) .ld
      = .ok u) : vldOut f a t = .done u := by
  simp only [formTile] at hheld
  simp only [formCached, formTile, formElem] at hdense
  simp only [vldOut, hcheck, hheld, hdense, volRes_map_ok, laneOf_ok]

variable (hmiss : (t.core a.core).clbFind (t.volName a f) (formTile f a t) = none)
  (hw : (t.volMiss a).volFind a (t.volDesc a f) (formTile f a t) = .ok w)
include hmiss hw

theorem vldOut_dense (hentry : w.entry = .leaf leaf false)
    (hdense : (formCached f a t (t.volMiss a) leaf).volDense a (t.volDesc a f) leaf (formElem f a t) false false 0 0
      (.load f.cm.d false) .ld = .ok u) : vldOut f a t = .done u := by
  simp only [formTile] at hmiss hw
  simp only [formCached, formTile, formElem] at hdense
  simp only [vldOut, hcheck, hmiss, hw, volRes_bind_ok, hentry, hdense, volRes_map_ok, laneOf_ok]

theorem vldOut_compact (hentry : w.entry = .leaf leaf true)
    (hget : (t.volMiss a).volGet a (t.volDesc a f) leaf (formElem f a t) = .ok x) :
    vldOut f a t = .done ((t.volMiss a).putD a f.cm.d (max 32 (8 * (t.volDesc a f).elem)) x) := by
  simp only [formTile] at hmiss hw
  simp only [formElem] at hget
  simp only [vldOut, hcheck, hmiss, hw, volRes_bind_ok, hentry, hget, laneOf_ok]

theorem vldOut_absent (hentry : w.entry = .absent) :
    vldOut f a t = .done ((t.volMiss a).putD a f.cm.d (max 32 (8 * (t.volDesc a f).elem))
      ((t.volDesc a f).background % 2 ^ (8 * (t.volDesc a f).elem))) := by
  simp only [formTile] at hmiss hw
  simp only [vldOut, hcheck, hmiss, hw, volRes_bind_ok, hentry, laneOf_ok]

end

/-- A record that still has room in its region is appended (R280). -/
theorem volStoreOut_append {region count i first : Nat}
    (hcheck : (t.volDesc a f).check (t.volCoords a f (t.volDesc a f)) true = none) (happend : (t.volDesc a f).append = true)
    (hregion : (t.volAsk a).volAppend a (t.volDesc a f) = .ok (region, count, i, first)) (hroom : 32 * (i - first + 1) ≤ 4096 * count)
    (hwrite : (t.volAsk a).volWrites a
      [(region + 32 * (i - first), (List.range 4).flatMap (fun k => leBytes 4 ((t.volCoords a f (t.volDesc a f)).getD k 0))
        ++ leBytes 8 ((t.volAsk a).opVal a f.cm.b (8 * (t.volDesc a f).elem)) ++ List.replicate 8 0),
      ((t.volDesc a f).pool + 0x30, leBytes 8 (i + 1))] = .ok u) :
    volStoreOut f a t none = .done u := by
  simp only [volStoreOut, Option.isNone_none, hcheck, happend, if_true, appendOut, hregion, volRes_bind_ok, Nat.not_lt.2 hroom, if_false,
    hwrite, laneOf_ok]

end

/-! ### Freeing, and new regions -/

section
variable {f : XForm} {a : Agent} {t s1 s3 s4 : State} {p : Pool} {head : Nat}

/-- The state in which the home of a volume has freed blocks (R277). -/
theorem vfreeOut_leaf {w : Walked} {leaf : Nat} {k : Bool}
    (hcheck : (t.volDesc a f).check (t.volCoords a f (t.volDesc a f)) false = none)
    (hw : (t.volAsk a).volFind a (t.volDesc a f) (formTile f a t) = .ok w) (hentry : w.entry = .leaf leaf k)
    (h1 : (t.volAsk a).volWrite a w.at_ (leBytes 8 0) = .ok s1)
    (hp : (s1.volShoot a f (some (formTile f a t))).volPool a (t.volDesc a f) = .ok p)
    (h3 : (s1.volShoot a f (some (formTile f a t))).pushBlocks a [leaf] p.free = .ok (s3, head))
    (h4 : s3.volWrites a [((t.volDesc a f).pool, leBytes 8 head),
      ((t.volDesc a f).pool + 0x24, leBytes 4 (p.tilesLive + 2 ^ 32 - 1))] = .ok s4) : vfreeOut f a t = .done s4 := by
  simp only [formTile] at hw hp h3
  simp only [vfreeOut, hcheck, hw, volRes_bind_ok, hentry, h1, hp, h3, h4, laneOf_ok]

theorem vfreeOut_absent {w : Walked} (hcheck : (t.volDesc a f).check (t.volCoords a f (t.volDesc a f)) false = none)
    (hw : (t.volAsk a).volFind a (t.volDesc a f) (formTile f a t) = .ok w) (hentry : w.entry = .absent) :
    vfreeOut f a t = .done ((t.volAsk a).volShoot a f (some (formTile f a t))) := by
  simp only [formTile] at hw ⊢
  simp only [vfreeOut, hcheck, hw, volRes_bind_ok, hentry, laneOf_ok]

/-- `VFREE.all` clears the root, and frees the leaves and the blocks of the nodes (R277). -/
theorem vfreeAllOut_ok {leaves nodes : List Nat} (happend : (t.volDesc a f).append = false)
    (htree : (t.volAsk a).volTree a (t.volDesc a f) 8 0 (t.volDesc a f).root = .ok (leaves, nodes))
    (hp : (t.volAsk a).volPool a (t.volDesc a f) = .ok p)
    (h1 : (t.volAsk a).volWrites a [((t.volDesc a f).root, List.replicate 512 0), ((t.volDesc a f).pool + 0x18, leBytes 8 0),
      ((t.volDesc a f).pool + 0x20, leBytes 4 0), ((t.volDesc a f).pool + 0x2C, leBytes 4 0)] = .ok s1)
    (h3 : (s1.volShoot a f none).pushBlocks a (leaves ++ sortBy id
      (((nodes.map (fun n => n / 4096 * 4096)).filter (· != (t.volDesc a f).pool)).eraseDups)) p.free = .ok (s3, head))
    (h4 : s3.volWrites a [((t.volDesc a f).pool, leBytes 8 head),
      ((t.volDesc a f).pool + 0x24, leBytes 4 ((p.tilesLive + 2 ^ 32 - leaves.length % 2 ^ 32) % 2 ^ 32)),
      ((t.volDesc a f).pool + 0x28, leBytes 4 ((p.nodesLive + 2 ^ 32 - nodes.length % 2 ^ 32) % 2 ^ 32))] = .ok s4) :
    vfreeAllOut f a t = .done s4 := by
  simp only [vfreeAllOut, happend, Bool.false_eq_true, if_false, htree, volRes_bind_ok, hp, h1, h3, h4, laneOf_ok]

end

section
variable {f : XForm} {s u : State} {a : Agent}

/-- `VTOUCH` gives the entry of the leaf that it finds or allocates (R276). -/
def vtouchAct (f : XForm) (a : Agent) (s : State) (w : Walked) (_ : Nat) (_ : Bool) : VolRes LaneOut :=
  .ok (.done (s.putD a f.cm.d 64 w.raw))

theorem vtouch_body (hfits : ((began s a (.vtouch f)).volDesc a f).check
      ((began s a (.vtouch f)).volCoords a f ((began s a (.vtouch f)).volDesc a f)) false = none) {effect : State → State}
    (hact : volWith f a (began s a (.vtouch f)) ((began s a (.vtouch f)).volDesc a f) (formTile f a (began s a (.vtouch f)))
      (vtouchAct f a) = .done (effect (began s a (.vtouch f)))) : Completes s a (.vtouch f) effect := by
  refine completes_of_began rfl ?_
  simp only [hfits]
  exact hact

/-- `VPROBE` gives the entry of a present leaf, and 0 of an absent one (R276). -/
def probeRaw (w : Walked) : Nat :=
  match w.entry with
  | .leaf _ _ => w.raw
  | _ => 0

theorem completes_vprobe {w : Walked} (hfits : ((began s a (.vprobe f)).volDesc a f).check
      ((began s a (.vprobe f)).volCoords a f ((began s a (.vprobe f)).volDesc a f)) false = none)
    (hw : ((began s a (.vprobe f)).volAsk a).volFind a ((began s a (.vprobe f)).volDesc a f) (((began s a (.vprobe f)).volDesc a f).tileOf
      ((began s a (.vprobe f)).volCoords a f ((began s a (.vprobe f)).volDesc a f))) = .ok w) :
    Completes s a (.vprobe f) (fun t => (t.volAsk a).putD a f.cm.d 64 (probeRaw w)) := by
  refine completes_of_began rfl ?_
  simp only [hfits, hw, volRes_bind_ok, laneOf_ok]
  rfl

end

/-! ### Forms that a volume does not take -/

section
variable {s : State} {a : Agent} {i : Instr} {f : XForm} {body : Agent → State → LaneOut}

/-- A form whose lane fails as its coordinates do traps in append mode, and out of extent (R273). -/
theorem volumeTraps_of_check (hexec : exec i s = perLane (form i) body s)
    (hbody : ∀ x, ((began s a i).volDesc a f).check ((began s a i).volCoords a f ((began s a i).volDesc a f)) false = some x →
      body a (began s a i) = .trap x) :
    (((began s a i).volDesc a f).append = true → Traps s a i ⟨.perm, 0⟩)
    ∧ (((began s a i).volDesc a f).append = false →
      (∃ p ∈ ((began s a i).volCoords a f ((began s a i).volDesc a f)).zip ((began s a i).volDesc a f).ext, p.2 ≤ p.1) →
      Traps s a i ⟨.volRank, 0⟩) :=
  ⟨fun happend => traps_of_began hexec (hbody _ (check_append happend)),
    fun happend hout => traps_of_began hexec (hbody _ (check_rank (by simp [happend]) hout))⟩

end

/-! ### The statements -/

/-- Settles O26: loads and writes by where the leaf of their tile stands, and the record of append mode. -/
theorem volumeElements : Obligations.VolumeElements := by
  intro s a f d c tile e miss cached held walked data op ty load store red dense writes
  refine ⟨?load, ?store, ?append, ?red⟩
  case load =>
    intro hcheck
    refine ⟨?held, ?dense, ?compact, ?absent⟩
    case held => exact fun leaf u hheld hdense => completes_of_began rfl (vldOut_held hcheck hheld hdense)
    case dense =>
      exact fun w leaf u hw hentry hdense => completes_of_began rfl (vldOut_dense hcheck hw.1 hw.2 hentry hdense)
    case compact => exact fun w leaf x hw hentry hget => completes_of_began rfl (vldOut_compact hcheck hw.1 hw.2 hentry hget)
    case absent => exact fun w hw hentry => completes_of_began rfl (vldOut_absent hcheck hw.1 hw.2 hentry)
  case store =>
    intro hcheck happend
    obtain ⟨hheld, hdense, hcompact, hnewDense, hnewCompact⟩ := elementWrites (s := s) (i := .vst f) none rfl hcheck happend
    exact ⟨hheld, hdense, fun w leaf x u hw hentry hget hput => hcompact w leaf x u hw hentry ⟨hget, hput⟩,
      fun w t w2 leaf u hw hentry halloc => hnewDense w t w2 leaf u hw ⟨hentry, halloc⟩,
      fun w t w2 leaf x u hw hentry halloc hentry2 hget hput =>
        hnewCompact w t w2 leaf x u hw ⟨hentry, halloc⟩ hentry2 ⟨hget, hput⟩⟩
  case append =>
    exact fun hcheck happend region count i first u hregion hroom hwrite => completes_of_began rfl
      (volStoreOut_append hcheck happend hregion hroom hwrite)
  case red =>
    intro hcheck
    obtain ⟨hheld, hdense, hcompact, hnewDense, hnewCompact⟩ :=
      elementWrites (s := s) (i := .vred f) (some (op, ty)) rfl hcheck (append_of_check hcheck)
    exact ⟨hheld, hdense, fun w leaf x u hw hentry hget hput => hcompact w leaf x u hw hentry ⟨hget, hput⟩,
      fun w t w2 leaf u hw hentry halloc => hnewDense w t w2 leaf u hw ⟨hentry, halloc⟩,
      fun w t w2 leaf x u hw hentry halloc hentry2 hget hput =>
        hnewCompact w t w2 leaf x u hw ⟨hentry, halloc⟩ hentry2 ⟨hget, hput⟩⟩

/-- Settles O27: the element accesses and the management forms fail as their coordinates do. -/
theorem volumeTraps : Obligations.VolumeTraps := by
  intro s a f d c
  refine ⟨?forms, ?store, ?all⟩
  case forms =>
    simp only [List.mem_cons, List.not_mem_nil, or_false]
    rintro i (rfl | rfl | rfl | rfl | rfl)
    · exact volumeTraps_of_check rfl (fun x h => by simp only [vldOut, h])
    · exact volumeTraps_of_check rfl (fun x h => by simp only [volStoreOut, Option.isNone_some, h])
    · exact volumeTraps_of_check rfl (fun x h => by simp only [h])
    · exact volumeTraps_of_check rfl (fun x h => by simp only [h])
    · exact volumeTraps_of_check rfl (fun x h => by simp only [vfreeOut, h])
  case store =>
    intro hout
    refine traps_of_began rfl ?_
    have hcheck := check_rank (d := d (.vst f)) (k := true) (by simp) hout
    simp only [c, d] at hcheck
    simp only [volStoreOut, Option.isNone_none, hcheck]
  case all =>
    intro happend
    refine traps_of_began rfl ?_
    simp only [d] at happend
    simp only [vfreeAllOut, happend, if_true]

/-- Settles O28: each management form by the walk that it makes. -/
theorem volumeManagement : Obligations.VolumeManagement := by
  intro s a f d tile fits asked
  refine ⟨?probeLeaf, ?probeAbsent, ?touchDense, ?touchCompact, ?touchNewDense, ?touchNewCompact, ?freeAbsent, ?free, ?freeAll, ?inv,
    ?pool⟩
  case probeLeaf =>
    intro w leaf k hfits hw hentry
    simpa only [probeRaw, hentry] using completes_vprobe hfits hw
  case probeAbsent =>
    intro w hfits hw hentry
    simpa only [probeRaw, hentry] using completes_vprobe hfits hw
  case touchDense => exact fun w leaf hfits hw hentry => vtouch_body hfits (volWith_leaf hw hentry)
  case touchCompact => exact fun w leaf hfits hw hentry => vtouch_body hfits (volWith_leaf hw hentry)
  case touchNewDense =>
    exact fun w w2 leaf u hfits hw hentry halloc hentry2 => vtouch_body hfits (volWith_absent hw hentry halloc hentry2)
  case touchNewCompact =>
    exact fun w w2 leaf u hfits hw hentry halloc hentry2 => vtouch_body hfits (volWith_absent hw hentry halloc hentry2)
  case freeAbsent => exact fun w hfits hw hentry => completes_of_began rfl (vfreeOut_absent hfits hw hentry)
  case free =>
    exact fun w leaf k s1 p s3 head s4 hfits hw hentry h1 hp h3 h4 => completes_of_began rfl
      (vfreeOut_leaf hfits hw hentry h1 hp h3 h4)
  case freeAll =>
    exact fun leaves nodes p s1 s3 head s4 happend htree hp h1 h3 h4 => completes_of_began rfl
      (vfreeAllOut_ok happend htree hp h1 h3 h4)
  case inv => exact completes_of_perLane rfl (fun _ => rfl)
  case pool =>
    intro b h base n r hh hbase hrights hread
    constructor
    · intro hnone
      refine completes_of_began rfl ?_
      simp only [b, h, base, n] at *
      simp only [hh, hbase, ne_eq, not_true_eq_false, or_self, if_false, hrights, hread, volRes_bind_ok, hnone, if_true, laneOf_ok]
    · intro u hregion horder hn hwrite
      refine completes_of_began rfl ?_
      simp only [b, h, base, n] at *
      simp only [hh, hbase, ne_eq, not_true_eq_false, or_self, if_false, hrights, hread, volRes_bind_ok, hregion, Nat.not_lt.2 horder, hn,
        hwrite, laneOf_ok]

end Sys2Proof.Proofs
end


section
/-!
The copy engine and the matrix array (spec/15, spec/16; O29 to O33). A form is handed to its engine, waits for room there, or traps; an
operation of an engine does what it is named for where it is enabled.
-/

namespace Sys2Proof.Proofs

open Sys2Proof.Machine Sys2Proof.Safety Sys2Proof.Laws

/-! ### Copies -/

section
variable {s : State} {a : Agent} {i : Instr} {op : Nat} {f : XForm} (hexec : exec i s = perLane (form i) (copyOut op f) s)
include hexec

/-- A copy form that finds room and passes its checks is handed to the engine, after its expectation where it makes one (R288). -/
theorem completes_of_copyOut (hroom : ((began s a i).core a.core).copiesFull = false)
    (hfine : (began s a i).copyCheck op f a ((began s a i).copyCmd op f a) = none) :
    let c := (began s a i).copyCmd op f a
    let out (u : State) : State :=
      ({ u with nextOp := u.nextOp + 1 } : State).modCore a.core (fun k => { k with copies := k.copies ++ [c] })
    (copyExp f = false → Completes s a i (fun t => out t))
    ∧ (∀ u, copyExp f = true → (began s a i).copyCount c a.core false (c.credits (List.range c.n)) = (u, none) →
      Completes s a i (fun _ => out u)) :=
  ⟨fun hplain => completes_of_began hexec (copyOut_ok hroom hfine hplain),
    fun _ hexp hcount => completes_of_began hexec (copyOut_exp hroom hfine hexp hcount)⟩

theorem stays_of_copyOut (hfull : ((began s a i).core a.core).copiesFull = true) : Stays s a i id :=
  stays_of_began hexec (copyOut_full hfull)

theorem traps_of_copyOut {x : Trap} (hroom : ((began s a i).core a.core).copiesFull = false)
    (hbad : (began s a i).copyCheck op f a ((began s a i).copyCmd op f a) = some x) : Traps s a i x :=
  traps_of_began hexec (copyOut_trap hroom hbad)

end

/-! ### The copy engine -/

section
variable {s : State} {core : Nat} {c : CopyCmd}

theorem exec_copyCommandAccept (hc : (s.core core).copies.find? (fun x => !x.accepted) = some c)
    (hroom : ((s.core core).copies.filter (·.accepted)).length < Config.copyQueue) :
    exec (.copyCommandAccept core c.id) s
      = .next ((s.modCore core (fun k => k.modCopy c.id (fun x => { x with accepted := true }))).countIn c.agent .cp) := by
  change execCopyCommandAccept core c.id s = _
  simp only [execCopyCommandAccept, hc, hroom, and_self, if_true]

variable (hc : (s.core core).copiesAtWork.find? (fun x => x.id == c.id) = some c)
include hc

theorem exec_copyChunkLand {chunk : Nat} (hchunk : chunk < c.chunks) (hnew : c.landed.contains chunk = false)
    (hfree : c.waitsRegion (s.core core) (c.chunk chunk) = false) :
    exec (.copyChunkLand core c.id chunk) s = .next (s.landStep core c chunk) := by
  change execCopyChunkLand core c.id chunk s = _
  simp only [execCopyChunkLand, hc, Nat.not_le.2 hchunk, hnew, hfree, Bool.false_eq_true, or_self, if_false]

theorem exec_copyCommandComplete (hdone : c.landed.length = c.chunks) :
    exec (.copyCommandComplete core c.id) s = .next ((s.modCore core (fun k => k.dropCopy c.id)).countOut c.agent .cp) := by
  change execCopyCommandComplete core c.id s = _
  simp only [execCopyCommandComplete, hc, hdone, if_true]

omit hc in
/-- Without a choice in the oracle the first of the choices is taken. -/
theorem pick_of_empty (h : s.oracle = []) (n : Nat) : s.pick n = (0, s) := by
  unfold State.pick
  split
  · rfl
  · simp only [h]

omit hc in
/-- A chunk lands whole where no other choice stands. -/
theorem landStep_of_empty (h : s.oracle = []) (chunk : Nat) : s.landStep core c chunk = s.landChunk core c chunk := by
  simp only [State.landStep, pick_of_empty h, if_true]

end

/-! ### Operations that enter the sequencer -/

section
variable {s : State} {a : Agent} {i : Instr}

/-- An operation that its issuer hands to the sequencer is counted and enters it where it has room, and waits where it is full (R326). -/
theorem issued_of_issueMx {body : Agent → State → LaneOut} {kind : State → MxKind} {spans : State → List (Place × Nat)}
    (hexec : exec i s = perLane (form i) body s)
    (hbody : body a (began s a i) = issueMx a (kind (began s a i)) (spans (began s a i)) (began s a i)) :
    (∀ w, (began s a i).wg? a = some w → (began s a i).seqFull a = false → Completes s a i (fun t =>
      ({ t.markMx a { op := t.nextOp, tiles := (kind t).tiles, spans := spans t } with nextOp := t.nextOp + 1 } : State).pushMx
        a w t.nextOp (t.ctx a).pc (kind t) false))
    ∧ (∀ w, (began s a i).wg? a = some w → (began s a i).seqFull a = true → Stays s a i id) :=
  ⟨fun _ hw hroom => completes_of_began hexec (hbody.trans (issueMx_go hw hroom)),
    fun _ hw hfull => stays_of_began hexec (hbody.trans (issueMx_full hw hfull))⟩

end

section
variable {a : Agent} {f : XForm} {t : State} {mode : Nat}

/-- Where a drain writes its rows, and its order word (R319, R321). -/
def drainDst (f : XForm) (a : Agent) (t : State) : Nat := t.opVal a f.cm.a (if drainSpace f = 0 then 64 else 32)
def drainOrder (mode : Nat) (f : XForm) (a : Agent) (t : State) : Nat := if mode = 2 then t.opVal a f.cm.c 64 else 0
def drainRows (f : XForm) (a : Agent) (t : State) : List Place :=
  (List.range 64).map (fun i => t.copyPlace a (drainSpace f) (drainDst f a t + t.opVal a f.cm.b 64 % 2 ^ 32 * i))

/-- A drain whose rows pass their checks is an operation of the sequencer. -/
theorem drainOut_issues
    (h : t.drainCheck a f mode (drainDst f a t) (t.opVal a f.cm.b 64 % 2 ^ 32) (drainOrder mode f a t) = none) :
    drainOut mode f a t = issueMx a (.drain mode f (drainRows f a t) (t.opVal a f.cm.b 64 / 2 ^ 32) (drainOrder mode f a t))
      ((drainRows f a t).map (·, drainRow f)) t := by
  simp only [drainDst, drainOrder] at h
  simp only [drainOut, h]
  rfl

end

/-! ### Signatures -/

section
variable {a : Agent} {f : XForm} {sparse : Bool} {t : State} {w : Wg} {g : Grid}

/-- The set that a signature names, and the address word of its operands. -/
def sigSet (f : XForm) (w : Wg) : ConvReg := (lookupN w.cvs f.cv.toNat).getD {}
def sigAddr (f : XForm) (a : Agent) (t : State) : DWord := BitVec.ofNat 64 (t.opVal a f.cm.a 64)

/-- What the first signature of a set keeps (R315). -/
def sigFirst (sparse : Bool) (f : XForm) (a : Agent) (g : Grid) (t : State) : Snapshot :=
  { form := sigForm f, sparse := sparse, aVal := sigAddr f a t, bScales := if fmtScale (g.fmtOf f) then t.bScales a f else [],
    pc := (t.ctx a).pc, since := t.clock, op := t.nextOp }

/-- What a signature checks: the first one its operands, a later one that it is of the same encoding and operands (R310). -/
def sigChecked (sparse : Bool) (f : XForm) (a : Agent) (g : Grid) (r : ConvReg) (t : State) : Except Trap (Snapshot × State) :=
  match r.snap with
  | none =>
    match mmaCheck (g.fmtOf f) sparse f (sigAddr f a t) (t.astoreOf a) with
    | some x => .error x
    | none => .ok (sigFirst sparse f a g t, { t with nextOp := t.nextOp + 1 })
  | some sn =>
    if sn.form = sigForm f ∧ sn.sparse = sparse ∧ sn.aVal = sigAddr f a t then .ok (sn, t) else .error ⟨.mxFault, 0⟩

/-- The signers of a set with the one that signs now, and the writes that they have not fenced (R216). -/
def sigSigners (f : XForm) (a : Agent) (r : ConvReg) (t : State) : List (AgentId × Opnd) := r.signers ++ [(t.idOf a, f.cm.c)]
def sigUnfenced (a : Agent) (r : ConvReg) (t : State) : List Nat := (r.unfenced ++ (t.core a.core).unfenced (t.idOf a)).eraseDups

/-- What a signer marks (R217). -/
def sigMark (sparse : Bool) (f : XForm) (a : Agent) (g : Grid) (t : State) (sn : Snapshot) : MxMark :=
  { op := sn.op, tiles := [mmaTile f],
    spans := [(.store a.core (t.place a) (aOffset (sigAddr f a t)), mmaK f * aBlock (fmtA (g.fmtOf f))),
              (.wstore (wOffset (sigAddr f a t)), mmaSpan (t.core a.core).wstore (g.fmtOf f) sparse f (wOffset (sigAddr f a t)))],
    regs := match f.cm.c with
      | .g k => if fmtScale (g.fmtOf f) && !a.isLead then some (k.toNat, min (mmaR f) (mmaK f)) else none
      | _ => none }

/-- A set after a signature. -/
def setCv (f : XForm) (a : Agent) (c : ConvReg) (u : State) : State :=
  u.modCore a.core (fun k => k.modWg (u.place a) (fun w => { w with cvs := putN w.cvs f.cv.toNat c }))

/-- What a signature that passes its checks does: it joins its set, and the last one hands the operation to the sequencer (R310). -/
def sigOut (sparse : Bool) (f : XForm) (a : Agent) (w : Wg) (g : Grid) (t : State) (sn : Snapshot) (u : State) : LaneOut :=
  let r := sigSet f w
  let last := r.signed + 1 == r.count
  if last && t.seqFull a then .stay t
  else if last && fmtScale (g.fmtOf f) && !fullRows (sigSigners f a r t) then .trap ⟨.mxFault, 0⟩
  else if last then
    .done (setCv f a { count := r.count }
      (((u.markMx a (sigMark sparse f a g t sn)).pushMx a w sn.op sn.pc (.mma sn (sigSigners f a r t) (sigUnfenced a r t))
        w.inject).modCore a.core (fun k => k.modWg (t.place a) (fun w => { w with inject := false }))))
  else
    .done (setCv f a { r with
      signed := r.signed + 1, snap := some sn, signers := sigSigners f a r t, unfenced := sigUnfenced a r t }
      (u.markMx a (sigMark sparse f a g t sn)))

/-- A signature checks that its set is counted, then itself, and then signs. -/
theorem mmaOut_eq (hw : t.wg? a = some w) (hg : t.gridOf a = some g) :
    mmaOut sparse f a t
      = if (sigSet f w).count = 0 then .trap ⟨.mxFault, 0⟩
        else match sigChecked sparse f a g (sigSet f w) t with
          | .error x => .trap x
          | .ok (sn, u) => sigOut sparse f a w g t sn u := by
  simp only [mmaOut, hw, hg]
  rfl

section
variable (hw : t.wg? a = some w) (hg : t.gridOf a = some g) (hcount : (sigSet f w).count ≠ 0)
include hw hg hcount

theorem mmaOut_of_error {x : Trap} (h : sigChecked sparse f a g (sigSet f w) t = .error x) : mmaOut sparse f a t = .trap x := by
  rw [mmaOut_eq hw hg, if_neg hcount, h]

theorem mmaOut_of_checked {sn : Snapshot} {u : State} (h : sigChecked sparse f a g (sigSet f w) t = .ok (sn, u)) :
    mmaOut sparse f a t = sigOut sparse f a w g t sn u := by
  rw [mmaOut_eq hw hg, if_neg hcount, h]

end

section
variable {r : ConvReg} {sn : Snapshot}

/-- A later signature of another encoding, or with other operands, is refused. -/
theorem sigChecked_mismatch (hsnap : r.snap = some sn)
    (hdiff : ¬ (sn.form = sigForm f ∧ sn.sparse = sparse ∧ sn.aVal = sigAddr f a t)) :
    sigChecked sparse f a g r t = .error ⟨.mxFault, 0⟩ := by
  simp only [sigChecked, hsnap, hdiff, if_false]

/-- What a signature takes, where it takes one. -/
def sigTaken (sparse : Bool) (f : XForm) (a : Agent) (g : Grid) (r : ConvReg) (t : State) : Option (Snapshot × State) :=
  match r.snap with
  | none =>
    if mmaCheck (g.fmtOf f) sparse f (sigAddr f a t) (t.astoreOf a) = none then
      some (sigFirst sparse f a g t, { t with nextOp := t.nextOp + 1 })
    else none
  | some sn => if sn.form = sigForm f ∧ sn.sparse = sparse ∧ sn.aVal = sigAddr f a t then some (sn, t) else none

theorem sigChecked_of_taken {u : State} (h : sigTaken sparse f a g r t = some (sn, u)) : sigChecked sparse f a g r t = .ok (sn, u) := by
  unfold sigTaken at h
  unfold sigChecked
  cases hs : r.snap with
  | none =>
    simp only [hs, Option.ite_none_right_eq_some, Option.some.injEq] at h
    obtain ⟨hcheck, hfirst⟩ := h
    simp only [hcheck, hfirst]
  | some sn' =>
    simp only [hs, Option.ite_none_right_eq_some, Option.some.injEq] at h
    obtain ⟨hsame, htaken⟩ := h
    simp only [hsame, and_self, if_true, htaken]

end

section
variable {sn : Snapshot} {u : State}

/-- A signature that is not the last one joins the set. -/
theorem sigOut_joins (hlast : (sigSet f w).signed + 1 ≠ (sigSet f w).count) :
    sigOut sparse f a w g t sn u = .done (setCv f a { sigSet f w with
      signed := (sigSet f w).signed + 1, snap := some sn, signers := sigSigners f a (sigSet f w) t,
      unfenced := sigUnfenced a (sigSet f w) t } (u.markMx a (sigMark sparse f a g t sn))) := by
  simp only [sigOut, beq_eq_false_iff_ne.2 hlast, Bool.false_and, Bool.false_eq_true, if_false]

/-- The last one hands the operation to a sequencer that has room. -/
theorem sigOut_last (hlast : (sigSet f w).signed + 1 = (sigSet f w).count) (hroom : t.seqFull a = false)
    (hrows : fmtScale (g.fmtOf f) = true → fullRows (sigSigners f a (sigSet f w) t) = true) :
    sigOut sparse f a w g t sn u = .done (setCv f a { count := (sigSet f w).count }
      (((u.markMx a (sigMark sparse f a g t sn)).pushMx a w sn.op sn.pc
        (.mma sn (sigSigners f a (sigSet f w) t) (sigUnfenced a (sigSet f w) t)) w.inject).modCore a.core (fun k =>
          k.modWg (t.place a) (fun w => { w with inject := false })))) := by
  have hscales : (fmtScale (g.fmtOf f) && !fullRows (sigSigners f a (sigSet f w) t)) = false := by
    cases hs : fmtScale (g.fmtOf f) with
    | false => rfl
    | true => simp [hrows hs]
  simp only [sigOut, beq_iff_eq.2 hlast, hroom, Bool.and_false, Bool.true_and, hscales, Bool.false_eq_true, if_false, if_true]

end

end

/-! ### The sequencer -/

section
variable {s : State} {core op : Nat} {o : MxOp} (ho : (s.core core).findMx op = some o)
include ho

theorem exec_matrixOpStart (m : Nat) (h : s.mayStart core o = true) :
    exec (.matrixOpStart core op m) s = .next (s.startMx core o m) := by
  change execMatrixOpStart core op m s = _
  simp only [execMatrixOpStart, ho, h, if_true]

theorem exec_matrixOpComplete (h : o.state = .running) :
    exec (.matrixOpComplete core op) s = .next ((s.spoilRows core o).retireMx core o) := by
  change execMatrixOpComplete core op s = _
  simp only [execMatrixOpComplete, ho, h, if_true]

theorem exec_orderedDrainApply (h : s.wordMet core o = true) : exec (.orderedDrainApply core op) s = .next (s.applyAtWord core o) := by
  change execOrderedDrainApply core op s = _
  simp only [execOrderedDrainApply, ho, h, if_true]

/-- The operation that a number names has that number. -/
theorem id_of_findMx : o.id = op := by simpa using List.find?_some ho

variable {f : XForm} {rows : List Place} {seq order t : Nat} (hkind : o.kind = .drain 2 f rows seq order) (hstate : o.state = .atWord t)
include hkind hstate

/-- A drain that finds its number applies its tile and runs (R321). -/
theorem exec_orderedDrainApply_number {u : State} (hword : s.orderWord core o order = .ok seq)
    (happly : s.applyOrdered core o (s.mxFmt o f) f rows seq order = .ok u) :
    exec (.orderedDrainApply core op) s
      = .next (u.modCore core (fun k => k.modMx op (fun o => { o with state := .running }))) := by
  rw [exec_orderedDrainApply ho (by simp only [State.wordMet, hkind, hstate, hword, beq_self_eq_true])]
  simp only [State.applyAtWord, hkind, hword, Except.bind, happly, id_of_findMx ho]

/-- One whose word cannot be read ends its grid. -/
theorem exec_orderedDrainApply_unreadable {e : Trap} (hword : s.orderWord core o order = .error e) :
    exec (.orderedDrainApply core op) s = .next (s.mxFails core o e) := by
  rw [exec_orderedDrainApply ho (by simp only [State.wordMet, hkind, hstate, hword])]
  simp only [State.applyAtWord, hkind, hword, Except.bind]

theorem exec_orderedDrainTimeout {z : Nat} (hdog : (s.core core).cwdog.toNat ≠ 0)
    (hlim : t + (s.core core).cwdog.toNat ≤ s.clock + o.waited) (hword : s.orderWord core o order = .ok z) (hz : z ≠ seq) :
    exec (.orderedDrainTimeout core op) s = .next (s.mxFails core o ⟨.timeout, 0⟩) := by
  have hmet : s.wordMet core o = false := by simp only [State.wordMet, hkind, hstate, hword, beq_eq_false_iff_ne.2 hz]
  change execOrderedDrainTimeout core op s = _
  simp only [execOrderedDrainTimeout, ho, hstate, hdog, hlim, hmet, ne_eq, not_false_eq_true, Bool.not_false, and_self, if_true]

end

section
variable {s : State} {core wg cv : Nat} {w : Wg} {r : ConvReg} {sn : Snapshot} (hw : (s.core core).wg wg = some w)
  (hr : lookupN w.cvs cv = some r) (hsn : r.snap = some sn) (hdog : (s.core core).cwdog.toNat ≠ 0)
  (hlim : sn.since + (s.core core).cwdog.toNat ≤ s.clock)
include hw hr hsn hdog hlim

/-- The state in which a partly signed set is cleared. -/
def setCleared (s : State) (core wg cv : Nat) (r : ConvReg) : State :=
  s.modCore core (fun k => k.modWg wg (fun w => { w with cvs := putN w.cvs cv { count := r.count } }))

/-- A partly signed set that stands too long is cleared, and ends the grid at its first signer that is still there (R311). -/
theorem exec_setWatchdogTimeout_signer {a : Agent}
    (ha : r.signers.head?.bind (fun x => (setCleared s core wg cv r).locate x.1) = some a) :
    exec (.setWatchdogTimeout core wg cv) s = .next ((setCleared s core wg cv r).failAt a ⟨.timeout, 0⟩ sn.pc) := by
  simp only [setCleared] at ha ⊢
  change execSetWatchdogTimeout core wg cv s = _
  simp only [execSetWatchdogTimeout, hw, hr, hsn, Option.bind_some, Option.map_some, hdog, hlim, ne_eq, not_false_eq_true, and_self,
    if_true, ha]

/-- Where that signer is gone it ends the grid of the workgroup. -/
theorem exec_setWatchdogTimeout_gone
    (hnone : r.signers.head?.bind (fun x => (setCleared s core wg cv r).locate x.1) = none) :
    exec (.setWatchdogTimeout core wg cv) s
      = .next ((setCleared s core wg cv r).report (some w.grid) ⟨.timeout, 0⟩ sn.pc core) := by
  simp only [setCleared] at hnone ⊢
  change execSetWatchdogTimeout core wg cv s = _
  simp only [execSetWatchdogTimeout, hw, hr, hsn, Option.bind_some, Option.map_some, hdog, hlim, ne_eq, not_false_eq_true, and_self,
    if_true, hnone]

end

/-! ### The statements -/

/-- Settles O29: a copy form is `copyOut` at its number, and `OWAIT` goes on or stays by its counts. -/
theorem copyForms : Obligations.CopyForms := by
  intro s a
  refine ⟨?copies, ?waits, ?traps⟩
  case copies =>
    intro f handed held
    exact ⟨completes_of_copyOut rfl, completes_of_copyOut rfl, completes_of_copyOut rfl, completes_of_copyOut rfl,
      stays_of_copyOut (op := 0) (f := f) rfl, stays_of_copyOut (op := 1) (f := f) rfl, stays_of_copyOut (op := 2) (f := f) rfl,
      stays_of_copyOut (op := 3) (f := f) rfl⟩
  case waits =>
    intro f
    refine ⟨fun hmet => completes_of_began rfl ?_, fun hmet => stays_of_began rfl ?_, completes_of_perLane rfl (fun _ => rfl)⟩
    · simp only [hmet, if_true]
    · simp only [hmet, Bool.false_eq_true, if_false, id]
  case traps =>
    exact fun f t => ⟨fun ⟨hroom, hbad⟩ => traps_of_copyOut rfl hroom hbad, fun ⟨hroom, hbad⟩ => traps_of_copyOut rfl hroom hbad,
      fun ⟨hroom, hbad⟩ => traps_of_copyOut rfl hroom hbad, fun ⟨hroom, hbad⟩ => traps_of_copyOut rfl hroom hbad⟩

/-- Settles O30: each operation of the engine where it is enabled. -/
theorem copyEngine : Obligations.CopyEngine := by
  intro s core c
  refine ⟨exec_copyCommandAccept, ?land, exec_copyCommandComplete⟩
  intro chunk hc hchunk hnew hfree
  refine ⟨exec_copyChunkLand hc hchunk hnew hfree, fun hempty => ?_⟩
  rw [exec_copyChunkLand hc hchunk hnew hfree, landStep_of_empty hempty]

/-- Settles O31: `MSET` and `MCHK` by the condition that each tests, and the others as operations of the sequencer. -/
theorem matrixForms : Obligations.MatrixForms := by
  intro s a f cvOf n free issued dst b order rows drained fmt own
  refine ⟨?msetFree, ?msetHeld, ?mzero, ?drain, ?drainAdd, ?drainOrd, ?qdual, ?qscan, ?mchk⟩
  case msetFree =>
    intro hfree
    refine completes_of_began rfl ?_
    simp only [free, cvOf, n] at hfree
    simp only [hfree, and_self, if_true]
  case msetHeld =>
    intro hheld
    refine completes_of_began rfl ?_
    simp only [free, cvOf, n] at hheld
    simp only [hheld, if_false]
  case mzero => exact issued_of_issueMx (kind := fun _ => .mzero (fld f.flags 0 8)) (spans := fun _ => []) rfl rfl
  case drain => exact fun hfine => issued_of_issueMx rfl (drainOut_issues hfine)
  case drainAdd => exact fun hfine => issued_of_issueMx rfl (drainOut_issues hfine)
  case drainOrd => exact fun hfine => issued_of_issueMx rfl (drainOut_issues hfine)
  case qdual =>
    intro hfine
    exact issued_of_issueMx (kind := fun t => .qdual f (t.opVal a f.cm.a 32) (t.opVal a f.cm.b 32))
      (spans := fun t => [(own t (t.opVal a f.cm.a 32), qdualRead f), (own t (t.opVal a f.cm.b 32), qdualWrite (fmt t))]) rfl
      (by simp only [fmt] at hfine; simp only [hfine, own, fmt])
  case qscan =>
    intro hfine
    exact issued_of_issueMx (kind := fun t => .qscan f (t.opVal a f.cm.a 32))
      (spans := fun t => [(own t (t.opVal a f.cm.a 32), qscanWrite (fmt t))]) rfl
      (by simp only [fmt] at hfine; simp only [hfine, own, fmt])
  case mchk =>
    intro ids inject
    constructor
    · intro hnone
      refine completes_of_began rfl ?_
      simp only [ids] at hnone
      simp only [hnone, List.isEmpty_nil, if_true, inject]
    · intro hsome
      refine stays_of_began rfl ?_
      simp only [ids] at hsome
      simp only [List.isEmpty_eq_false_iff.2 hsome, Bool.false_eq_true, if_false, ids, inject]

/-- A signature is the lane `mmaOut` of its form. -/
theorem exec_signature (sparse : Bool) (f : XForm) (s : State) :
    exec (if sparse then .mmas f else .mma f) s = perLane (form (if sparse then .mmas f else .mma f)) (mmaOut sparse f) s := by
  cases sparse <;> rfl

/-- Settles O32: a signature checks its set and itself, and joins it or hands it on. -/
theorem signatureSets : Obligations.SignatureSets := by
  intro s a f sparse w g i t r av fmt first signers unfenced mark setCv taken hw hg
  refine ⟨?uncounted, ?mismatch, ?joins, ?last⟩
  case uncounted =>
    intro hcount
    exact traps_of_began (exec_signature sparse f s) ((mmaOut_eq hw hg).trans (if_pos hcount))
  case mismatch =>
    intro sn hcount hsnap hdiff
    exact traps_of_began (exec_signature sparse f s) (mmaOut_of_error hw hg hcount (sigChecked_mismatch hsnap hdiff))
  case joins =>
    intro sn u hcount htaken hlast
    exact completes_of_began (exec_signature sparse f s)
      ((mmaOut_of_checked hw hg hcount (sigChecked_of_taken htaken)).trans (sigOut_joins hlast))
  case last =>
    intro sn u htaken hlast hroom hrows
    have hcount : r.count ≠ 0 := by omega
    exact completes_of_began (exec_signature sparse f s)
      ((mmaOut_of_checked hw hg hcount (sigChecked_of_taken htaken)).trans (sigOut_last hlast hroom hrows))

/-- Settles O33: each operation of the sequencer where it is enabled. -/
theorem matrixSequencer : Obligations.MatrixSequencer := by
  constructor
  · intro s core op o ho
    refine ⟨?start, ?complete, ?number, ?unreadable, ?timeout⟩
    case start => exact fun m h => exec_matrixOpStart ho m h
    case complete => exact exec_matrixOpComplete ho
    case number =>
      exact fun f rows seq order t u hkind hstate hword happly => exec_orderedDrainApply_number ho hkind hstate hword happly
    case unreadable =>
      exact fun f rows seq order t e hkind hstate hword => exec_orderedDrainApply_unreadable ho hkind hstate hword
    case timeout =>
      exact fun f rows seq order t z hkind hstate hdog hlim hword hz =>
        exec_orderedDrainTimeout ho hkind hstate hdog hlim hword hz
  · intro s core wg cv w r sn hw hr hsn hdog hlim u signer
    exact ⟨fun a ha => exec_setWatchdogTimeout_signer hw hr hsn hdog hlim ha,
      fun hnone => exec_setWatchdogTimeout_gone hw hr hsn hdog hlim hnone⟩

end Sys2Proof.Proofs
end


section
/-!
Steps on a generation block (spec/18; O34). A step is checked as it issues and is then pending; at its home it reads the block, checks it
whole, and acts.
-/

namespace Sys2Proof.Proofs

open Sys2Proof.Machine Sys2Proof.Safety Sys2Proof.Laws

/-! ### At issue -/

section
variable {a : Agent} {t : State} {at_ : Nat} {slot : Option Nat} {write : Bool} {op : StepOp} {d : Opnd}

/-- The checks of a step in their order (R340): alignment, the header, the slot record. -/
theorem stepCheck_align (h : at_ % 64 ≠ 0) : t.stepCheck a at_ slot write = some ⟨.align, at_⟩ := if_pos h

theorem stepCheck_header {x : Trap} (halign : at_ % 64 = 0) (h : t.checkGlobal a at_ 64 write false = some x) :
    t.stepCheck a at_ slot write = some x := by
  simp only [State.stepCheck, halign, ne_eq, not_true_eq_false, if_false, h]

theorem stepCheck_slot {x : Trap} {n : Nat} (halign : at_ % 64 = 0) (hheader : t.checkGlobal a at_ 64 write false = none)
    (h : t.checkGlobal a (at_ + 64 + 8 * n : Nat) 8 write false = some x) : t.stepCheck a at_ (some n) write = some x := by
  simp only [State.stepCheck, halign, ne_eq, not_true_eq_false, if_false, hheader, h]

/-- A step that passes them is pending at the home that its address names. -/
theorem stepOut_ok {pa : Nat} (hcheck : t.stepCheck a at_ slot write = none)
    (hpa : t.xlate a.core (t.viaOf a) at_ false = some pa) :
    stepOut a at_ slot write op d t
      = .done (t.post a (.glob at_) 64 (if d = .lit 0 then 3 else 4) 5 0 (.step op pa d) .ld) := by
  simp only [stepOut, hcheck, hpa]

theorem stepOut_trap {x : Trap} (hcheck : t.stepCheck a at_ slot write = some x) : stepOut a at_ slot write op d t = .trap x := by
  simp only [stepOut, hcheck]

end

section
variable {s : State} {a : Agent} {i : Instr} {write : Bool} {d : Opnd} {at_ : Agent → State → Nat}
  {slot : Agent → State → Option Nat} {op : Agent → State → StepOp}

/-- What a step does at issue: it is pending, or traps by the first check that fails. -/
theorem posts_of_stepOut (hexec : exec i s = perLane (form i) (fun a t => stepOut a (at_ a t) (slot a t) write (op a t) d t) s) :
    (∀ pa, (began s a i).stepCheck a (at_ a (began s a i)) (slot a (began s a i)) write = none →
      (began s a i).xlate a.core ((began s a i).viaOf a) (at_ a (began s a i)) false = some pa →
      Completes s a i (fun t =>
        t.post a (.glob (at_ a t)) 64 (if d = .lit 0 then 3 else 4) 5 0 (.step (op a t) pa d) .ld))
    ∧ (at_ a (began s a i) % 64 ≠ 0 → Traps s a i ⟨.align, at_ a (began s a i)⟩)
    ∧ (∀ x, at_ a (began s a i) % 64 = 0 → (began s a i).checkGlobal a (at_ a (began s a i)) 64 write false = some x → Traps s a i x)
    ∧ (∀ x n, slot a (began s a i) = some n → at_ a (began s a i) % 64 = 0 →
      (began s a i).checkGlobal a (at_ a (began s a i)) 64 write false = none →
      (began s a i).checkGlobal a (at_ a (began s a i) + 64 + 8 * n : Nat) 8 write false = some x → Traps s a i x) := by
  refine ⟨?pending, ?align, ?header, ?slot⟩
  case pending => exact fun pa hcheck hpa => completes_of_began hexec (stepOut_ok hcheck hpa)
  case align => exact fun h => traps_of_began hexec (stepOut_trap (stepCheck_align h))
  case header => exact fun x halign h => traps_of_began hexec (stepOut_trap (stepCheck_header halign h))
  case slot =>
    intro x n hn halign hheader h
    refine traps_of_began hexec (stepOut_trap ?_)
    rw [hn]
    exact stepCheck_slot halign hheader h

end

/-! ### At the home -/

section
variable {s : State} {h : Home} {at_ : Nat} {b : Block}

/-- A block that a step may follow, of the epoch of its VF or void already: the step finds it as it stands. -/
def Found (s : State) (h : Home) (at_ : Nat) (b : Block) (slot : Option Nat) : Prop :=
  s.blockRead h at_ = .ok b ∧ s.blockFollow h b slot = .ok () ∧ (b.void = true ∨ b.epoch = s.blockEpoch h b)

/-- A void block stays as it is. -/
theorem voidBlock_void (hvoid : b.void = true) : s.voidBlock h b = .ok (s, b) := by
  unfold State.voidBlock
  rw [if_pos (by simp [hvoid])]

theorem enterBlock_found {slot : Option Nat} (hfound : Found s h at_ b slot) : s.enterBlock h at_ slot = .ok (s, b, false) := by
  obtain ⟨hread, hfollow, hepoch⟩ := hfound
  have hsame : s.voidBlock h b = .ok (s, b) := hepoch.elim voidBlock_void voidBlock_ok
  simp only [State.enterBlock, hread, hfollow, hsame, volRes_bind_ok, bne_self_eq_false]

section
variable {k : Nat} (hfound : Found s h at_ b (some k))
include hfound

section
variable {tok c : Nat} {rule : BitVec 128} {v : BitVec 64} (hword : s.blockWord h (b.slotAt k) = .ok v)
include hword

/-- `CAST` on a void block gives the slot and writes nothing (R347). -/
theorem stepOn_cast_void (hvoid : b.void = true) :
    s.stepOn h at_ (.cast k tok c rule) = .ok { state := s, value := v.toNat, wrote := false } := by
  simp only [State.stepOn, State.stepCast, enterBlock_found hfound, volRes_bind_ok, hword, hvoid, if_true]

/-- `CAST` on a live block writes the slot by the rule, and then the state word with the new frontier (R339). -/
theorem stepOn_cast {s2 s3 : State} {w : BitVec 64} (hlive : b.void = false)
    (hslot : s.putWord h (b.slotAt k) (castSlot rule b.pass (Slot8.ofWord v) tok c).1.word = .ok s2)
    (hfront : s2.refront h b (if (castSlot rule b.pass (Slot8.ofWord v) tok c).2 then setFld b.word 40 11 (b.finals + 1) else b.word)
      = .ok w) (hput : s2.putWord h (b.at_ + 8) w = .ok s3) :
    s.stepOn h at_ (.cast k tok c rule)
      = .ok { state := s3, value := (castSlot rule b.pass (Slot8.ofWord v) tok c).1.word.toNat, wrote := true } := by
  simp only [State.stepOn, State.stepCast, enterBlock_found hfound, volRes_bind_ok, hword, hlive, Bool.false_eq_true, if_false, hslot, hfront,
    hput]

/-- `SLOTLD` gives the slot, and marks only a final one of a live block (R344). -/
theorem stepOn_slot_read {mark : Bool} (hkeep : mark = false ∨ b.void = true ∨ (Slot8.ofWord v).state ≠ 2) :
    s.stepOn h at_ (.slot mark k) = .ok { state := s, value := v.toNat, wrote := false } := by
  have hplain : (mark && !b.void && (Slot8.ofWord v).state == 2) = false := by
    rcases hkeep with h | h | h <;> simp [h]
  simp only [State.stepOn, State.stepSlot, enterBlock_found hfound, volRes_bind_ok, hword, hplain, Bool.false_eq_true, if_false]

theorem stepOn_slot_mark {s2 : State} (hlive : b.void = false) (hfinal : (Slot8.ofWord v).state = 2)
    (hput : s.putWord h (b.slotAt k) { Slot8.ofWord v with cached := true }.word = .ok s2) :
    s.stepOn h at_ (.slot true k)
      = .ok { state := s2, value := { Slot8.ofWord v with cached := true }.word.toNat, wrote := false } := by
  have hmark : (true && !b.void && (Slot8.ofWord v).state == 2) = true := by simp [hlive, hfinal]
  simp only [State.stepOn, State.stepSlot, enterBlock_found hfound, volRes_bind_ok, hword, hmark, if_true, hput]

end

end

theorem stepOn_header (hfound : Found s h at_ b none) :
    s.stepOn h at_ .header = .ok { state := s, value := b.word.toNat, wrote := false } := by
  simp only [State.stepOn, State.stepHeader, enterBlock_found hfound, volRes_bind_ok]

/-- The state word of a block that opens (R341). -/
def openWord (b : Block) : BitVec 64 := setFld (setFld (setFld 0 63 1 1) 52 6 b.vf) 16 11 b.n

/-- `FRONT.open` clears the slots, and writes the epoch and the state word. -/
theorem stepOn_opening {s1 s2 s3 : State} (hread : s.blockRead h at_ = .ok b) (hcheck : s.blockCheck h at_ (64 + 8 * b.n) true = .ok ())
    (hlo : 1 ≤ b.n) (hhi : b.n ≤ 1024) (hres : b.reservedOk = true) (hvf : h.via.vf? = some b.vf)
    (h1 : s.blockWrite h (at_ + 64) (List.replicate (8 * b.n) 0) = .ok s1)
    (h2 : s1.blockWrite h (at_ + 0x10) (leBytes 2 (s.blockEpoch h b)) = .ok s2) (h3 : s2.putWord h (at_ + 8) (openWord b) = .ok s3) :
    s.stepOn h at_ .opening = .ok { state := s3, value := (openWord b).toNat, wrote := true } := by
  have hgood : ¬ (b.n = 0 ∨ 1024 < b.n ∨ (!b.reservedOk) = true ∨ h.via.vf? ≠ some b.vf) := by
    simp only [hres, hvf, Bool.not_true, Bool.false_eq_true, ne_eq, not_true_eq_false, or_false]
    omega
  simp only [openWord] at h3 ⊢
  simp only [State.stepOn, State.stepOpen, State.frontBlock, hread, volRes_bind_ok, hcheck, hgood, if_false, h1, h2, h3]

section
variable {kmin : Nat} (hcheck : s.blockCheck h at_ (64 + 8 * b.n) true = .ok ()) (hfound : Found s h at_ b none)
include hcheck hfound

theorem frontBlock_found : s.frontBlock h at_ = .ok b := by
  simp only [State.frontBlock, hfound.1, volRes_bind_ok, hcheck]

theorem stepOn_pass_void (hvoid : b.void = true) :
    s.stepOn h at_ (.pass kmin) = .ok { state := s, value := b.word.toNat, wrote := false } := by
  simp only [State.stepOn, State.stepPass, frontBlock_found hcheck hfound, enterBlock_found hfound, volRes_bind_ok, hvoid, if_true]

/-- `FRONT.pass` casts off the surest tentative slots and starts the next pass (R342). -/
theorem stepOn_pass {rs : List (Nat × Slot8)} {s2 s3 : State} {w : BitVec 64} (hlive : b.void = false)
    (hslots : (List.range b.n).mapM (fun k => (s.blockWord h (b.slotAt k)).map (fun v => (k, Slot8.ofWord v))) = .ok rs)
    (hcast : (castOffs (kmin - b.finals) rs).foldlM (fun (t : State) x =>
      t.putWord h (b.slotAt x.1) { x.2 with state := 2, pass := b.pass }.word) s = .ok s2)
    (hfront : s2.refront h b (setFld (setFld b.word 32 8 (b.pass + 1)) 40 11 0) = .ok w)
    (hput : s2.putWord h (b.at_ + 8) w = .ok s3) :
    s.stepOn h at_ (.pass kmin) = .ok { state := s3, value := w.toNat, wrote := true } := by
  have hread : (List.range b.n).mapM (fun k => do
      let v ← s.blockWord h (b.slotAt k)
      (.ok (k, Slot8.ofWord v) : VolRes (Nat × Slot8))) = .ok rs := by
    rw [← hslots]
    congr 1
  simp only [State.stepOn, State.stepPass, frontBlock_found hcheck hfound, enterBlock_found hfound, volRes_bind_ok, hlive,
    Bool.false_eq_true, if_false, hread, hcast, hfront, hput]

end

end

section
variable {s : State} {op : Nat} {p : Pending} {o : StepOp} {blk : Nat} {d : Opnd} (hready : s.readyOp p.agent.core op = some p)
  (hkind : p.kind = .step o blk d)
include hready hkind

/-- A step that is performed acts at its block's home. -/
theorem exec_loadReturn_step : exec (.loadReturn p.agent.core op) s = .next (s.performStep p o blk) := by
  rw [exec_loadReturn_home hready (.inl (by simp only [Pending.isStep, hkind]))]
  simp only [State.perform, hkind]

theorem exec_step_fails {x : Trap} (h : s.stepOn p.home p.place.addr o = .error x) :
    exec (.loadReturn p.agent.core op) s = .next (s.opFails p x) := by
  rw [exec_loadReturn_step hready hkind]
  simp only [State.performStep, h]

/-- What a step leaves: an acquire where its order says so, its releases, and its value (R333). -/
theorem exec_step_acts {t : State} {x : Nat} {wrote : Bool}
    (h : s.stepOn p.home p.place.addr o = .ok { state := t, value := x, wrote := wrote }) :
    let u := if isAcquire p.order then t.acquire p.agent 5 (some (.block blk)) else t
    let v := u.publish p.agent (some (.block blk)) 5
    exec (.loadReturn p.agent.core op) s
      = .next ((if wrote then v.publish p.agent (some (.at_ (.glob (blk + 8)))) 5 else v).doneAt p x) := by
  intro u v
  rw [exec_loadReturn_step hready hkind]
  simp only [State.performStep, h, u, v]

end

/-! ### The statement -/

/-- Settles O34: at issue each form is `stepOut`; at its home each step by what it finds of the block. -/
theorem generationSteps : Obligations.GenerationSteps := by
  constructor
  · intro s a f at_ k conf posts
    refine ⟨?cast, ?read, ?mark, ?header, ?opening, ?pass⟩
    case cast =>
      exact posts_of_stepOut (at_ := fun a t => t.opVal a f.cm.a 64) (slot := fun a t => some (t.opVal a f.cm.b 32))
        (op := fun a t => .cast (t.opVal a f.cm.b 32) (t.opVal a f.cm.c 64 % 2 ^ 20) (t.opVal a f.cm.c 64 / 2 ^ 32 % 2 ^ 16)
          (t.ruleOf a f)) rfl
    case read =>
      exact posts_of_stepOut (at_ := fun a t => t.opVal a f.cm.a 64) (slot := fun a t => some (t.opVal a f.cm.b 32))
        (op := fun a t => .slot false (t.opVal a f.cm.b 32)) rfl
    case mark =>
      exact posts_of_stepOut (at_ := fun a t => t.opVal a f.cm.a 64) (slot := fun a t => some (t.opVal a f.cm.b 32))
        (op := fun a t => .slot true (t.opVal a f.cm.b 32)) rfl
    case header =>
      exact posts_of_stepOut (at_ := fun a t => t.opVal a f.cm.a 64) (slot := fun _ _ => none) (op := fun _ _ => .header) rfl
    case opening =>
      exact posts_of_stepOut (at_ := fun a t => t.opVal a f.cm.a 64) (slot := fun _ _ => none) (op := fun _ _ => .opening) rfl
    case pass =>
      exact posts_of_stepOut (at_ := fun a t => t.opVal a f.cm.a 64) (slot := fun _ _ => none)
        (op := fun a t => .pass (ruleKmin (t.ruleOf a f))) rfl
  · intro s op p o blk d b hready hkind h at_ acts found live
    have act : ∀ {t x wrote}, s.stepOn h at_ o = .ok { state := t, value := x, wrote := wrote } → acts t x wrote :=
      fun hstep => exec_step_acts hready hkind hstep
    refine ⟨fun x hstep => exec_step_fails hready hkind hstep, ?cast, ?slot, ?header, ?opening, ?pass⟩
    case cast =>
      rintro k tok c rule v rfl hword r
      exact ⟨fun hfound hvoid => act (stepOn_cast_void hfound hword hvoid),
        fun s2 w s3 hlive hslot hfront hput => act (stepOn_cast hlive.1 hword hlive.2 hslot hfront hput)⟩
    case slot =>
      rintro k mark v rfl hfound hword
      refine ⟨fun hkeep => act (stepOn_slot_read hfound hword hkeep), ?_⟩
      rintro s2 rfl hlive hfinal hput
      exact act (stepOn_slot_mark hfound hword hlive hfinal hput)
    case header =>
      rintro rfl hfound
      exact act (stepOn_header hfound)
    case opening =>
      rintro w s1 s2 s3 rfl hread hcheck hlo hhi hres hvf h1 h2 h3
      exact act (stepOn_opening hread hcheck hlo hhi hres hvf h1 h2 h3)
    case pass =>
      rintro kmin rs s2 w s3 rfl hcheck
      exact ⟨fun hfound hvoid => act (stepOn_pass_void hcheck hfound hvoid),
        fun hlive hslots hcast hfront hput => act (stepOn_pass hcheck hlive.1 hlive.2 hslots hcast hfront hput)⟩

end Sys2Proof.Proofs
end


section
/-!
Text forms (spec/20; O36). A form is checked as it issues and is then pending; at its edge die it takes, emits, closes or asks, and
`VOCLOAD` binds a vocabulary at once.
-/

namespace Sys2Proof.Proofs

open Sys2Proof.Machine Sys2Proof.Safety Sys2Proof.Laws

/-! ### At issue -/

section
variable {s : State} {a : Agent} {f : RForm} {i : Instr}

/-- `TXCLOSE` and `TXSTAT` of a stream of the VF are pending; of another VF's they trap (R363). -/
theorem sidOut_ok {sid : Nat} {op : TextOp} {d : Opnd} {t : State} (h : t.vfOf a = some (sidVf sid)) :
    sidOut a sid op d t = .done (t.post a (.glob 0) 0 0 5 0 (.text op d) .ld) := by
  simp only [sidOut, h, ne_eq, not_true_eq_false, if_false, textOut]

theorem sidOut_foreign {sid : Nat} {op : TextOp} {d : Opnd} {t : State} (h : t.vfOf a ≠ some (sidVf sid)) :
    sidOut a sid op d t = .trap ⟨.perm, 0⟩ := by
  simp only [sidOut, ne_eq, h, not_false_eq_true, if_true]

/-- The lane of a form that names an address of the global space: alignment, the range, and the VF that it needs. -/
def textAtOut (align range n : Nat) (write : Bool) (order : BitVec 3) (op : TextOp) (d : Opnd) (at_ : Nat) (a : Agent) (t : State) :
    LaneOut :=
  if at_ % align ≠ 0 then .trap ⟨.align, at_⟩
  else
    match t.checkGlobal a at_ range write false with
    | some x => .trap x
    | none => if (t.vfOf a).isNone then .trap ⟨.perm, 0⟩ else textOut a at_ n order op d t

theorem exec_txtake (f : RForm) (s : State) : exec (.txtake f) s = perLane (form (.txtake f)) (fun a t =>
    textAtOut 16 (32 + 4 * t.opVal a f.cm.b 32) 0 true 0 (.take (fld f.func 0 2) (t.opVal a f.cm.b 32)) f.cm.d (t.opVal a f.cm.a 64) a
      t) s := rfl

theorem exec_txemit (f : RForm) (s : State) : exec (.txemit f) s = perLane (form (.txemit f)) (fun a t =>
    textAtOut 64 64 64 false 2 (.emit (t.opVal a f.cm.b 32)) f.cm.d (t.opVal a f.cm.a 64) a t) s := rfl

variable {align range n at_ : Nat} {write : Bool} {order : BitVec 3} {op : TextOp} {d : Opnd} {t : State}

theorem textAtOut_ok (halign : at_ % align = 0) (hcheck : t.checkGlobal a at_ range write false = none)
    (hvf : (t.vfOf a).isSome = true) :
    textAtOut align range n write order op d at_ a t = .done (t.post a (.glob at_) n order 5 0 (.text op d) .ld) := by
  have hvf' : (t.vfOf a).isNone = false := by simpa using hvf
  simp only [textAtOut, halign, ne_eq, not_true_eq_false, if_false, hcheck, hvf', Bool.false_eq_true, textOut]

theorem textAtOut_align (h : at_ % align ≠ 0) : textAtOut align range n write order op d at_ a t = .trap ⟨.align, at_⟩ := if_pos h

theorem textAtOut_trap {x : Trap} (halign : at_ % align = 0) (hcheck : t.checkGlobal a at_ range write false = some x) :
    textAtOut align range n write order op d at_ a t = .trap x := by
  simp only [textAtOut, halign, ne_eq, not_true_eq_false, if_false, hcheck]

end

/-! ### At the edge die -/

section
variable {s : State} {h : Home} {at_ part vf : Nat}

/-- A form acts on an edge die that its request reaches, and a closed firewall on the way drops it (R393). -/
theorem onEdge_open {e : Nat} {act : VolRes TextEnd} (hopen : s.edgePath (dieOf h.agent.core) e = true) : s.onEdge h e act = act := by
  simp only [State.onEdge, hopen, if_true]

theorem onEdge_shut {e : Nat} {act : VolRes TextEnd} (hshut : s.edgePath (dieOf h.agent.core) e = false) :
    s.onEdge h e act = .ok (.failed (s.edgeDrop (dieOf h.agent.core) e) ⟨.perm, 0⟩) := by
  simp only [State.onEdge, hshut, Bool.false_eq_true, if_false]

section
variable {e cap : Nat} (hvia : h.via = .vf part vf)
include hvia

/-- What `TXTAKE` does with the queue of its VF (R364). -/
def takeAct (s : State) (h : Home) (at_ e cap part vf : Nat) : VolRes TextEnd :=
  match ((s.edge e).txOf (vfKey part vf)).queue with
  | [] => .ok (.done s (2 ^ 32))
  | r :: rest =>
    if cap < r.tokens.length then .ok (.done s (r.tokens.length + 2 * 2 ^ 32))
    else do
      let s1 ← s.blockWrite h at_ (r.bytes e vf)
      .ok (.done (s1.modTx e (vfKey part vf) (fun t => { t with queue := rest })) r.tokens.length)

theorem textOn_take : s.textOn h at_ (.take e cap) = s.onEdge h e (takeAct s h at_ e cap part vf) := by
  simp only [State.textOn, State.takeText, State.textVf, hvia, volRes_bind_ok]
  rfl

end

theorem takeAct_empty {e cap : Nat} (hq : ((s.edge e).txOf (vfKey part vf)).queue = []) :
    takeAct s h at_ e cap part vf = .ok (.done s (2 ^ 32)) := by
  simp only [takeAct, hq]

section
variable {e cap : Nat} {r : TxRequest} {rest : List TxRequest} (hq : ((s.edge e).txOf (vfKey part vf)).queue = r :: rest)
include hq

theorem takeAct_long (hcap : cap < r.tokens.length) :
    takeAct s h at_ e cap part vf = .ok (.done s (r.tokens.length + 2 * 2 ^ 32)) := by
  simp only [takeAct, hq, hcap, if_true]

theorem takeAct_gives {u : State} (hcap : r.tokens.length ≤ cap) (hwrite : s.blockWrite h at_ (r.bytes e vf) = .ok u) :
    takeAct s h at_ e cap part vf
      = .ok (.done (u.modTx e (vfKey part vf) (fun t => { t with queue := rest })) r.tokens.length) := by
  simp only [takeAct, hq, Nat.not_lt.2 hcap, if_false, hwrite, volRes_bind_ok]

end

/-- What `TXCLOSE` does with the stream that it names (R363). -/
def closeAct (s : State) (h : Home) (sid code : Nat) : TextEnd :=
  match s.streamOf (s.partOf h.agent) sid with
  | some k =>
    if k.open_ then
      .done (s.modStream sid (fun k => { k with
        ready := k.ready ++ k.held, held := [], closing := some (if code = 0 then 0 else 1, BitVec.ofNat 32 code) })) 0
    else .done s 2
  | none => .done s 2

theorem textOn_close {sid code : Nat} : s.textOn h at_ (.close sid code) = s.onEdge h (sidEdge sid) (.ok (closeAct s h sid code)) := rfl

theorem closeAct_open {sid code : Nat} {k : Stream} (hk : s.streamOf (s.partOf h.agent) sid = some k) (hopen : k.open_ = true) :
    closeAct s h sid code = .done (s.modStream sid (fun k => { k with
      ready := k.ready ++ k.held, held := [], closing := some (if code = 0 then 0 else 1, BitVec.ofNat 32 code) })) 0 := by
  simp only [closeAct, hk, hopen, if_true]

theorem closeAct_gone {sid code : Nat} (hk : ∀ k, s.streamOf (s.partOf h.agent) sid = some k → k.open_ = false) :
    closeAct s h sid code = .done s 2 := by
  unfold closeAct
  split
  · rename_i k hs
    rw [hk k hs]
    rfl
  · rfl

/-- What a `TXSTAT` does at its edge die. -/
def statAct (s : State) (h : Home) (sid : Nat) : TextEnd :=
  .done s (((s.streamOf (s.partOf h.agent) sid).map (·.stat)).getD 0)

theorem textOn_stat {sid : Nat} : s.textOn h at_ (.stat sid)
    = s.onEdge h (sidEdge sid) (.ok (statAct s h sid)) := rfl

theorem stat_eq (k : Stream) : k.stat = k.sent % 2048 + k.held.length * 2 ^ 11
    + (if k.closed then 3 else if k.closing.isSome then 2 else 1) * 2 ^ 14 + k.bytes % 2 ^ 32 * 2 ^ 32 := rfl

theorem statAct_some {sid : Nat} {k : Stream} (hk : s.streamOf (s.partOf h.agent) sid = some k) :
    statAct s h sid = .done s (k.sent % 2048 + k.held.length * 2 ^ 11
      + (if k.closed then 3 else if k.closing.isSome then 2 else 1) * 2 ^ 14 + k.bytes % 2 ^ 32 * 2 ^ 32) := by
  rw [statAct, hk, Option.map_some, Option.getD_some, stat_eq]

theorem statAct_none {sid : Nat} (hk : s.streamOf (s.partOf h.agent) sid = none) : statAct s h sid = .done s 0 := by
  simp only [statAct, hk, Option.map_none, Option.getD_none]

/-! ### `TXEMIT` -/

/-- Checks that all pass are passed together. -/
theorem mapM_checks_ok {α : Type} {check : α → VolRes Unit} {l : List α} (hl : ∀ i ∈ l, check i = .ok ()) :
    ∃ us, l.mapM check = .ok us := by
  induction l with
  | nil => exact ⟨[], rfl⟩
  | cons i l ih =>
    obtain ⟨us, hus⟩ := ih (fun j hj => hl j (List.mem_cons_of_mem _ hj))
    exact ⟨() :: us, by rw [List.mapM_cons, hl i List.mem_cons_self, hus]; rfl⟩

section
variable {b : Block} {k : Stream} {lim : Nat}

/-- A stream that emits from another block than before starts again at its first slot (R362). -/
def emitMoved (k : Stream) (at_ : Nat) : Bool := k.block.any (· != at_)
def emitSent (k : Stream) (at_ : Nat) : Nat := if emitMoved k at_ then 0 else k.sent

/-- The slots that an emission reads. -/
def emitReads (k : Stream) (at_ lim : Nat) (b : Block) : List Nat :=
  (List.range (min lim b.frontier)).filter (fun i => decide (emitSent k at_ ≤ i))

/-- An open stream takes text, unless it moves before its block is sent whole. -/
def emitSends (k : Stream) (at_ : Nat) : Bool := k.open_ && !(emitMoved k at_ && decide (k.sent < k.n0))

/-- What `TXEMIT` does for a stream that stands (R362, R365). -/
def emitAct (s : State) (h : Home) (b : Block) (k : Stream) (at_ lim : Nat) : VolRes TextEnd :=
  if !k.open_ then .ok (.done s (2 * 2 ^ 16 + k.sent))
  else if emitMoved k at_ && decide (k.sent < k.n0) then .ok (.done s (3 * 2 ^ 16 + k.sent))
  else s.emitText h b k (emitSent k at_) lim

variable (hread : s.blockRead h at_ = .ok b) (hfollow : s.blockFollow h b none = .ok ()) (hvia : h.via = .vf part vf) (hown : vf = b.vf)
  (hsid : vf = sidVf b.stream)
include hread hfollow hvia hown hsid

theorem textOn_emit_none (hk : s.streamOf (s.partOf h.agent) b.stream = none) :
    s.textOn h at_ (.emit lim) = s.onEdge h (sidEdge b.stream) (.ok (.done s (2 * 2 ^ 16))) := by
  have hsame : ¬ (vf ≠ b.vf ∨ vf ≠ sidVf b.stream) := by simp [← hown, ← hsid]
  simp only [State.textOn, State.emitBlock, hread, volRes_bind_ok, hk, Option.map_none, Option.getD_none, Bool.false_and, Bool.false_eq_true,
    if_false, List.mapM_nil, pure_bind, hfollow, State.textVf, hvia, hsame]

theorem textOn_emit_some (hk : s.streamOf (s.partOf h.agent) b.stream = some k)
    (hchecks : emitSends k at_ = true → ∀ i ∈ emitReads k at_ lim b, s.blockCheck h (b.slotAt i) 8 false = .ok ()) :
    s.textOn h at_ (.emit lim) = s.onEdge h (sidEdge b.stream) (emitAct s h b k at_ lim) := by
  have hsame : ¬ (vf ≠ b.vf ∨ vf ≠ sidVf b.stream) := by simp [← hown, ← hsid]
  obtain ⟨us, hus⟩ : ∃ us, (if emitSends k at_ && decide (b.n ≤ 1024) then emitReads k at_ lim b else []).mapM
      (fun i => s.blockCheck h (b.slotAt i) 8 false) = .ok us := by
    refine mapM_checks_ok (fun i hi => ?_)
    split at hi
    · rename_i hsends
      exact hchecks (Bool.and_eq_true_iff.1 hsends).1 i hi
    · cases hi
  cases hb : k.block with
  | none =>
    simp only [emitSends, emitReads, emitSent, emitMoved, hb, Option.any_none] at hus
    simp only [State.textOn, State.emitBlock, hread, volRes_bind_ok, hk, Option.map_some, Option.getD_some, hb, hus, hfollow,
      State.textVf, hvia, hsame, if_false, emitAct, emitSent, emitMoved, Option.any_none]
  | some b0 =>
    simp only [emitSends, emitReads, emitSent, emitMoved, hb, Option.any_some] at hus
    simp only [State.textOn, State.emitBlock, hread, volRes_bind_ok, hk, Option.map_some, Option.getD_some, hb, hus, hfollow,
      State.textVf, hvia, hsame, if_false, emitAct, emitSent, emitMoved, Option.any_some]

end

section
variable {b : Block} {k : Stream} {lim : Nat}

theorem emitAct_closed (hopen : k.open_ = false) : emitAct s h b k at_ lim = .ok (.done s (2 * 2 ^ 16 + k.sent)) := by
  simp only [emitAct, hopen, Bool.not_false, if_true]

theorem emitAct_short (hopen : k.open_ = true) (hmoved : emitMoved k at_ = true) (hsent : k.sent < k.n0) :
    emitAct s h b k at_ lim = .ok (.done s (3 * 2 ^ 16 + k.sent)) := by
  simp only [emitAct, hopen, Bool.not_true, Bool.false_eq_true, if_false, hmoved, hsent, decide_true, Bool.and_self, if_true]

/-- The state in which the text of an emission has joined its stream. -/
def emitted (s : State) (b : Block) (k : Stream) (now : Nat) (text : List Byte) : State :=
  s.modStream b.stream (fun _ => ({ k with block := some b.at_, n0 := b.n, sent := now }).output text)

variable {slots : List (BitVec 64)} (hopen : k.open_ = true) (hwhole : emitMoved k at_ = true → k.n0 ≤ k.sent)
  (hslots : (emitReads k at_ lim b).mapM (fun i => s.blockWord h (b.slotAt i)) = .ok slots)
include hopen hwhole hslots

omit hslots in
theorem emitAct_sends : emitAct s h b k at_ lim = s.emitText h b k (emitSent k at_) lim := by
  have hgoes : (emitMoved k at_ && decide (k.sent < k.n0)) = false := by
    cases hm : emitMoved k at_ with
    | false => rfl
    | true => simpa using hwhole hm
  simp only [emitAct, hopen, Bool.not_true, Bool.false_eq_true, if_false, hgoes]

theorem emitAct_nothing (hnone : slots = []) :
    emitAct s h b k at_ lim = .ok (.done (emitted s b k (max (emitSent k at_) (min lim b.frontier)) [])
      (max (emitSent k at_) (min lim b.frontier))) := by
  simp only [emitReads] at hslots
  simp only [emitAct_sends hopen hwhole, State.emitText, hslots, volRes_bind_ok, hnone, List.isEmpty_nil, if_true, emitted]

variable (hsome : slots ≠ [])
include hsome

/-- Where the image cannot be read the grid ends, and an end that drops the read keeps its mark (R393). -/
theorem emitAct_noImage {x : Trap} (hv : s.vocab (s.streamImage h (sidEdge b.stream) k) = .error x) :
    emitAct s h b k at_ lim = .ok (.failed (s.imgDrop (s.streamImage h (sidEdge b.stream) k) x.va) x) := by
  simp only [emitReads] at hslots
  simp only [emitAct_sends hopen hwhole, State.emitText, hslots, volRes_bind_ok, List.isEmpty_eq_false_iff.2 hsome, Bool.false_eq_true,
    if_false, hv]
  rfl

variable {v : Vocab} (hv : s.vocab (s.streamImage h (sidEdge b.stream) k) = .ok v)
include hv

theorem emitAct_text {texts : List (List Byte)} (htexts : slots.mapM (fun w =>
      s.tokenText (s.streamImage h (sidEdge b.stream) k) v (Slot8.ofWord w).token) = .ok texts) :
    emitAct s h b k at_ lim = .ok (.done (emitted s b k (max (emitSent k at_) (min lim b.frontier)) texts.flatten)
      (max (emitSent k at_) (min lim b.frontier))) := by
  simp only [emitReads] at hslots
  simp only [emitAct_sends hopen hwhole, State.emitText, hslots, volRes_bind_ok, List.isEmpty_eq_false_iff.2 hsome, Bool.false_eq_true,
    if_false, hv, htexts, emitted]

theorem emitAct_noText {x : Trap} (htexts : slots.mapM (fun w =>
      s.tokenText (s.streamImage h (sidEdge b.stream) k) v (Slot8.ofWord w).token) = .error x) :
    emitAct s h b k at_ lim = .ok (.failed (s.imgDrop (s.streamImage h (sidEdge b.stream) k) x.va) x) := by
  simp only [emitReads] at hslots
  simp only [emitAct_sends hopen hwhole, State.emitText, hslots, volRes_bind_ok, List.isEmpty_eq_false_iff.2 hsome, Bool.false_eq_true,
    if_false, hv, htexts]

end

end

/-! ### A text form that is performed -/

section
variable {s : State} {op : Nat} {p : Pending} {o : TextOp} {d : Opnd} (hready : s.readyOp p.agent.core op = some p)
  (hkind : p.kind = .text o d)
include hready hkind

theorem exec_loadReturn_text : exec (.loadReturn p.agent.core op) s = .next (s.performText p o) := by
  rw [exec_loadReturn_home hready (.inr (by simp only [Pending.isText, hkind]))]
  simp only [State.perform, hkind]

theorem exec_text_fails {x : Trap} (h : s.textOn p.home p.place.addr o = .error x) :
    exec (.loadReturn p.agent.core op) s = .next (s.opFails p x) := by
  rw [exec_loadReturn_text hready hkind]
  simp only [State.performText, h]

theorem exec_text_ends {t : State} {x : Trap} (h : s.textOn p.home p.place.addr o = .ok (.failed t x)) :
    exec (.loadReturn p.agent.core op) s = .next (t.opTraps p x) := by
  rw [exec_loadReturn_text hready hkind]
  simp only [State.performText, h]

theorem exec_text_done {t : State} {v : Nat} (h : s.textOn p.home p.place.addr o = .ok (.done t v)) :
    exec (.loadReturn p.agent.core op) s = .next ((if isAcquire p.order then
      t.acquire p.agent 5 (t.chanOf p.agent.core p.via (.glob (p.place.addr + 8))) else t).doneAt p v) := by
  rw [exec_loadReturn_text hready hkind]
  simp only [State.performText, h]

end

/-! ### `VOCLOAD` -/

section
variable {s : State} {a : Agent} {g : XForm}

/-- The image that a `VOCLOAD` names. -/
def vocImage (a : Agent) (g : XForm) (t : State) : Image :=
  { via := t.viaOf a, base := t.opVal a g.cm.a 64, edges := List.range 4 }

/-- The lane of a `VOCLOAD`. -/
def vocloadOut (g : XForm) (a : Agent) (t : State) : LaneOut :=
  if t.opVal a g.cm.a 64 % 64 ≠ 0 then .trap ⟨.align, t.opVal a g.cm.a 64⟩
  else
    match t.vfOf a with
    | none => .trap ⟨.perm, 0⟩
    | some vf =>
      match (List.range 4).find? (fun e => !t.edgePath (dieOf a.core) e) with
      | some e => t.textDrop a e
      | none =>
        if t.opVal a g.cm.a 64 = 0 then .done ((t.bindVocab (t.partOf a) vf (fld g.flags 0 4) none).putD a g.cm.d 64 4)
        else
          match t.vocabCheck a (vocImage a g t) with
          | .error x => (t.imgDrop (vocImage a g t) x.va).laneOf a (.error x)
          | .ok st =>
            .done ((if st = 0 then t.bindVocab (t.partOf a) vf (fld g.flags 0 4) (some (t.opVal a g.cm.a 64)) else t).putD a g.cm.d 64 st)

theorem exec_vocload (g : XForm) (s : State) : exec (.vocload g) s = perLane (form (.vocload g)) (vocloadOut g) s := rfl

variable {t : State}

theorem vocloadOut_align (h : t.opVal a g.cm.a 64 % 64 ≠ 0) : vocloadOut g a t = .trap ⟨.align, t.opVal a g.cm.a 64⟩ := if_pos h

variable {vf : Nat} (halign : t.opVal a g.cm.a 64 % 64 = 0) (hvf : t.vfOf a = some vf)
  (hpaths : ∀ e < 4, t.edgePath (dieOf a.core) e = true)

include hpaths in
/-- Where every edge die is reached no request is dropped. -/
theorem find_closedPath : (List.range 4).find? (fun e => !t.edgePath (dieOf a.core) e) = none := by
  rw [List.find?_eq_none]
  intro e he
  simp [hpaths e (List.mem_range.1 he)]

include hvf hpaths in
theorem vocloadOut_unbind (hzero : t.opVal a g.cm.a 64 = 0) :
    vocloadOut g a t = .done ((t.bindVocab (t.partOf a) vf (fld g.flags 0 4) none).putD a g.cm.d 64 4) := by
  simp only [vocloadOut, ne_eq, not_true_eq_false, if_false, hvf, find_closedPath hpaths, hzero, if_true]

variable (hbase : t.opVal a g.cm.a 64 ≠ 0)
include halign hvf hpaths hbase

theorem vocloadOut_fails {x : Trap} (hcheck : t.vocabCheck a (vocImage a g t) = .error x) :
    vocloadOut g a t = (t.imgDrop (vocImage a g t) x.va).laneOf a (.error x) := by
  simp only [vocloadOut, halign, ne_eq, not_true_eq_false, if_false, hvf, find_closedPath hpaths, hbase, hcheck]

theorem vocloadOut_status {st : Nat} (hcheck : t.vocabCheck a (vocImage a g t) = .ok st) :
    vocloadOut g a t = .done ((if st = 0 then t.bindVocab (t.partOf a) vf (fld g.flags 0 4) (some (t.opVal a g.cm.a 64)) else t).putD a
      g.cm.d 64 st) := by
  simp only [vocloadOut, halign, ne_eq, not_true_eq_false, if_false, hvf, find_closedPath hpaths, hbase, hcheck]

omit halign hvf hpaths hbase
variable {m : Image} (hhead : t.blockCheck (t.homeOf a) m.base 64 false = .ok ())
include hhead

theorem vocabCheck_noHead {x : Trap} (hv : t.vocab m = .error x) : t.vocabCheck a m = .error x := by
  simp only [State.vocabCheck, hhead, hv, volRes_bind_ok]
  rfl

/-- An image whose head is read, and which is readable as far as it says, has its status. -/
theorem vocabCheck_status {h : Vocab} (hv : t.vocab m = .ok h)
    (hlen : h.length ≤ 2 ^ 32 → t.blockCheck (t.homeOf a) m.base h.length false = .ok ()) : t.vocabCheck a m = t.vocabStatus m h := by
  simp only [State.vocabCheck, hhead, hv, volRes_bind_ok]
  split
  · rename_i hshort
    simp only [hlen hshort, volRes_bind_ok]
  · rfl

end

/-- What a `VOCLOAD` does whose check of the image fails. -/
theorem vocload_fails {s : State} {a : Agent} {g : XForm} {x : Trap}
    (hbody : vocloadOut g a (began s a (.vocload g))
      = ((began s a (.vocload g)).imgDrop (vocImage a g (began s a (.vocload g))) x.va).laneOf a (.error x)) :
    (x.code = .perm → Stays s a (.vocload g) (fun u =>
      ((u.imgDrop (vocImage a g (began s a (.vocload g))) x.va).noteDrop a.core
        ((u.imgDrop (vocImage a g (began s a (.vocload g))) x.va).viaOf a) x.va).raise a x))
    ∧ (x.code ≠ .perm → Traps s a (.vocload g) x) := by
  constructor
  · intro hperm
    refine stays_of_began (exec_vocload g s) (hbody.trans ?_)
    simp only [State.laneOf, hperm, if_true]
  · intro hperm
    refine traps_of_began (exec_vocload g s) (hbody.trans ?_)
    simp only [State.laneOf, hperm, if_false]

/-! ### The statement -/

/-- Settles O36: a form at issue by its address or stream, at its edge die by what it finds there, and `VOCLOAD` by its image. -/
theorem textForms : Obligations.TextForms := by
  refine ⟨?issue, ?edge, ?vocload⟩
  case issue =>
    intro s a f x sid y pends
    refine ⟨?take, ?emit, ?close, ?stat, ?foreign⟩
    case take =>
      exact ⟨fun halign hcheck hvf => completes_of_began (exec_txtake f s) (textAtOut_ok halign hcheck hvf),
        fun h => traps_of_began (exec_txtake f s) (textAtOut_align h),
        fun t halign hcheck => traps_of_began (exec_txtake f s) (textAtOut_trap halign hcheck)⟩
    case emit =>
      exact ⟨fun halign hcheck hvf => completes_of_began (exec_txemit f s) (textAtOut_ok halign hcheck hvf),
        fun h => traps_of_began (exec_txemit f s) (textAtOut_align h),
        fun t halign hcheck => traps_of_began (exec_txemit f s) (textAtOut_trap halign hcheck)⟩
    case close => exact fun hvf => completes_of_began rfl (sidOut_ok hvf)
    case stat => exact fun hvf => completes_of_began rfl (sidOut_ok hvf)
    case foreign =>
      simp only [List.mem_cons, List.not_mem_nil, or_false]
      rintro i (rfl | rfl) hvf
      · exact traps_of_began rfl (sidOut_foreign hvf)
      · exact traps_of_began rfl (sidOut_foreign hvf)
  case edge =>
    intro s op part vf p o d hready hkind hvia h at_ open_ ends gives shut
    have give : ∀ {t v}, s.textOn h at_ o = .ok (.done t v) → gives t v := fun hon => exec_text_done hready hkind hon
    have end_ : ∀ {t x}, s.textOn h at_ o = .ok (.failed t x) → ends (t.opTraps p x) := fun hon => exec_text_ends hready hkind hon
    have drop : ∀ {e act}, s.textOn h at_ o = s.onEdge h e act → shut e :=
      fun hon hshut => end_ (hon.trans (onEdge_shut hshut))
    refine ⟨fun t hon => exec_text_fails hready hkind hon, ?take, ?close, ?stat, ?emit⟩
    case take =>
      rintro e cap rfl
      refine ⟨drop (textOn_take hvia), fun hopen => ?_⟩
      have hact := (textOn_take (s := s) (at_ := at_) (cap := cap) hvia).trans (onEdge_open (h := h) (e := e) hopen)
      refine ⟨fun hq => give (hact.trans (takeAct_empty hq)), fun r rest hq => ?_⟩
      exact ⟨fun hcap => give (hact.trans (takeAct_long hq hcap)),
        fun u hcap hwrite => give (hact.trans (takeAct_gives hq hcap hwrite))⟩
    case close =>
      rintro sid code rfl
      refine ⟨drop textOn_close, fun hopen => ?_⟩
      have hact : s.textOn h at_ (.close sid code) = .ok (closeAct s h sid code) := textOn_close.trans (onEdge_open hopen)
      exact ⟨fun k hk hko => give (hact.trans (congrArg _ (closeAct_open hk hko))),
        fun hk => give (hact.trans (congrArg _ (closeAct_gone hk)))⟩
    case stat =>
      rintro sid rfl
      refine ⟨drop textOn_stat, fun hopen => ?_⟩
      have hact := (textOn_stat (s := s) (h := h) (at_ := at_) (sid := sid)).trans (onEdge_open (h := h) (e := sidEdge sid) hopen)
      exact ⟨fun k hk => give (hact.trans (congrArg _ (statAct_some hk))), fun hk => give (hact.trans (congrArg _ (statAct_none hk)))⟩
    case emit =>
      rintro lim b rfl hread hfollow hown hsid
      constructor
      · intro hk
        have hon := textOn_emit_none (lim := lim) hread hfollow hvia hown hsid hk
        exact ⟨drop hon, fun hopen => give (hon.trans (onEdge_open hopen))⟩
      · intro k hk hopen moved sent reads m
        have hact : (emitSends k at_ = true → ∀ i ∈ emitReads k at_ lim b, s.blockCheck h (b.slotAt i) 8 false = .ok ()) →
            s.textOn h at_ (.emit lim) = emitAct s h b k at_ lim :=
          fun hchecks => (textOn_emit_some hread hfollow hvia hown hsid hk hchecks).trans (onEdge_open hopen)
        refine ⟨fun hko => ?_, fun hko hmoved hsent => ?_, ?_⟩
        · exact give ((hact (fun hs => by simp [emitSends, hko] at hs)).trans (emitAct_closed hko))
        · have hstops : emitSends k at_ ≠ true := by
            have hm : emitMoved k at_ = true := hmoved
            simp [emitSends, hm, hsent]
          exact give ((hact (fun hs => absurd hs hstops)).trans (emitAct_short hko hmoved hsent))
        · intro slots hko hwhole hchecks hslots next out
          have hon := hact (fun _ => hchecks)
          refine ⟨fun hnone => give (hon.trans (emitAct_nothing hko hwhole hslots hnone)),
            fun t hsome hv => end_ (hon.trans (emitAct_noImage hko hwhole hslots hsome hv)), fun v hsome hv => ?_⟩
          exact ⟨fun texts htexts => give (hon.trans (emitAct_text hko hwhole hslots hsome hv htexts)),
            fun t htexts => end_ (hon.trans (emitAct_noText hko hwhole hslots hsome hv htexts))⟩
  case vocload =>
    intro s a g vf b at_ m fails
    refine ⟨fun h => traps_of_began (exec_vocload g s) (vocloadOut_align h), fun halign hvf hpaths => ⟨fun hzero => ?_, ?_⟩⟩
    · exact completes_of_began (exec_vocload g s) (vocloadOut_unbind hvf hpaths hzero)
    · intro hbase hhead
      have hfails : ∀ {t}, b.vocabCheck a m = .error t → fails t :=
        fun hcheck => vocload_fails (vocloadOut_fails halign hvf hpaths hbase hcheck)
      refine ⟨fun t hv => hfails (vocabCheck_noHead hhead hv), fun h hv hlen => ?_⟩
      have hstatus := vocabCheck_status hhead hv hlen
      refine ⟨fun t ht => hfails (hstatus.trans ht), fun hgood => ?_, fun st hst hbad => ?_⟩
      · refine completes_of_began (exec_vocload g s) ((vocloadOut_status halign hvf hpaths hbase (hstatus.trans hgood)).trans ?_)
        rw [if_pos rfl]
      · refine completes_of_began (exec_vocload g s) ((vocloadOut_status halign hvf hpaths hbase (hstatus.trans hst)).trans ?_)
        rw [if_neg hbad]

end Sys2Proof.Proofs
end


section
/-!
System forms and `SRET` (spec/21; O37, O38), and the order of the checks at issue (spec/03; O53).
-/

namespace Sys2Proof.Proofs

open Sys2Proof.Machine Sys2Proof.Safety Sys2Proof.Laws

/-! ### System forms -/

section
variable (s : State) (a : Agent) (f : RForm)

/-- The lane of an `SCLEAR`. -/
def sclearOut (f : RForm) (a : Agent) (t : State) : LaneOut :=
  if 256 ≤ t.opVal a f.cm.a 32 then .trap ⟨.illEnc, 0⟩
  else if !(t.core a.core).wgs.isEmpty then .done (t.putD a f.cm.d 32 0xFFFFFFFF)
  else
    .done ((({ t with freeCount := t.freeCount + 1 } : State).clearUnits a.core (t.opVal a f.cm.a 32)).putD a f.cm.d 32
      (Config.clearClocks t.freeCount % 2 ^ 32))

theorem exec_sclear : exec (.sclear f) s = perLane (form (.sclear f)) (sclearOut f) s := rfl

variable {s a f}

theorem sclearOut_mask (h : 256 ≤ s.opVal a f.cm.a 32) : sclearOut f a s = .trap ⟨.illEnc, 0⟩ := if_pos h

theorem sclearOut_resident (h : s.opVal a f.cm.a 32 < 256) (hw : (s.core a.core).wgs ≠ []) :
    sclearOut f a s = .done (s.putD a f.cm.d 32 0xFFFFFFFF) := by
  simp [sclearOut, Nat.not_le.2 h, hw]

theorem sclearOut_clears (h : s.opVal a f.cm.a 32 < 256) (hw : (s.core a.core).wgs = []) :
    sclearOut f a s = .done ((({ s with freeCount := s.freeCount + 1 } : State).clearUnits a.core (s.opVal a f.cm.a 32)).putD a f.cm.d 32
      (Config.clearClocks s.freeCount % 2 ^ 32)) := by
  simp only [sclearOut, Nat.not_le.2 h, hw, List.isEmpty_nil, Bool.not_true, Bool.false_eq_true, if_false]

end

/-- Settles O37: each form's lane is its effect; `SCLEAR` by its mask and the workgroups of its core. -/
theorem systemForms : Obligations.SystemForms := by
  intro s a f
  refine ⟨stays_of_began rfl rfl, stays_of_began rfl rfl, completes_of_perLane rfl (fun _ => rfl),
    completes_of_perLane rfl (fun _ => rfl), completes_of_perLane rfl (fun _ => rfl), completes_of_perLane rfl (fun _ => rfl), ?_⟩
  exact ⟨fun hmask => traps_of_began (exec_sclear s f) (sclearOut_mask hmask),
    fun hmask hw => completes_of_began (exec_sclear s f) (sclearOut_resident hmask hw),
    fun hmask hw => completes_of_began (exec_sclear s f) (sclearOut_clears hmask hw)⟩

/-! ### `SRET` -/

section
variable {s : State} {a : Agent} {f : RForm} {act : Nat}

theorem sretOut_empty (h : lookupN (s.core a.core).mail (s.opVal a f.cm.a 32 % 64) = none) :
    sretOut act f a s = .done (s.writeP a f.cm.d.num false) := by
  simp only [sretOut, h]

theorem sretOut_request {m : Mail} (h : lookupN (s.core a.core).mail (s.opVal a f.cm.a 32 % 64) = some m) :
    sretOut act f a s = .done ((((((s.flush a.core).collect a (some (.mail a.core))).publish a (some (.mail a.core))).answer act m
      (s.opVal a f.cm.b 64) a.core).acquire m.agent 4 (some (.mail a.core))).modCore a.core
        (fun k => { k with mail := delN k.mail (s.opVal a f.cm.a 32 % 64) }) |>.writeP a f.cm.d.num true) := by
  simp only [sretOut, h]

/-- Action 11 on a task's request stops its agent and reports the code; on a supervisor thread's it starts the thread again. -/
theorem answer_end_task {m : Mail} {v core : Nat} (h : s.level m.agent = .t) :
    s.answer 3 m v core = (s.modCtx m.agent (fun c => { c with wait := .stopped, reply := c.reply + 1 })).report (s.gridNo m.agent)
      ⟨endCodeOf v, 0⟩ (m.record.getD 0 0) core := by
  simp only [State.answer, h]

theorem answer_end_sup {m : Mail} {v core : Nat} (h : s.level m.agent ≠ .t) : s.answer 3 m v core = s.restartSup m.agent := by
  simp only [State.answer]

/-- An `SRET` on a slot without a request gives false; on a request its action answers the agent of the request. -/
theorem sret_empty {i : Instr} (hexec : exec i s = perLane (form i) (sretOut act f) s)
    (h : lookupN ((began s a i).core a.core).mail ((began s a i).opVal a f.cm.a 32 % 64) = none) :
    Completes s a i (fun t => t.writeP a f.cm.d.num false) :=
  completes_of_began hexec (sretOut_empty h)

theorem sret_request {i : Instr} {m : Mail} {answered : State → State} (hexec : exec i s = perLane (form i) (sretOut act f) s)
    (h : lookupN ((began s a i).core a.core).mail ((began s a i).opVal a f.cm.a 32 % 64) = some m)
    (hanswer : ((((began s a i).flush a.core).collect a (some (.mail a.core))).publish a (some (.mail a.core))).answer act m
      ((began s a i).opVal a f.cm.b 64) a.core = answered (began s a i)) :
    Completes s a i (fun t => (((answered t).acquire m.agent 4 (some (.mail a.core))).modCore a.core
      (fun k => { k with mail := delN k.mail (t.opVal a f.cm.a 32 % 64) })).writeP a f.cm.d.num true) := by
  refine completes_of_began hexec ((sretOut_request h).trans ?_)
  rw [hanswer]

end

/-- Settles O38: an empty slot, and a request by the action that it names. -/
theorem supervisorReturn : Obligations.SupervisorReturn := by
  intro s a f slot v came returns any
  refine ⟨⟨?_, ?resume⟩, ⟨?_, ?reissue⟩, ⟨?_, ?unmatched⟩, ⟨?_, ?task⟩, ?_, ?sup⟩
  case resume =>
    intro m hslot _
    exact sret_request (act := 0) (answered := fun t => (came t).answer 0 m (v t) a.core) rfl hslot rfl
  case reissue =>
    intro m hslot _
    exact sret_request (act := 1) (answered := fun t => (came t).answer 1 m (v t) a.core) rfl hslot rfl
  case unmatched =>
    intro m hslot _
    exact sret_request (act := 2) (answered := fun t => (came t).answer 2 m (v t) a.core) rfl hslot rfl
  case task =>
    intro m hslot htask
    exact sret_request (act := 3) (answered := fun t => ((came t).modCtx m.agent (fun c => { c with wait := .stopped, reply := c.reply + 1 })).report
      ((came t).gridNo m.agent) ⟨endCodeOf (v t), 0⟩ (m.record.getD 0 0) a.core) rfl hslot (answer_end_task htask)
  case sup =>
    intro m hslot hsup
    exact sret_request (act := 3) (answered := fun t => (came t).restartSup m.agent) rfl hslot (answer_end_sup hsup)
  all_goals exact fun hslot => sret_empty rfl hslot

/-! ### The checks at issue -/

/-- An instruction that is not a collective runs lane by lane. -/
theorem exec_perLane {i : Instr} {f : Form} (hf : form i = some f) (hcoll : f.coll = false) :
    ∃ body, ∀ s, exec i s = perLane (form i) body s := by
  cases i <;> cases hf <;> cases hcoll <;> exact ⟨_, fun _ => rfl⟩

/-- What a lane does whose launch may not run the form, or a source register of which has failed its parity. -/
theorem lane_space {s : State} {a : Agent} {f : Form} (body : Agent → State → LaneOut) (h : s.issueOk a f = true)
    (hg : s.guardTrue a f.cm.guard = true) (hspace : f.space = false) : s.lane f body a = s.raise a ⟨.perm, 0⟩ := by
  simp only [State.lane, h, hg, hspace]; rfl

theorem lane_exclusive {s : State} {a : Agent} {f : Form} (body : Agent → State → LaneOut) (h : s.issueOk a f = true)
    (hg : s.guardTrue a f.cm.guard = true) (hspace : f.space = true) (hexcl : f.excl = true) (hno : s.exclusive a = false) :
    s.lane f body a = s.raise a ⟨.perm, 0⟩ := by
  simp only [State.lane, h, hg, hspace, hexcl, hno]; rfl

theorem lane_badOperand {s : State} {a : Agent} {f : Form} (body : Agent → State → LaneOut) (h : s.issueOk a f = true)
    (hg : s.guardTrue a f.cm.guard = true) (hspace : f.space = true) (hexcl : f.excl = true → s.exclusive a = true)
    (hbad : s.badOperand a f = true) : s.lane f body a = s.raise a ⟨.eccUe, 0⟩ := by
  have hgo : (f.excl && !s.exclusive a) = false := by
    cases he : f.excl with
    | false => rfl
    | true => simp [hexcl he]
  simp only [State.lane, h, hg, hspace, hgo, hbad]; rfl

/-- Settles O53: the one lane of an instruction that is not a collective takes its checks in their order. -/
theorem issueChecks : Obligations.IssueChecks := by
  intro s a i f x hf hcoll hcur hagents
  obtain ⟨body, hexec⟩ := exec_perLane hf hcoll
  have hone : exec i s = .next (s.lane f body a).endIssue := by rw [hexec, hf, perLane_one hcur hagents]
  rw [hone]
  exact ⟨fun h => by rw [lane_illEnc body h], fun h hg => by rw [lane_guard body h hg],
    fun h hg hspace => by rw [lane_space body h hg hspace],
    fun h hg hspace hexcl hno => by rw [lane_exclusive body h hg hspace hexcl hno],
    fun h hg hspace hexcl hbad => by rw [lane_badOperand body h hg hspace hexcl hbad]⟩

end Sys2Proof.Proofs
end


section
/-!
The register file (spec/03, spec/05; O54): what a register reads after a write.
-/

namespace Sys2Proof.Laws

open Sys2Proof.Machine Sys2Proof.Safety

/-! ### What is written of one agent leaves another's registers -/

theorem map_of_map_bare {α : Type} {x y : Option Thread} (f : Thread → α) (hf : ∀ t, f (bare t) = f t) (h : x.map bare = y.map bare) :
    x.map f = y.map f := by
  have := congrArg (Option.map f) h
  simpa only [Option.map_map, Function.comp_def, hf] using this

theorem Writes.ctx_others {as : List Agent} {sp : List Span} {p : Option Nat} {fl : Bool} {s t : State} {b : Agent} {α : Type}
    (h : Writes as sp p fl s t) (hb : b ∉ as) (f : Ctx → α) (hf : ∀ x, f { x with opBuf := none } = f x) : f (t.ctx b) = f (s.ctx b) := by
  obtain ⟨ht, hl⟩ := h.others b hb
  have hm := map_of_map_bare (fun t => f t.ctx) (fun t => hf t.ctx) ht
  rw [ctx_eq, ctx_eq s, hl]
  cases h1 : t.thread? b <;> cases h2 : s.thread? b <;> simp_all

/-- An agent that is not written to keeps its registers. -/
theorem Writes.sameRegs_others {as : List Agent} {sp : List Span} {p : Option Nat} {fl : Bool} {s t : State} {b : Agent}
    (h : Writes as sp p fl s t) (hb : b ∉ as) : SameRegs s t b := by
  obtain ⟨ht, hl⟩ := h.others b hb
  refine ⟨fun n => ⟨?_, ?_⟩, h.ctx_others hb (·.preds) (fun _ => rfl), h.handles b, h.ctx_others hb (·.fstat) (fun _ => rfl), h.who b⟩
  · rw [gReg, gReg, map_of_map_bare (·.g) (fun _ => rfl) ht]
  · rw [sReg, sReg, hl]

/-- What writes no register, predicate or flag leaves every agent's as they were. -/
theorem Writes.sameRegs_quiet {as : List Agent} {s t : State} (h : Writes as [] none false s t) (b : Agent) : SameRegs s t b := by
  refine ⟨fun n => ⟨h.gR b n (fun _ hx => nomatch hx), h.sR b n (fun _ hx => nomatch hx)⟩, ?_, h.handles b, h.noFlags b rfl, h.who b⟩
  exact BitVec.eq_of_getLsbD_eq (fun i hi => h.preds b i hi (by simp))

end Sys2Proof.Laws

namespace Sys2Proof.Proofs

open Sys2Proof.Machine Sys2Proof.Safety Sys2Proof.Laws

/-! ### Registers of a thread -/

theorem gWords_lt (g : Regs 32) (i n : Nat) : gWords g i n < 2 ^ (32 * n) := by
  induction n generalizing i with
  | zero => simp [gWords]
  | succ n ih =>
    have h1 := (getR g i).isLt
    have h2 := ih (i + 1)
    have h3 : 2 ^ 32 * (gWords g (i + 1) n + 1) ≤ 2 ^ 32 * 2 ^ (32 * n) := Nat.mul_le_mul_left _ h2
    rw [gWords, show 32 * (n + 1) = 32 + 32 * n by omega, Nat.pow_add]
    omega

/-- Registers written together read back together. -/
theorem gWords_gPut (g : Regs 32) (i n v : Nat) : gWords (gPut g i n v) i n = v % 2 ^ (32 * n) := by
  induction n generalizing g i v with
  | zero => simp [gWords, Nat.mod_one]
  | succ n ih =>
    rw [gWords, gPut, ih, getR_gPut _ _ _ _ _ (by omega), getR_setR_self, BitVec.toNat_ofNat, show 32 * (n + 1) = 32 + 32 * n by omega,
      Nat.pow_add, Nat.mod_mul]

/-- The registers of an operand hold its bits. -/
theorem le_wordsOf {w : Nat} (hw : w ≤ 128) : w ≤ 32 * wordsOf w := by
  unfold wordsOf
  split
  · omega
  split <;> omega

section
variable {s : State} {a : Agent}

theorem thread?_writeG {t : Thread} (h : s.thread? a = some t) (i w v : Nat) :
    ∃ u, (s.writeG a i w v).thread? a = some u ∧ u.g = gPut t.g i (wordsOf w) v := by
  obtain ⟨c, x⟩ := a
  cases x with
  | lead p => cases h
  | thread n =>
    simp only [State.writeG, thread?_modThread, if_true, h, Option.map_some]
    exact ⟨_, rfl, rfl⟩

theorem opVal_writeG {w : Nat} (h : (s.thread? a).isSome = true) (hw : w ≤ 128) (i : BitVec 9) (v : Nat) :
    (s.writeG a i.toNat w v).opVal a (.g i) w = v % 2 ^ w := by
  obtain ⟨t, ht⟩ := Option.isSome_iff_exists.1 h
  obtain ⟨u, hu, hg⟩ := thread?_writeG ht i.toNat w v
  rw [State.opVal, hu, Option.map_some, Option.getD_some, hg, gWords_gPut, Nat.mod_mod_of_dvd _ (Nat.pow_dvd_pow 2 (le_wordsOf hw))]

theorem gReg_writeG_one {w : Nat} (h : (s.thread? a).isSome = true) (hw : w ≤ 32) (i v : Nat) :
    gReg (s.writeG a i w v) a i = BitVec.ofNat 32 v := by
  obtain ⟨t, ht⟩ := Option.isSome_iff_exists.1 h
  obtain ⟨u, hu, hg⟩ := thread?_writeG ht i w v
  rw [gReg, hu, Option.map_some, Option.getD_some, hg, wordsOf, if_pos hw, gPut, gPut, getR_setR_self]

/-! ### Registers of a lead -/

theorem lead?_writeS {l : Lead} (h : s.lead? a = some l) (i v : Nat) :
    ∃ u, (s.writeS a i v).lead? a = some u ∧ u.s = setR l.s i (BitVec.ofNat 64 v) := by
  obtain ⟨c, x⟩ := a
  cases x with
  | thread n => cases h
  | lead p =>
    simp only [State.writeS, lead?_dropS, lead?_modLead, if_true, h, Option.map_some]
    exact ⟨_, rfl, rfl⟩

theorem sReg_writeS (h : (s.lead? a).isSome = true) (i v : Nat) : sReg (s.writeS a i v) a i = BitVec.ofNat 64 v := by
  obtain ⟨l, hl⟩ := Option.isSome_iff_exists.1 h
  obtain ⟨u, hu, hs⟩ := lead?_writeS hl i v
  rw [sReg, hu, Option.map_some, Option.getD_some, hs, getR_setR_self]

/-- A lead reads the `s` register that stands. -/
theorem readS_lead (h : (s.lead? a).isSome = true) (n : Nat) : s.readS a n = sReg s a n := by
  obtain ⟨c, x⟩ := a
  cases x with
  | thread n => cases h
  | lead p =>
    obtain ⟨l, hl⟩ := Option.isSome_iff_exists.1 h
    simp only [State.readS, sReg, hl, Option.map_some, Option.getD_some]

theorem opVal_writeS {w : Nat} (h : (s.lead? a).isSome = true) (hw : w ≤ 64) (i : BitVec 9) (v : Nat) :
    (s.writeS a i.toNat v).opVal a (.s i) w = v % 2 ^ w := by
  obtain ⟨l, hl⟩ := Option.isSome_iff_exists.1 h
  obtain ⟨u, hu, -⟩ := lead?_writeS hl i.toNat v
  rw [State.opVal, readS_lead (by rw [hu]; rfl), sReg_writeS h, BitVec.toNat_ofNat, Nat.mod_mod_of_dvd _ (Nat.pow_dvd_pow 2 hw)]

/-! ### Narrow results -/

/-- A signed value of `w` bits, extended to `m`. -/
theorem ofNat_toBits (m : Nat) (v : Int) : BitVec.ofNat m (toBits m v) = BitVec.ofInt m v := by
  apply BitVec.eq_of_toNat_eq
  rw [BitVec.toNat_ofNat, BitVec.toNat_ofInt, toBits, Nat.mod_eq_of_lt]
  have : (0 : Int) < ((2 ^ m : Nat) : Int) := Int.natCast_pos.2 (Nat.two_pow_pos m)
  have := Int.emod_nonneg v (Int.ne_of_gt this)
  have := Int.emod_lt_of_pos v ‹(0 : Int) < ((2 ^ m : Nat) : Int)›
  omega

theorem toVal_unsigned (w v : Nat) : toVal false w v = ((v % 2 ^ w : Nat) : Int) := by simp [toVal]

end

/-- Settles O54: a write read back, register by register; `zr` and `pt` by their reading. -/
theorem registerFile : Obligations.RegisterFile := by
  intro s a
  refine ⟨?_, ?_, ?_, ?_, fun w v => ⟨rfl, rfl, rfl⟩, ?_⟩
  · intro i w v hthread hw
    have hle : w ≤ 128 := by
      simp only [List.mem_cons, List.not_mem_nil, or_false] at hw
      omega
    have hwrites : Writes [a] (spanOf w (.g i)) none false s (s.putD a (.g i) w v) := Writes.putD s a (.g i) w v
    refine ⟨opVal_writeG hthread hle i v, fun n hn => hwrites.gR a n ?_, fun b hb => hwrites.sameRegs_others (by simpa using hb)⟩
    intro x hx
    rw [List.mem_singleton.1 hx]
    exact fun h => hn h.2
  · intro i w v hlead hw
    have hwrites : Writes [a] (spanOf w (.s i)) none false s (s.putD a (.s i) w v) := Writes.putD s a (.s i) w v
    refine ⟨sReg_writeS hlead _ v, opVal_writeS hlead hw i v, fun n hn => hwrites.sR a n ?_,
      fun b hb => hwrites.sameRegs_others (by simpa using hb)⟩
    intro x hx
    rw [List.mem_singleton.1 hx]
    simp only
    omega
  · intro i sg w v hthread hw
    simp only [List.mem_cons, List.not_mem_nil, or_false] at hw
    have hlt : w < 32 := by omega
    refine (gReg_writeG_one hthread (Nat.le_of_lt hlt) _ _).trans ?_
    cases sg with
    | true => rw [if_pos ⟨rfl, hlt⟩, ofNat_toBits]
    | false => rw [if_neg (by simp), toVal_unsigned, BitVec.ofInt_natCast]
  · intro i sg w v hlead hw
    refine (sReg_writeS hlead _ _).trans ?_
    cases sg with
    | true => rw [if_pos rfl, ofNat_toBits]
    | false => rw [if_neg (by simp), toVal_unsigned, BitVec.ofInt_natCast]
  · exact ⟨rfl, fun v => ⟨rfl, (Writes.quietCtx s a _ (fun c => ⟨rfl, rfl, rfl, rfl, rfl, rfl, rfl⟩)).sameRegs_quiet a⟩⟩

end Sys2Proof.Proofs
end


section
/-!
The frame of the instructions that write registers only (spec/03, spec/08; O55): each writes the registers that its D names.
-/

namespace Sys2Proof.Laws

open Sys2Proof.Machine Sys2Proof.Safety

variable {as : List Agent} {sp : List Span} {p : Option Nat} {fl : Bool} {s t : State}

/-! ### A whole group -/

/-- Writes of some of the agents are writes of them all. -/
theorem Writes.of_mem {a : Agent} (ha : a ∈ as) (h : Writes [a] sp p fl s t) : Writes as sp p fl s t :=
  h.mono (fun _ hb => List.mem_singleton.1 hb ▸ ha) (fun _ hx => hx) (.inr rfl) (by cases fl <;> simp)

/-- What a group's effect leaves as it was. -/
def GroupOut.Writes (as : List Agent) (sp : List Span) (p : Option Nat) (fl : Bool) (s : State) : GroupOut → Prop
  | .done t => Laws.Writes as sp p fl s t
  | .stay t => Laws.Writes as sp p fl s t

theorem Writes.collective {f : Agent → Form} {body : List Agent → List Agent → State → GroupOut} {all : List Agent}
    (h : ∀ present s, (∀ a ∈ present, a ∈ all) → GroupOut.Writes all sp p fl s (body present all s)) :
    Writes all sp p fl s (s.collective f body all) := by
  unfold State.collective
  split
  · exact Writes.foldl _ _ (fun s a ha => Writes.of_mem ha (Writes.raise s a _))
  have hpresent : ∀ a ∈ sortBy s.posOf (all.filter (fun a => s.guardTrue a (f a).cm.guard)), a ∈ all := fun a ha =>
    (List.mem_filter.1 ((mem_sortBy _ _ _).1 ha)).1
  revert hpresent
  generalize sortBy s.posOf (all.filter (fun a => s.guardTrue a (f a).cm.guard)) = present
  intro hpresent
  simp only
  split
  · exact Writes.foldl _ _ (fun s a ha => Writes.of_mem (hpresent a (List.mem_filter.1 ha).1) (Writes.raise s a _))
  have hbegan : Writes all sp p fl s (present.foldl (fun s a => (s.settle a (f a)).retain a (f a)) s) :=
    Writes.foldl _ _ (fun s a ha => Writes.of_mem (hpresent a ha) ((Writes.settle s a _).trans (Writes.retain _ a _)))
  refine hbegan.trans ?_
  generalize present.foldl (fun s a => (s.settle a (f a)).retain a (f a)) s = u
  have hbody := h present u hpresent
  cases hb : body present all u with
  | done t =>
    rw [hb] at hbody
    exact Writes.trans hbody (Writes.foldl _ _ (fun s a ha => Writes.of_mem ha (Writes.advance s a)))
  | stay t =>
    rw [hb] at hbody
    exact hbody

theorem mem_of_byGroup {g : List Agent} (hg : g ∈ s.byGroup as) {a : Agent} (ha : a ∈ g) : a ∈ as := by
  obtain ⟨k, -, rfl⟩ := List.mem_map.1 hg
  exact (List.mem_filter.1 ha).1

/-- A collective, group by group. -/
theorem Writes.perGroup {f : Form} {x : Issue} {body : List Agent → List Agent → State → GroupOut} (hc : s.cur = some x)
    (h : ∀ all present s, (∀ a ∈ present, a ∈ all) → GroupOut.Writes all sp p fl s (body present all s))
    (ht : Machine.perGroup (some f) body s = .next t) : Writes x.agents sp p fl s t := by
  simp only [Machine.perGroup, hc, Host.Outcome.next.injEq] at ht
  subst ht
  refine Writes.trans (Writes.foldl _ _ (fun u g hg => ?_)) (Writes.endIssue _)
  exact (Writes.collective (h g)).mono (fun a ha => mem_of_byGroup hg ha) (fun _ hx => hx) (.inr rfl) (by cases fl <;> simp)

/-- A result for each present thread of a group. -/
theorem Writes.results {d : Opnd} {w : Nat} {present : List Agent} (hpresent : ∀ a ∈ present, a ∈ as) (v : Agent → Nat) :
    Writes as (spanOf w d) p fl s ((present.map (fun x => (x, v x))).foldl (fun s y => s.putD y.1 d w y.2) s) := by
  refine Writes.foldl _ _ (fun s y hy => ?_)
  obtain ⟨a, ha, rfl⟩ := List.mem_map.1 hy
  exact Writes.of_mem (hpresent a ha) (Writes.putD s a d w _)

end Sys2Proof.Laws

namespace Sys2Proof.Proofs

open Sys2Proof.Machine Sys2Proof.Safety Sys2Proof.Laws

/-! ### What each form writes -/

/-- The registers that an operand in the D of a form that writes registers only names, and its predicate. -/
def roleSpan (r : Role) (o : Opnd) : List Span :=
  match r with
  | .dst _ w => spanOf w o
  | _ => []

def rolePred (r : Role) (o : Opnd) : Option Nat :=
  match r with
  | .predDst => some o.num
  | _ => none

/-- A lane that writes what its form's D names. -/
def LaneWrites (f : Form) (body : Agent → State → LaneOut) : Prop :=
  ∀ a s, LaneOut.Writes a (roleSpan f.d f.cm.d) (rolePred f.d f.cm.d) (raisesFlags f) s (body a s)

theorem writes_leaOut (s : State) (a : Agent) (d : Opnd) (e : Int) (p : Option Nat) (fl : Bool) :
    LaneOut.Writes a (spanOf 64 d) p fl s (leaOut a d e s) := by
  unfold leaOut
  split
  · exact Writes.putInt s a d _ _ _
  · trivial

theorem fityW_eq (ity : BitVec 2) : fityW ity = tyWn (fImmType ity.toNat) := by
  revert ity
  decide

/-- The result of an immediate floating-point form has the width of its type. -/
theorem writes_floatImm (s : State) (a : Agent) (d : Opnd) (ity : BitVec 2) (r : Nat × FFlags) (p : Option Nat) :
    Writes [a] (spanOf (fityW ity) d) p true s (s.putF a d (tyWn (fImmType ity.toNat)) r) := by
  rw [fityW_eq]
  exact Writes.putF s a d _ r

/-- The lane of an `RNGK`. -/
def rngkOut (f : RForm) (a : Agent) (s : State) : LaneOut :=
  let y := rngValue (BitVec.ofNat 64 (s.opVal a f.cm.a 64)) (BitVec.ofNat 64 (s.opVal a f.cm.b 64)) (BitVec.ofNat 32 (s.opVal a f.cm.c 32))
  if f.ty = 7 then .done (s.putD a f.cm.d 64 y.toNat)
  else .done (s.putD a f.cm.d 32 (roundFin (ffmt 9) 0 false false (y.toNat / 2 ^ 40) (-24)).1)

theorem writes_rngk (s : State) (a : Agent) (f : RForm) (p : Option Nat) (fl : Bool) :
    LaneOut.Writes a (spanOf (if f.ty == 7 then 64 else 32) f.cm.d) p fl s (rngkOut f a s) := by
  unfold rngkOut
  by_cases hty : f.ty = 7
  · rw [if_pos hty, if_pos (beq_iff_eq.2 hty)]
    exact Writes.putD s a _ _ _
  · rw [if_neg hty, if_neg (by simpa using hty)]
    exact Writes.putD s a _ _ _

/-- The result of a `VOTE`: a mask in the registers of D, or D's predicate. -/
def voteResultOut (f : RForm) (present : List Agent) (s : State) : GroupOut :=
  let a (x : Agent) : Bool := s.readP x f.cm.a.num != f.func.getLsbD 2
  let m := maskOf ((present.filter a).map s.posOf)
  .done (if fld f.func 0 2 = 3 then present.foldl (fun s x => s.putD x f.cm.d 64 m) s
    else present.foldl (fun s x => s.writeP x f.cm.d.num (voteResult (fld f.func 0 2) (present.map a))) s)

theorem exec_vote (f : RForm) (s : State) :
    exec (.vote f) s = perGroup (form (.vote f)) (fun present _ s => voteResultOut f present s) s := by
  change execVote f s = _
  unfold execVote
  congr 1
  funext present _ u
  by_cases hmode : fld f.func 0 2 = 3
  · simp only [voteResultOut, hmode, if_true]
  · simp only [voteResultOut, hmode, if_false]

section
variable {all present : List Agent} {s : State} (hp : ∀ a ∈ present, a ∈ all)
include hp

theorem writes_vote (f : RForm) (fl : Bool) :
    GroupOut.Writes all (roleSpan (if fld f.func 0 2 == 3 then .dst gO 64 else .predDst) f.cm.d)
      (rolePred (if fld f.func 0 2 == 3 then .dst gO 64 else .predDst) f.cm.d) fl s (voteResultOut f present s) := by
  unfold voteResultOut
  by_cases hmode : fld f.func 0 2 = 3
  · simp only [hmode, if_true]
    exact Writes.foldl _ _ (fun s a ha => Writes.of_mem (hp a ha) (Writes.putD s a _ _ _))
  · simp only [beq_iff_eq, hmode, if_false]
    exact Writes.foldl _ _ (fun s a ha => Writes.of_mem (hp a ha) (Writes.writeP s a _ _))

theorem writes_giveNodes (d : Opnd) (w : Nat) (v : Agent → Node) (p : Option Nat) :
    Writes all (spanOf w d) p true s (s.giveNodes d w (present.map (fun x => (x, v x)))) := by
  refine Writes.foldl _ _ (fun s y hy => ?_)
  obtain ⟨a, ha, rfl⟩ := List.mem_map.1 hy
  exact Writes.of_mem (hp a ha) ((Writes.flag s a _).trans (Writes.putD _ a d w _))

end

/-- Each instruction that writes registers only, lane by lane. -/
theorem registerOnly_lane {i : Instr} {f : Form} (hf : form i = some f) (hreg : registerOnly f = true) (hcoll : f.coll = false) :
    ∃ body, (∀ s, exec i s = perLane (some f) body s) ∧ LaneWrites f body := by
  cases i with
  | iadd g | iaddImm g | isub g | imul g | imulImm g | imulh g | imad g | imadw g | idiv g | irem g | iabs g | ineg g | imin g
  | iminImm g | imax g | imaxImm g | and g | andImm g | or g | orImm g | xor g | xorImm g | andn g | andnImm g | shl g | shlImm g
  | shr g | shrImm g | sra g | sraImm g | rot g | rotImm g | bfx g | bfi g | popc g | clz g | brev g | sel g | mov g | movi g | sread g =>
    cases hf
    exact ⟨_, fun _ => rfl, fun a s => Writes.putInt s a _ _ _ _⟩
  | fadd g | fsub g | fmul g | ffma g | fmin g | fmax g | fclass g | fdiv g | fsqrt g | rcps g | rsqs g | fexp2 g | flog2 g | frnd g
  | fscale g | fexpo g | i2f g | fcvt g =>
    cases hf
    exact ⟨_, fun _ => rfl, fun a s => Writes.putF s a _ _ _⟩
  | faddImm g | fmulImm g | ffmaImm g =>
    cases hf
    exact ⟨_, fun _ => rfl, fun a s => writes_floatImm s a _ _ _ _⟩
  | movh g =>
    cases hf
    exact ⟨_, fun _ => rfl, fun a s => Writes.putHigh s a _ _⟩
  | lea g | leaImm g =>
    cases hf
    exact ⟨_, fun _ => rfl, fun a s => writes_leaOut s a _ _ _ _⟩
  | isetp g | plog g =>
    cases hf
    exact ⟨_, fun _ => rfl, fun a s => Writes.writeP s a _ _⟩
  | fsetp g =>
    cases hf
    exact ⟨_, fun _ => rfl, fun a s => (Writes.flag s a _).trans (Writes.writeP _ a _ _)⟩
  | f2i g =>
    cases hf
    exact ⟨_, fun _ => rfl, fun a s => (Writes.flag s a _).trans (Writes.putInt _ a _ _ _ _)⟩
  | smerge g =>
    cases hf
    exact ⟨_, fun _ => rfl, fun a s => (Writes.flag s a _).trans (Writes.putD _ a _ _ _)⟩
  | call g | callx g =>
    cases hf
    exact ⟨_, fun _ => rfl, fun a s => Writes.putD s a _ _ _⟩
  | crd g | perf g =>
    cases hf
    exact ⟨_, fun _ => rfl, fun a s => Writes.putD s a _ _ _⟩
  | nop g | bra g | brx g | ret g =>
    cases hf
    exact ⟨_, fun _ => rfl, fun a s => Writes.refl s⟩
  | trap g | brk g =>
    cases hf
    exact ⟨_, fun _ => rfl, fun a s => Writes.raiseResumable s a _⟩
  | rngk g =>
    cases hf
    exact ⟨_, fun _ => rfl, fun a s => writes_rngk s a g _ _⟩
  | vote g | shfl g | matchv g | gred g | scan g | segred g | rebal g =>
    cases hf
    cases hcoll
  | _ => cases hf <;> cases hreg

/-- Each collective that writes registers only, group by group. -/
theorem registerOnly_group {i : Instr} {f : Form} (hf : form i = some f) (hreg : registerOnly f = true) (hcoll : f.coll = true) :
    ∃ body, (∀ s, exec i s = perGroup (some f) body s)
      ∧ ∀ all present s, (∀ a ∈ present, a ∈ all) →
        GroupOut.Writes all (roleSpan f.d f.cm.d) (rolePred f.d f.cm.d) (raisesFlags f) s (body present all s) := by
  cases i with
  | vote g =>
    cases hf
    exact ⟨fun present _ s => voteResultOut g present s, exec_vote g, fun all present s hp => writes_vote hp g _⟩
  | shfl g | matchv g | rebal g =>
    cases hf
    exact ⟨_, fun _ => rfl, fun all present s hp => Writes.results hp _⟩
  | gred g | scan g | segred g =>
    cases hf
    exact ⟨_, fun _ => rfl, fun all present s hp => writes_giveNodes hp _ _ _ _⟩
  | dqpop g =>
    cases hf
    cases hreg
  | _ => cases hf <;> cases hcoll

theorem registerOnly_writes {s t : State} {i : Instr} {f : Form} {x : Issue} (hf : form i = some f) (hreg : registerOnly f = true)
    (hcur : s.cur = some x) (hexec : exec i s = .next t) :
    Writes x.agents (roleSpan f.d f.cm.d) (rolePred f.d f.cm.d) (raisesFlags f) s t := by
  cases hcoll : f.coll with
  | false =>
    obtain ⟨body, hbody, hwrites⟩ := registerOnly_lane hf hreg hcoll
    exact Writes.perLane hcur hwrites ((hbody s).symm.trans hexec)
  | true =>
    obtain ⟨body, hbody, hwrites⟩ := registerOnly_group hf hreg hcoll
    exact Writes.perGroup hcur hwrites ((hbody s).symm.trans hexec)

/-- What lies outside the span of a form's D, as the issue sees it, lies outside the registers that are written. -/
theorem outside_roleSpan {e : IssueEnv} {f : Form} {r : Role} {o : Opnd} {isS : Bool} {n : Nat}
    (h : outside (e.span f r o) isS n) : outside (roleSpan r o) isS n := by
  cases r with
  | dst k w => cases o <;> exact h
  | _ => exact fun _ hx => nomatch hx

/-- Settles O55, from what each form writes. -/
theorem registerFrame : Obligations.RegisterFrame := by
  intro s t i f x hf hreg hcur hexec
  have h := registerOnly_writes hf hreg hcur hexec
  refine ⟨h.sameBytes, h.sameSpecial, h.others, fun b _ => ?_⟩
  refine ⟨fun n hn => h.gR b n (outside_roleSpan hn), fun n hn => h.sR b n (outside_roleSpan hn), fun n hn hd => ?_, h.handles b,
    h.noFlags b, h.flags b, (h.counts b).1, (h.counts b).2.1, (h.counts b).2.2.1, (h.counts b).2.2.2, h.who b⟩
  have hne : n ≠ 7 := by omega
  rw [State.readP, State.readP, if_neg hne, if_neg hne]
  refine h.preds b n hn (fun hp => hd ?_)
  cases hr : f.d with
  | predDst =>
    rw [hr] at hp
    exact ⟨rfl, (Option.some.inj hp).symm⟩
  | _ =>
    rw [hr] at hp
    cases hp

end Sys2Proof.Proofs
end


section
/-!
What an operation may change of bytes and registers (`Touches`), and the frame of an access at its issue (spec/06; O56).
-/

namespace Sys2Proof.Laws

open Sys2Proof.Machine Sys2Proof.Safety

/-! ### Bytes and registers that may change -/

/-- Physical bytes, bytes of A-stores and of C-stores, `g` and `s` registers and predicates. -/
structure Scope where
  phys : Nat → Prop := fun _ => False
  astore : Nat → Nat → Prop := fun _ _ => False
  cstore : Nat → Nat → Prop := fun _ _ => False
  g : Agent → Nat → Prop := fun _ _ => False
  s : Agent → Nat → Prop := fun _ _ => False
  p : Agent → Nat → Prop := fun _ _ => False

/-- No byte changes outside a scope, and no numbered register, predicate, handle, flag or place of any agent. -/
structure Touches (w : Scope) (s t : State) : Prop where
  phys : ∀ pa, ¬ w.phys pa → t.phys.byte pa = s.phys.byte pa
  astore : ∀ c off, ¬ w.astore c off → (t.core c).astore.byte off = (s.core c).astore.byte off
  cstore : ∀ c off, ¬ w.cstore c off → (t.core c).cstore.byte off = (s.core c).cstore.byte off
  wstore : ∀ c off, (t.core c).wstore.byte off = (s.core c).wstore.byte off
  gR : ∀ b n, ¬ w.g b n → gReg t b n = gReg s b n
  sR : ∀ b n, ¬ w.s b n → sReg t b n = sReg s b n
  preds : ∀ b n, n < 7 → ¬ w.p b n → (t.ctx b).preds.getLsbD n = (s.ctx b).preds.getLsbD n
  handles : ∀ b, (t.ctx b).handles = (s.ctx b).handles
  fstat : ∀ b, (t.ctx b).fstat = (s.ctx b).fstat
  who : ∀ b, t.level b = s.level b ∧ t.place b = s.place b ∧ t.tidOf b = s.tidOf b

variable {w : Scope} {s t u : State} {a : Agent} {as : List Agent}

theorem Touches.refl (s : State) : Touches w s s where
  phys := fun _ _ => rfl
  astore := fun _ _ _ => rfl
  cstore := fun _ _ _ => rfl
  wstore := fun _ _ => rfl
  gR := fun _ _ _ => rfl
  sR := fun _ _ _ => rfl
  preds := fun _ _ _ _ => rfl
  handles := fun _ => rfl
  fstat := fun _ => rfl
  who := fun _ => ⟨rfl, rfl, rfl⟩

theorem Touches.trans (h1 : Touches w s t) (h2 : Touches w t u) : Touches w s u where
  phys := fun pa h => (h2.phys pa h).trans (h1.phys pa h)
  astore := fun c o h => (h2.astore c o h).trans (h1.astore c o h)
  cstore := fun c o h => (h2.cstore c o h).trans (h1.cstore c o h)
  wstore := fun c o => (h2.wstore c o).trans (h1.wstore c o)
  gR := fun b n h => (h2.gR b n h).trans (h1.gR b n h)
  sR := fun b n h => (h2.sR b n h).trans (h1.sR b n h)
  preds := fun b n hn h => (h2.preds b n hn h).trans (h1.preds b n hn h)
  handles := fun b => (h2.handles b).trans (h1.handles b)
  fstat := fun b => (h2.fstat b).trans (h1.fstat b)
  who := fun b => ⟨(h2.who b).1.trans (h1.who b).1, (h2.who b).2.1.trans (h1.who b).2.1, (h2.who b).2.2.trans (h1.who b).2.2⟩

theorem Touches.foldl {α : Type} (xs : List α) (f : State → α → State) (hf : ∀ s x, x ∈ xs → Touches w s (f s x)) :
    Touches w s (xs.foldl f s) := by
  induction xs generalizing s with
  | nil => exact Touches.refl s
  | cons x xs ih => exact (hf s x List.mem_cons_self).trans (ih (fun s y hy => hf s y (List.mem_cons_of_mem _ hy)))

/-- What is written of registers lies in a scope that allows it. -/
theorem Touches.of_writes {sp : List Span} {p : Option Nat} (h : Writes as sp p false s t)
    (hg : ∀ b n, ¬ w.g b n → outside sp false n ∨ b ∉ as) (hs : ∀ b n, ¬ w.s b n → outside sp true n ∨ b ∉ as)
    (hp : ∀ b n, ¬ w.p b n → p ≠ some n ∨ b ∉ as) : Touches w s t where
  phys := fun pa _ => by rw [h.phys]
  astore := fun c o _ => (h.sameBytes.2 c o).1
  cstore := fun c o _ => (h.sameBytes.2 c o).2.1
  wstore := fun c o => (h.sameBytes.2 c o).2.2
  gR := fun b n hn => (hg b n hn).elim (h.gR b n) (fun hb => ((h.sameRegs_others hb).1 n).1)
  sR := fun b n hn => (hs b n hn).elim (h.sR b n) (fun hb => ((h.sameRegs_others hb).1 n).2)
  preds := fun b n h7 hn => (hp b n hn).elim (h.preds b n h7) (fun hb => by rw [h.ctx_others hb (·.preds) (fun _ => rfl)])
  handles := h.handles
  fstat := fun b => h.noFlags b rfl
  who := h.who

/-- What writes no register touches nothing. -/
theorem Touches.of_quiet (h : Writes as [] none false s t) : Touches w s t :=
  Touches.of_writes h (fun _ _ _ => .inl (fun _ hx => nomatch hx)) (fun _ _ _ => .inl (fun _ hx => nomatch hx))
    (fun _ _ _ => .inl (fun hx => nomatch hx))

/-- An agent that a scope names nothing of keeps its registers. -/
theorem Touches.sameRegs (h : Touches w s t) {b : Agent} (hg : ∀ n, ¬ w.g b n) (hs : ∀ n, ¬ w.s b n) (hp : ∀ n, ¬ w.p b n) :
    SameRegs s t b :=
  ⟨fun n => ⟨h.gR b n (hg n), h.sR b n (hs n)⟩, BitVec.eq_of_getLsbD_eq (fun i hi => h.preds b i hi (hp i)), h.handles b, h.fstat b,
    h.who b⟩

theorem Touches.sameBytesBut (h : Touches w s t) : SameBytesBut s t w.phys w.astore w.cstore :=
  ⟨h.phys, fun c o => ⟨h.astore c o, h.cstore c o, h.wstore c o⟩⟩

/-- What touches nothing keeps every byte and register. -/
theorem Touches.sameBytes (h : Touches {} s t) : SameBytes s t :=
  ⟨fun pa => h.phys pa id, fun c o => ⟨h.astore c o id, h.cstore c o id, h.wstore c o⟩⟩

/-- Two states with the same bytes, threads and workgroups. -/
theorem Touches.of_cores (hphys : t.phys = s.phys) (hcores : ∀ c, (t.core c).threads = (s.core c).threads ∧ (t.core c).wgs = (s.core c).wgs
    ∧ (t.core c).astore = (s.core c).astore ∧ (t.core c).cstore = (s.core c).cstore ∧ (t.core c).wstore = (s.core c).wstore) :
    Touches w s t := by
  have hthread : ∀ b, t.thread? b = s.thread? b := by
    intro b
    simp only [State.thread?, Core.thread, (hcores b.core).1]
  have hlead : ∀ b, t.lead? b = s.lead? b := by
    intro b
    simp only [State.lead?, Core.wg, (hcores b.core).2.1]
  have hctx : ∀ b, t.ctx b = s.ctx b := fun b => by rw [ctx_eq, ctx_eq, hthread, hlead]
  constructor
  case phys => exact fun pa _ => by rw [hphys]
  case astore => exact fun c o _ => by rw [(hcores c).2.2.1]
  case cstore => exact fun c o _ => by rw [(hcores c).2.2.2.1]
  case wstore => exact fun c o => by rw [(hcores c).2.2.2.2]
  case gR => exact fun b n _ => by rw [gReg, gReg, hthread]
  case sR => exact fun b n _ => by rw [sReg, sReg, hlead]
  case preds => exact fun b n _ _ => by rw [hctx]
  case handles => exact fun b => by rw [hctx]
  case fstat => exact fun b => by rw [hctx]
  case who => exact fun b => ⟨by simp only [State.level, hthread], by simp only [State.place, hthread], by simp only [State.tidOf, hthread]⟩

/-- A change of a core that keeps its threads, workgroups and stores. -/
theorem Touches.modCore (s : State) (c : Nat) (f : Core → Core) (hf : (f (s.core c)).threads = (s.core c).threads
    ∧ (f (s.core c)).wgs = (s.core c).wgs ∧ (f (s.core c)).astore = (s.core c).astore ∧ (f (s.core c)).cstore = (s.core c).cstore
    ∧ (f (s.core c)).wstore = (s.core c).wstore) : Touches w s (s.modCore c f) := by
  refine Touches.of_cores rfl (fun d => ?_)
  by_cases hd : d = c
  · subst hd
    rw [core_modCore_self]
    exact hf
  · rw [core_modCore_ne _ _ hd]
    exact ⟨rfl, rfl, rfl, rfl, rfl⟩

/-- A context after a change of one agent's: as before, or that agent's, changed. -/
theorem ctx_modCtx (s : State) (a : Agent) (f : Ctx → Ctx) (b : Agent) :
    (s.modCtx a f).ctx b = s.ctx b ∨ (b = a ∧ (s.modCtx a f).ctx b = f (s.ctx b)) := by
  obtain ⟨c, x⟩ := a
  rw [ctx_eq, ctx_eq s]
  cases x with
  | thread n =>
    simp only [State.modCtx, thread?_modThread, lead?_modThread]
    split
    · cases hb : s.thread? b with
      | none => exact .inl rfl
      | some t => exact .inr ⟨‹_›, rfl⟩
    · exact .inl rfl
  | lead n =>
    simp only [State.modCtx, thread?_modLead, lead?_modLead]
    cases s.thread? b with
    | some t => exact .inl rfl
    | none =>
      split
      · cases hb : s.lead? b with
        | none => exact .inl rfl
        | some l => exact .inr ⟨‹_›, rfl⟩
      · exact .inl rfl

/-- What a change of a context keeps of every thread and lead. -/
theorem thread?_modCtx {α : Type} (s : State) (a : Agent) (f : Ctx → Ctx) (b : Agent) (g : Thread → α)
    (hg : ∀ t c, g { t with ctx := c } = g t) : ((s.modCtx a f).thread? b).map g = (s.thread? b).map g := by
  obtain ⟨c, x⟩ := a
  cases x with
  | thread n =>
    simp only [State.modCtx, thread?_modThread]
    split
    · rw [Option.map_map]
      exact congrArg (fun k => (s.thread? b).map k) (funext (fun t => hg t _))
    · rfl
  | lead n => simp only [State.modCtx, thread?_modLead]

theorem lead?_modCtx {α : Type} (s : State) (a : Agent) (f : Ctx → Ctx) (b : Agent) (g : Lead → α)
    (hg : ∀ l c, g { l with ctx := c } = g l) : ((s.modCtx a f).lead? b).map g = (s.lead? b).map g := by
  obtain ⟨c, x⟩ := a
  cases x with
  | thread n => simp only [State.modCtx, lead?_modThread]
  | lead n =>
    simp only [State.modCtx, lead?_modLead]
    split
    · rw [Option.map_map]
      exact congrArg (fun k => (s.lead? b).map k) (funext (fun l => hg l _))
    · rfl

/-- A change of a context changes nothing of a core but its threads and workgroups. -/
theorem restOf_modCtx (s : State) (a : Agent) (f : Ctx → Ctx) (c : Nat) : restOf ((s.modCtx a f).core c) = restOf (s.core c) := by
  obtain ⟨d, x⟩ := a
  cases x with
  | thread n => exact restOf_modThread s d n c _
  | lead n => exact restOf_modLead s d n c _

theorem Touches.modCtx (s : State) (a : Agent) (f : Ctx → Ctx)
    (hf : ∀ c, (∀ n < 7, ¬ w.p a n → (f c).preds.getLsbD n = c.preds.getLsbD n) ∧ (f c).handles = c.handles ∧ (f c).fstat = c.fstat) :
    Touches w s (s.modCtx a f) := by
  have hrest : ∀ c, restOf ((s.modCtx a f).core c) = restOf (s.core c) := restOf_modCtx s a f
  constructor
  case phys => exact fun pa _ => by rw [modCtx_phys]
  case astore => exact fun c o _ => (congrArg (fun k : Core => k.astore.byte o) (hrest c) :)
  case cstore => exact fun c o _ => (congrArg (fun k : Core => k.cstore.byte o) (hrest c) :)
  case wstore => exact fun c o => (congrArg (fun k : Core => k.wstore.byte o) (hrest c) :)
  case gR => exact fun b n _ => by rw [gReg, gReg, thread?_modCtx s a f b (·.g) (fun _ _ => rfl)]
  case sR => exact fun b n _ => by rw [sReg, sReg, lead?_modCtx s a f b (·.s) (fun _ _ => rfl)]
  case preds =>
    intro b n hn hp
    rcases ctx_modCtx s a f b with h | ⟨rfl, h⟩ <;> rw [h]
    exact (hf _).1 n hn hp
  case handles =>
    intro b
    rcases ctx_modCtx s a f b with h | ⟨-, h⟩ <;> rw [h]
    exact (hf _).2.1
  case fstat =>
    intro b
    rcases ctx_modCtx s a f b with h | ⟨-, h⟩ <;> rw [h]
    exact (hf _).2.2
  case who =>
    intro b
    refine ⟨?_, ?_, ?_⟩
    · rw [State.level, State.level, thread?_modCtx s a f b (·.level) (fun _ _ => rfl)]
    · simp only [State.place, thread?_modCtx s a f b (·.wg) (fun _ _ => rfl)]
    · rw [State.tidOf, State.tidOf, thread?_modCtx s a f b (·.tid) (fun _ _ => rfl)]

/-! ### An access at its issue -/

/-- A die but for the marks of its firewalls. -/
def KeepsDie (x y : Die) : Prop :=
  y.held = x.held ∧ ∀ k, y.fwOf k = x.fwOf k ∨ y.fwOf k = { x.fwOf k with violation := true }

theorem KeepsDie.refl (x : Die) : KeepsDie x x := ⟨rfl, fun _ => .inl rfl⟩

theorem KeepsDie.trans {x y z : Die} (h1 : KeepsDie x y) (h2 : KeepsDie y z) : KeepsDie x z := by
  refine ⟨h2.1.trans h1.1, fun k => ?_⟩
  rcases h1.2 k with e1 | e1 <;> rcases h2.2 k with e2 | e2 <;> rw [e2, e1]
  · exact .inl rfl
  · exact .inr rfl
  · exact .inr rfl
  · exact .inr rfl

theorem die_modDie (s : State) (d e : Nat) (f : Die → Die) : (s.modDie d f).die e = if e = d then f (s.die d) else s.die e := by
  unfold State.die
  rw [State.modDie_dies, lookupN_putN]
  by_cases h : e = d <;> simp [h, State.die]

theorem KeepsDie.mark (x : Die) (k : Nat) : KeepsDie x { x with fw := putN x.fw k { x.fwOf k with violation := true } } := by
  refine ⟨rfl, fun j => ?_⟩
  by_cases hj : j = k
  · subst hj
    exact .inr (by simp [Die.fwOf])
  · exact .inl (by simp [Die.fwOf, lookupN_putN_ne _ _ hj])

/-- What the issue of an access by some agents may do: it leaves accesses of theirs pending and marks firewalls. -/
structure Issues (as : List Agent) (s t : State) : Prop where
  touches : Touches {} s t
  ctl : ∀ b, b ∉ as → (t.ctx b).pc = (s.ctx b).pc ∧ (t.ctx b).wait = (s.ctx b).wait
  pend : ∀ c, ∃ ps, (t.core c).pend = (s.core c).pend ++ ps ∧ ∀ p ∈ ps, p.agent ∈ as ∧ p.agent.core = c
  parts : t.parts = s.parts
  vfs : t.vfs = s.vfs
  edges : t.edges = s.edges
  grids : t.grids = s.grids
  dies : ∀ d, KeepsDie (s.die d) (t.die d)

theorem Issues.refl (s : State) : Issues as s s where
  touches := Touches.refl s
  ctl := fun _ _ => ⟨rfl, rfl⟩
  pend := fun _ => ⟨[], (List.append_nil _).symm, fun _ hp => nomatch hp⟩
  parts := rfl
  vfs := rfl
  edges := rfl
  grids := rfl
  dies := fun _ => KeepsDie.refl _

theorem Issues.trans (h1 : Issues as s t) (h2 : Issues as t u) : Issues as s u where
  touches := h1.touches.trans h2.touches
  ctl := fun b hb => ⟨(h2.ctl b hb).1.trans (h1.ctl b hb).1, (h2.ctl b hb).2.trans (h1.ctl b hb).2⟩
  pend := fun c => by
    obtain ⟨ps, hps, hown⟩ := h1.pend c
    obtain ⟨qs, hqs, hown'⟩ := h2.pend c
    refine ⟨ps ++ qs, by rw [hqs, hps, List.append_assoc], fun p hp => ?_⟩
    exact (List.mem_append.1 hp).elim (hown p) (hown' p)
  parts := h2.parts.trans h1.parts
  vfs := h2.vfs.trans h1.vfs
  edges := h2.edges.trans h1.edges
  grids := h2.grids.trans h1.grids
  dies := fun d => (h1.dies d).trans (h2.dies d)

theorem Issues.foldl {α : Type} (xs : List α) (f : State → α → State) (hf : ∀ s x, x ∈ xs → Issues as s (f s x)) :
    Issues as s (xs.foldl f s) := by
  induction xs generalizing s with
  | nil => exact Issues.refl s
  | cons x xs ih => exact (hf s x List.mem_cons_self).trans (ih (fun s y hy => hf s y (List.mem_cons_of_mem _ hy)))

theorem Issues.mono {bs : List Agent} (h : Issues as s t) (hle : ∀ a ∈ as, a ∈ bs) : Issues bs s t where
  touches := h.touches
  ctl := fun b hb => h.ctl b (fun ha => hb (hle b ha))
  pend := fun c => by
    obtain ⟨ps, hps, hown⟩ := h.pend c
    exact ⟨ps, hps, fun p hp => ⟨hle _ (hown p hp).1, (hown p hp).2⟩⟩
  parts := h.parts
  vfs := h.vfs
  edges := h.edges
  grids := h.grids
  dies := h.dies

/-- A step of an issue that leaves nothing pending. -/
theorem Issues.of_touches (h : Touches {} s t) (hctl : ∀ b, b ∉ as → (t.ctx b).pc = (s.ctx b).pc ∧ (t.ctx b).wait = (s.ctx b).wait)
    (hpend : ∀ c, (t.core c).pend = (s.core c).pend) (hparts : t.parts = s.parts ∧ t.vfs = s.vfs ∧ t.edges = s.edges ∧ t.grids = s.grids)
    (hdies : ∀ d, KeepsDie (s.die d) (t.die d)) : Issues as s t where
  touches := h
  ctl := hctl
  pend := fun c => ⟨[], by rw [hpend, List.append_nil], fun _ hp => nomatch hp⟩
  parts := hparts.1
  vfs := hparts.2.1
  edges := hparts.2.2.1
  grids := hparts.2.2.2
  dies := hdies

theorem Issues.of_writes (h : Writes as [] none false s t) : Issues as s t := by
  refine Issues.of_touches (Touches.of_quiet h) (fun b hb => ?_) (fun c => (congrArg (fun k : Core => k.pend) (h.rest c) :))
    ⟨h.parts, h.vfs, h.edges, h.grids⟩ (fun d => ?_)
  · exact ⟨h.ctx_others hb (·.pc) (fun _ => rfl), h.ctx_others hb (·.wait) (fun _ => rfl)⟩
  · rw [State.die, State.die, h.dies]
    exact KeepsDie.refl _

/-- A core's part that holds no thread, workgroup, byte or access. -/
theorem ctx_of_cores (hcores : ∀ c, (t.core c).threads = (s.core c).threads ∧ (t.core c).wgs = (s.core c).wgs) (b : Agent) :
    t.ctx b = s.ctx b := by
  have hthread : t.thread? b = s.thread? b := by simp only [State.thread?, Core.thread, (hcores b.core).1]
  have hlead : t.lead? b = s.lead? b := by simp only [State.lead?, Core.wg, (hcores b.core).2]
  rw [ctx_eq, ctx_eq, hthread, hlead]

/-- A core as an access at issue may leave it: its caches, look-aside buffers and counters may differ. -/
def SameHeld (k l : Core) : Prop :=
  l.threads = k.threads ∧ l.wgs = k.wgs ∧ l.astore = k.astore ∧ l.cstore = k.cstore ∧ l.wstore = k.wstore ∧ l.pend = k.pend

theorem SameHeld.refl (k : Core) : SameHeld k k := ⟨rfl, rfl, rfl, rfl, rfl, rfl⟩

theorem SameHeld.trans {k l m : Core} (h1 : SameHeld k l) (h2 : SameHeld l m) : SameHeld k m := by
  obtain ⟨a1, a2, a3, a4, a5, a6⟩ := h1
  obtain ⟨b1, b2, b3, b4, b5, b6⟩ := h2
  exact ⟨b1.trans a1, b2.trans a2, b3.trans a3, b4.trans a4, b5.trans a5, b6.trans a6⟩

theorem SameHeld.foldl {α : Type} (xs : List α) (f : Core → α → Core) (hf : ∀ k x, SameHeld k (f k x)) (k : Core) :
    SameHeld k (xs.foldl f k) := by
  induction xs generalizing k with
  | nil => exact SameHeld.refl k
  | cons x xs ih => exact (hf k x).trans (ih (f k x))

theorem Issues.modCore (s : State) (c : Nat) (f : Core → Core) (hf : ∀ k, SameHeld k (f k)) : Issues as s (s.modCore c f) := by
  have hcores : ∀ d, SameHeld (s.core d) ((s.modCore c f).core d) := by
    intro d
    by_cases hd : d = c
    · subst hd
      rw [core_modCore_self]
      exact hf _
    · rw [core_modCore_ne _ _ hd]
      exact SameHeld.refl _
  refine Issues.of_touches (Touches.of_cores rfl (fun d => ?_)) (fun b _ => ?_) (fun d => ?_) ⟨rfl, rfl, rfl, rfl⟩
    (fun d => KeepsDie.refl _)
  · obtain ⟨h1, h2, h3, h4, h5, -⟩ := hcores d
    exact ⟨h1, h2, h3, h4, h5⟩
  · rw [ctx_of_cores (fun d => ⟨(hcores d).1, (hcores d).2.1⟩) b]
    exact ⟨rfl, rfl⟩
  · obtain ⟨-, -, -, -, -, h6⟩ := hcores d
    exact h6

theorem Issues.perfEvent (s : State) (c ev : Nat) (vf : Option Nat) (n : Nat) : Issues as s (s.perfEvent c ev vf n) := by
  refine Issues.modCore s c _ (fun k => SameHeld.foldl _ _ (fun k i => ?_) k)
  simp only
  split
  · exact ⟨rfl, rfl, rfl, rfl, rfl, rfl⟩
  · exact SameHeld.refl k

theorem Issues.countRequests (s : State) (p : Pending) : Issues as s (s.countRequests p) := by
  unfold State.countRequests
  simp only
  split
  · split
    · exact Issues.refl s
    · exact Issues.perfEvent s _ _ _ _
  · split
    · exact (Issues.perfEvent s _ _ _ _).trans (Issues.perfEvent _ _ _ _ _)
    · exact Issues.perfEvent s _ _ _ _

/-- The access that an issue leaves pending stands behind the others. -/
theorem Issues.push (s : State) (p : Pending) (hp : p.agent ∈ as) :
    Issues as s (s.modCore p.agent.core (fun k => { k with pend := k.pend ++ [p] })) where
  touches := Touches.modCore s _ _ ⟨rfl, rfl, rfl, rfl, rfl⟩
  ctl := fun b _ => by
    rw [ctx_of_cores (s := s) (fun d => ?_) b]
    · exact ⟨rfl, rfl⟩
    · by_cases hd : d = p.agent.core
      · subst hd
        rw [core_modCore_self]
        exact ⟨rfl, rfl⟩
      · rw [core_modCore_ne _ _ hd]
        exact ⟨rfl, rfl⟩
  pend := fun c => by
    by_cases hc : c = p.agent.core
    · subst hc
      rw [core_modCore_self]
      exact ⟨[p], rfl, fun q hq => by rw [List.mem_singleton.1 hq]; exact ⟨hp, rfl⟩⟩
    · rw [core_modCore_ne _ _ hc]
      exact ⟨[], (List.append_nil _).symm, fun _ hq => nomatch hq⟩
  parts := rfl
  vfs := rfl
  edges := rfl
  grids := rfl
  dies := fun _ => KeepsDie.refl _

theorem Issues.modCtx (s : State) (ha : a ∈ as) (f : Ctx → Ctx)
    (hf : ∀ c, (f c).preds = c.preds ∧ (f c).handles = c.handles ∧ (f c).fstat = c.fstat) : Issues as s (s.modCtx a f) := by
  have hfields : (s.modCtx a f).parts = s.parts ∧ (s.modCtx a f).vfs = s.vfs ∧ (s.modCtx a f).edges = s.edges
      ∧ (s.modCtx a f).grids = s.grids ∧ (s.modCtx a f).dies = s.dies := by
    obtain ⟨c, x⟩ := a
    cases x <;> exact ⟨rfl, rfl, rfl, rfl, rfl⟩
  obtain ⟨hparts, hvfs, hedges, hgrids, hdies⟩ := hfields
  refine Issues.of_touches (Touches.modCtx s a f (fun c => ⟨fun n _ _ => by rw [(hf c).1], (hf c).2⟩)) (fun b hb => ?_)
    (fun c => (congrArg (fun k : Core => k.pend) (restOf_modCtx s a f c) :)) ⟨hparts, hvfs, hedges, hgrids⟩ (fun d => ?_)
  · rcases ctx_modCtx s a f b with h | ⟨rfl, -⟩
    · rw [h]
      exact ⟨rfl, rfl⟩
    · exact absurd ha hb
  · rw [State.die, State.die, hdies]
    exact KeepsDie.refl _

theorem Issues.countIn (s : State) (ha : a ∈ as) (k : Ctr) : Issues as s (s.countIn a k) :=
  Issues.modCtx s ha _ (fun c => by cases k <;> exact ⟨rfl, rfl, rfl⟩)

theorem pendingOf_agent (s : State) (a : Agent) (pl : Place) (n : Nat) (o sc : BitVec 3) (ca : BitVec 2) (k : PendKind) (ctr : Ctr) :
    (s.pendingOf a pl n o sc ca k ctr).agent = a := by
  unfold State.pendingOf
  simp only
  split <;> rfl

/-- An access that is left pending. -/
theorem Issues.post (s : State) (ha : a ∈ as) (pl : Place) (n : Nat) (o sc : BitVec 3) (ca : BitVec 2) (k : PendKind) (ctr : Ctr) :
    Issues as s (s.post a pl n o sc ca k ctr) := by
  have hp := pendingOf_agent s a pl n o sc ca k ctr
  have hnext : Issues as s ({ s with nextOp := s.nextOp + 1 } : State) :=
    Issues.of_writes (Writes.of_cores rfl rfl rfl rfl rfl rfl rfl ⟨rfl, rfl, rfl, rfl⟩)
  refine ((hnext.trans (Issues.countRequests _ (s.pendingOf a pl n o sc ca k ctr))).trans ?_).trans (Issues.countIn _ ha ctr)
  have hpush := Issues.push (as := as) (({ s with nextOp := s.nextOp + 1 } : State).countRequests (s.pendingOf a pl n o sc ca k ctr))
    (s.pendingOf a pl n o sc ca k ctr) (by rw [hp]; exact ha)
  rw [hp] at hpush
  exact hpush

/-- A firewall that drops a request keeps its mark (R393). -/
theorem Issues.markDrop (s : State) (ends : List (Nat × Nat)) : Issues as s (s.markDrop ends) := by
  unfold State.markDrop
  simp only
  split
  · rename_i d k _
    have hpick : Issues as s (s.pick ends.length).2 := Issues.of_writes (Writes.pick s _)
    refine hpick.trans ?_
    generalize (s.pick ends.length).2 = u
    refine Issues.of_touches (Touches.of_cores rfl (fun _ => ⟨rfl, rfl, rfl, rfl, rfl⟩)) (fun b _ => ⟨rfl, rfl⟩) (fun _ => rfl)
      ⟨rfl, rfl, rfl, rfl⟩ (fun e => ?_)
    rw [die_modDie]
    split
    · subst e
      exact KeepsDie.mark _ k
    · exact KeepsDie.refl _
  · exact Issues.refl s

theorem Issues.noteDrop (s : State) (c : Nat) (v : Via) (va : Nat) : Issues as s (s.noteDrop c v va) := by
  unfold State.noteDrop
  simp only
  split
  · split
    · exact Issues.refl s
    · exact Issues.markDrop s _
  · exact Issues.refl s

theorem Issues.fillTlb (s : State) (c : Nat) (v : Via) (va : Nat) : Issues as s (s.fillTlb c v va) := by
  unfold State.fillTlb
  split
  · split
    · exact Issues.refl s
    · split
      · exact Issues.modCore s c _ (fun _ => ⟨rfl, rfl, rfl, rfl, rfl, rfl⟩)
      · exact Issues.refl s
  · exact Issues.refl s

theorem SameHeld.l1Mark (k : Core) (pa n how : Nat) : SameHeld k (k.l1Mark pa n how) := by
  refine SameHeld.foldl _ _ (fun k i => ?_) k
  split
  · exact ⟨rfl, rfl, rfl, rfl, rfl, rfl⟩
  · exact SameHeld.refl k

theorem Issues.l1Fill (s : State) (c pa n : Nat) (fresh : Bool) (cache : Nat) : Issues as s (s.l1Fill c pa n fresh cache) := by
  refine Issues.foldl _ _ (fun s i _ => ?_)
  extract_lets sec
  split
  · exact Issues.modCore s c _ (fun _ => ⟨rfl, rfl, rfl, rfl, rfl, rfl⟩)
  · split
    · exact Issues.refl s
    · exact Issues.modCore s c _ (fun k => SameHeld.l1Mark k _ _ _)

/-! ### Lanes that issue accesses -/

/-- What a lane's effect does that issues an access. -/
def LaneOut.Issues (a : Agent) (s : State) : LaneOut → Prop
  | .done t => Laws.Issues [a] s t
  | .jump t _ => Laws.Issues [a] s t
  | .stay t => Laws.Issues [a] s t
  | .trap _ => True

theorem Issues.lane {f : Form} {body : Agent → State → LaneOut} (h : ∀ s, LaneOut.Issues a s (body a s)) :
    Issues [a] s (s.lane f body a) := by
  have hraise : ∀ s x, Issues [a] s (s.raise a x) := fun s x => Issues.of_writes (Writes.raise s a x)
  unfold State.lane
  split
  · exact hraise s _
  split
  · exact Issues.of_writes (Writes.advance s a)
  split
  · exact hraise s _
  split
  · exact hraise s _
  split
  · exact hraise s _
  have hbegan : Issues [a] s ((s.settle a f).retain a f) := Issues.of_writes ((Writes.settle s a f).trans (Writes.retain _ a f))
  have hbody := h ((s.settle a f).retain a f)
  refine hbegan.trans ?_
  simp only
  generalize (s.settle a f).retain a f = u at hbody ⊢
  cases hb : body a u with
  | done t => rw [hb] at hbody; exact hbody.trans (Issues.of_writes (Writes.advance t a))
  | jump t pc => rw [hb] at hbody; exact hbody.trans (Issues.of_writes (Writes.jumpTo t a pc))
  | stay t => rw [hb] at hbody; exact hbody
  | trap x => exact hraise u x

theorem Issues.perLane {f : Form} {x : Issue} {body : Agent → State → LaneOut} (hc : s.cur = some x)
    (h : ∀ a s, LaneOut.Issues a s (body a s)) (ht : Machine.perLane (some f) body s = .next t) : Issues x.agents s t := by
  simp only [Machine.perLane, hc, Host.Outcome.next.injEq] at ht
  subst ht
  refine Issues.trans (Issues.foldl _ _ (fun s a ha => ?_)) (Issues.of_writes (Writes.endIssue _))
  exact (Issues.lane (h a)).mono (fun b hb => List.mem_singleton.1 hb ▸ ha)

end Sys2Proof.Laws

namespace Sys2Proof.Proofs

open Sys2Proof.Machine Sys2Proof.Safety Sys2Proof.Laws

section
variable (a : Agent) (s : State)

/-- The lane of an access either traps, or leaves its access pending. -/
theorem issues_post (pl : Place) (n : Nat) (o sc : BitVec 3) (ca : BitVec 2) (k : PendKind) (ctr : Ctr) :
    LaneOut.Issues a s (.done (s.post a pl n o sc ca k ctr)) :=
  Issues.post s (List.mem_singleton.2 rfl) pl n o sc ca k ctr

theorem issues_loadOut (f : MForm) (ea : Int) : LaneOut.Issues a s (loadOut a f ea s) := by
  simp only [loadOut]
  split
  · trivial
  · exact issues_post a s _ _ _ _ _ _ _

theorem issues_storeOut (f : MForm) (ea : Int) (data : Opnd) : LaneOut.Issues a s (storeOut a f ea data s) := by
  simp only [storeOut]
  split
  · trivial
  · exact issues_post a s _ _ _ _ _ _ _

theorem issues_atomicOut (f : MForm) (n : Nat) (k : PendKind) (ctr : Ctr) : LaneOut.Issues a s (atomicOut a f n k ctr s) := by
  simp only [atomicOut]
  split
  · trivial
  · exact issues_post a s _ _ _ _ _ _ _

theorem issues_cstoreOut (f : MForm) (kind : Agent → State → PendKind) (c : Ctr) : LaneOut.Issues a s (cstoreOut f kind c a s) := by
  simp only [cstoreOut]
  split
  · trivial
  · exact issues_post a s _ _ _ _ _ _ _

theorem issues_ldgaOut (f : MForm) : LaneOut.Issues a s (ldgaOut s a f) := by
  unfold ldgaOut
  split
  · trivial
  split
  · trivial
  split
  · trivial
  split
  · trivial
  split
  · exact issues_post a s _ _ _ _ _ _ _
  · trivial

theorem issues_textAtOut (align range n : Nat) (write : Bool) (order : BitVec 3) (op : TextOp) (d : Opnd) (at_ : Nat) :
    LaneOut.Issues a s (textAtOut align range n write order op d at_ a s) := by
  unfold textAtOut
  split
  · trivial
  split
  · trivial
  split
  · trivial
  · exact issues_post a s _ _ _ _ _ _ _

/-- A lane that a walk stops marks the firewall and traps. -/
theorem issues_laneOf_error (x : Trap) : LaneOut.Issues a s (s.laneOf a (.error x)) := by
  simp only [State.laneOf]
  split
  · exact (Issues.noteDrop s _ _ _).trans (Issues.of_writes (Writes.raise _ a x))
  · trivial

theorem issues_stepOut (at_ : Nat) (slot : Option Nat) (write : Bool) (op : StepOp) (d : Opnd) :
    LaneOut.Issues a s (stepOut a at_ slot write op d s) := by
  simp only [stepOut]
  split
  · trivial
  · split
    · exact issues_post a s _ _ _ _ _ _ _
    · exact issues_laneOf_error a s _

theorem issues_sidOut (sid : Nat) (op : TextOp) (d : Opnd) : LaneOut.Issues a s (sidOut a sid op d s) := by
  simp only [sidOut]
  split
  · trivial
  · exact issues_post a s _ _ _ _ _ _ _

theorem issues_cacheOut (va : Nat) (act : State → Nat → State) (hact : ∀ pa, Issues [a] s (act s pa)) :
    LaneOut.Issues a s (s.cacheOut a va act) := by
  simp only [State.cacheOut]
  split
  · exact (hact _).trans (Issues.fillTlb _ _ _ _)
  · split
    · exact Issues.refl s
    · exact issues_laneOf_error a s _

theorem issues_prefOut (ea : Int) (act : State → Nat → State) (hact : ∀ pa, Issues [a] s (act s pa)) :
    LaneOut.Issues a s (s.prefOut a ea act) := by
  simp only [State.prefOut]
  split
  · exact Issues.refl s
  · exact issues_cacheOut a s _ _ (fun pa => (hact pa).trans (Issues.perfEvent _ _ _ _ _))

end

/-- Each instruction that issues an access, lane by lane. -/
theorem issuesAccess_lane {i : Instr} {f : Form} (hf : form i = some f) (hacc : issuesAccess f = true) :
    ∃ body, (∀ s, exec i s = perLane (some f) body s) ∧ ∀ a s, LaneOut.Issues a s (body a s) := by
  cases i with
  | ld g | lda g | ldx g | lds g =>
    cases hf
    exact ⟨_, fun _ => rfl, fun a s => issues_loadOut a s g _⟩
  | st g | sta g | stx g =>
    cases hf
    exact ⟨_, fun _ => rfl, fun a s => issues_storeOut a s g _ _⟩
  | ldcs g =>
    cases hf
    exact ⟨cstoreOut g (fun _ _ => .load g.cm.d (tySigned g.size)) .ld, fun _ => rfl, fun a s => issues_cstoreOut a s g _ _⟩
  | stcs g =>
    cases hf
    exact ⟨cstoreOut g (fun a t => .store (leBytes (sizeBytes g.size) (t.opVal a g.cm.b (8 * sizeBytes g.size)))) .st, fun _ => rfl, fun a s => issues_cstoreOut a s g _ _⟩
  | ldga g =>
    cases hf
    exact ⟨_, exec_ldga g, fun a s => issues_ldgaOut a s g⟩
  | prefL1 g =>
    cases hf
    refine ⟨_, fun _ => rfl, fun a s => issues_prefOut a s _ _ (fun pa => ?_)⟩
    split
    · exact Issues.refl s
    · exact Issues.l1Fill s _ _ _ _ _
  | prefL2 g =>
    cases hf
    exact ⟨_, fun _ => rfl, fun a s => issues_prefOut a s _ _ (fun _ => Issues.refl s)⟩
  | cctlIc g | cctlDa g =>
    cases hf
    exact ⟨_, fun _ => rfl, fun a s => Issues.modCore s _ _ (fun _ => ⟨rfl, rfl, rfl, rfl, rfl, rfl⟩)⟩
  | cctlDl g =>
    cases hf
    refine ⟨_, fun _ => rfl, fun a s => ?_⟩
    split
    · split
      · trivial
      · exact Issues.refl s
    · exact issues_cacheOut a s _ _ (fun pa => Issues.modCore s _ _ (fun _ => ⟨rfl, rfl, rfl, rfl, rfl, rfl⟩))
  | atom g | atoma g | cas g | ticket g =>
    cases hf
    exact ⟨_, fun _ => rfl, fun a s => issues_atomicOut a s g _ _ _⟩
  | cast g | slotldRd g | slotldMark g | slotldHdr g | frontOpen g | frontPass g =>
    cases hf
    exact ⟨_, fun _ => rfl, fun a s => issues_stepOut a s _ _ _ _ _⟩
  | txclose g | txstat g =>
    cases hf
    exact ⟨_, fun _ => rfl, fun a s => issues_sidOut a s _ _ _⟩
  | txtake g =>
    cases hf
    exact ⟨_, exec_txtake g, fun a s => issues_textAtOut a s _ _ _ _ _ _ _ _⟩
  | txemit g =>
    cases hf
    exact ⟨_, exec_txemit g, fun a s => issues_textAtOut a s _ _ _ _ _ _ _ _⟩
  | _ => cases hf <;> cases hacc

/-- Settles O56, from what the lanes of each form do. -/
theorem accessIssueFrame : Obligations.AccessIssueFrame := by
  intro s t i f x hf hacc hcur hexec
  obtain ⟨body, hbody, hissues⟩ := issuesAccess_lane hf hacc
  have h : Issues x.agents s t := Issues.perLane hcur hissues ((hbody s).symm.trans hexec)
  exact ⟨h.touches.sameBytes, fun b => h.touches.sameRegs (fun _ => id) (fun _ => id) (fun _ => id), h.ctl, h.pend, h.parts, h.vfs,
    h.edges, h.grids, h.dies⟩

end Sys2Proof.Proofs
end


section
/-!
Decoded words, the state after reset, the step, requests to mailboxes and the roots of trust (O51, O59, O52, O39, O49).
-/

namespace Sys2Proof.Proofs

open Sys2Proof.Machine Sys2Proof.Safety Sys2Proof.Laws

/-- Settles O51, by decoding each word. -/
theorem specWords : Obligations.SpecWords := by
  unfold Obligations.SpecWords
  exact ⟨rfl, rfl, rfl, rfl, rfl, rfl, rfl, rfl, rfl⟩

/-- Settles O59: memory lists nothing, and every register has the value that it has by default. -/
theorem resetState : Obligations.ResetState := by
  refine ⟨?_, fun _ => rfl, fun c => ⟨rfl, rfl, rfl, rfl, rfl, rfl, fun n => ⟨rfl, rfl, rfl, rfl⟩⟩,
    fun p => ⟨rfl, rfl, rfl, rfl, rfl, rfl, rfl, rfl, rfl, rfl⟩, fun k => ⟨rfl, rfl, rfl, rfl, rfl, rfl, rfl, fun q => ?_⟩,
    fun e k => ⟨rfl, rfl, rfl, rfl, rfl, rfl⟩, fun d k => ⟨rfl, rfl, rfl, rfl, rfl⟩, rfl, rfl, rfl⟩
  · unfold MemoryOk
    decide
  · have hq : (State.reset.vf k).queue q = {} := rfl
    simp only [hq]
    decide

/-! ### The step -/

section
variable {s u : State} {w : IWord}

/-- Lanes that all fetch one word fetch it together, and nothing changes. -/
theorem fetchAll_word (as : List Agent) (h : ∀ a ∈ as, u.fetch a = .word w) : u.fetchAll as = (u, as.map (·, w)) := by
  have hfold : ∀ (as : List Agent) (acc : List (Agent × IWord)), (∀ a ∈ as, u.fetch a = .word w) →
      as.foldl (fun (acc : State × List (Agent × IWord)) a =>
        match acc.1.fetch a with
        | .word w => (acc.1, acc.2 ++ [(a, w)])
        | .trap t => ((if t.code = .perm then acc.1.fetchDrop a else acc.1).raiseAt a t (acc.1.ctx a).srcPc, acc.2)
        | .absent => acc) (u, acc) = (u, acc ++ as.map (·, w)) := by
    intro as
    induction as with
    | nil => exact fun acc _ => by simp
    | cons a as ih =>
      intro acc h
      simp only [List.foldl_cons, h a List.mem_cons_self]
      rw [ih _ (fun b hb => h b (List.mem_cons_of_mem _ hb)), List.map_cons, List.append_assoc]
      rfl
  exact (hfold as [] h).trans (by rw [List.nil_append])

end

section
variable {s : State} {x : Issue} (hagenda : s.agenda = []) (hcur : s.cur = some x)
include hagenda hcur

theorem step_of_nextInstr_some {s1 : State} {i : Instr} (h : s.nextInstr x = (s1, some i)) : step s = exec i s1 := by
  simp only [step, hagenda, hcur, h]

theorem step_of_nextInstr_none {s1 : State} (h : s.nextInstr x = (s1, none)) : step s = .next s1 := by
  simp only [step, hagenda, hcur, h]

variable {u : State} {w : IWord} {as : List Agent} (hopen : s.openIssue x = some u)
  (has : x.agents.filter (fun a => (u.ctx a).wait == .run) = as)
include hopen has

theorem step_idleIssue (hnil : as = []) : step s = .next u.endIssue := by
  subst hnil
  refine step_of_nextInstr_none hagenda hcur ?_
  simp only [State.nextInstr, hopen, has, State.fetchAll, List.foldl]

theorem step_fetchTrap {a : Agent} {t : Trap} (hone : as = [a]) (hfetch : u.fetch a = .trap t) :
    step s = .next ((if t.code = .perm then u.fetchDrop a else u).raiseAt a t (u.ctx a).srcPc).endIssue := by
  subst hone
  refine step_of_nextInstr_none hagenda hcur ?_
  simp only [State.nextInstr, hopen, has, State.fetchAll, List.foldl, hfetch]

variable (hne : as ≠ []) (hfetch : ∀ a ∈ as, u.fetch a = .word w)
include hne hfetch

theorem step_undecoded {r : Reject} (hdecode : decode w = .error r) :
    step s = .next (as.foldl (fun t a => t.raise a ⟨.illEnc, 0⟩) u).endIssue := by
  obtain ⟨a, rest, rfl⟩ := List.exists_cons_of_ne_nil hne
  refine step_of_nextInstr_none hagenda hcur ?_
  simp only [State.nextInstr, hopen, has, fetchAll_word _ hfetch, List.map_cons, hdecode]
  rw [← List.map_cons (f := fun a => (a, w)), List.foldl_map]

theorem step_decoded {i : Instr} (hdecode : decode w = .ok i) (hwhole : u.wholeGroups i as ≠ []) :
    step s = exec i { u with cur := some { x with agents := u.wholeGroups i as } } := by
  obtain ⟨a, rest, rfl⟩ := List.exists_cons_of_ne_nil hne
  have hmap : List.map (fun y : Agent × IWord => y.1) ((a, w) :: rest.map (·, w)) = a :: rest := by
    simp [Function.comp_def]
  obtain ⟨b, more, hmore⟩ := List.exists_cons_of_ne_nil hwhole
  refine step_of_nextInstr_some hagenda hcur ?_
  simp only [State.nextInstr, hopen, has, fetchAll_word _ hfetch, List.map_cons, hdecode]
  rw [List.map_cons] at hmap
  rw [hmap, hmore]

theorem step_noGroup {i : Instr} (hdecode : decode w = .ok i) (hwhole : u.wholeGroups i as = []) : step s = .next u.endIssue := by
  obtain ⟨a, rest, rfl⟩ := List.exists_cons_of_ne_nil hne
  have hmap : List.map (fun y : Agent × IWord => y.1) ((a, w) :: rest.map (·, w)) = a :: rest := by
    simp [Function.comp_def]
  refine step_of_nextInstr_none hagenda hcur ?_
  simp only [State.nextInstr, hopen, has, fetchAll_word _ hfetch, List.map_cons, hdecode]
  rw [List.map_cons] at hmap
  rw [hmap, hwhole]

end

/-- A group all of whose threads issue is whole. -/
theorem wholeGroups_all {s : State} {i : Instr} {as : List Agent}
    (h : ∀ f, form i = some f → f.coll = true → ∀ a ∈ as, ∀ b ∈ s.groupMates a, b ∈ as) : s.wholeGroups i as = as := by
  unfold State.wholeGroups
  split
  · rename_i hcoll
    cases hf : form i with
    | none => rw [hf] at hcoll; cases hcoll
    | some f =>
      rw [hf] at hcoll
      refine List.filter_eq_self.2 (fun a ha => ?_)
      simpa using h f hf hcoll a ha
  · rfl

/-- Settles O52, by what stands in the agenda and in the issue in progress. -/
theorem stepRunsDecoded : Obligations.StepRunsDecoded := by
  intro s
  refine ⟨fun i rest h => by simp only [step, h], ?first, ?open_, ?second, fun t hagenda hcur h => by simp only [step, hagenda, hcur, h],
    fun hagenda hcur h => by simp only [step, hagenda, hcur, h]⟩
  case first =>
    intro x w i hagenda hcur hsecond hne hrun hdecode hgroups
    have hopen : s.openIssue x = some s := by simp only [State.openIssue, hsecond, Bool.not_false, if_true]
    have has : x.agents.filter (fun a => (s.ctx a).wait == .run) = x.agents :=
      List.filter_eq_self.2 (fun a ha => by rw [(hrun a ha).2]; rfl)
    have hwhole : s.wholeGroups i x.agents = x.agents := wholeGroups_all hgroups
    rw [step_decoded hagenda hcur hopen has hne (fun a ha => (hrun a ha).1) hdecode (by rw [hwhole]; exact hne), hwhole, ← hcur]
  case open_ =>
    intro x u hagenda hcur hopen as
    exact ⟨fun w i hne hfetch hdecode => ⟨step_decoded hagenda hcur hopen rfl hne hfetch hdecode,
        step_noGroup hagenda hcur hopen rfl hne hfetch hdecode⟩,
      fun w r hne hfetch hdecode => step_undecoded hagenda hcur hopen rfl hne hfetch hdecode,
      fun a t hone hfetch => step_fetchTrap hagenda hcur hopen rfl hone hfetch, fun hnil => step_idleIssue hagenda hcur hopen rfl hnil⟩
  case second =>
    intro x hagenda hcur hsecond hready
    refine step_of_nextInstr_none hagenda hcur ?_
    simp only [State.nextInstr, State.openIssue, hsecond, hready, Bool.not_true, Bool.false_eq_true,
      if_false]

/-! ### Requests to mailboxes -/

section
variable {s : State} {a : Agent} {r : Request} {slot : Nat} (hreq : (s.ctx a).request = some r)
  (hslot : freeN (s.core (s.mailboxOf a)).mail Config.mailSlots = some slot) (hnow : s.postsLater a = false)
include hreq hslot hnow

theorem exec_post_ends (h : ((s.flush a.core).ctx a).request ≠ some r) : exec (.resumableTrapPost a) s = .next (s.flush a.core) := by
  change execResumableTrapPost a s = _
  simp only [execResumableTrapPost, hreq, hslot, hnow, Bool.false_eq_true, if_false, h, ne_eq, not_false_eq_true, if_true]

theorem exec_post (h : ((s.flush a.core).ctx a).request = some r) : exec (.resumableTrapPost a) s = .next (
    let box := s.mailboxOf a
    let u := s.flush a.core
    let mail : Mail := { agent := a, record := u.record a r (r.seq.getD (u.ctx a).seq), code := r.code }
    let w := u.modCtx a (fun c => { c with wait := .reply r, seq := if r.seq.isSome then c.seq else c.seq + 1 })
    let x := w.modCore box (fun k => { k with mail := putN k.mail slot mail })
    (((x.publish a (some (.mail box))).notifyMail box).perfEvent box 12 (x.vfOf a) 1).enterWait a) := by
  change execResumableTrapPost a s = _
  simp only [execResumableTrapPost, hreq, hslot, hnow, Bool.false_eq_true, if_false, h, ne_eq, not_true_eq_false]

end

/-- Settles O39: a post by whether its request stands after its release, and a supervisor thread's trap. -/
theorem posts : Obligations.Posts := by
  intro s a
  refine ⟨fun r slot hreq hslot hnow => ⟨exec_post_ends hreq hslot hnow, exec_post hreq hslot hnow⟩, fun code va pc hwait => ?_,
    fun t pc hlevel => ?_⟩
  · change execSupervisorTrap a s = _
    simp only [execSupervisorTrap, hwait]
    rfl
  · simp only [State.raiseAt, hlevel]
    rfl

/-! ### The roots of trust -/

/-- A root of trust answers where its port is not 0. -/
theorem attest_eq (s : State) (edge : Nat) (f : Spdm → Spdm) :
    s.attest edge f = .next (if (s.edge edge).spdmPort = 0 then s else s.modEdge edge (fun e => { e with spdm := f e.spdm })) := by
  unfold State.attest
  split <;> rfl

/-- Settles O49, message by message. -/
theorem rootsOfTrust : Obligations.RootsOfTrust := by
  intro s edge answers
  have answered : ∀ {i : Instr} (f : Spdm → Spdm), exec i s = s.attest edge f → exec i s = answers f :=
    fun f h => h.trans (attest_eq s edge f)
  refine ⟨answered (·.say .version) rfl, answered (·.say .capabilities) rfl, fun o => answered (fun p => if o.mlDsa65 && o.mlKem768 && o.shake256 then { p with algorithms := true }.say .algorithms
      else p.say .refused) rfl,
    answered (fun p => p.say (.digests (Config.spdmBytes 0 p.sent.length))) rfl,
    answered (fun p => p.say (.certificate (Config.spdmBytes 1 p.sent.length))) rfl,
    fun nonce => answered (fun p => p.say (.challengeAuth nonce (Config.spdmBytes 2 p.sent.length))) rfl,
    fun k part vf hk => answered (fun p => p.say (.measurement k (Config.measurement k (s.measured k part vf)))) ?_,
    answered (fun p => { p with keyed := true }.say (.keyExchange (Config.spdmBytes 3 p.sent.length))) rfl,
    answered (fun p => p.say .refused) rfl, answered (fun p => { p with session := p.keyed }.say .finish) rfl,
    answered (fun p => { p with session := false, keyed := false }.say .endSession) rfl⟩
  change execGetMeasurements edge k part vf s = _
  rw [execGetMeasurements, if_pos hk]

end Sys2Proof.Proofs
end


section
/-!
The issue unit (spec/08; O40): line fetches, the bundle and the lead that issue, and aging.
-/

namespace Sys2Proof.Proofs

open Sys2Proof.Machine Sys2Proof.Safety Sys2Proof.Laws

section
variable {s : State} {core : Nat}

theorem exec_lineFetchCheck {line : DWord} {a : Agent} {pa : Nat} {rest : List (Agent × Nat)}
    (h : (s.wantsLine core line).filterMap (fun a => if (s.cachedLine a).isNone then (s.linePa a).map (a, ·) else none) = (a, pa) :: rest) :
    exec (.lineFetchCheck core line) s = .next (((((s.modCore core (fun k => k.icPut pa
      { data := (s.lineInL2 pa).1, failed := !(s.lineInL2 pa).2 })).noteSoft [(pa, 64)]).perfEvent core 6 (s.vfOf a) 1).fillTlb core (s.fetchVia a)
        line.toNat).pass 1) := by
  change execLineFetchCheck core line s = _
  simp only [execLineFetchCheck, h]

section
variable {line : DWord} {pa : Nat} {rest : List Nat}
  (h : ((s.wantsLine core line).filter (fun a => ((s.cachedLine a).map (·.failed)).getD false)).filterMap s.linePa = pa :: rest)
include h

theorem exec_lineRefetch_ok (hok : (s.lineInL2 pa).2 = true) :
    exec (.lineRefetch core line) s = .next (((s.perfEvent core 6 (((s.wantsLine core line).filter
      (fun a => ((s.cachedLine a).map (·.failed)).getD false)).head?.bind s.vfOf) 1).modCore core
        (fun k => k.icPut pa { data := (s.lineInL2 pa).1, failed := false })).pass 1) := by
  change execLineRefetch core line s = _
  simp only [execLineRefetch, h, hok, if_true]

theorem exec_lineRefetch_failed (hfailed : (s.lineInL2 pa).2 = false) :
    exec (.lineRefetch core line) s = .next ((((s.wantsLine core line).filter
      (fun a => ((s.cachedLine a).map (·.failed)).getD false)).foldl (fun t a => t.raiseAt a ⟨.eccUe, 0⟩ (t.ctx a).srcPc)
        ((s.perfEvent core 6 (((s.wantsLine core line).filter
          (fun a => ((s.cachedLine a).map (·.failed)).getD false)).head?.bind s.vfOf) 1).modCore core
            (fun k => { k with icache := delN k.icache pa }))).pass 1) := by
  change execLineRefetch core line s = _
  simp only [execLineRefetch, h, hfailed, Bool.false_eq_true, if_false]

end

section
variable {first : Agent} {rest : List Agent} (hcur : s.cur = none) (hbundle : s.bundle core = first :: rest)

/-- The state in which a bundle meets the match registers, and the threads of it that issue. -/
def bundleState (s : State) (core : Nat) : State :=
  (s.pass (if (s.core core).leadLast then 0 else 1)).modCore core (fun k => { k with leadLast := false })

def bundleGoes (s : State) (core : Nat) (first : Agent) (rest : List Agent) : List Agent :=
  let passed := (bundleState s core).passMatch (first :: rest)
  if s.atCollective first then passed.2.filter (fun a => ((bundleState s core).groupMates a).all passed.2.contains) else passed.2

include hcur hbundle

theorem exec_issueBundle_none (hgo : bundleGoes s core first rest = []) :
    exec (.issueBundle core) s = .next ((bundleState s core).passMatch (first :: rest)).1 := by
  change execIssueBundle core s = _
  simp only [bundleGoes, bundleState] at hgo
  simp only [execIssueBundle, hcur, Option.isSome_none, Bool.false_eq_true, if_false, hbundle, hgo, bundleState]

theorem exec_issueBundle_some (hgo : bundleGoes s core first rest ≠ []) :
    ∃ t, exec (.issueBundle core) s = .next t ∧ t.cur = some
      { core := core, agents := bundleGoes s core first rest, pc := (s.ctx first).pc,
        paired := ((bundleState s core).passMatch (first :: rest)).1.pairs (bundleGoes s core first rest) } := by
  obtain ⟨a, more, hmore⟩ := List.exists_cons_of_ne_nil hgo
  rw [hmore]
  simp only [bundleGoes, bundleState] at hmore
  change ∃ t, execIssueBundle core s = .next t ∧ _
  simp only [execIssueBundle, hcur, Option.isSome_none, Bool.false_eq_true, if_false, hbundle, hmore, bundleState]
  exact ⟨_, rfl, rfl⟩

end

section
variable {a : Agent} (hcur : s.cur = none) (hlead : s.nextLead core = some a)

/-- The state in which a lead meets the match registers. -/
def leadState (s : State) (core : Nat) (a : Agent) : State :=
  (s.modCore core (fun k => { k with leadTurn := (s.place a + 1) % 32, leadLast := true })).pass 1

include hcur hlead

theorem exec_leadIssue_none (hgo : ((leadState s core a).passMatch [a]).2 = []) :
    exec (.leadIssue core) s = .next ((leadState s core a).passMatch [a]).1 := by
  change execLeadIssue core s = _
  simp only [leadState] at hgo
  simp only [execLeadIssue, hcur, Option.isSome_none, Bool.false_eq_true, if_false, hlead, hgo, leadState]

theorem exec_leadIssue_some (hgo : ((leadState s core a).passMatch [a]).2 ≠ []) :
    let passed := (leadState s core a).passMatch [a]
    ∃ t, exec (.leadIssue core) s = .next t ∧ t.cur = some
      { core := core, agents := passed.2, paired := false,
        pc := (((passed.1.perfEvent core 4 (passed.1.vfOf a) 1).modCtx a (fun c => { c with noMatch := false })).ctx a).pc } := by
  intro passed
  obtain ⟨b, more, hmore⟩ := List.exists_cons_of_ne_nil hgo
  have hmore' : passed.2 = b :: more := hmore
  rw [hmore']
  simp only [leadState] at hmore
  change ∃ t, execLeadIssue core s = .next t ∧ _
  simp only [execLeadIssue, hcur, Option.isSome_none, Bool.false_eq_true, if_false, hlead, hmore]
  exact ⟨_, rfl, rfl⟩

end

theorem exec_threadAged {slot : Nat} {t : Thread} (ht : (s.core core).thread slot = some t) (hlevel : t.level = .t) (haged : t.aged = false)
    (hready : Config.agedClocks ≤ t.readyFor) :
    exec (.threadAged core slot) s = .next (s.modCore core (fun k => k.modThread slot (fun t => { t with aged := true }))) := by
  change execThreadAged core slot s = _
  simp only [execThreadAged, ht, hlevel, haged, hready, beq_self_eq_true, Bool.not_false, decide_true, Bool.and_self, if_true]

/-- The second slot of a pair opens where its threads are all ready there. -/
theorem openIssue_ready {x : Issue} (hsecond : x.second = true) (hready : x.agents.all s.ready = true) :
    s.openIssue x = some (s.perfEvent x.core 3 (x.agents.head?.bind s.vfOf) 1) := by
  simp only [State.openIssue, hsecond, hready, Bool.not_true, Bool.false_eq_true, if_false, if_true]

theorem openIssue_notReady {x : Issue} (hsecond : x.second = true) (hready : x.agents.all s.ready = false) : s.openIssue x = none := by
  simp only [State.openIssue, hsecond, hready, Bool.not_true, Bool.false_eq_true, if_false]

end

/-- Settles O40, operation by operation. -/
theorem issueUnit : Obligations.IssueUnit := by
  intro s core
  refine ⟨fun line a pa rest h => exec_lineFetchCheck h,
    fun line pa rest h => ⟨exec_lineRefetch_ok h, exec_lineRefetch_failed h⟩, ?bundle, ?lead, fun x hsecond => ?second,
    fun slot t ht hlevel haged hready => exec_threadAged ht hlevel haged hready⟩
  case bundle =>
    intro first rest hcur hbundle u passed go
    exact ⟨exec_issueBundle_none hcur hbundle, exec_issueBundle_some hcur hbundle⟩
  case lead =>
    intro a hcur hlead u passed
    exact ⟨exec_leadIssue_none hcur hlead, exec_leadIssue_some hcur hlead⟩
  case second =>
    refine ⟨openIssue_ready hsecond, fun hready => ?_⟩
    have hnone := openIssue_notReady hsecond hready
    exact ⟨hnone, by simp only [State.nextInstr, hnone]⟩

end Sys2Proof.Proofs
end


section
/-!
A launch from validation to completion (spec/09; O42), and the traps that end grids (spec/21, spec/23; O44).
-/

namespace Sys2Proof.Proofs

open Sys2Proof.Machine Sys2Proof.Safety Sys2Proof.Laws

/-! ### Validation and start -/

section
variable {s : State} {part vf queue : Nat} {e : Queued} {rest : List Queued}
  (hpending : ((s.vf (vfKey part vf)).queue queue).pending = e :: rest) (hqerr : ((s.vf (vfKey part vf)).queue queue).qerr = false)
  (hfrozen : (s.part part).frozen = false)
include hpending hqerr hfrozen

theorem exec_validate_cancelled (hcancelled : e.cancelled = true) :
    exec (.launchValidate part vf queue) s
      = .next (s.modQueue (vfKey part vf) queue (fun q => { q with ridx := q.ridx + 1, pending := rest })) := by
  change execLaunchValidate part vf queue s = _
  simp only [execLaunchValidate, hpending, hqerr, hfrozen, Bool.or_false, Bool.false_eq_true, if_false, hcancelled, if_true]

/-- What a launch ring names as its next record; an entry that does not read names none that is accepted. -/
def nextRecord (s : State) (part vf queue : Nat) : Nat :=
  ((s.vfRead part vf (((s.vf (vfKey part vf)).queue queue).entryAt ((s.vf (vfKey part vf)).queue queue).ridx.toNat) 8).map leNat).getD 1

variable (hcancelled : e.cancelled = false)
include hcancelled

theorem exec_validate_refused {c : Nat} (hrefusal : s.refusal part vf (nextRecord s part vf queue) = some c) :
    exec (.launchValidate part vf queue) s
      = .next ((s.modQueue (vfKey part vf) queue (fun q => { q with ridx := q.ridx + 1, pending := rest })).writeStatus part vf
          (((s.vf (vfKey part vf)).queue queue).entryAt ((s.vf (vfKey part vf)).queue queue).ridx.toNat) 4 c) := by
  change execLaunchValidate part vf queue s = _
  unfold nextRecord at hrefusal
  cases hread : s.vfRead part vf (((s.vf (vfKey part vf)).queue queue).entryAt ((s.vf (vfKey part vf)).queue queue).ridx.toNat) 8 with
  | none =>
    rw [hread, Option.map_none, Option.getD_none] at hrefusal
    simp only [execLaunchValidate, hpending, hqerr, hfrozen, Bool.or_false, Bool.false_eq_true, if_false, hcancelled, hread, hrefusal,
      LaunchState.num]
  | some b =>
    rw [hread, Option.map_some, Option.getD_some] at hrefusal
    simp only [execLaunchValidate, hpending, hqerr, hfrozen, Bool.or_false, Bool.false_eq_true, if_false, hcancelled, hread, hrefusal,
      LaunchState.num]

theorem exec_validate_waits (hrefusal : s.refusal part vf (nextRecord s part vf queue) = none) :
    exec (.launchValidate part vf queue) s = .next (
      let q := (s.vf (vfKey part vf)).queue queue
      let entry := q.entryAt q.ridx.toNat
      let u := s.modQueue (vfKey part vf) queue (fun q => { q with ridx := q.ridx + 1, pending := rest })
      let l := Launch.ofBytes ((s.vfRead part vf (nextRecord s part vf queue) 1024).getD [])
      let g : Grid := { part := part, vf := vf, queue := queue, index := q.ridx.toNat, entry := entry,
                        record := nextRecord s part vf queue, launch := l, accepted := e.order, ceiling := e.ceiling }
      ({ u with grids := putN u.grids u.nextGrid g, nextGrid := u.nextGrid + 1 } : State).writeStatus part vf entry 1 0) := by
  change execLaunchValidate part vf queue s = _
  unfold nextRecord at hrefusal ⊢
  cases hread : s.vfRead part vf (((s.vf (vfKey part vf)).queue queue).entryAt ((s.vf (vfKey part vf)).queue queue).ridx.toNat) 8 with
  | none =>
    rw [hread, Option.map_none, Option.getD_none] at hrefusal
    simp only [execLaunchValidate, hpending, hqerr, hfrozen, Bool.or_false, Bool.false_eq_true, if_false, hcancelled, hread, hrefusal,
      LaunchState.num, Option.map_none, Option.getD_none]
  | some b =>
    rw [hread, Option.map_some, Option.getD_some] at hrefusal
    simp only [execLaunchValidate, hpending, hqerr, hfrozen, Bool.or_false, Bool.false_eq_true, if_false, hcancelled, hread, hrefusal,
      LaunchState.num, Option.map_some, Option.getD_some]

end

section
variable {s : State} {grid : Nat} {g : Grid} (hgrid : s.grid grid = some g) (hstate : g.state = .waiting)
include hgrid hstate

theorem exec_start_noObject (hobj : g.launch.deps.any (fun d => d.kind == 2 && (s.depObject g.part g.vf d).isNone) = true) :
    exec (.launchStart grid) s = .next (s.enterState grid .refused 0x18) := by
  change execLaunchStart grid s = _
  simp only [execLaunchStart, hgrid, hstate, ne_eq, not_true_eq_false, if_false, hobj, if_true]

variable (hobj : g.launch.deps.any (fun d => d.kind == 2 && (s.depObject g.part g.vf d).isNone) = false)
  (hmet : g.launch.deps.all (s.depMet g) = true)
include hobj hmet

theorem exec_start_unbound (hbound : s.bound g.part g.vf g.launch = none) :
    exec (.launchStart grid) s = .next (s.enterState grid .refused 0x16) := by
  change execLaunchStart grid s = _
  simp only [execLaunchStart, hgrid, hstate, ne_eq, not_true_eq_false, if_false, hobj, Bool.false_eq_true, hmet, Bool.not_true, hbound]

theorem exec_start_runs {b : Bound} (hbound : s.bound g.part g.vf g.launch = some b) :
    exec (.launchStart grid) s = .next (
      let u := s.modGrid grid (fun g => { g with
        fmts := b.fmts, rules := b.rules, vols := b.vols, recs := b.recs, lease := s.nextLease, started := s.clock })
      (({ u with nextLease := u.nextLease + 1 } : State).vfWrite g.part g.vf (g.entry + 20) (leBytes 4 s.nextLease)).enterState
        grid .running 0) := by
  change execLaunchStart grid s = _
  simp only [execLaunchStart, hgrid, hstate, ne_eq, not_true_eq_false, if_false, hobj, Bool.false_eq_true, hmet, Bool.not_true, hbound]

end

/-! ### Requests for work -/

/-- The state after an `FWORK` request's answer stands in its record, where no workgroup is left or may be handed out. -/
def refusedWork (s : State) (grid : Nat) (rest : List (AgentId × Nat × DWord)) (a : Agent) (m status : Nat) : State :=
  let u := s.modGrid grid (fun g => { g with fwork := rest })
  let w := u.freeBytes 12
  w.2.storeWrite a.core (s.place a) (m + 16) (w.1 ++ leBytes 4 status)

/-- The state after workgroup `lin` is handed out to an `FWORK` request. -/
def handedWork (s : State) (grid : Nat) (l : Launch) (rest : List (AgentId × Nat × DWord)) (a : Agent) (m lin : Nat) : State :=
  let u := s.modGrid grid (fun g => { g with fwork := rest })
  (u.modGrid grid (fun g => { g with
    nextTeam := g.nextTeam + 1, handed := g.handed ++ [(lin, ((s.wg? a).map (·.lin)).getD 0)] })).storeWrite a.core (s.place a) (m + 16)
    (leBytes 4 (lin % l.gx) ++ leBytes 4 (lin / l.gx % l.gy) ++ leBytes 4 (lin / (l.gx * l.gy)) ++ leBytes 4 0)

/-- The state after the answer to an `FWORK` request stands in its record. -/
def answeredWork (s : State) (grid : Nat) (g : Grid) (rest : List (AgentId × Nat × DWord)) (a : Agent) (m : Nat) : State :=
  if g.launch.team ≠ 1 then refusedWork s grid rest a m 2
  else
    match g.remaining with
    | none => refusedWork s grid rest a m 1
    | some lin => handedWork s grid g.launch rest a m lin

/-- The arrival at the object of an `FWORK` request after its answer. -/
def workArrives (s : State) (x : State) (a : Agent) (m : Nat) (pc : DWord) : State :=
  let r : ObjRef := .store a.core (s.place a) m
  let o := x.objRead r
  if x.objHurt r then x.failAt a ⟨.eccUe, 0⟩ pc
  else if o.consistent then x.objDone a.core r (o.arrive 1).1 (o.arrive 1).2.1 else x.failAt a ⟨.barBad, 0⟩ pc

theorem next_workArrives (s x : State) (a : Agent) (m : Nat) (pc : DWord) :
    (if x.objHurt (.store a.core (s.place a) m) then Host.Outcome.next (x.failAt a ⟨.eccUe, 0⟩ pc)
      else if (x.objRead (.store a.core (s.place a) m)).consistent then
        .next (x.objDone a.core (.store a.core (s.place a) m) ((x.objRead (.store a.core (s.place a) m)).arrive 1).1
          ((x.objRead (.store a.core (s.place a) m)).arrive 1).2.1)
      else .next (x.failAt a ⟨.barBad, 0⟩ pc) : Host.Outcome State Fault Refusal) = .next (workArrives s x a m pc) := by
  unfold workArrives
  by_cases hhurt : x.objHurt (.store a.core (s.place a) m) = true
  · simp only [hhurt, if_true]
  · by_cases hsound : (x.objRead (.store a.core (s.place a) m)).consistent = true
    · simp only [hhurt, hsound, if_true, if_false, Bool.false_eq_true]
    · simp only [hhurt, hsound, if_false, Bool.false_eq_true]

section
variable {s : State} {grid : Nat} {g : Grid} {id : AgentId} {m : Nat} {pc : DWord} {rest : List (AgentId × Nat × DWord)} {a : Agent}
  (hgrid : s.grid grid = some g) (hwork : g.fwork = (id, m, pc) :: rest) (hagent : s.locate id = some a)
include hgrid hwork hagent

theorem exec_fworkServe : exec (.fworkServe grid) s = .next (workArrives s (answeredWork s grid g rest a m) a m pc) := by
  change execFworkServe grid s = _
  simp only [execFworkServe, hgrid, hwork, hagent]
  exact next_workArrives s (answeredWork s grid g rest a m) a m pc

end

theorem answeredWork_team {s : State} {grid : Nat} {g : Grid} {rest : List (AgentId × Nat × DWord)} {a : Agent} {m : Nat}
    (hteam : g.launch.team ≠ 1) : answeredWork s grid g rest a m = refusedWork s grid rest a m 2 := if_pos hteam

theorem answeredWork_none {s : State} {grid : Nat} {g : Grid} {rest : List (AgentId × Nat × DWord)} {a : Agent} {m : Nat}
    (hteam : g.launch.team = 1) (hremaining : g.remaining = none) :
    answeredWork s grid g rest a m = refusedWork s grid rest a m 1 := by
  simp only [answeredWork, hteam, ne_eq, not_true_eq_false, if_false, hremaining]

theorem answeredWork_handed {s : State} {grid : Nat} {g : Grid} {rest : List (AgentId × Nat × DWord)} {a : Agent} {m lin : Nat}
    (hteam : g.launch.team = 1) (hremaining : g.remaining = some lin) :
    answeredWork s grid g rest a m = handedWork s grid g.launch rest a m lin := by
  simp only [answeredWork, hteam, ne_eq, not_true_eq_false, if_false, hremaining]

/-- A grid all of whose workgroups are complete completes. -/
theorem exec_gridComplete {s : State} {grid : Nat} {g g' : Grid} (hgrid : s.grid grid = some g)
    (hswept : (s.sweep g.part).grid grid = some g') (hstate : g'.state = .running) (hplaced : g'.placed = []) (hskeins : g'.skeins = [])
    (hall : g'.launch.wgs ≤ g'.nextTeam * g'.launch.team) (hreports : (s.sweep g.part).reports.all (fun r => r.grid != grid) = true) :
    exec (.gridComplete grid) s = .next ((s.sweep g.part).enterState grid .complete 0) := by
  change execGridComplete grid s = _
  simp only [execGridComplete, hgrid, hswept, hstate, hplaced, hskeins, hall, hreports, beq_self_eq_true, List.isEmpty_nil, decide_true,
    Bool.and_self, if_true]

/-- Settles O42, by what each operation finds. -/
theorem launchLife : Obligations.LaunchLife := by
  intro s
  refine ⟨?validate, ?start, ?work, fun grid g g' hgrid hswept hstate hplaced hskeins hall hreports =>
    exec_gridComplete hgrid hswept hstate hplaced hskeins hall hreports⟩
  case validate =>
    intro part vf queue e rest q entry record u hpending hqerr hfrozen
    have hrecord : record = nextRecord s part vf queue := by
      simp only [record, nextRecord, entry, q]
      cases s.vfRead part vf (((s.vf (vfKey part vf)).queue queue).entryAt ((s.vf (vfKey part vf)).queue queue).ridx.toNat) 8 <;> rfl
    clear_value record
    subst hrecord
    exact ⟨exec_validate_cancelled hpending hqerr hfrozen,
      fun c hcancelled hrefusal => exec_validate_refused hpending hqerr hfrozen hcancelled hrefusal,
      fun hcancelled hrefusal => exec_validate_waits hpending hqerr hfrozen hcancelled hrefusal⟩
  case start =>
    intro grid g hgrid hstate
    exact ⟨exec_start_noObject hgrid hstate, fun hobj hmet => ⟨exec_start_unbound hgrid hstate hobj hmet,
      fun b hbound => exec_start_runs hgrid hstate hobj hmet hbound⟩⟩
  case work =>
    intro grid g id m pc rest a hgrid hwork hagent l u none_ handed answered
    have hserve := exec_fworkServe hgrid hwork hagent
    refine ⟨fun hteam => ?_, fun lin hteam hremaining => ?_, fun hteam hremaining => ?_⟩
    · rw [answeredWork_team hteam] at hserve
      exact hserve
    · rw [answeredWork_handed hteam hremaining] at hserve
      exact hserve
    · rw [answeredWork_none hteam hremaining] at hserve
      exact hserve

/-! ### Traps and the ends of grids -/

section
variable {s : State} {a : Agent} {x : Trap} {g : Nat} (hlevel : s.level a = .t) (hgrid : s.gridNo a = some g)
include hlevel hgrid

/-- A trap of a task thread or lead: it stops, and is reported. -/
theorem raise_task : s.raise a x =
    { s.modCtx a (fun c => { c with wait := if c.wait = .exited then .exited else .stopped, opBuf := none }) with
      reports := s.reports ++ [{ grid := g, code := x.code, pc := (s.ctx a).pc, core := a.core, va := x.va, since := s.clock,
                                 at_ := (s.ctx a).pc, lane := homeLaneOf a, late := s.stopBegun g }] } := by
  have hreports : (s.modCtx a (fun c => { c with wait := if c.wait = .exited then .exited else .stopped, opBuf := none })).reports
      = s.reports := by
    obtain ⟨c, y⟩ := a
    cases y <;> rfl
  simp only [State.raise, State.raiseAt, hlevel, hgrid, State.report, State.stopBegun, hreports]

theorem ctx_raise_task (b : Agent) : (s.raise a x).ctx b
    = (s.modCtx a (fun c => { c with wait := if c.wait = .exited then .exited else .stopped, opBuf := none })).ctx b := by
  rw [raise_task hlevel hgrid]
  rfl

end

/-- The context of an agent that is there, after a change of it. -/
theorem ctx_modCtx_self {s : State} {a : Agent} (h : (s.thread? a).isSome = true ∨ (s.lead? a).isSome = true) (f : Ctx → Ctx) :
    (s.modCtx a f).ctx a = f (s.ctx a) := by
  obtain ⟨c, y⟩ := a
  rw [ctx_eq, ctx_eq s]
  cases y with
  | thread n =>
    have hthread := h.resolve_right (by simp [State.lead?])
    obtain ⟨t, ht⟩ := Option.isSome_iff_exists.1 hthread
    simp only [State.modCtx, thread?_modThread, if_true, ht, Option.map_some, Option.getD_some]
  | lead p =>
    have hlead := h.resolve_left (by simp [State.thread?])
    obtain ⟨l, hl⟩ := Option.isSome_iff_exists.1 hlead
    have hthread : s.thread? { core := c, who := .lead p } = none := rfl
    simp only [State.modCtx, lead?_modLead, thread?_modLead, if_true, hl, hthread, Option.map_some, Option.map_none, Option.getD_some,
      Option.getD_none]

section
variable {s : State} {n : Nat} {r : Report} (hreport : s.reports[n]? = some r)
include hreport

theorem exec_gridEndTrap {g : Grid} (hbefore : s.trapsBefore n r = false) (hlower : s.lowerLane r = false) (hgrid : s.grid r.grid = some g) :
    (g.state.over = false →
      exec (.gridEndTrap n) s = .next (({ s with reports := s.reports.eraseIdx n } : State).endByTrap r.grid g r))
    ∧ (g.state.over = true →
      exec (.gridEndTrap n) s = .next (({ s with reports := s.reports.eraseIdx n } : State).countFurther r.grid g)) := by
  refine ⟨fun hover => ?_, fun hover => ?_⟩
  all_goals
    change execGridEndTrap n s = _
    simp only [execGridEndTrap, hreport, hbefore, hlower, Bool.or_self, Bool.false_eq_true, if_false, hgrid, hover, if_true]

/-- A trap of the same issue on a lower home lane goes before. -/
theorem trapsBefore_lower {q : Report} {x y : Nat} (hmem : q ∈ s.reports) (hissue : q.sameIssue r = true) (hx : q.lane = some x)
    (hy : r.lane = some y) (hlt : x < y) : exec (.gridEndTrap n) s = .refused (.notEnabled "GRID_END_TRAP") := by
  have hbefore : s.trapsBefore n r = true := by
    rw [State.trapsBefore, Bool.or_eq_true]
    refine .inl (List.any_eq_true.2 ⟨q, hmem, ?_⟩)
    simp only [hissue, Report.after, hx, hy, hlt, decide_true, Bool.and_self]
  change execGridEndTrap n s = _
  simp only [execGridEndTrap, hreport, hbefore, Bool.true_or, if_true]

end

/-- Settles O44: the report of a trap, the end of its grid, and the order of the traps of an issue. -/
theorem gridEnds : Obligations.GridEnds := by
  refine ⟨?raised, ?ends, ?order⟩
  case raised =>
    intro s a x g hlevel hgrid
    have hwrites : Writes [a] [] none false s (s.raise a x) := Writes.raise s a x
    refine ⟨?_, hwrites.sameBytes, hwrites.sameSpecial, hwrites.sameRegs_quiet, fun b hb => ?_, fun hthere hwait => ?_⟩
    · rw [raise_task hlevel hgrid]
    · rw [ctx_raise_task hlevel hgrid]
      exact (ctx_modCtx s a _ b).resolve_right (fun h => hb h.1)
    · rw [ctx_raise_task hlevel hgrid, ctx_modCtx_self hthere]
      exact if_neg hwait
  case ends =>
    intro s n r g hreport hbefore hlower hgrid u key ix
    exact exec_gridEndTrap hreport hbefore hlower hgrid
  case order =>
    intro s n r q x y hreport hmem hgrid hcore hat hsince hx hy hlt
    exact trapsBefore_lower hreport hmem (by simp [Report.sameIssue, hgrid, hcore, hat, hsince]) hx hy hlt

end Sys2Proof.Proofs
end


section
/-!
Placement, seasons, save and restore of teams (spec/09; O43).
-/

namespace Sys2Proof.Proofs

open Sys2Proof.Machine Sys2Proof.Safety Sys2Proof.Laws

/-! ### Placement and restoration -/

section
variable {s : State} {grid team core : Nat} {g g0 : Grid} (hgrid : s.grid grid = some g0) (hswept : (s.sweep g0.part).grid grid = some g)

/-- The clusters on which `n` teams of a cooperative grid go, the named one first. -/
def clusterOrder (u : State) (grid team core : Nat) (g : Grid) (n : Nat) : List Nat :=
  (core :: (u.clusters grid g team).filter (· != core)).take n

section
variable (hfree : ((s.sweep g0.part).clusters grid g team).contains core = true)
include hgrid hswept hfree

theorem exec_teamPlace (hwaiting : (g.waitingTeams grid).contains { grid := grid, team := team, saved := false, since := g.started } = true)
    (hplaceable : (s.sweep g0.part).placeable { grid := grid, team := team, saved := false, since := g.started } = true)
    (hfirst : (s.sweep g0.part).firstToPlace g.part { grid := grid, team := team, saved := false, since := g.started } = true) :
    exec (.teamPlace grid team core) s = .next (if g.launch.coop then
      (clusterOrder (s.sweep g0.part) grid team core g g.clustersNeeded).zipIdx.foldl (fun t x => t.putTeam grid g x.2 x.1) (s.sweep g0.part)
      else (s.sweep g0.part).putTeam grid g team core) := by
  change execTeamPlace grid team core s = _
  simp only [execTeamPlace, hgrid, hswept, hwaiting, hfree, hplaceable, hfirst, Bool.not_true, Bool.or_self, Bool.false_eq_true, if_false]
  exact (apply_ite Host.Outcome.next _ _ _).symm

/-- What comes back at a restoration: every team of a cooperative grid, or the named one. -/
def comingBack (g : Grid) (team : Nat) (k : Skein) : List (Nat × Skein) := if g.launch.coop then g.skeins else [(team, k)]

/-- The state of a restoration that finds a skein damaged: it is gone, and the grid has a trap. -/
def skeinBroken (u : State) (grid core : Nat) : State :=
  (u.modGrid grid (fun g => { g with skeins := g.skeins.filter (fun x => x.2.intact) })).report (some grid) ⟨.eccUe, 0⟩ 0 core

variable {k : Skein} (hskein : lookupN g.skeins team = some k) (hrunning : g.state = .running) (hcoop : g.launch.coop = true → g.placed = [])
  (hplaceable : (s.sweep g0.part).placeable { grid := grid, team := team, saved := true, since := k.savedAt } = true)
  (hfirst : (s.sweep g0.part).firstToPlace g.part { grid := grid, team := team, saved := true, since := k.savedAt } = true)
include hskein hrunning hcoop hplaceable hfirst

theorem exec_teamRestore : exec (.teamRestore grid team core) s = .next (
    if (comingBack g team k).any (fun x => !x.2.intact) then skeinBroken (s.sweep g0.part) grid core
    else ((comingBack g team k).zip (clusterOrder (s.sweep g0.part) grid team core g (comingBack g team k).length)).foldl
      (fun t x => t.restoreTeam grid g x.1.1 x.2 x.1.2) (s.sweep g0.part)) := by
  have hapart : (g.launch.coop && !g.placed.isEmpty) = false := by
    cases hc : g.launch.coop with
    | false => rfl
    | true => rw [hcoop hc]; rfl
  have hgo : (decide (g.state ≠ .running) || (g.launch.coop && !g.placed.isEmpty) || !((s.sweep g0.part).clusters grid g team).contains core
      || !(s.sweep g0.part).placeable { grid := grid, team := team, saved := true, since := k.savedAt }
      || !(s.sweep g0.part).firstToPlace g.part { grid := grid, team := team, saved := true, since := k.savedAt }) = false := by
    rw [hapart, hfree, hplaceable, hfirst, hrunning]
    rfl
  change execTeamRestore grid team core s = _
  simp only [execTeamRestore, hgrid, hswept, Option.bind_some, hskein, Option.map_some]
  rw [if_neg (by simpa using hgo)]
  exact (apply_ite Host.Outcome.next _ _ _).symm

theorem exec_teamRestore_broken (hbroken : (comingBack g team k).any (fun x => !x.2.intact) = true) :
    exec (.teamRestore grid team core) s = .next (skeinBroken (s.sweep g0.part) grid core) := by
  rw [exec_teamRestore hgrid hswept hfree hskein hrunning hcoop hplaceable hfirst, if_pos hbroken]

theorem exec_teamRestore_intact (hintact : (comingBack g team k).any (fun x => !x.2.intact) = false) :
    exec (.teamRestore grid team core) s
      = .next (((comingBack g team k).zip (clusterOrder (s.sweep g0.part) grid team core g (comingBack g team k).length)).foldl
          (fun t x => t.restoreTeam grid g x.1.1 x.2 x.1.2) (s.sweep g0.part)) := by
  rw [exec_teamRestore hgrid hswept hfree hskein hrunning hcoop hplaceable hfirst, if_neg (by rw [hintact]; decide)]

end

theorem comingBack_one {g : Grid} {team : Nat} {k : Skein} (hcoop : g.launch.coop = false) : comingBack g team k = [(team, k)] :=
  if_neg (by rw [hcoop]; decide)

theorem comingBack_all {g : Grid} {team : Nat} {k : Skein} (hcoop : g.launch.coop = true) : comingBack g team k = g.skeins := if_pos hcoop

/-- One team comes back on the cluster that is named. -/
theorem restore_one (u : State) (grid team core : Nat) (g : Grid) (k : Skein) :
    ([(team, k)].zip (clusterOrder u grid team core g [(team, k)].length)).foldl (fun t x => t.restoreTeam grid g x.1.1 x.2 x.1.2) u
      = u.restoreTeam grid g team core k := by
  simp only [clusterOrder, List.length_cons, List.length_nil, Nat.zero_add, List.take_succ_cons, List.take_zero, List.zip_cons_cons,
    List.zip_nil_right, List.foldl_cons, List.foldl_nil]

end

/-! ### Seasons, stops, saves -/

section
variable {s : State} {grid team : Nat} {g : Grid} {p : Placed} (hgrid : s.grid grid = some g) (hplaced : lookupN g.placed team = some p)
include hgrid hplaced

theorem placed_of_grid : (s.grid grid).bind (fun g => (lookupN g.placed team).map (fun p => (g, p))) = some (g, p) := by
  rw [hgrid, Option.bind_some, hplaced, Option.map_some]

/-- The team for which one whose season is over makes room, and the cores that it claims. -/
def seasonClaim (s : State) (grid team : Nat) (g : Grid) (p : Placed) : Option (Waiting × List Nat) :=
  (sortBy (fun w => (7 - s.rotationPriority g.part w) * 2 ^ 128 + w.since) ((s.waitingTeams g.part).filter (fun w =>
    decide (w.since ≤ s.lastEnd g p ∧ g.priority ≤ s.rotationPriority g.part w)
      && (w.grid != grid || w.team != team)))).findSome? (fun w =>
    (s.claims (fun _ x q => s.seasonOver x q && decide (x.priority ≤ s.rotationPriority g.part w)) w p.core
      g.launch.team).map (w, ·))

theorem exec_seasonEnd_stops (hover : s.seasonOver g p = true) {w : Waiting} {c : List Nat} (hclaim : seasonClaim s grid team g p = some (w, c)) :
    exec (.seasonEnd grid team) s = .next (s.askStop grid g team w c) := by
  change execSeasonEnd grid team s = _
  unfold seasonClaim at hclaim
  simp only [execSeasonEnd, placed_of_grid hgrid hplaced, hover, Bool.not_true, Bool.false_eq_true, if_false]
  rw [hclaim]

theorem exec_seasonEnd_stays (hover : s.seasonOver g p = true) (hclaim : seasonClaim s grid team g p = none) :
    exec (.seasonEnd grid team) s = .next (s.modGrid grid (fun g => { g with
      placed := modN g.placed team (fun p => { p with yielded := false, stayed := max p.stayed (s.lastEnd g p) }) })) := by
  change execSeasonEnd grid team s = _
  unfold seasonClaim at hclaim
  simp only [execSeasonEnd, placed_of_grid hgrid hplaced, hover, Bool.not_true, Bool.false_eq_true, if_false]
  rw [hclaim]

theorem exec_preempt {w : Waiting} {c : List Nat} (hstopping : p.stopping = none)
    (hclaim : (sortBy (fun w => s.orderKey g.part (s.rotationPriority g.part w) w) ((s.waitingTeams g.part).filter (fun w =>
      decide (g.priority < s.rotationPriority g.part w) && !s.placeable w))).findSome? (fun w =>
        (s.claims (fun _ x _ => decide (x.priority < s.rotationPriority g.part w)) w p.core g.launch.team).map (w, ·)) = some (w, c)) :
    exec (.preempt grid team) s = .next (s.askStop grid g team w c) := by
  change execPreempt grid team s = _
  simp only [execPreempt, placed_of_grid hgrid hplaced, hstopping, Option.isSome_none, Bool.false_eq_true, if_false]
  rw [hclaim]

section
variable {t : Nat} (hstopping : p.stopping = some t)
include hstopping

theorem exec_reconvergenceTimeout (hruns : s.teamStopped p = false) (hlate : t + (s.part g.part).rctmo.toNat ≤ s.clock) :
    exec (.reconvergenceTimeout grid team) s = .next (s.modGrid grid (fun g => { g with
      placed := modN g.placed team (fun p => { p with forced := true, draining := some s.clock }) })) := by
  change execReconvergenceTimeout grid team s = _
  simp only [execReconvergenceTimeout, placed_of_grid hgrid hplaced, hstopping, hruns, hlate, Bool.not_false, decide_true, Bool.and_self,
    if_true]

variable (hstopped : s.teamStopped p = true) (hcopies : s.copiesRun p = true)
include hstopped hcopies

theorem exec_copySuspend_begins (hdraining : p.draining = none) : exec (.copySuspend grid team) s = .next (s.modGrid grid (fun g =>
    { g with placed := modN g.placed team (fun p => { p with draining := some s.clock }) })) := by
  change execCopySuspend grid team s = _
  simp only [execCopySuspend, hgrid, Option.bind_some, hplaced, hstopping, Option.isNone_some, hstopped, hcopies, Bool.not_true,
    Bool.or_self, Bool.false_eq_true, if_false, hdraining]

theorem exec_copySuspend_ends {d : Nat} (hdraining : p.draining = some d) (hover : d + Config.copyDrainClocks ≤ s.clock) :
    exec (.copySuspend grid team) s = .next (s.suspendCopies p) := by
  change execCopySuspend grid team s = _
  simp only [execCopySuspend, hgrid, Option.bind_some, hplaced, hstopping, Option.isNone_some, hstopped, hcopies, Bool.not_true,
    Bool.or_self, Bool.false_eq_true, if_false, hdraining, hover, if_true]

end

theorem exec_teamSave (hcur : s.cur = none) (hready : ∀ t ∈ g.stopsWith team, ∃ q, lookupN g.placed t = some q ∧ q.stopping.isSome = true
      ∧ s.teamStopped q = true ∧ s.copiesRun q = false) :
    exec (.teamSave grid team) s = .next ((g.stopsWith team).foldl (fun u t => u.saveTeam grid t)
      (s.quietTeams grid ((g.stopsWith team).filterMap (lookupN g.placed)))) := by
  change execTeamSave grid team s = _
  simp only [execTeamSave, hgrid, Option.bind_some, hplaced, Option.map_some, hcur, Option.isNone_none, Bool.true_and]
  refine if_pos (List.all_eq_true.2 (fun t ht => ?_))
  obtain ⟨q, hq, hstop, hstopped, hcopies⟩ := hready t ht
  simp only [hq, hstop, hstopped, hcopies, Bool.not_false, Bool.and_self]

end

section
variable {s : State} {grid : Nat} {g : Grid} (hgrid : s.grid grid = some g)
include hgrid

theorem exec_coopWait (hcoop : g.launch.coop = true) (hrunning : g.state = .running) (hsmall : (s.part g.part).cores < g.launch.wgs) :
    exec (.coopWait grid) s = .next ((s.saveAll (fun i _ => i == grid)).enterState grid .coopWait TrapCode.coopWait.num) := by
  change execCoopWait grid s = _
  simp only [execCoopWait, hgrid, hcoop, hrunning, hsmall, beq_self_eq_true, decide_true, Bool.and_self, if_true]

theorem exec_coopResume (hwaits : g.state = .coopWait) (hlarge : g.launch.wgs ≤ (s.part g.part).cores) :
    exec (.coopResume grid) s = .next (s.enterState grid .running 0) := by
  change execCoopResume grid s = _
  simp only [execCoopResume, hgrid, hwaits, hlarge, beq_self_eq_true, decide_true, Bool.and_self, if_true]

end

/-- Settles O43, operation by operation. -/
theorem teams : Obligations.Teams := by
  intro s grid team core g
  refine ⟨?place, ?stops, fun region owner h => ?region, fun hgrid hcoop hrunning hsmall => exec_coopWait hgrid hcoop hrunning hsmall,
    fun hgrid hwaits hlarge => exec_coopResume hgrid hwaits hlarge⟩
  case place =>
    intro g0 hgrid hswept u fresh order hfree
    constructor
    · intro hwaiting hplaceable hfirst
      have hplace := exec_teamPlace hgrid hswept hfree hwaiting hplaceable hfirst
      exact ⟨fun hcoop => by rw [hplace, hcoop]; rfl, fun hcoop => by rw [hplace, hcoop]; rfl⟩
    · intro k hskein saved broken hrunning hplaceable hfirst
      refine ⟨fun hcoop => ?_, fun hcoop hplaced => ?_⟩
      · have hapart : g.launch.coop = true → g.placed = [] := fun hc => absurd (hcoop.symm.trans hc) (by decide)
        have hone : comingBack g team k = [(team, k)] := comingBack_one hcoop
        refine ⟨fun hintact => ?_, fun hbroken => ?_⟩
        · have hrestore := exec_teamRestore_intact hgrid hswept hfree hskein hrunning hapart hplaceable hfirst
            (by rw [hone]; simp [hintact])
          rw [hone, restore_one] at hrestore
          exact hrestore
        · exact exec_teamRestore_broken hgrid hswept hfree hskein hrunning hapart hplaceable hfirst (by rw [hone]; simp [hbroken])
      · have hall : comingBack g team k = g.skeins := comingBack_all hcoop
        refine ⟨fun hintact => ?_, fun hbroken => ?_⟩
        · have hrestore := exec_teamRestore_intact hgrid hswept hfree hskein hrunning (fun _ => hplaced) hplaceable hfirst
            (by rw [hall]; simpa using hintact)
          rw [hall] at hrestore
          exact hrestore
        · exact exec_teamRestore_broken hgrid hswept hfree hskein hrunning (fun _ => hplaced) hplaceable hfirst (by rw [hall]; exact hbroken)
  case stops =>
    intro p hgrid hplaced
    refine ⟨fun hover => ⟨fun w c hclaim => exec_seasonEnd_stops hgrid hplaced hover hclaim,
        fun hclaim => exec_seasonEnd_stays hgrid hplaced hover hclaim⟩,
      fun w c hstopping hclaim => exec_preempt hgrid hplaced hstopping hclaim, fun t hstopping => ?_,
      fun hcur hready => exec_teamSave hgrid hplaced hcur hready⟩
    exact ⟨exec_reconvergenceTimeout hgrid hplaced hstopping, fun hstopped hcopies =>
      ⟨exec_copySuspend_begins hgrid hplaced hstopping hstopped hcopies,
        fun d hdraining hover => exec_copySuspend_ends hgrid hplaced hstopping hstopped hcopies hdraining hover⟩⟩
  case region =>
    change execWstoreRegionSave core region s = _
    rw [execWstoreRegionSave, h]
    rfl

end Sys2Proof.Proofs
end


section
/-!
Doorbells, queue resets, cancels and register writes (spec/09, spec/20, spec/23; O41), and what then reads.
-/

namespace Sys2Proof.Proofs

open Sys2Proof.Machine Sys2Proof.Safety Sys2Proof.Laws

/-! ### Parts after a change of them -/

theorem vf_modVf (s : State) (k : Nat) (f : Vf → Vf) : (s.modVf k f).vf k = f (s.vf k) := by
  simp only [State.vf, State.modVf_vfs, lookupN_putN_self, Option.getD_some]

theorem queue_modQueue (s : State) (k q : Nat) (f : Queue → Queue) : ((s.modQueue k q f).vf k).queue q = f ((s.vf k).queue q) := by
  rw [State.modQueue, vf_modVf]
  simp only [Vf.queue, lookupN_putN_self, Option.getD_some]

theorem edge_modEdge (s : State) (e : Nat) (f : Edge → Edge) : (s.modEdge e f).edge e = f (s.edge e) := by
  simp only [State.edge, State.modEdge_edges, lookupN_putN_self, Option.getD_some]

theorem txOf_modTx (s : State) (e k : Nat) (f : TxRegs → TxRegs) : ((s.modTx e k f).edge e).txOf k = f ((s.edge e).txOf k) := by
  rw [State.modTx, edge_modEdge]
  simp only [Edge.txOf, lookupN_putN_self, Option.getD_some]

theorem part_modPart (s : State) (p : Nat) (f : Part → Part) : (s.modPart p f).part p = f (s.part p) := by
  simp only [State.part, State.modPart_parts, lookupN_putN_self, Option.getD_some]

/-! ### Operations on a queue -/

section
variable {s : State} {part vf queue : Nat} (hvf : s.hasVf part vf = true) (hqueue : queue < 64)

section
include hvf hqueue

theorem exec_doorbell (x : Word) : exec (.doorbell part vf queue x) s
    = .next (if (s.vf (vfKey part vf)).resetting then s else s.doorbell part vf queue x) := by
  change execDoorbell part vf queue x s = _
  simp only [execDoorbell, hvf, Bool.not_true, Bool.false_or, decide_eq_true_eq, Nat.not_le.2 hqueue, if_false]
  exact (apply_ite Host.Outcome.next _ _ _).symm

theorem exec_lqReset {v : Word} (hv : v.getLsbD 8 = true) : exec (.lqReset part vf queue v) s
    = .next (if (s.vf (vfKey part vf)).resetting then s else s.resetQueue part vf queue v) := by
  change execLqReset part vf queue v s = _
  simp only [execLqReset, hvf, hv, Bool.not_true, Bool.false_or, decide_eq_true_eq, Nat.not_le.2 hqueue, if_false]
  exact (apply_ite Host.Outcome.next _ _ _).symm

theorem exec_lqCancel (index : Word) : exec (.lqCancel part vf queue index) s
    = .next (if (s.vf (vfKey part vf)).resetting then s else s.cancelAt part vf queue index) := by
  change execLqCancel part vf queue index s = _
  simp only [execLqCancel, hvf, Bool.not_true, Bool.false_or, decide_eq_true_eq, Nat.not_le.2 hqueue, if_false]
  exact (apply_ite Host.Outcome.next _ _ _).symm

end

include hvf in
theorem exec_registerWrite_tenant {r : RegName} (hr : regExists r = true) (htenant : regTenant r = some (part, vf)) (v : DWord) :
    exec (.registerWrite r v) s = .next (if (s.vf (vfKey part vf)).resetting then s else s.writeReg r v) := by
  change execRegisterWrite r v s = _
  simp only [execRegisterWrite, hr, htenant, hvf, Bool.not_true, Bool.false_eq_true, if_false]
  exact (apply_ite Host.Outcome.next _ _ _).symm

theorem exec_registerWrite_module {r : RegName} (hr : regExists r = true) (htenant : regTenant r = none) (v : DWord) :
    exec (.registerWrite r v) s = .next (s.writeReg r v) := by
  change execRegisterWrite r v s = _
  simp only [execRegisterWrite, hr, htenant, Bool.not_true, Bool.false_eq_true, if_false]

/-! ### Doorbells -/

theorem doorbell_frozen (hfrozen : (s.part part).frozen = true) (x : Word) :
    s.doorbell part vf queue x = s.modPart part (fun p => { p with held := p.held ++ [(vf, queue, x)] }) := if_pos hfrozen

section
variable (hfrozen : (s.part part).frozen = false)
include hfrozen

theorem doorbell_runs (x : Word) : s.doorbell part vf queue x = s.ring part vf queue x := if_neg (by rw [hfrozen]; decide)

theorem doorbell_off (h : ((s.vf (vfKey part vf)).queue queue).enable = false ∨ ((s.vf (vfKey part vf)).queue queue).qerr = true) (x : Word) :
    s.doorbell part vf queue x = s := by
  rw [doorbell_runs hfrozen]
  rcases h with h | h <;> simp only [State.ring, h, Bool.not_false, Bool.true_or, Bool.or_true, if_true]

variable (henable : ((s.vf (vfKey part vf)).queue queue).enable = true) (hqerr : ((s.vf (vfKey part vf)).queue queue).qerr = false)
  {x : Word}
include henable hqerr

theorem doorbell_stops {c : Nat} (hcause : s.ringCause part vf ((s.vf (vfKey part vf)).queue queue) x = some c) :
    s.doorbell part vf queue x = s.stopQueue part vf queue c := by
  rw [doorbell_runs hfrozen]
  simp only [State.ring, henable, hqerr, Bool.not_true, Bool.or_self, Bool.false_eq_true, if_false, hcause]

theorem doorbell_accepts (hcause : s.ringCause part vf ((s.vf (vfKey part vf)).queue queue) x = none) :
    s.doorbell part vf queue x = if x = ((s.vf (vfKey part vf)).queue queue).widx then s else s.acceptEntries part vf queue x := by
  rw [doorbell_runs hfrozen]
  simp only [State.ring, henable, hqerr, Bool.not_true, Bool.or_self, Bool.false_eq_true, if_false, hcause]

end

/-! ### Cancels -/

theorem cancelAt_pending {index : Word}
    (h : (index - ((s.vf (vfKey part vf)).queue queue).ridx).toNat < ((s.vf (vfKey part vf)).queue queue).pending.length) :
    s.cancelAt part vf queue index = (s.modQueue (vfKey part vf) queue (fun q => { q with
      pending := modAt (fun e => { e with cancelled := true }) q.pending
        (index - ((s.vf (vfKey part vf)).queue queue).ridx).toNat })).writeStatus part vf
          (((s.vf (vfKey part vf)).queue queue).entryAt index.toNat) 5 0 := if_pos h

theorem cancelAt_taken {index : Word} {g : Nat × Grid}
    (h : ((s.vf (vfKey part vf)).queue queue).pending.length ≤ (index - ((s.vf (vfKey part vf)).queue queue).ridx).toNat)
    (hgrid : (s.grids.filter (fun g => g.2.part == part && g.2.vf == vf && g.2.queue == queue && g.2.index == index.toNat
      && !g.2.state.over)).getLast? = some g) : s.cancelAt part vf queue index = s.endGrid g.1 .cancelled 0 := by
  simp only [State.cancelAt, Nat.not_lt.2 h, if_false, hgrid]

end

/-! ### What a register reads after a write -/

/-- A control value and its low word name one priority and one enable bit. -/
theorem resetQueue_setWidth (s : State) (part vf queue : Nat) (v : DWord) :
    s.resetQueue part vf queue (v.setWidth 32) = s.modQueue (vfKey part vf) queue (fun q => { q with
      qerr := false, cause := 0, widx := 0, ridx := 0, pending := [], priority := v.extractLsb' 4 3, enable := v.getLsbD 0 }) := by
  have hpriority : (v.setWidth 32).extractLsb' 4 3 = v.extractLsb' 4 3 := by
    apply BitVec.eq_of_getLsbD_eq
    intro i hi
    simp only [BitVec.getLsbD_extractLsb', BitVec.getLsbD_setWidth, hi, decide_true, Bool.true_and]
    rw [decide_eq_true (by omega), Bool.true_and]
  have henable : (v.setWidth 32).getLsbD 0 = v.getLsbD 0 := by simp
  rw [State.resetQueue, hpriority, henable]

theorem toNat_extract_fld {w : Nat} (v : BitVec w) (lo len : Nat) : (v.extractLsb' lo len).toNat = fld v lo len := by
  rw [BitVec.extractLsb'_toNat, fld, Nat.shiftRight_eq_div_pow]

theorem toNat_getLsbD_zero {w : Nat} (v : BitVec w) : (v.getLsbD 0).toNat = fld v 0 1 := by
  rw [fld, Nat.pow_zero, Nat.div_one, Nat.pow_one, BitVec.getLsbD, Nat.testBit_zero]
  rcases Nat.mod_two_eq_zero_or_one v.toNat with h | h <;> rw [h] <;> rfl

section
variable {s : State} {part vf queue : Nat} (hqueue : queue < 64)

section
include hqueue

theorem vfWindow_base (t : State) : t.vfWindow part vf (64 * queue) = ((t.vf (vfKey part vf)).queue queue).base := by
  have h1 : 64 * queue < 0x1000 := by omega
  have h2 : 64 * queue / 64 = queue := by omega
  have h3 : 64 * queue % 64 = 0 := by omega
  simp only [State.vfWindow, h1, if_true, h2, h3]

theorem vfWindow_control (t : State) : t.vfWindow part vf (64 * queue + 8) = BitVec.ofNat 64 (((t.vf (vfKey part vf)).queue queue).log.toNat
    + 2 ^ 32 * (((t.vf (vfKey part vf)).queue queue).priority.toNat * 16 + ((t.vf (vfKey part vf)).queue queue).enable.toNat)) := by
  have h1 : 64 * queue + 8 < 0x1000 := by omega
  have h2 : (64 * queue + 8) / 64 = queue := by omega
  have h3 : (64 * queue + 8) % 64 = 8 := by omega
  simp only [State.vfWindow, h1, if_true, h2, h3]

/-- The two halves of a queue's size and control word. -/
theorem fld_control (t : State) :
    fld (t.vfWindow part vf (64 * queue + 8)) 0 32 = ((t.vf (vfKey part vf)).queue queue).log.toNat
    ∧ fld (t.vfWindow part vf (64 * queue + 8)) 32 32
      = 16 * ((t.vf (vfKey part vf)).queue queue).priority.toNat + ((t.vf (vfKey part vf)).queue queue).enable.toNat := by
  rw [vfWindow_control hqueue]
  have h1 := ((t.vf (vfKey part vf)).queue queue).log.isLt
  have h2 := ((t.vf (vfKey part vf)).queue queue).priority.isLt
  have h3 := Bool.toNat_le ((t.vf (vfKey part vf)).queue queue).enable
  simp only [fld, BitVec.toNat_ofNat]
  omega

end

theorem vfWindow_tx {e : Nat} (he : e < 4) (t : State) :
    t.vfWindow part vf (0x10000 + 0x1000 * e + 8) = ((t.edge e).txOf (vfKey part vf)).note
    ∧ t.vfWindow part vf (0x10000 + 0x1000 * e) = BitVec.ofNat 64 (((t.edge e).txOf (vfKey part vf)).noterr.toNat * 256
      + ((t.edge e).txOf (vfKey part vf)).enable.toNat) := by
  obtain rfl | rfl | rfl | rfl : e = 0 ∨ e = 1 ∨ e = 2 ∨ e = 3 := by omega
  all_goals exact ⟨rfl, rfl⟩

theorem queue_resetQueue (v : Word) : ((s.resetQueue part vf queue v).vf (vfKey part vf)).queue queue
    = { ((s.vf (vfKey part vf)).queue queue) with
        qerr := false, cause := 0, widx := 0, ridx := 0, pending := [], priority := v.extractLsb' 4 3, enable := v.getLsbD 0 } :=
  queue_modQueue s _ _ _

/-- The control register, whether or not the write resets its queue. -/
theorem queue_writeControl (v : DWord) : (((s.writeReg (.lqCtl part vf queue) v).vf (vfKey part vf)).queue queue).priority = v.extractLsb' 4 3
    ∧ (((s.writeReg (.lqCtl part vf queue) v).vf (vfKey part vf)).queue queue).enable = v.getLsbD 0 := by
  simp only [State.writeReg]
  split
  · rw [resetQueue_setWidth, queue_modQueue]
    exact ⟨rfl, rfl⟩
  · rw [queue_modQueue]
    exact ⟨rfl, rfl⟩

theorem reads_tenant (hqueue : queue < 64) (v : DWord) :
    let q := (s.vf (vfKey part vf)).queue queue
    let w (r : RegName) (o : Nat) : DWord := (s.writeReg r v).vfWindow part vf o
    w (.lqBase part vf queue) (64 * queue) = (if q.enable then q.base else v &&& ~~~63#64)
    ∧ fld (w (.lqSize part vf queue) (64 * queue + 8)) 0 32 = (if q.enable then q.log.toNat else fld v 0 5)
    ∧ fld (w (.lqCtl part vf queue) (64 * queue + 8)) 32 32 = 16 * fld v 4 3 + fld v 0 1
    ∧ w (.vfPtRoot part vf) 0x1008 = (if s.vfRunning part vf then (s.vf (vfKey part vf)).ptroot else v &&& 0x000FFFFFFFFF0000#64)
    ∧ (∀ e < 4, w (.txNote part vf e) (0x10000 + 0x1000 * e + 8) = v &&& ~~~15#64
      ∧ w (.txCtl part vf e) (0x10000 + 0x1000 * e)
        = BitVec.ofNat 64 (256 * (((s.edge e).txOf (vfKey part vf)).noterr && !v.getLsbD 8).toNat + fld v 0 1)) := by
  intro q w
  refine ⟨?_, ?_, ?_, ?_, fun e he => ⟨?_, ?_⟩⟩
  · simp only [w, vfWindow_base hqueue, State.writeReg, queue_modQueue]
    exact apply_ite Queue.base _ _ _
  · simp only [w, (fld_control hqueue _).1, State.writeReg, queue_modQueue]
    rw [apply_ite Queue.log, apply_ite BitVec.toNat, toNat_extract_fld]
  · simp only [w, (fld_control hqueue _).2, (queue_writeControl v).1, (queue_writeControl v).2, toNat_extract_fld, toNat_getLsbD_zero]
  · have hroot : ∀ t : State, t.vfWindow part vf 0x1008 = (t.vf (vfKey part vf)).ptroot := fun _ => rfl
    simp only [w, hroot, State.writeReg]
    split
    · rfl
    · rw [vf_modVf]
  · simp only [w, (vfWindow_tx he _).1, State.writeReg, txOf_modTx]
  · simp only [w, (vfWindow_tx he _).2, State.writeReg, txOf_modTx, toNat_getLsbD_zero, Nat.mul_comm 256]

theorem reads_module (v : DWord) :
    let p (r : RegName) : Part := (s.writeReg r v).part part
    ((p (.ptStat part)).rstnoterr = ((s.part part).rstnoterr && !v.getLsbD 2)
      ∧ (p (.ptStat part)).refused = ((s.part part).refused && !v.getLsbD 1))
    ∧ (p (.ptRstNote part)).rstnote = v &&& ~~~15#64 ∧ (p (.ptServe part)).serve = v &&& ~~~63#64
    ∧ (p (.ptServeVf part)).serveVf = v &&& 0xBF#64
    ∧ ((s.writeReg (.vfConf part vf) v).vf (vfKey part vf)).confidential
        = (if (s.vf (vfKey part vf)).launched then (s.vf (vfKey part vf)).confidential else v.getLsbD 0)
    ∧ (s.writeReg .mdId v).mdId = v.extractLsb' 0 10 ∧ (s.writeReg .mdCport v).mdCport = v.extractLsb' 0 16
    ∧ (∀ lo, ((s.writeReg (.mdCollect 0) lo).writeReg (.mdCollect 1) v).mdCollect = v ++ lo) := by
  intro p
  refine ⟨?_, ?_, ?_, ?_, ?_, rfl, rfl, fun lo => ?_⟩
  · simp only [p, State.writeReg, part_modPart, and_self]
  · simp only [p, State.writeReg, part_modPart]
  · simp only [p, State.writeReg, part_modPart]
  · simp only [p, State.writeReg, part_modPart]
  · simp only [State.writeReg, vf_modVf]
    exact apply_ite Vf.confidential _ _ _
  · simp [State.writeReg, State.latch, State.latched]

end

/-- Settles O41: a queue's operations by its state, a register's write by what then reads. -/
theorem queueWrites : Obligations.QueueWrites := by
  intro s part vf queue hvf hqueue key q
  refine ⟨fun hresetting => ?resetting, fun hresetting => ?runs, fun v hv hresetting hreg => ?control,
    fun r v hr htenant => exec_registerWrite_module hr htenant v, fun v d k => ?firewall, fun v => reads_module v⟩
  case resetting =>
    refine ⟨fun x => ?_, fun v hv => ?_, fun i => ?_, fun r v hr htenant => ?_⟩
    · rw [exec_doorbell hvf hqueue, if_pos hresetting]
    · rw [exec_lqReset hvf hqueue hv, if_pos hresetting]
    · rw [exec_lqCancel hvf hqueue, if_pos hresetting]
    · rw [exec_registerWrite_tenant hvf hr htenant, if_pos hresetting]
  case runs =>
    have hno : ¬ (s.vf (vfKey part vf)).resetting = true := by
      rw [hresetting]
      decide
    have hbell : ∀ x, exec (.doorbell part vf queue x) s = .next (s.doorbell part vf queue x) := fun x => by
      rw [exec_doorbell hvf hqueue, if_neg hno]
    have hcancel : ∀ i, exec (.lqCancel part vf queue i) s = .next (s.cancelAt part vf queue i) := fun i => by
      rw [exec_lqCancel hvf hqueue, if_neg hno]
    refine ⟨fun x hfrozen henable hqerr => ⟨fun c hcause => ?_, fun hcause hx => ?_, fun hcause hx => ?_⟩, fun x hfrozen hoff => ?_,
      fun x hfrozen => ?_, fun v hv => ?_, fun index hpending => ?_, fun index g htaken hgrid => ?_, fun r v hr htenant => ?_,
      reads_tenant hqueue⟩
    · rw [hbell, doorbell_stops hfrozen henable hqerr hcause]
    · rw [hbell, doorbell_accepts hfrozen henable hqerr hcause, if_neg hx]
    · rw [hbell, doorbell_accepts hfrozen henable hqerr hcause, if_pos hx]
    · rw [hbell, doorbell_off hfrozen hoff]
    · rw [hbell, doorbell_frozen hfrozen]
    · rw [exec_lqReset hvf hqueue hv, if_neg hno]
      rfl
    · rw [hcancel, cancelAt_pending hpending]
      rfl
    · rw [hcancel, cancelAt_taken htaken hgrid]
    · rw [exec_registerWrite_tenant hvf hr htenant, if_neg hno]
  case control =>
    have hno : ¬ (s.vf (vfKey part vf)).resetting = true := by
      rw [hresetting]
      decide
    rw [exec_registerWrite_tenant hvf hreg rfl, if_neg hno]
    simp only [State.writeReg, hv, if_true, resetQueue_setWidth]
    rfl
  case firewall =>
    simp only [State.writeReg, die_modDie, if_true, Die.fwOf, lookupN_putN_self, Option.getD_some]

end Sys2Proof.Proofs
end


section
/-!
The edge dies: packets, request and cancel frames, tokenising and the frames of a stream (spec/20; O45).
-/

namespace Sys2Proof.Proofs

open Sys2Proof.Machine Sys2Proof.Safety Sys2Proof.Laws

section
variable {s : State} {edge : Nat}

/-! ### Packets -/

theorem countDrops_one {p : Packet} {k : Nat} (hone : (s.edge edge).named p = [k]) : s.countDrops edge p
    = if packetDropped p ((s.edge edge).txOf k) then s.modTx edge k (fun t => { t with drop := t.drop + 1 }) else s := by
  simp only [State.countDrops, hone, List.foldl]

theorem exec_uetPacket_one (hup : s.up = true) (hedge : edge < 4) {p : Packet} {k : Nat} (hone : (s.edge edge).named p = [k]) :
    exec (.uetPacket edge p) s = (
      let e := s.edge edge
      let t := e.txOf k
      if packetDropped p t || e.closedCtx.contains p.context then .next (s.countDrops edge p)
      else if p.last && leAt (e.sofar p.context ++ p.payload) 3 1 == 1 && decide (Config.requestsPerQueue ≤ e.heldFor k) then
        .next (s.modTx edge k (fun t => { t with withheld := t.withheld + 1 }))
      else if p.last then
        .next (s.modEdge edge (fun d => { d with
          partial_ := delN d.partial_ p.context, contexts := putN d.contexts p.context k,
          inbox := d.inbox ++ [{ part := k / 64, vf := k % 64, peer := p.srcAddr, context := p.context,
                                 bytes := e.sofar p.context ++ p.payload, vocab := t.vocab }] }))
      else .next (s.modEdge edge (fun d => { d with
        partial_ := putN d.partial_ p.context (k, e.sofar p.context ++ p.payload), contexts := putN d.contexts p.context k }))) := by
  change execUetPacket edge p s = _
  simp only [execUetPacket, hup, Bool.not_true, Bool.false_or, decide_eq_true_eq, Nat.not_le.2 hedge, if_false, hone]

theorem exec_uetPacket_more (hup : s.up = true) (hedge : edge < 4) {p : Packet} {k l : Nat} {ks : List Nat}
    (hmore : (s.edge edge).named p = k :: l :: ks) : exec (.uetPacket edge p) s = .next (s.countDrops edge p) := by
  change execUetPacket edge p s = _
  simp only [execUetPacket, hup, Bool.not_true, Bool.false_or, decide_eq_true_eq, Nat.not_le.2 hedge, if_false, hmore]

/-- Admission is what the packet is not dropped for. -/
theorem packetDropped_eq_not_admitted (p : Packet) (t : TxRegs) : packetDropped p t
    = !(p.supported && !decide (4096 < p.payload.length) && t.enable && t.peers.any (fun x => peerAdmits x.2 p.srcAddr)) := by
  simp only [packetDropped, Bool.not_and, Bool.not_not]

/-! ### Frames that come -/

theorem exec_of_requestHead {t : State} (h : s.requestHead edge = some t) : exec (.requestFrame edge) s = .next t := by
  change execRequestFrame edge s = _
  simp only [execRequestFrame, h]

theorem exec_of_cancelHead {t : State} (h : s.cancelHead edge = some t) : exec (.cancelFrame edge) s = .next t := by
  change execCancelFrame edge s = _
  simp only [execCancelFrame, h]

theorem exec_of_tokeniseHead {t : State} (h : s.tokeniseHead edge = some t) : exec (.tokenise edge) s = .next t := by
  change execTokenise edge s = _
  simp only [execTokenise, h]

/-! ### Tokenising -/

/-- The oldest text, where its image can be read, is the one that is tokenised. -/
theorem tokenisable_head {t : TextIn} {rest : List TextIn} {ws : List Word} (hws : s.tokens (t.imageOn edge) t.text = .ok ws) :
    s.tokenisable edge 0 (t :: rest) = some (0, t, ws) := by
  simp only [State.tokenisable, hws]

theorem modEdge_congr {f g : Edge → Edge} (h : f (s.edge edge) = g (s.edge edge)) : s.modEdge edge f = s.modEdge edge g := by
  simp only [State.modEdge, h]

theorem modEdge_eraseIdx_head {t : TextIn} {rest : List TextIn} (htexts : (s.edge edge).texts = t :: rest) :
    s.modEdge edge (fun e => { e with texts := e.texts.eraseIdx 0 }) = s.modEdge edge (fun e => { e with texts := rest }) :=
  modEdge_congr (by simp only [htexts, List.eraseIdx_zero, List.tail_cons])

theorem imageFails_of_error {t : TextIn} {e : Trap} {g : Nat × Grid} {gs : List (Nat × Grid)}
    (he : s.tokens (t.imageOn edge) t.text = .error e) (hgrids : s.grids.filter (s.imageGrid t) = g :: gs) :
    s.imageFails edge t = some ((g :: gs).foldl (fun u x => u.report (some x.1) e 0 0) (s.imgDrop (t.imageOn edge) e.va)) := by
  simp only [State.imageFails, he, hgrids]

end

/-- Settles O45: a packet by the VFs that it names, a frame of a message, a text and a frame of a stream each by what its unit does. -/
theorem edgeDies : Obligations.EdgeDies := by
  unfold Obligations.EdgeDies
  intro s edge e
  refine ⟨fun p k hup hedge hone => ?packet, fun p k l ks hup hedge hmore => ?more, fun m rest hinbox hcancel => ?request,
    fun m rest n k hinbox hcancel hfind => ?cancel, fun t rest ws htexts hread htokens => ?text,
    fun t rest e0 g gs htexts herror hgrids => ?image, fun stream k hstream hopen hready => ?data,
    fun stream k status code hstream hopen hready hclosing => ?close⟩
  case packet =>
    intro all admitted tooMany
    have hdrop : packetDropped p (e.txOf k) = !admitted := packetDropped_eq_not_admitted p _
    have hexec := exec_uetPacket_one hup hedge hone
    refine ⟨fun hno => ?_, fun hyes hclosed => ?_, fun hclosed => ⟨fun hyes hlast hmany => ?_, fun hyes hlast => ?_,
      fun hyes hlast hfew => ?_⟩⟩
    · have hd : packetDropped p ((s.edge edge).txOf k) = true := by rw [hdrop, hno]; rfl
      rw [hexec]
      simp only [hd, Bool.true_or, if_true, countDrops_one hone]
    all_goals have hd : packetDropped p ((s.edge edge).txOf k) = false := by rw [hdrop, hyes]; rfl
    all_goals have hc : (s.edge edge).closedCtx.contains p.context = _ := hclosed
    · rw [hexec]
      simp only [hd, hc, Bool.or_true, if_true, countDrops_one hone, Bool.false_eq_true, if_false]
    · have hm : (leAt ((s.edge edge).sofar p.context ++ p.payload) 3 1 == 1
          && decide (Config.requestsPerQueue ≤ (s.edge edge).heldFor k)) = true := hmany
      rw [hexec]
      simp only [hd, hc, hlast, hm, Bool.or_false, Bool.true_and, Bool.false_eq_true, if_false, if_true]
    · rw [hexec]
      simp only [hd, hc, hlast, Bool.or_false, Bool.false_and, Bool.false_eq_true, if_false]
      rfl
    · have hm : (leAt ((s.edge edge).sofar p.context ++ p.payload) 3 1 == 1
          && decide (Config.requestsPerQueue ≤ (s.edge edge).heldFor k)) = false := hfew
      rw [hexec]
      simp only [hd, hc, hlast, hm, Bool.or_false, Bool.true_and, Bool.false_eq_true, if_false, if_true]
      rfl
  case more =>
    rw [exec_uetPacket_more hup hedge hmore, State.countDrops, hmore]
  case request =>
    have hin : (s.edge edge).inbox = m :: rest := hinbox
    refine ⟨fun hbad => ?_, fun hok hfree => ?_, fun n hok hfree => ?_⟩
    · exact exec_of_requestHead (by simp only [State.requestHead, hin, hcancel, hbad, Bool.not_false, Bool.false_eq_true, if_true, if_false])
    all_goals have hf : (s.edge edge).freeStream = _ := hfree
    · exact exec_of_requestHead (by simp only [State.requestHead, hin, hcancel, hok, hf, Bool.not_true, Bool.false_eq_true, if_false])
    · exact exec_of_requestHead (by simp only [State.requestHead, hin, hcancel, hok, hf, Bool.not_true, Bool.false_eq_true, if_false])
  case cancel =>
    have hin : (s.edge edge).inbox = m :: rest := hinbox
    have hf : (s.edge edge).streams.find? _ = some (n, k) := hfind
    exact exec_of_cancelHead (by simp only [State.cancelHead, hin, hcancel, hf, Bool.not_true, Bool.false_eq_true, if_false])
  case text =>
    intro k u
    have htx : (s.edge edge).texts = t :: rest := htexts
    have hr : (s.edge edge).texts.findSome? (s.imageFails edge) = none := hread
    have hchosen : s.tokenisable edge 0 (s.edge edge).texts = some (0, t, ws) := by rw [htx, tokenisable_head htokens]
    have hhead (r : State) (hr' : (if ((s.edge edge).txOf k).queue.isEmpty && ((s.edge edge).txOf k).note != 0 then
        match u.notify (.vf t.part t.vf) ((s.edge edge).txOf k).note.toNat with
        | some w => some w
        | none => some (u.modTx edge k (fun x => { x with noterr := true }))
        else some u) = some r) : exec (.tokenise edge) s = .next r := by
      refine exec_of_tokeniseHead (Eq.trans ?_ hr')
      simp only [State.tokeniseHead, hr, hchosen, modEdge_eraseIdx_head htx]
      rfl
    refine ⟨fun hquiet => hhead u (if_neg ?_), fun hempty hnote => ?_⟩
    · rw [Bool.and_eq_true, List.isEmpty_iff, bne_iff_ne]
      exact fun ⟨hq, hn⟩ => hquiet.elim (fun h => h hq) (fun h => hn h)
    · have hc : (((s.edge edge).txOf k).queue.isEmpty && ((s.edge edge).txOf k).note != 0) = true := by
        rw [Bool.and_eq_true, List.isEmpty_iff, bne_iff_ne]
        exact ⟨hempty, hnote⟩
      refine ⟨fun w hw => hhead w ?_, fun hw => hhead _ ?_⟩
      all_goals have hn : u.notify (.vf t.part t.vf) ((s.edge edge).txOf k).note.toNat = _ := hw
      all_goals rw [if_pos hc, hn]
  case image =>
    have htx : (s.edge edge).texts = t :: rest := htexts
    refine exec_of_tokeniseHead ?_
    have hfirst : (s.edge edge).texts.findSome? (s.imageFails edge) = s.imageFails edge t := by
      rw [htx, List.findSome?_cons, imageFails_of_error herror hgrids]
    simp only [State.tokeniseHead, hfirst, imageFails_of_error herror hgrids]
  case data =>
    have hs : lookupN (s.edge edge).streams stream = some k := hstream
    have hr : k.ready.isEmpty = false := List.isEmpty_eq_false_iff.2 hready
    change execReplyDataFrame edge stream s = _
    simp only [execReplyDataFrame, hs, hopen, hr, Bool.or_self, Bool.false_eq_true, if_false]
  case close =>
    have hs : lookupN (s.edge edge).streams stream = some k := hstream
    change execCloseFrameSent edge stream s = _
    simp only [execCloseFrameSent, hs, hclosing, hopen, hready, List.isEmpty_nil, Bool.not_true, Bool.or_self, Bool.false_eq_true, if_false]

end Sys2Proof.Proofs
end


section
/-!
Resets of a VF, invalidation, partitions, firewalls and stage two (spec/01, spec/23; O46).
-/

namespace Sys2Proof.Proofs

open Sys2Proof.Machine Sys2Proof.Safety Sys2Proof.Laws

section
variable {s : State} {part vf : Nat}

theorem exec_vfReset (h : s.hasVf part vf = true) : exec (.vfReset part vf) s = .next (s.resetStep part vf) := by
  change execVfReset part vf s = _
  simp only [execVfReset, h, if_true]

/-- A step of the reset does its part and counts on, from the sixth step back to none. -/
theorem resetStep_of_at {n : Nat} (h : (s.vf (vfKey part vf)).resetAt = n) : s.resetStep part vf
    = (s.resetPart part vf n).modVf (vfKey part vf) (fun v => { v with resetAt := if n = 5 then 0 else n + 1 }) := by
  rw [State.resetStep, h]

theorem exec_tlbinvAddress (h : s.hasVf part vf = true) (page : BitVec 40) : exec (.tlbinvAddress part vf page) s
    = .next (s.tlbinv part vf (some (page.toNat * 65536))) := by
  change execTlbinvAddress part vf page s = _
  simp only [execTlbinvAddress, h, if_true]

theorem exec_tlbinvVf (h : s.hasVf part vf = true) : exec (.tlbinvVf part vf) s = .next (s.tlbinv part vf none) := by
  change execTlbinvVf part vf s = _
  simp only [execTlbinvVf, h, if_true]

theorem tlbinv_resetting (h : (s.vf (vfKey part vf)).resetting = true) (page : Option Nat) : s.tlbinv part vf page = s := by
  simp only [State.tlbinv, h, if_true]

theorem tlbinv_running (h : (s.vf (vfKey part vf)).resetting = false) (page : Option Nat) :
    s.tlbinv part vf page = s.beginRemoval part vf page := by
  simp only [State.tlbinv, h, Bool.false_eq_true, if_false]

theorem exec_firewallDrop {die k : Nat} (hend : hasEnd die k = true) (hclosed : ((s.die die).fwOf k).closed = true)
    (request : Option Nat) : exec (.firewallDrop die k request) s = (
      let u := s.modDie die (fun d => { d with fw := putN d.fw k { (s.die die).fwOf k with violation := true } })
      match request with
      | some g => .next (u.report (some g) ⟨.perm, 0⟩ 0 (16 * die))
      | none => .next u) := by
  change execFirewallDrop die k request s = _
  cases request with
  | none => simp only [execFirewallDrop, hclosed, hend, Bool.not_true, Bool.or_self, Bool.false_eq_true, if_false]
  | some g => simp only [execFirewallDrop, hclosed, hend, Bool.not_true, Bool.or_self, Bool.false_eq_true, if_false]

/-- The high word of a stage-two entry stands 8 bytes after its low word in the monitor window (R397). -/
theorem winReg_stageTwoHigh {index : Nat} (hpart : part < 40) (hvf : vf < 64) (hindex : index < 48) :
    winReg (rangeOffset part vf index + 8) = .stageTwoHigh part vf index := by
  obtain ⟨o, ho⟩ : ∃ o, o = rangeOffset part vf index + 8 := ⟨_, rfl⟩
  rw [← ho]
  rw [rangeOffset] at ho
  have hpartOf : o / 16777216 = part := by omega
  have hin : o % 16777216 = 1048576 + 4096 * vf + 16 * index + 8 := by omega
  have hfile : (1048576 + 4096 * vf + 16 * index + 8 - 1048576) / 4096 = vf := by omega
  have hreg : (1048576 + 4096 * vf + 16 * index + 8) % 4096 = 16 * index + 8 := by omega
  have hentry : (16 * index + 8) / 16 = index := by omega
  rw [winReg, if_neg (by omega), if_pos (by omega), hpartOf, hin, partBlock, if_neg (by omega), if_neg (by omega),
    if_neg (by omega), if_neg (by omega), if_neg (by omega), if_pos (by omega), hfile, hreg]
  simp only [hentry]
  rw [if_pos (by omega), if_neg (by omega)]

/-- A whole stage-two entry is committed where it is not valid or its range is mapped, and else the entry stays (R397). -/
theorem commitRange_ranges (index : Nat) (lo hi : DWord) (hindex : index < 48) :
    ((s.commitRange part vf index lo hi).vf (vfKey part vf)).ranges =
      (let e : BitVec 128 := (hi ++ lo) &&& 0x000FFFFFFFFFFFFFFFFFFFFFFFFFFF0F#128
       if e.getLsbD 0 = false ∨ rangeMapped e = true then putN (s.vf (vfKey part vf)).ranges index e
       else (s.vf (vfKey part vf)).ranges) := by
  rw [State.commitRange]
  generalize (hi ++ lo) &&& 0x000FFFFFFFFFFFFFFFFFFFFFFFFFFF0F#128 = e
  by_cases h : e.getLsbD 0 = false ∨ rangeMapped e = true
  · rw [if_pos h, if_pos ⟨hindex, by simpa only [Bool.not_eq_true'] using h⟩, vf_modVf]
  · rw [if_neg h, if_neg (fun hc => h (by simpa only [Bool.not_eq_true'] using hc.2))]

theorem exec_stageTwoEntryWrite {index : Nat} (hpart : part < 40) (hvf : vf < 64) (hindex : index < 48) (hi : DWord) :
    exec (.stageTwoEntryWrite part vf index hi) s = .next (s.monWrite (rangeOffset part vf index + 8) hi) := by
  change execStageTwoEntryWrite part vf index hi s = _
  rw [execStageTwoEntryWrite, if_pos ⟨hpart, hvf, hindex⟩]

theorem monWrite_stageTwoHigh_ranges {index : Nat} (hpart : part < 40) (hvf : vf < 64) (hindex : index < 48) (hi : DWord) :
    ((s.monWrite (rangeOffset part vf index + 8) hi).vf (vfKey part vf)).ranges =
      (let lo := s.latched (rangeOffset part vf index) (wordOf ((lookupN (s.vf (vfKey part vf)).ranges index).getD 0) 0)
       let e : BitVec 128 := (hi ++ lo) &&& 0x000FFFFFFFFFFFFFFFFFFFFFFFFFFF0F#128
       if e.getLsbD 0 = false ∨ rangeMapped e = true then putN (s.vf (vfKey part vf)).ranges index e
       else (s.vf (vfKey part vf)).ranges) := by
  have hwin := winReg_stageTwoHigh hpart hvf hindex
  generalize hoff : rangeOffset part vf index + 8 = o at hwin
  rw [State.monWrite, hwin]
  exact commitRange_ranges index _ hi hindex

end

/-- Settles O46: each step of a reset, each invalidation and each write of the monitor by what its unit does. -/
theorem partitionsAndVfs : Obligations.PartitionsAndVfs := by
  unfold Obligations.PartitionsAndVfs
  intro s part vf key
  refine ⟨fun hvf => ⟨?steps, fun hrun => ⟨fun page => ?_, ?_⟩, fun hreset => ⟨fun page => ?_, ?_⟩⟩, fun page hbusy hremoving => ?complete,
    fun dies hpart => ?form, fun die k hend hclosed => ⟨?_, fun g => ?_⟩, fun index hi hpart hvf hindex => ?stageTwo⟩
  case steps =>
    intro done at_
    refine ⟨fun h => ?_, fun h => ?_, fun h => ?_, fun h => ?_, fun h => ?_, fun h => ?_⟩
    all_goals exact (exec_vfReset hvf).trans (congrArg Host.Outcome.next (resetStep_of_at h))
  · rw [exec_tlbinvAddress hvf, tlbinv_running hrun, State.beginRemoval]
  · rw [exec_tlbinvVf hvf, tlbinv_running hrun, State.beginRemoval]
  · rw [exec_tlbinvAddress hvf, tlbinv_resetting hreset]
  · rw [exec_tlbinvVf hvf, tlbinv_resetting hreset]
  case complete =>
    have hb : (s.vf (vfKey part vf)).busy = true := hbusy
    have hr : (s.vf (vfKey part vf)).removing = some page := hremoving
    change execTlbinvComplete part vf s = _
    simp only [execTlbinvComplete, hb, if_true, State.endRemoval, hr]
    rfl
  case form =>
    change execPartitionForm part dies s = _
    simp only [execPartitionForm, hpart, if_true, State.formPartition]
  · exact exec_firewallDrop hend hclosed none
  · exact exec_firewallDrop hend hclosed (some g)
  case stageTwo =>
    intro lo e
    have hranges : ((s.monWrite (rangeOffset part vf index + 8) hi).vf key).ranges
        = if e.getLsbD 0 = false ∨ rangeMapped e = true then putN (s.vf key).ranges index e else (s.vf key).ranges :=
      monWrite_stageTwoHigh_ranges hpart hvf hindex hi
    refine ⟨_, exec_stageTwoEntryWrite hpart hvf hindex hi, fun hcommit => ?_, fun hvalid hmapped => ?_⟩
    · rw [hranges, if_pos hcommit]
      exact ⟨lookupN_putN_self _ _ _, fun n hn => by rw [lookupN_putN, if_neg hn]⟩
    · rw [hranges, if_neg]
      rw [hvalid, hmapped]
      decide

end Sys2Proof.Proofs
end


section
/-!
The host link and the peers: how the bytes of a write land, and what a transaction of either does (spec/23; O47).
-/

namespace Sys2Proof.Proofs

open Sys2Proof.Machine Sys2Proof.Safety Sys2Proof.Laws

/-! ### Bytes that land -/

section
variable {s : State} {what : Instr} {rest : List (Nat × Byte)} {done : State → State}

/-- Where nothing was chosen all bytes that are left land, and the write is done. -/
theorem landWrite_all (horacle : s.oracle = []) : s.landWrite what rest done
    = done (rest.foldl (fun t c => t.physWrite c.1 [c.2]) { s with landing := s.landing.filter (fun l => l.what != what) }) := by
  rw [State.landWrite, pick_of_empty horacle]

/-- Where one byte was chosen it lands, and the others wait. -/
theorem landWrite_one {k : Nat} {c : Nat × Byte} {more : List Nat} (horacle : s.oracle = k :: more) (hfrom : 1 ≤ k)
    (hto : k ≤ rest.length) (htwo : 2 ≤ rest.length) (hc : rest[k - 1]? = some c) : s.landWrite what rest done
      = { State.physWrite { s with oracle := more } c.1 [c.2] with
          landing := s.landing.filter (fun l => l.what != what) ++ [{ what := what, rest := rest.eraseIdx (k - 1) }] } := by
  obtain ⟨j, rfl⟩ : ∃ j, k = j + 1 := ⟨k - 1, by omega⟩
  have hchosen : s.pick (if rest.length ≤ 1 then 1 else rest.length + 1) = (j + 1, { s with oracle := more }) := by
    rw [if_neg (by omega), State.pick, if_neg (by omega), horacle]
    simp only [Nat.mod_eq_of_lt (Nat.lt_succ_of_le hto)]
  rw [Nat.add_sub_cancel] at hc ⊢
  simp only [State.landWrite, hchosen, hc, Option.toList, List.foldl]
  rfl

/-- Writing the cells of a list leaves every byte that none of them is at. -/
theorem byte_foldl_physWrite (cells : List (Nat × Byte)) (pa : Nat) (hout : ∀ c ∈ cells, pa ≠ c.1) (u : State) :
    (cells.foldl (fun t c => t.physWrite c.1 [c.2]) u).phys.byte pa = u.phys.byte pa := by
  induction cells generalizing u with
  | nil => rfl
  | cons c cells ih =>
    rw [List.foldl, ih (fun d hd => hout d (List.mem_cons_of_mem _ hd))]
    refine Mem.byte_write_outside _ _ ?_
    have := hout c List.mem_cons_self
    simp only [List.length_cons, List.length_nil]
    omega

section
variable (s) (part vf : Nat) (cells : List (Nat × Byte))

/-- What an earlier write of the VF has still to land in a unit of a later one has landed (R214). -/
theorem landEarlier_rest : ∀ l ∈ (s.landEarlier part vf cells).landing, ∀ t i d, l.what = .chaskoPostedWrite t part vf i d →
    ∀ c ∈ l.rest, ∀ x ∈ cells, c.1 / 16 ≠ x.1 / 16 := by
  intro l hl t i d hwhat c hc x hx heq
  simp only [State.landEarlier, List.mem_map] at hl
  obtain ⟨⟨w, r⟩, -, rfl⟩ := hl
  rw [apply_ite Landing.what, ite_self] at hwhat
  subst hwhat
  simp only [BEq.rfl, Bool.and_self, if_true, List.mem_filter] at hc
  have hshared : cells.any (fun x => x.1 / 16 == c.1 / 16) = true := List.any_eq_true.2 ⟨x, hx, by simp only [heq, BEq.rfl]⟩
  rw [hshared] at hc
  exact absurd hc.2 (by decide)

/-- Bytes outside the units of the later write stay. -/
theorem landEarlier_byte (pa : Nat) (hout : ∀ x ∈ cells, pa / 16 ≠ x.1 / 16) :
    (s.landEarlier part vf cells).phys.byte pa = s.phys.byte pa := by
  refine byte_foldl_physWrite _ pa (fun c hc heq => ?_) s
  obtain ⟨l, -, hc⟩ := List.mem_flatMap.1 hc
  obtain ⟨x, hx, hunit⟩ := List.any_eq_true.1 (List.mem_filter.1 hc).2
  exact hout x hx (by rw [heq, beq_iff_eq.1 hunit])

end

end

/-! ### The host link -/

section
variable {s : State} {tray part vf ipa : Nat}

theorem chaskoReach_unbound (h : s.bindsTray tray part vf = false) (n : Nat) (write : Bool) :
    s.chaskoReach tray part vf ipa n write = .abort := by
  simp only [State.chaskoReach, h, Bool.not_false, if_true]

theorem exec_postedWrite_begun {data : List Byte} {l : Landing} (h : s.begun (.chaskoPostedWrite tray part vf ipa data) = some l) :
    exec (.chaskoPostedWrite tray part vf ipa data) s
      = .next (s.landWrite (.chaskoPostedWrite tray part vf ipa data) l.rest (fun s => s.carried tray)) := by
  change execChaskoPostedWrite tray part vf ipa data s = _
  simp only [execChaskoPostedWrite, h]

theorem exec_postedWrite {data : List Byte} (hnew : s.begun (.chaskoPostedWrite tray part vf ipa data) = none)
    (htakes : s.linkTakes tray ipa data.length = true) : exec (.chaskoPostedWrite tray part vf ipa data) s = (
      match s.chaskoReach tray part vf ipa data.length true with
      | .memory ps => .next ((s.landEarlier part vf (cellsOf ps data)).landWrite (.chaskoPostedWrite tray part vf ipa data)
          (cellsOf ps data) (fun s => s.carried tray))
      | .registers => .next ((s.vfWindowWrite part vf (ipa - windowIpa) data).carried tray)
      | .abort => .next (s.abort tray)
      | .dropped => .next (s.chaskoDrop tray)) := by
  change execChaskoPostedWrite tray part vf ipa data s = _
  simp only [execChaskoPostedWrite, hnew, htakes, Bool.not_true, Bool.false_eq_true, if_false]
    <;> cases s.chaskoReach tray part vf ipa data.length true <;> rfl

theorem exec_chaskoRead {n : Nat} (htakes : s.linkTakes tray ipa n = true) (tag : Nat) : exec (.chaskoRead tray part vf ipa n tag) s = (
      match s.chaskoReach tray part vf ipa n false with
      | .memory ps => .next (if ps.any (fun p => s.poisoned p.1 p.2) then s.completes tray tag 1 []
          else (s.noteSoft ps).completes tray tag 0 (ps.flatMap (fun p => s.phys.read p.1 p.2)))
      | .registers => .next (s.completes tray tag 0 ((List.range (n / 8)).flatMap (fun i =>
          leBytes 8 (s.vfWindow part vf (ipa - windowIpa + 8 * i)).toNat)))
      | .abort => .next ((s.abort tray).completes tray tag 1 [])
      | .dropped => .next (s.chaskoDrop tray)) := by
  change execChaskoRead tray part vf ipa n tag s = _
  simp only [execChaskoRead, htakes, Bool.not_true, Bool.false_eq_true, if_false]
  cases s.chaskoReach tray part vf ipa n false with
  | memory ps => exact (apply_ite Host.Outcome.next _ _ _).symm
  | registers => rfl
  | abort => rfl
  | dropped => rfl

section
variable {op ty : BitVec 4} (hopen : s.linkOpen tray = true) (htype : atomTypeOk op.toNat ty.toNat = true)
  (hty : ty.toNat < 8) (halign : ipa % (tyWn ty.toNat / 8) = 0)
include hopen htype hty halign

theorem exec_chaskoAtomic_memory {pa m : Nat} {rest : List (Nat × Nat)} (b : DWord) (tag : Nat)
    (hreach : s.chaskoReach tray part vf ipa (tyWn ty.toNat / 8) true = .memory ((pa, m) :: rest))
    (hsound : s.poisoned pa (tyWn ty.toNat / 8) = false) : exec (.chaskoAtomic tray part vf ipa op ty b tag) s
      = .next ((s.atomicAt pa (tyWn ty.toNat / 8) (.atom (.lit 0) op.toNat ty.toNat b)).1.completes tray tag 0
          (s.atomicAt pa (tyWn ty.toNat / 8) (.atom (.lit 0) op.toNat ty.toNat b)).2) := by
  change execChaskoAtomic tray part vf ipa op ty b tag s = _
  simp only [execChaskoAtomic, hopen, htype, halign, hreach, hsound, decide_eq_false (Nat.not_le.2 hty), Bool.not_true, Bool.or_self,
    ne_eq, not_true, decide_false, Bool.false_eq_true, if_false]

theorem exec_chaskoAtomic_unbound (b : DWord) (tag : Nat) (hbind : s.bindsTray tray part vf = false) :
    exec (.chaskoAtomic tray part vf ipa op ty b tag) s = .next ((s.abort tray).completes tray tag 1 []) := by
  change execChaskoAtomic tray part vf ipa op ty b tag s = _
  simp only [execChaskoAtomic, hopen, htype, halign, chaskoReach_unbound hbind, decide_eq_false (Nat.not_le.2 hty), Bool.not_true,
    Bool.or_self, ne_eq, not_true, decide_false, Bool.false_eq_true, if_false]

end

theorem exec_flitRetry {edge : Nat} (hedge : edge < 4) (hup : (s.edge edge).linkUp = true) (hfew : (s.edge edge).retries < 8) :
    exec (.chaskoFlitRetry edge) s = .next (s.modEdge edge (fun e => { e with retries := e.retries + 1 })) := by
  change execChaskoFlitRetry edge s = _
  rw [execChaskoFlitRetry, if_pos ⟨hedge, hup, hfew⟩]

theorem exec_linkDown {edge : Nat} (hedge : edge < 4) (hup : (s.edge edge).linkUp = true) (hmany : 8 ≤ (s.edge edge).retries) :
    exec (.chaskoLinkDown edge) s = .next (({ s with landing := s.landing.filter (fun l => !overLink edge l) } : State).modEdge edge
      (fun e => { e with linkUp := false, completions := [] })) := by
  change execChaskoLinkDown edge s = _
  rw [execChaskoLinkDown, if_pos ⟨hedge, hup, hmany⟩]

end

/-! ### Peers -/

section
variable {s : State} {m part offset : Nat} (hup : s.up = true) (hm : m < 1024) (hself : m ≠ s.mdId.toNat)
include hup hm hself

/-- A peer's access is admitted to its look-up by the module's number and what its kind asks of the offset (R406). -/
theorem peer_taken {k : PeerKind} (hok : peerOk offset k = true) :
    (!s.up || decide (s.mdId.toNat ≠ s.mdId.toNat) || decide (1024 ≤ m) || decide (m = s.mdId.toNat) || !peerOk offset k) = false := by
  simp only [hup, hok, hself, decide_eq_false (Nat.not_le.2 hm), ne_eq, not_true, decide_false, Bool.not_true, Bool.or_self]

section
variable {k : PeerKind} {ps : List (Nat × Nat)} (hok : peerOk offset k = true)
  (hnew : ∀ d, k = .write d → s.begun (.peerAccess m part offset s.mdId.toNat k) = none)
include hok hnew

theorem exec_peerAccess_missed (hdrain : ∀ acc ty round sat rows ord, k ≠ .drain acc ty round sat rows ord)
    (hmiss : s.peerReach m part (peerWrites k) offset (peerSize k) = none) : exec (.peerAccess m part offset s.mdId.toNat k) s
      = .next ((s.peerDrop m part (peerWrites k) [(offset, peerSize k)]).answerPeer m (.error .perm)) := by
  change execPeerAccess m part offset s.mdId.toNat k s = _
  cases k with
  | drain acc ty round sat rows ord => exact absurd rfl (hdrain acc ty round sat rows ord)
  | write d => simp only [execPeerAccess, hnew d rfl, peer_taken hup hm hself hok, hmiss, Bool.false_eq_true, if_false]
  | read n => simp only [execPeerAccess, peer_taken hup hm hself hok, hmiss, Bool.false_eq_true, if_false]
  | atomic op ty b => simp only [execPeerAccess, peer_taken hup hm hself hok, hmiss, Bool.false_eq_true, if_false]
  | cas ty b c => simp only [execPeerAccess, peer_taken hup hm hself hok, hmiss, Bool.false_eq_true, if_false]
  | ticket n l => simp only [execPeerAccess, peer_taken hup hm hself hok, hmiss, Bool.false_eq_true, if_false]

end

theorem exec_peerAccess_read {n : Nat} {ps : List (Nat × Nat)} (hreach : s.peerReach m part false offset n = some ps)
    (hsound : ps.any (fun p => s.poisoned p.1 p.2) = false) : exec (.peerAccess m part offset s.mdId.toNat (.read n)) s
      = .next ((s.noteSoft ps).answerPeer m (.ok (ps.flatMap (fun p => s.phys.read p.1 p.2)))) := by
  change execPeerAccess m part offset s.mdId.toNat (.read n) s = _
  have hr : s.peerReach m part (peerWrites (.read n)) offset (peerSize (.read n)) = some ps := hreach
  simp only [execPeerAccess, peer_taken hup hm hself (k := .read n) (offset := offset) rfl, hr, hsound, peerAtom, Bool.false_eq_true, if_false]

theorem exec_peerAccess_write {d : List Byte} {ps : List (Nat × Nat)}
    (hnew : s.begun (.peerAccess m part offset s.mdId.toNat (.write d)) = none)
    (hreach : s.peerReach m part true offset d.length = some ps) : exec (.peerAccess m part offset s.mdId.toNat (.write d)) s
      = .next (s.landWrite (.peerAccess m part offset s.mdId.toNat (.write d)) (cellsOf ps d) (fun t => t.answerPeer m (.ok []))) := by
  change execPeerAccess m part offset s.mdId.toNat (.write d) s = _
  have hr : s.peerReach m part (peerWrites (.write d)) offset (peerSize (.write d)) = some ps := hreach
  simp only [execPeerAccess, hnew, peer_taken hup hm hself (k := .write d) (offset := offset) rfl, hr, Bool.false_eq_true, if_false]

theorem exec_peerAccess_atom {k : PeerKind} {x : PendKind} {pa n : Nat} {rest : List (Nat × Nat)} (hatom : peerAtom k = some x)
    (hok : peerOk offset k = true) (hreach : s.peerReach m part true offset (peerSize k) = some ((pa, n) :: rest))
    (hsound : s.poisoned pa n = false) : exec (.peerAccess m part offset s.mdId.toNat k) s
      = .next ((s.atomicAt pa n x).1.answerPeer m (.ok (s.atomicAt pa n x).2)) := by
  change execPeerAccess m part offset s.mdId.toNat k s = _
  have htaken := peer_taken hup hm hself hok
  cases k with
  | read n => cases hatom
  | write d => cases hatom
  | drain acc ty round sat rows ord => cases hatom
  | atomic op ty b => simp only [execPeerAccess, htaken, peerWrites, hreach, hatom, hsound, Bool.false_eq_true, if_false]
  | cas ty b c => simp only [execPeerAccess, htaken, peerWrites, hreach, hatom, hsound, Bool.false_eq_true, if_false]
  | ticket n l => simp only [execPeerAccess, htaken, peerWrites, hreach, hatom, hsound, Bool.false_eq_true, if_false]

theorem exec_peerAccess_drain {acc ty : BitVec 4} {round : BitVec 2} {sat : Bool} {rows : List (Nat × List Word)} {u : State}
    (hok : peerOk offset (.drain acc ty round sat rows none) = true)
    (hdrain : s.peerDrain m part acc.toNat ty.toNat round.toNat sat rows = .ok u) :
    exec (.peerAccess m part offset s.mdId.toNat (.drain acc ty round sat rows none)) s = .next (u.answerPeer m (.ok [])) := by
  change execPeerAccess m part offset s.mdId.toNat (.drain acc ty round sat rows none) s = _
  simp only [execPeerAccess, peer_taken hup hm hself hok, hdrain, Bool.false_eq_true, if_false]

end

theorem exec_peerAccess_begun {s : State} {m part offset target : Nat} {d : List Byte} {l : Landing}
    (h : s.begun (.peerAccess m part offset target (.write d)) = some l) : exec (.peerAccess m part offset target (.write d)) s
      = .next (s.landWrite (.peerAccess m part offset target (.write d)) l.rest (fun t => t.answerPeer m (.ok []))) := by
  change execPeerAccess m part offset target (.write d) s = _
  simp only [execPeerAccess, h]

/-- Settles O47: how the bytes of a write land, and what each transaction of the link and of a peer does, by where its address leads. -/
theorem linksAndPeers : Obligations.LinksAndPeers := by
  unfold Obligations.LinksAndPeers
  intro s tray part vf ipa
  refine ⟨?lands, ?begun, ?write, ?earlier, ?read, ?atomic, ?link, ?peer⟩
  case lands =>
    intro what rest done put others
    exact ⟨landWrite_all, fun k c more horacle hfrom hto htwo hc => landWrite_one horacle hfrom hto htwo hc⟩
  case begun =>
    intro data what done l hl
    exact exec_postedWrite_begun hl
  case write =>
    intro data hnew htakes
    refine ⟨fun ps hreach => ?_, fun hreach => ?_, fun hbind => ?_, fun hreach => ?_⟩
    all_goals rw [exec_postedWrite hnew htakes]
    · simp only [hreach]
      rfl
    · simp only [hreach]
      rfl
    · simp only [chaskoReach_unbound hbind]
    · simp only [hreach]
  case earlier =>
    intro cells u
    exact ⟨landEarlier_rest s part vf cells, landEarlier_byte s part vf cells⟩
  case read =>
    intro n tag htakes
    refine ⟨fun ps hreach => ?_, fun hreach => ?_, fun hbind => ?_, fun hreach => ?_⟩
    all_goals rw [exec_chaskoRead htakes]
    · simp only [hreach]
    · simp only [hreach]
    · simp only [chaskoReach_unbound hbind]
    · simp only [hreach]
  case atomic =>
    intro op ty b tag n hopen htype hty halign
    exact ⟨fun pa m rest hreach hsound => exec_chaskoAtomic_memory hopen htype hty halign b tag hreach hsound,
      fun hbind => exec_chaskoAtomic_unbound hopen htype hty halign b tag hbind⟩
  case link =>
    intro edge hedge hlink
    refine ⟨fun hfew => exec_flitRetry hedge hlink hfew, fun hmany => (exec_linkDown hedge hlink hmany).trans ?_⟩
    have hover : (fun l => !overLink edge l) = (fun l : Landing => match l.what with
        | .chaskoPostedWrite t _ _ _ _ => trayEdge t != edge
        | _ => true) := by
      funext l
      obtain ⟨what, rest⟩ := l
      cases what <;> rfl
    rw [hover] <;> rfl
  case peer =>
    intro m offset hup hm hself
    refine ⟨fun k hkind hok hnew hmiss => ?_, fun n ps hreach hsound => exec_peerAccess_read hup hm hself hreach hsound, ?_,
      fun k x pa n rest hatom hok hreach hsound => exec_peerAccess_atom hup hm hself hatom hok hreach hsound,
      fun acc ty round sat rows u hok hdrain => exec_peerAccess_drain hup hm hself hok hdrain⟩
    · exact exec_peerAccess_missed hup hm hself hok hnew (fun acc ty round sat rows ord hk => by rw [hk] at hkind; exact hkind) hmiss
    · intro d what done
      exact ⟨fun l hl => exec_peerAccess_begun hl, fun ps hnew hreach => exec_peerAccess_write hup hm hself hnew hreach⟩

end Sys2Proof.Proofs
end


section
/-!
Errors, restarts, panics, throttling and the steps of bring-up (spec/09, spec/22, spec/23; O48).
-/

namespace Sys2Proof.Proofs

open Sys2Proof.Machine Sys2Proof.Safety Sys2Proof.Laws

/-! ### Bring-up -/

/-- A list of cells by their numbers holds each of them. -/
theorem lookupN_map_cells {α : Type} (f : Nat → α) (ns : List Nat) {n : Nat} (h : n ∈ ns) :
    lookupN (ns.map (fun k => (k, f k))) n = some (f n) := by
  induction ns with
  | nil => cases h
  | cons k ns ih =>
    rw [List.map_cons, lookupN]
    by_cases hk : k = n
    · rw [if_pos hk, hk]
    · rw [if_neg hk]
      exact ih ((List.mem_cons.1 h).resolve_left (Ne.symm hk))

section
variable {s : State}

/-- The monitor of a die, started. -/
def startMonitor (s : State) (d : Nat) : State := s.modCore (640 + d) (fun k => { k with threads := [(0, s.monThread)] })

theorem startMonitor_core (s : State) (d e : Nat) : ((startMonitor s d).core (640 + e)).threads
    = if e = d then [(0, s.monThread)] else (s.core (640 + e)).threads := by
  unfold startMonitor
  by_cases h : e = d
  · rw [if_pos h, h, core_modCore_self]
  · rw [if_neg h, core_modCore_ne _ _ (by omega)]

/-- Starting the monitors of some dies changes no byte and leaves where a monitor begins. -/
theorem startMonitors_quiet (ds : List Nat) (s : State) : (ds.foldl startMonitor s).phys = s.phys
    ∧ (ds.foldl startMonitor s).monThread = s.monThread ∧ (ds.foldl startMonitor s).stage = s.stage := by
  induction ds generalizing s with
  | nil => exact ⟨rfl, rfl, rfl⟩
  | cons d ds ih => exact ih (startMonitor s d)

theorem startMonitors_core (ds : List Nat) (s : State) (e : Nat) : ((ds.foldl startMonitor s).core (640 + e)).threads
    = if e ∈ ds then [(0, s.monThread)] else (s.core (640 + e)).threads := by
  induction ds generalizing s with
  | nil => rfl
  | cons d ds ih =>
    rw [List.foldl, ih, startMonitor_core]
    change (if e ∈ ds then [(0, s.monThread)] else _) = _
    by_cases he : e ∈ ds
    · rw [if_pos he, if_pos (List.mem_cons_of_mem _ he)]
    · rw [if_neg he]
      simp only [List.mem_cons, he, or_false]

/-- Loading the supervisor image does not look at the step of bring-up. -/
theorem foldl_physWrite_stage (xs : List SupSection) (n : Nat) (s : State) :
    xs.foldl (fun (s : State) x => s.physWrite x.pa x.bytes) { s with stage := n }
      = { xs.foldl (fun (s : State) x => s.physWrite x.pa x.bytes) s with stage := n } := by
  induction xs generalizing s with
  | nil => rfl
  | cons x xs ih => exact ih (s.physWrite x.pa x.bytes)

theorem loadSup_stage (n : Nat) : State.loadSup { s with stage := n } = { s.loadSup with stage := n } := by
  simp only [State.loadSup, foldl_physWrite_stage]

theorem exec_bringUp_load (h : s.stage = 6) : exec .bringUp s = .next ({ s.loadSup with
    stage := s.stage + 1,
    cores := (List.range 640).map (fun c => (c, { s.loadSup.core c with threads := s.loadSup.supThreads }))
      ++ s.loadSup.cores.filter (fun k => decide (640 ≤ k.1)) }) := by
  change execBringUp s = _
  simp only [execBringUp, h, loadSup_stage]
  rfl

theorem exec_bringUp_monitors (h : s.stage = 5) :
    exec .bringUp s = .next ((List.range 40).foldl startMonitor { s with stage := s.stage + 1 }) := by
  change execBringUp s = _
  simp only [execBringUp, h]
  rfl

theorem exec_bringUp_zero (h : s.stage = 3) : exec .bringUp s = .next { s with stage := s.stage + 1, phys := [] } := by
  change execBringUp s = _
  simp only [execBringUp, h]

theorem exec_bringUp_plain (h : s.stage < 8) (h3 : s.stage ≠ 3) (h5 : s.stage ≠ 5) (h6 : s.stage ≠ 6) :
    exec .bringUp s = .next { s with stage := s.stage + 1 } := by
  change execBringUp s = _
  unfold execBringUp
  split
  · contradiction
  · contradiction
  · contradiction
  · rw [if_pos h]

end

/-- Settles O48: each event of the module by what its unit does, and the steps of bring-up one by one. -/
theorem moduleEvents : Obligations.ModuleEvents := by
  unfold Obligations.ModuleEvents
  intro s
  refine ⟨rfl, fun die hdie => ?mismatch, fun d ds hheld => ?reload, fun h hs hhurt => ?serving, fun p ps hfrozen => ?unfreeze,
    fun hrun => ?panic, fun hpanic => ?restart, rfl, fun hstage => ?bring⟩
  case mismatch =>
    change execMonitorLockstepMismatch die s = _
    rw [execMonitorLockstepMismatch, if_neg (Nat.not_le.2 hdie)]
  case reload =>
    change execMonitorReload s = _
    simp only [execMonitorReload, hheld, List.isEmpty_cons, Bool.false_eq_true, if_false]
  case serving =>
    change execServingKernelRestart s = _
    simp only [execServingKernelRestart, hhurt, List.isEmpty_cons, Bool.false_eq_true, if_false]
  case unfreeze =>
    change execQueueUnfreeze s = _
    simp only [execQueueUnfreeze, hfrozen, List.isEmpty_cons, Bool.false_eq_true, if_false]
  case panic =>
    change execOsPanic s = _
    simp only [execOsPanic, hrun, Bool.false_eq_true, if_false]
    rfl
  case restart =>
    change execOsRestart s = _
    simp only [execOsRestart, hpanic, Bool.not_true, Bool.false_eq_true, if_false]
  case bring =>
    by_cases h3 : s.stage = 3
    · refine ⟨_, exec_bringUp_zero h3, rfl, fun _ => rfl, fun h => absurd h3 h, fun h => ?_, fun h => ?_⟩
      all_goals rw [h3] at h; exact absurd h (by decide)
    by_cases h5 : s.stage = 5
    · obtain ⟨hphys, hmon, hst⟩ := startMonitors_quiet (List.range 40) { s with stage := s.stage + 1 }
      refine ⟨_, exec_bringUp_monitors h5, hst, fun h => absurd h h3, fun _ _ => hphys, fun _ d hd => ?_, fun h => ?_⟩
      · rw [startMonitors_core, if_pos (List.mem_range.2 hd)]
        rfl
      · rw [h5] at h
        exact absurd h (by decide)
    by_cases h6 : s.stage = 6
    · refine ⟨_, exec_bringUp_load h6, rfl, fun h => absurd h h3, fun _ h => absurd h6 h, fun h => absurd h h5,
        fun _ => ⟨rfl, rfl, rfl, rfl, fun c hc => ?_⟩⟩
      simp only [State.core, lookupN_append, lookupN_map_cells _ _ (List.mem_range.2 hc)]
      rfl
    · exact ⟨_, exec_bringUp_plain hstage h3 h5 h6, rfl, fun h => absurd h h3, fun _ _ => rfl, fun h => absurd h h5,
        fun h => absurd h h6⟩

end Sys2Proof.Proofs
end


section
/-!
What an operation that acts on pending accesses may do (`Acts`): bytes and registers of a scope, waits that end, accesses that leave.
One rule per operation of the state.
-/

namespace Sys2Proof.Laws

open Sys2Proof.Machine Sys2Proof.Safety

/-! ### Scopes -/

/-- A scope within another. -/
structure Scope.Le (v w : Scope) : Prop where
  phys : ∀ pa, v.phys pa → w.phys pa := by exact fun _ h => h.elim
  astore : ∀ c o, v.astore c o → w.astore c o := by exact fun _ _ h => h.elim
  cstore : ∀ c o, v.cstore c o → w.cstore c o := by exact fun _ _ h => h.elim
  g : ∀ b n, v.g b n → w.g b n := by exact fun _ _ h => h.elim
  s : ∀ b n, v.s b n → w.s b n := by exact fun _ _ h => h.elim
  p : ∀ b n, v.p b n → w.p b n := by exact fun _ _ h => h.elim

section
variable {v w : Scope} {s t u : State} {a : Agent}

theorem Scope.empty_le (w : Scope) : Scope.Le {} w := {}

theorem Touches.mono (h : Touches v s t) (hle : Scope.Le v w) : Touches w s t where
  phys := fun pa hn => h.phys pa (fun hv => hn (hle.phys pa hv))
  astore := fun c o hn => h.astore c o (fun hv => hn (hle.astore c o hv))
  cstore := fun c o hn => h.cstore c o (fun hv => hn (hle.cstore c o hv))
  wstore := h.wstore
  gR := fun b n hn => h.gR b n (fun hv => hn (hle.g b n hv))
  sR := fun b n hn => h.sR b n (fun hv => hn (hle.s b n hv))
  preds := fun b n h7 hn => h.preds b n h7 (fun hv => hn (hle.p b n hv))
  handles := h.handles
  fstat := h.fstat
  who := h.who

/-! ### Regions, waits and pending accesses -/

/-- A context that waits on no object that it did not wait on before. -/
def WaitLe (c d : Ctx) : Prop := d.wait = c.wait ∨ ∀ r ph l q sc, d.wait ≠ .barrier r ph l q sc

theorem WaitLe.refl (c : Ctx) : WaitLe c c := .inl rfl

/-- The regions of the A-stores stand, no wait on an object begins, and no access becomes pending. -/
structure Keeps (s t : State) : Prop where
  base : ∀ c x, t.regionBase c x = s.regionBase c x
  waits : ∀ b, WaitLe (s.ctx b) (t.ctx b)
  pend : ∀ c q, q ∈ (t.core c).pend → ∃ g, { q with got := g } ∈ (s.core c).pend

theorem Keeps.refl (s : State) : Keeps s s := ⟨fun _ _ => rfl, fun _ => WaitLe.refl _, fun _ q hq => ⟨q.got, hq⟩⟩

theorem WaitLe.trans {c d e : Ctx} (h1 : WaitLe c d) (h2 : WaitLe d e) : WaitLe c e := by
  rcases h2 with h2 | h2
  · rcases h1 with h1 | h1
    · exact .inl (h2.trans h1)
    · exact .inr (fun r ph l q sc => h2 ▸ h1 r ph l q sc)
  · exact .inr h2

theorem Keeps.trans (h1 : Keeps s t) (h2 : Keeps t u) : Keeps s u where
  base := fun c x => (h2.base c x).trans (h1.base c x)
  waits := fun b => (h1.waits b).trans (h2.waits b)
  pend := fun c q hq => by
    obtain ⟨g, hg⟩ := h2.pend c q hq
    obtain ⟨g', hg'⟩ := h1.pend c _ hg
    exact ⟨g', hg'⟩

theorem WaitLe.waitedOn {r : ObjRef} {b : Agent} (h : WaitLe (s.ctx b) (t.ctx b)) (hw : waitedOn t b r) : waitedOn s b r := by
  obtain ⟨ph, l, d, sc, hw⟩ := hw
  rcases h with h | h
  · exact ⟨ph, l, d, sc, h ▸ hw⟩
  · exact absurd hw (h r ph l d sc)

/-- Two states whose cores have the same threads and workgroups. -/
theorem Keeps.of_cores (h : ∀ c, (t.core c).threads = (s.core c).threads ∧ (t.core c).wgs = (s.core c).wgs)
    (hpend : ∀ c q, q ∈ (t.core c).pend → ∃ g, { q with got := g } ∈ (s.core c).pend) : Keeps s t where
  base := fun c x => by rw [State.regionBase, State.regionBase, Core.wg, Core.wg, (h c).2]
  waits := fun b => by
    rw [ctx_of_cores h b]
    exact WaitLe.refl _
  pend := hpend

/-- A change of a core's threads or workgroups leaves the accesses of every core. -/
theorem pend_of_rest (h : ∀ c, restOf (t.core c) = restOf (s.core c)) (c : Nat) (q : Pending) (hq : q ∈ (t.core c).pend) :
    ∃ g, { q with got := g } ∈ (s.core c).pend := by
  have hp : (t.core c).pend = (s.core c).pend := (congrArg (fun k : Core => k.pend) (h c) :)
  exact ⟨q.got, hp ▸ hq⟩

theorem regionBase_modThread (s : State) (c n d x : Nat) (f : Thread → Thread) :
    (s.modCore c (fun k => k.modThread n f)).regionBase d x = s.regionBase d x := by
  rw [State.regionBase, State.regionBase]
  by_cases hd : d = c
  · rw [hd, core_modCore_self]
    rfl
  · rw [core_modCore_ne _ _ hd]

theorem regionBase_modLead (s : State) (c n d x : Nat) (f : Lead → Lead) :
    (s.modCore c (fun k => k.modLead n f)).regionBase d x = s.regionBase d x := by
  rw [State.regionBase, State.regionBase]
  by_cases hd : d = c
  · rw [hd, core_modCore_self, Core.wg, Core.wg, Core.modLead, Core.modWg, lookupN_modN]
    split
    · cases lookupN (s.core c).wgs x <;> rfl
    · rfl
  · rw [core_modCore_ne _ _ hd]

theorem regionBase_modCtx (s : State) (a : Agent) (f : Ctx → Ctx) (d x : Nat) : (s.modCtx a f).regionBase d x = s.regionBase d x := by
  obtain ⟨c, y⟩ := a
  cases y with
  | thread n => exact regionBase_modThread s c n d x _
  | lead n => exact regionBase_modLead s c n d x _

theorem Keeps.modThread (s : State) (c n : Nat) (f : Thread → Thread) (hf : ∀ t, WaitLe t.ctx (f t).ctx) :
    Keeps s (s.modCore c (fun k => k.modThread n f)) where
  base := fun d x => regionBase_modThread s c n d x f
  waits := fun b => by
    simp only [ctx_eq, thread?_modThread, lead?_modThread]
    split
    · cases s.thread? b with
      | none => exact WaitLe.refl _
      | some t => exact hf t
    · exact WaitLe.refl _
  pend := pend_of_rest (restOf_modThread s c n · f)

theorem Keeps.modLead (s : State) (c n : Nat) (f : Lead → Lead) (hf : ∀ l, WaitLe l.ctx (f l).ctx) :
    Keeps s (s.modCore c (fun k => k.modLead n f)) where
  base := fun d x => regionBase_modLead s c n d x f
  waits := fun b => by
    simp only [ctx_eq, thread?_modLead, lead?_modLead]
    cases s.thread? b with
    | some t => exact WaitLe.refl _
    | none =>
      split
      · cases s.lead? b with
        | none => exact WaitLe.refl _
        | some l => exact hf l
      · exact WaitLe.refl _
  pend := pend_of_rest (restOf_modLead s c n · f)

theorem Keeps.modCtx (s : State) (a : Agent) (f : Ctx → Ctx) (hf : ∀ c, WaitLe c (f c)) : Keeps s (s.modCtx a f) := by
  obtain ⟨c, x⟩ := a
  cases x with
  | thread n => exact Keeps.modThread s c n _ (fun t => hf t.ctx)
  | lead n => exact Keeps.modLead s c n _ (fun l => hf l.ctx)

/-! ### What an operation does -/

/-- Bytes and registers change in a scope only, and waits and accesses only end. -/
structure Acts (w : Scope) (s t : State) : Prop where
  touches : Touches w s t
  keeps : Keeps s t

theorem Acts.refl (s : State) : Acts w s s := ⟨Touches.refl s, Keeps.refl s⟩

theorem Acts.trans (h1 : Acts w s t) (h2 : Acts w t u) : Acts w s u := ⟨h1.touches.trans h2.touches, h1.keeps.trans h2.keeps⟩

theorem Acts.mono (h : Acts v s t) (hle : Scope.Le v w) : Acts w s t := ⟨h.touches.mono hle, h.keeps⟩

theorem Acts.quiet (h : Acts {} s t) : Acts w s t := h.mono (Scope.empty_le w)

theorem Acts.foldl {α : Type} (xs : List α) (f : State → α → State) (hf : ∀ s x, x ∈ xs → Acts w s (f s x)) (s : State) :
    Acts w s (xs.foldl f s) := by
  induction xs generalizing s with
  | nil => exact Acts.refl s
  | cons x xs ih => exact (hf s x List.mem_cons_self).trans (ih (fun s y hy => hf s y (List.mem_cons_of_mem _ hy)) _)

/-- A core whose threads, workgroups and stores are as before, and whose accesses are some of those before. -/
def SameRun (k l : Core) : Prop :=
  l.threads = k.threads ∧ l.wgs = k.wgs ∧ l.astore = k.astore ∧ l.cstore = k.cstore ∧ l.wstore = k.wstore
  ∧ ∀ q ∈ l.pend, ∃ g, { q with got := g } ∈ k.pend

theorem SameRun.refl (k : Core) : SameRun k k := ⟨rfl, rfl, rfl, rfl, rfl, fun q hq => ⟨q.got, hq⟩⟩

theorem SameHeld.sameRun {k l : Core} (h : SameHeld k l) : SameRun k l := by
  obtain ⟨h1, h2, h3, h4, h5, h6⟩ := h
  exact ⟨h1, h2, h3, h4, h5, fun q hq => ⟨q.got, h6 ▸ hq⟩⟩

theorem Acts.of_cores (hphys : t.phys = s.phys) (h : ∀ c, SameRun (s.core c) (t.core c)) : Acts w s t := by
  refine ⟨Touches.of_cores hphys (fun c => ?_), Keeps.of_cores (fun c => ?_) (fun c => ?_)⟩
  all_goals obtain ⟨h1, h2, h3, h4, h5, h6⟩ := h c
  · exact ⟨h1, h2, h3, h4, h5⟩
  · exact ⟨h1, h2⟩
  · exact h6

/-- Neither memory nor a core changes. -/
theorem Acts.outside (hphys : t.phys = s.phys) (hcores : t.cores = s.cores) : Acts w s t := by
  refine Acts.of_cores hphys (fun c => ?_)
  rw [State.core, State.core, hcores]
  exact SameRun.refl _

theorem core_modCore_sameRun (s : State) (c : Nat) (f : Core → Core) (hf : SameRun (s.core c) (f (s.core c))) (d : Nat) :
    SameRun (s.core d) ((s.modCore c f).core d) := by
  by_cases hd : d = c
  · rw [hd, core_modCore_self]
    exact hf
  · rw [core_modCore_ne _ _ hd]
    exact SameRun.refl _

theorem Acts.modCore (s : State) (c : Nat) (f : Core → Core) (hf : SameRun (s.core c) (f (s.core c))) : Acts w s (s.modCore c f) :=
  Acts.of_cores rfl (core_modCore_sameRun s c f hf)

theorem Acts.modCtx (s : State) (a : Agent) (f : Ctx → Ctx) (hwait : ∀ c, WaitLe c (f c))
    (hf : ∀ c, (∀ n < 7, ¬ w.p a n → (f c).preds.getLsbD n = c.preds.getLsbD n) ∧ (f c).handles = c.handles ∧ (f c).fstat = c.fstat) :
    Acts w s (s.modCtx a f) :=
  ⟨Touches.modCtx s a f hf, Keeps.modCtx s a f hwait⟩

theorem Acts.eachFresh (s : State) (f : FreshWrite → FreshWrite) : Acts w s (s.eachFresh f) := by
  refine Acts.of_cores rfl (fun c => ?_)
  rw [core_eachFresh]
  exact ⟨rfl, rfl, rfl, rfl, rfl, fun q hq => ⟨q.got, hq⟩⟩

/-! ### Counters, marks, copies and tables -/

theorem Acts.pick (s : State) (n : Nat) : Acts w s (s.pick n).2 := by
  unfold State.pick
  split
  · exact Acts.refl s
  · split
    · exact Acts.refl s
    · exact Acts.outside rfl rfl

theorem Acts.freeBytes (s : State) (n : Nat) : Acts w s (s.freeBytes n).2 := Acts.outside rfl rfl

theorem Acts.noteSoft (s : State) (ps : List (Nat × Nat)) : Acts w s (s.noteSoft ps) := Acts.outside rfl rfl

theorem Acts.report (s : State) (g : Option Nat) (x : Trap) (pc : DWord) (core : Nat) (i : IssueId) (l : Option Nat) :
    Acts w s (s.report g x pc core i l) := by
  cases g <;> exact Acts.outside rfl rfl

theorem Acts.endServed (s : State) (a : Agent) (x : Trap) (i : IssueId) : Acts w s (s.endServed a x i) := by
  unfold State.endServed
  split
  · exact Acts.report s _ _ _ _ _ _
  · exact Acts.refl s

theorem Acts.modCore_held (s : State) (c : Nat) (f : Core → Core) (hf : ∀ k, SameHeld k (f k)) : Acts w s (s.modCore c f) :=
  Acts.modCore s c f (hf _).sameRun

theorem Acts.perfEvent (s : State) (c ev : Nat) (vf : Option Nat) (n : Nat) : Acts w s (s.perfEvent c ev vf n) := by
  refine Acts.modCore_held s c _ (fun k => SameHeld.foldl _ _ (fun k i => ?_) k)
  simp only
  split
  · exact ⟨rfl, rfl, rfl, rfl, rfl, rfl⟩
  · exact SameHeld.refl k

theorem Acts.barEvent (s : State) (c : Nat) (v : Via) (r : ObjRef) : Acts w s (s.barEvent c v r) := by
  cases r with
  | glob pa => exact Acts.perfEvent s _ _ _ _
  | store d p off => exact Acts.refl s

theorem Acts.markDrop (s : State) (ends : List (Nat × Nat)) : Acts w s (s.markDrop ends) := by
  unfold State.markDrop
  simp only
  split
  · exact (Acts.pick s _).trans (Acts.outside rfl rfl)
  · exact Acts.refl s

theorem Acts.noteDrop (s : State) (c : Nat) (v : Via) (va : Nat) : Acts w s (s.noteDrop c v va) := by
  unfold State.noteDrop
  simp only
  split
  · split
    · exact Acts.refl s
    · exact Acts.markDrop s _
  · exact Acts.refl s

theorem Acts.fillTlb (s : State) (c : Nat) (v : Via) (va : Nat) : Acts w s (s.fillTlb c v va) := by
  unfold State.fillTlb
  split
  · split
    · exact Acts.refl s
    · split
      · exact Acts.modCore_held s c _ (fun _ => ⟨rfl, rfl, rfl, rfl, rfl, rfl⟩)
      · exact Acts.refl s
  · exact Acts.refl s

theorem Acts.l1Fill (s : State) (c pa n : Nat) (fresh : Bool) (cache : Nat) : Acts w s (s.l1Fill c pa n fresh cache) := by
  refine Acts.foldl _ _ (fun s i _ => ?_) s
  extract_lets sec
  split
  · exact Acts.modCore_held s c _ (fun _ => ⟨rfl, rfl, rfl, rfl, rfl, rfl⟩)
  · split
    · exact Acts.refl s
    · exact Acts.modCore_held s c _ (fun k => SameHeld.l1Mark k _ _ _)

theorem Acts.l1Drop (s : State) (c pa n : Nat) : Acts w s (s.modCore c (fun k => k.l1Drop pa n)) :=
  Acts.modCore_held s c _ (fun _ => ⟨rfl, rfl, rfl, rfl, rfl, rfl⟩)

/-! ### What agents observe and release -/

theorem Acts.publish (s : State) (a : Agent) (ch : Option Chan) (scope : Nat) : Acts w s (s.publish a ch scope) := Acts.eachFresh s _

theorem Acts.acquireAt (s : State) (c scope : Nat) : Acts w s (s.acquireAt c scope) := by
  unfold State.acquireAt
  split
  · exact Acts.modCore_held s c _ (fun _ => ⟨rfl, rfl, rfl, rfl, rfl, rfl⟩)
  · exact Acts.refl s

theorem Acts.acquire (s : State) (a : Agent) (scope : Nat) (ch : Option Chan) (rmt : Bool) : Acts w s (s.acquire a scope ch rmt) :=
  (Acts.acquireAt s _ _).trans (Acts.eachFresh _ _)

theorem Acts.meetBy (s : State) (p : Pending) : Acts w s (s.meetBy p) := by
  unfold State.meetBy
  split
  · exact Acts.acquire s _ _ _ _
  · split
    · exact Acts.eachFresh s _
    · exact Acts.refl s

theorem Acts.noteFresh (s : State) (c : Nat) (pl : Place) (bs : List Byte) (l : List AgentId) (op : Nat) (x : Option AgentId) :
    Acts w s (s.noteFresh c pl bs l op x) := by
  unfold State.noteFresh
  split
  · have hnext : Acts w s ({ s with nextOp := s.nextOp + 1 } : State) := Acts.outside rfl rfl
    refine hnext.trans (Acts.modCore_held _ c _ ?_)
    exact fun _ => ⟨rfl, rfl, rfl, rfl, rfl, rfl⟩
  · exact Acts.refl s

/-! ### Traps -/

theorem waitLe_supTrap (now : Nat) (t : TrapCode × Nat × DWord) (c : Ctx) : WaitLe c (Ctx.supTrap now t c) := by
  unfold Ctx.supTrap
  split
  · exact .inl rfl
  · exact .inr (fun r ph l q sc h => by cases h)

theorem supTrap_fields (now : Nat) (t : TrapCode × Nat × DWord) (c : Ctx) : (Ctx.supTrap now t c).preds = c.preds
    ∧ (Ctx.supTrap now t c).handles = c.handles ∧ (Ctx.supTrap now t c).fstat = c.fstat := by
  unfold Ctx.supTrap
  split <;> exact ⟨rfl, rfl, rfl⟩

theorem Acts.raiseAt (s : State) (a : Agent) (x : Trap) (pc : DWord) (i : IssueId) : Acts w s (s.raiseAt a x pc i) := by
  unfold State.raiseAt
  split
  · refine Acts.trans (Acts.modCtx s a _ (fun c => .inr ?_) ?_) (Acts.report _ _ _ _ _ _ _)
    · intro r ph l q sc
      dsimp only
      split <;> exact fun h => nomatch h
    · exact fun c => ⟨fun _ _ _ => rfl, rfl, rfl⟩
  · refine (Acts.endServed s a x i).trans (Acts.modCtx _ a _ (fun c => waitLe_supTrap _ _ c) (fun c => ?_))
    obtain ⟨h1, h2, h3⟩ := supTrap_fields s.clock (x.code, x.va, pc) c
    exact ⟨fun _ _ _ => by rw [h1], h2, h3⟩
  · exact Acts.modCtx s a _ (fun c => .inr (fun r ph l q sc h => nomatch h)) (fun c => ⟨fun _ _ _ => rfl, rfl, rfl⟩)

theorem Acts.countOut (s : State) (a : Agent) (k : Ctr) : Acts w s (s.countOut a k) :=
  Acts.modCtx s a _ (fun c => by cases k <;> exact WaitLe.refl c) (fun c => by cases k <;> exact ⟨fun _ _ _ => rfl, rfl, rfl⟩)

theorem Acts.retire (s : State) (p : Pending) : Acts w s (s.retire p) :=
  (Acts.modCore s _ _ ⟨rfl, rfl, rfl, rfl, rfl, fun q hq => ⟨q.got, (List.mem_filter.1 hq).1⟩⟩).trans (Acts.countOut _ _ _)

/-! ### Bytes -/

/-- Bytes within the scope change, and accesses end. -/
theorem Acts.of_bytes (hrun : ∀ c, (t.core c).threads = (s.core c).threads ∧ (t.core c).wgs = (s.core c).wgs
      ∧ (t.core c).wstore = (s.core c).wstore ∧ (t.core c).pend = (s.core c).pend)
    (hphys : ∀ pa, ¬ w.phys pa → t.phys.byte pa = s.phys.byte pa)
    (hastore : ∀ c o, ¬ w.astore c o → (t.core c).astore.byte o = (s.core c).astore.byte o)
    (hcstore : ∀ c o, ¬ w.cstore c o → (t.core c).cstore.byte o = (s.core c).cstore.byte o) : Acts w s t := by
  have hthread : ∀ b, t.thread? b = s.thread? b := fun b => by simp only [State.thread?, Core.thread, (hrun b.core).1]
  have hlead : ∀ b, t.lead? b = s.lead? b := fun b => by simp only [State.lead?, Core.wg, (hrun b.core).2.1]
  have hctx : ∀ b, t.ctx b = s.ctx b := fun b => by rw [ctx_eq t, ctx_eq s, hthread, hlead]
  refine ⟨?_, Keeps.of_cores (fun c => ⟨(hrun c).1, (hrun c).2.1⟩) (fun c q hq => ⟨q.got, (hrun c).2.2.2 ▸ hq⟩)⟩
  constructor
  case phys => exact hphys
  case astore => exact hastore
  case cstore => exact hcstore
  case wstore => exact fun c o => by rw [(hrun c).2.2.1]
  case gR => exact fun b n _ => by rw [gReg, gReg, hthread]
  case sR => exact fun b n _ => by rw [sReg, sReg, hlead]
  case preds => exact fun b n _ _ => by rw [hctx]
  case handles => exact fun b => by rw [hctx]
  case fstat => exact fun b => by rw [hctx]
  case who => exact fun b => ⟨by simp only [State.level, hthread], by simp only [State.place, hthread], by simp only [State.tidOf, hthread]⟩

/-- A physical write within the scope. -/
theorem Acts.physWrite (s : State) (pa : Nat) (bs : List Byte) (hw : ∀ k, pa ≤ k → k < pa + bs.length → w.phys k) :
    Acts w s (s.physWrite pa bs) :=
  Acts.of_bytes (fun _ => ⟨rfl, rfl, rfl, rfl⟩) (fun k hk => Mem.byte_write_outside _ _ (fun hin => hk (hw k hin.1 hin.2)))
    (fun _ _ _ => rfl) (fun _ _ _ => rfl)

theorem Acts.writePieces (s : State) (ps : List (Nat × Nat)) (bs : List Byte)
    (hw : ∀ q ∈ ps, ∀ k, q.1 ≤ k → k < q.1 + q.2 → w.phys k) : Acts w s (s.writePieces ps bs) := by
  induction ps generalizing s bs with
  | nil => exact Acts.refl s
  | cons q ps ih =>
    refine (Acts.physWrite s q.1 _ (fun k hlo hhi => hw q List.mem_cons_self k hlo ?_)).trans
      (ih _ _ (fun x hx => hw x (List.mem_cons_of_mem _ hx)))
    have : (bs.take q.2).length ≤ q.2 := List.length_take_le ..
    omega

/-- A write to a region of an A-store within the scope. -/
theorem Acts.storeWrite (s : State) (c p off : Nat) (bs : List Byte)
    (hw : ∀ k, s.regionBase c p + off ≤ k → k < s.regionBase c p + off + bs.length → w.astore c k) :
    Acts w s (s.storeWrite c p off bs) := by
  refine Acts.of_bytes (fun d => ?_) (fun _ _ => rfl) (fun d o hn => ?_) (fun d o _ => ?_)
  · rw [State.storeWrite, core_modCore]
    split
    · subst d
      exact ⟨rfl, rfl, rfl, rfl⟩
    · exact ⟨rfl, rfl, rfl, rfl⟩
  · exact byte_storeWrite s c p off d o bs (fun ⟨hd, hlo, hhi⟩ => hn (hd ▸ hw o hlo hhi))
  · rw [State.storeWrite, core_modCore]
    split
    · subst d
      rfl
    · rfl

/-- A write to a C-store within the scope. -/
theorem Acts.cWrite (s : State) (c off : Nat) (bs : List Byte) (hw : ∀ k, off ≤ k → k < off + bs.length → w.cstore c k) :
    Acts w s (s.modCore c (fun k => k.cWrite off bs)) := by
  refine Acts.of_bytes (fun d => ?_) (fun _ _ => rfl) (fun d o _ => ?_) (fun d o hn => ?_)
  · rw [core_modCore]
    split
    · subst d
      exact ⟨rfl, rfl, rfl, rfl⟩
    · exact ⟨rfl, rfl, rfl, rfl⟩
  · rw [core_modCore]
    split
    · subst d
      rfl
    · rfl
  · rw [core_modCore]
    split
    · subst d
      exact Mem.byte_write_outside _ _ (fun hin => hn (hw o hin.1 hin.2))
    · rfl

/-! ### Barrier objects -/

/-- The scope holds the bytes of an object. -/
structure Scope.HasObj (w : Scope) (s : State) (r : ObjRef) : Prop where
  glob : ∀ pa, atGlobObj (· = r) pa → w.phys pa
  store : ∀ c o, atStoreObj s (· = r) c o → w.astore c o

theorem Scope.HasObj.of_base {r : ObjRef} (h : w.HasObj s r) (hbase : ∀ c x, t.regionBase c x = s.regionBase c x) : w.HasObj t r where
  glob := h.glob
  store := fun c o ⟨x, off, hr, hlo, hhi⟩ => h.store c o ⟨x, off, hr, hbase c x ▸ hlo, hbase c x ▸ hhi⟩

theorem Scope.HasObj.keeps {r : ObjRef} (h : w.HasObj s r) (hk : Keeps s t) : w.HasObj t r := h.of_base hk.base

/-- An object written, as 16 bytes. -/
theorem Acts.objBytes {r : ObjRef} (s : State) (c : Nat) {bs : List Byte} (hlen : bs.length = 16) (hw : w.HasObj s r) :
    Acts w s (match r with
      | .glob pa => (s.physWrite pa bs).modCore c (fun k => k.l1Drop pa 16)
      | .store d p off => s.storeWrite d p off bs) := by
  cases r with
  | glob pa =>
    refine (Acts.physWrite s pa bs (fun k hlo hhi => hw.glob k ⟨pa, rfl, hlo, ?_⟩)).trans (Acts.l1Drop _ c pa 16)
    rwa [hlen] at hhi
  | store d p off =>
    refine Acts.storeWrite s d p off bs (fun k hlo hhi => hw.store d k ⟨p, off, rfl, hlo, ?_⟩)
    rwa [hlen] at hhi

theorem Acts.objWrite {r : ObjRef} (s : State) (c : Nat) (o : Obj) (hw : w.HasObj s r) : Acts w s (s.objWrite c r o) := by
  have h := Acts.objBytes (r := r) (bs := o.bytes) s c (Proofs.length_leBytes 16 _) hw
  cases r <;> exact h

theorem Acts.spoilObj {r : ObjRef} (s : State) (c : Nat) (spoiled : Bool) (hw : w.HasObj s r) : Acts w s (s.spoilObj c r spoiled) := by
  unfold State.spoilObj
  split
  · have hfree : Acts w s (s.freeBytes 16).2 := Acts.freeBytes s 16
    have h := Acts.objBytes (r := r) (s.freeBytes 16).2 c (bs := (s.freeBytes 16).1) (by simp [State.freeBytes]) (hw.keeps hfree.keeps)
    cases r <;> exact hfree.trans h
  · exact Acts.refl s

theorem Acts.refreshWaiters {r : ObjRef} (s : State) (c : Nat) (hw : w.HasObj s r) : Acts w s (s.refreshWaiters c r) := by
  unfold State.refreshWaiters
  split
  · exact Acts.refl s
  · exact Acts.objWrite s c _ hw

/-- A trap of an operation issued earlier: the object that its agent waits on is written (R230). -/
theorem Acts.failAt (s : State) (a : Agent) (x : Trap) (pc : DWord) (i : IssueId) (hw : ∀ r, waitedOn s a r → w.HasObj s r) :
    Acts w s (s.failAt a x pc i) := by
  have hraise : Acts w s (s.raiseAt a x pc i) := Acts.raiseAt s a x pc i
  unfold State.failAt
  simp only
  split
  · rename_i r ph l d sc hwait
    exact hraise.trans (Acts.refreshWaiters _ _ ((hw r ⟨ph, l, d, sc, hwait⟩).keeps hraise.keeps))
  · exact hraise

theorem Acts.opTraps (s : State) (p : Pending) (x : Trap) (hw : ∀ r, waitedOn s p.agent r → w.HasObj s r) : Acts w s (s.opTraps p x) := by
  have hretire : Acts w s (s.retire p) := Acts.retire s p
  exact hretire.trans (Acts.failAt _ _ _ _ _ (fun r hr => (hw r ((hretire.keeps.waits _).waitedOn hr)).keeps hretire.keeps))

theorem Acts.opFails (s : State) (p : Pending) (x : Trap) (hw : ∀ r, waitedOn s p.agent r → w.HasObj s r) : Acts w s (s.opFails p x) := by
  unfold State.opFails
  cases p.place with
  | glob va =>
    have hdrop : Acts w s (s.noteDrop p.agent.core p.via (if p.isStep || p.isText then x.va else va)) := Acts.noteDrop s _ _ _
    exact hdrop.trans (Acts.opTraps _ _ _ (fun r hr => (hw r ((hdrop.keeps.waits _).waitedOn hr)).keeps hdrop.keeps))
  | store c p' a => exact Acts.opTraps s p x hw
  | cstore a => exact Acts.opTraps s p x hw
  | wstore a => exact Acts.opTraps s p x hw

/-! ### Values that come back -/

theorem Keeps.dropS (s : State) (c q i : Nat) : Keeps s (s.modCore c (fun k => k.dropS q i)) where
  base := fun d x => by
    rw [State.regionBase, State.regionBase]
    by_cases hd : d = c
    · rw [hd, core_modCore_self]
      rfl
    · rw [core_modCore_ne _ _ hd]
  waits := fun b => by
    have hdrop : Writes [] [] none false s (s.modCore c (fun k => k.dropS q i)) := Writes.dropS s c q i
    exact .inl (hdrop.ctx_others (fun hb => nomatch hb) (·.wait) (fun _ => rfl))
  pend := fun d r hr => by
    have hdrop : Writes [] [] none false s (s.modCore c (fun k => k.dropS q i)) := Writes.dropS s c q i
    exact pend_of_rest hdrop.rest d r hr

theorem Keeps.writeG (s : State) (a : Agent) (i n v : Nat) : Keeps s (s.writeG a i n v) := by
  obtain ⟨c, x⟩ := a
  cases x with
  | thread m => exact Keeps.modThread s c m _ (fun t => .inl rfl)
  | lead m => exact Keeps.refl s

theorem Keeps.writeS (s : State) (a : Agent) (i v : Nat) : Keeps s (s.writeS a i v) := by
  obtain ⟨c, x⟩ := a
  cases x with
  | thread m => exact Keeps.refl s
  | lead m =>
    refine Keeps.trans (Keeps.modLead s c m _ (fun l => ?_)) (Keeps.dropS _ c m i)
    exact .inl rfl

theorem Keeps.putD (s : State) (a : Agent) (d : Opnd) (n v : Nat) : Keeps s (s.putD a d n v) := by
  cases d with
  | g i => exact Keeps.writeG s a _ _ _
  | s i => exact Keeps.writeS s a _ _
  | lit i => exact Keeps.refl s
  | imm i => exact Keeps.refl s

/-- The scope holds the registers of a span of an agent. -/
structure Scope.HasSpan (w : Scope) (a : Agent) (sp : List Span) : Prop where
  g : ∀ n, ¬ outside sp false n → w.g a n
  s : ∀ n, ¬ outside sp true n → w.s a n

theorem Acts.putD (s : State) (a : Agent) (d : Opnd) (n v : Nat) (hw : w.HasSpan a (spanOf n d)) : Acts w s (s.putD a d n v) := by
  have h : Writes [a] (spanOf n d) none false s (s.putD a d n v) := Writes.putD s a d n v
  refine ⟨Touches.of_writes h (fun b k hk => ?_) (fun b k hk => ?_) (fun b k _ => .inl (fun hx => nomatch hx)), Keeps.putD s a d n v⟩
  · by_cases hb : b = a
    · subst hb
      exact .inl (Classical.not_not.1 (fun hn => hk (hw.g k hn)))
    · exact .inr (fun hx => hb (List.mem_singleton.1 hx))
  · by_cases hb : b = a
    · subst hb
      exact .inl (Classical.not_not.1 (fun hn => hk (hw.s k hn)))
    · exact .inr (fun hx => hb (List.mem_singleton.1 hx))

theorem Acts.giveBack (s : State) (p : Pending) (d : Opnd) (n v : Nat) (hw : w.HasSpan p.agent (spanOf n d)) :
    Acts w s (s.giveBack p d n v) := by
  unfold State.giveBack
  split
  · exact Acts.putD s _ _ _ _ hw
  · exact Acts.refl s

theorem writeP_wait (c : Ctx) (n : Nat) (b : Bool) : (c.writeP n b).wait = c.wait := by
  unfold Ctx.writeP
  split
  · rfl
  · unfold Ctx.dropBit
    split
    · split <;> rfl
    · rfl

theorem Acts.writeP (s : State) (a : Agent) (n : Nat) (b : Bool) (hw : w.p a n) : Acts w s (s.writeP a n b) := by
  have h : Writes [a] [] (some n) false s (s.writeP a n b) := Writes.writeP s a n b
  refine ⟨Touches.of_writes h (fun b k _ => .inl (fun _ hx => nomatch hx)) (fun b k _ => .inl (fun _ hx => nomatch hx)) (fun b k hk => ?_),
    Keeps.modCtx s a _ (fun c => .inl (writeP_wait c n b))⟩
  by_cases hb : b = a
  · subst hb
    exact .inl (fun hn => hk (Option.some.inj hn ▸ hw))
  · exact .inr (fun hx => hb (List.mem_singleton.1 hx))

/-! ### The end of a phase -/

/-- The cores and the saved teams after the waiters on an object have woken. -/
def wakeCtxs (r : ObjRef) (s : State) : State :=
  { s with cores := s.cores.map (fun k => (k.1, (k.2.wakeL1 r).mapCtx (Ctx.wake r))),
           grids := s.grids.map (fun g => (g.1, { g.2 with
             skeins := g.2.skeins.map (fun k => (k.1, k.2.mapCtx (Ctx.wake r))) })) }

theorem wakeAll_eq (s : State) (r : ObjRef) : s.wakeAll r = wakeCtxs r (s.wakeSeen r) := rfl

theorem core_wakeCtxs (r : ObjRef) (s : State) (c : Nat) :
    (wakeCtxs r s).core c = ((s.core c).wakeL1 r).mapCtx (Ctx.wake r) := by
  have h := lookupN_map s.cores c (fun _ k => (Core.wakeL1 k r).mapCtx (Ctx.wake r))
  unfold State.core wakeCtxs
  rw [show lookupN (s.cores.map (fun k => (k.1, (Core.wakeL1 k.2 r).mapCtx (Ctx.wake r)))) c = _ from h]
  cases lookupN s.cores c <;> rfl

theorem SameHeld.wakeL1 (k : Core) (r : ObjRef) : SameHeld k (k.wakeL1 r) := by
  unfold Core.wakeL1
  split
  · exact ⟨rfl, rfl, rfl, rfl, rfl, rfl⟩
  · exact SameHeld.refl k

theorem thread?_wakeCtxs (r : ObjRef) (s : State) (b : Agent) :
    (wakeCtxs r s).thread? b = (s.thread? b).map (fun t => { t with ctx := Ctx.wake r t.ctx }) := by
  obtain ⟨c, x⟩ := b
  cases x with
  | lead n => rfl
  | thread n =>
    obtain ⟨hthreads, -⟩ := SameHeld.wakeL1 (s.core c) r
    simp only [State.thread?, core_wakeCtxs, Core.thread, Core.mapCtx, hthreads]
    exact lookupN_map (s.core c).threads n (fun _ (t : Thread) => { t with ctx := Ctx.wake r t.ctx })

theorem wg_wakeCtxs (r : ObjRef) (s : State) (c x : Nat) : ((wakeCtxs r s).core c).wg x
    = ((s.core c).wg x).map (fun k => { k with lead := k.lead.map (fun (l : Lead) => { l with ctx := Ctx.wake r l.ctx }) }) := by
  obtain ⟨-, hwgs, -⟩ := SameHeld.wakeL1 (s.core c) r
  simp only [core_wakeCtxs, Core.wg, Core.mapCtx, hwgs]
  exact lookupN_map (s.core c).wgs x (fun _ (k : Wg) => { k with lead := k.lead.map (fun (l : Lead) => { l with ctx := Ctx.wake r l.ctx }) })

theorem lead?_wakeCtxs (r : ObjRef) (s : State) (b : Agent) :
    (wakeCtxs r s).lead? b = (s.lead? b).map (fun l => { l with ctx := Ctx.wake r l.ctx }) := by
  obtain ⟨c, x⟩ := b
  cases x with
  | thread n => rfl
  | lead n =>
    simp only [State.lead?, wg_wakeCtxs]
    cases (s.core c).wg n <;> rfl

theorem wake_default (r : ObjRef) : Ctx.wake r {} = {} := rfl

theorem ctx_wakeCtxs (r : ObjRef) (s : State) (b : Agent) : (wakeCtxs r s).ctx b = Ctx.wake r (s.ctx b) := by
  rw [ctx_eq (wakeCtxs r s), ctx_eq s, thread?_wakeCtxs, lead?_wakeCtxs]
  cases s.thread? b with
  | some t => rfl
  | none => cases s.lead? b <;> rfl

theorem wake_fields (r : ObjRef) (c : Ctx) : (Ctx.wake r c).handles = c.handles ∧ (Ctx.wake r c).fstat = c.fstat := by
  unfold Ctx.wake
  split
  · split
    · unfold Ctx.writeP
      split
      · exact ⟨rfl, rfl⟩
      · unfold Ctx.dropBit
        split
        · split <;> exact ⟨rfl, rfl⟩
        · exact ⟨rfl, rfl⟩
    · exact ⟨rfl, rfl⟩
  · exact ⟨rfl, rfl⟩

/-- A context that a wake changes waits on the object. -/
theorem wake_other (r : ObjRef) (c : Ctx) (h : ∀ ph l d sc, c.wait ≠ .barrier r ph l d sc) : Ctx.wake r c = c := by
  unfold Ctx.wake
  split
  · rename_i o ph l d sc hwait
    rw [if_neg]
    intro ho
    exact h ph l d sc (beq_iff_eq.1 ho ▸ hwait)
  · rfl

theorem waitLe_wake (r : ObjRef) (c : Ctx) : WaitLe c (Ctx.wake r c) := by
  unfold Ctx.wake
  split
  · split
    · exact .inr (fun _ _ _ _ _ h => nomatch h)
    · exact WaitLe.refl c
  · exact WaitLe.refl c

theorem Acts.wakeCtxs {r : ObjRef} (s : State) (hw : ∀ b n, waitedOn s b r → w.p b n) : Acts w s (Laws.wakeCtxs r s) := by
  have hcore : ∀ c, ((Laws.wakeCtxs r s).core c).astore = (s.core c).astore ∧ ((Laws.wakeCtxs r s).core c).cstore = (s.core c).cstore
      ∧ ((Laws.wakeCtxs r s).core c).wstore = (s.core c).wstore ∧ ((Laws.wakeCtxs r s).core c).pend = (s.core c).pend := by
    intro c
    obtain ⟨-, -, h1, h2, h3, h4⟩ := SameHeld.wakeL1 (s.core c) r
    rw [core_wakeCtxs]
    exact ⟨h1, h2, h3, h4⟩
  refine ⟨?_, ?base, fun b => ?_, fun c q hq => ⟨q.got, (hcore c).2.2.2 ▸ hq⟩⟩
  case base =>
    intro c x
    rw [State.regionBase, State.regionBase, wg_wakeCtxs]
    cases (s.core c).wg x <;> rfl
  constructor
  case phys => exact fun _ _ => rfl
  case astore => exact fun c o _ => by rw [(hcore c).1]
  case cstore => exact fun c o _ => by rw [(hcore c).2.1]
  case wstore => exact fun c o => by rw [(hcore c).2.2.1]
  case gR =>
    intro b n _
    rw [gReg, gReg, thread?_wakeCtxs]
    cases s.thread? b <;> rfl
  case sR =>
    intro b n _
    rw [sReg, sReg, lead?_wakeCtxs]
    cases s.lead? b <;> rfl
  case preds =>
    intro b n _ hn
    rw [ctx_wakeCtxs, wake_other r _ (fun ph l d sc hwait => hn (hw b n ⟨ph, l, d, sc, hwait⟩))]
  case handles => exact fun b => by rw [ctx_wakeCtxs, (wake_fields r _).1]
  case fstat => exact fun b => by rw [ctx_wakeCtxs, (wake_fields r _).2]
  case who =>
    intro b
    simp only [State.level, State.place, State.tidOf, thread?_wakeCtxs]
    cases s.thread? b <;> exact ⟨rfl, rfl, rfl⟩
  · rw [ctx_wakeCtxs]
    exact waitLe_wake r _

theorem Acts.wakeSeen (s : State) (r : ObjRef) : Acts w s (s.wakeSeen r) := Acts.foldl _ _ (fun s _ _ => Acts.eachFresh s _) s

/-- The woken of an object: their predicates, and nothing else. -/
theorem Acts.wakeAll {r : ObjRef} (s : State) (hw : ∀ b n, waitedOn s b r → w.p b n) : Acts w s (s.wakeAll r) := by
  have hseen : Acts w s (s.wakeSeen r) := Acts.wakeSeen s r
  exact hseen.trans (Acts.wakeCtxs _ (fun b n hb => hw b n ((hseen.keeps.waits b).waitedOn hb)))

theorem Acts.objDone {r : ObjRef} (s : State) (c : Nat) (o : Obj) (adv : Bool) (hobj : w.HasObj s r)
    (hw : ∀ b n, waitedOn s b r → w.p b n) : Acts w s (s.objDone c r o adv) := by
  unfold State.objDone
  split
  · have hwrite : Acts w s (s.objWrite c r { o with waiters := 0 }) := Acts.objWrite s c _ hobj
    exact hwrite.trans (Acts.wakeAll _ (fun b n hb => hw b n ((hwrite.keeps.waits b).waitedOn hb)))
  · exact Acts.objWrite s c _ hobj

end

end Sys2Proof.Laws
end


section
/-!
The frame of the barrier forms: at their issue, at the object's home, and of a `BWAIT` (spec/11; O58).
-/

namespace Sys2Proof.Proofs

open Sys2Proof.Machine Sys2Proof.Safety Sys2Proof.Laws

/-! ### At the issue -/

section
variable (a : Agent) (s : State)

theorem issues_barFails (f : MForm) (x : Trap) : LaneOut.Issues a s (s.barFails a f x) := by
  unfold State.barFails
  split
  · exact (Issues.noteDrop s _ _ _).trans (Issues.of_writes (Writes.raise _ a x))
  · trivial

theorem issues_barrierOut (f : MForm) (k : BarKind) (d : Opnd) (pred : Nat) (ctr : Ctr) :
    LaneOut.Issues a s (barrierOut a f k d pred ctr s) := by
  unfold barrierOut
  split
  · exact issues_barFails a s f _
  · exact issues_post a s _ _ _ _ _ _ _

theorem issues_binitOut (f : MForm) : LaneOut.Issues a s (binitOut f a s) := by
  unfold binitOut
  split
  · exact issues_barFails a s f _
  · split
    · trivial
    · exact issues_barrierOut a s f _ _ _ _

end

theorem issues_barrier {f : MForm} {i : Instr} {x : Issue} {s t : State}
    (hi : i ∈ [Instr.binit f, .barv f, .bexp f, .btest f, .bexit f, .binval f]) (hcur : s.cur = some x) (hexec : exec i s = .next t) :
    Issues x.agents s t := by
  simp only [List.mem_cons, List.not_mem_nil, or_false] at hi
  rcases hi with rfl | rfl | rfl | rfl | rfl | rfl
  · exact Issues.perLane hcur (fun a s => issues_binitOut a s f) hexec
  all_goals exact Issues.perLane hcur (fun a s => issues_barrierOut a s f _ _ _ _) hexec

/-! ### At the object's home -/

/-- What a barrier form may change when it acts on its object: the object, its destination, the predicate of its agent and those of the
agents that it wakes. -/
def barScope (s : State) (p : Pending) (r : ObjRef) (own : List Span) (q : Nat) : Scope where
  phys := atGlobObj (· = r)
  astore := atStoreObj s (· = r)
  g := fun b n => b = p.agent ∧ ¬ outside own false n
  s := fun b n => b = p.agent ∧ ¬ outside own true n
  p := fun b n => waitedOn s b r ∨ (b = p.agent ∧ n = q)

section
variable {s t : State} {core op : Nat} {p : Pending}

theorem performSet_next {name : String} (h : s.performSet p name = .next t) :
    t = ((s.core p.agent.core).atomicSet p).foldl (fun u q => u.perform q) s := by
  unfold State.performSet at h
  simp only at h
  split at h
  · exact (Host.Outcome.next.inj h).symm
  · cases h

/-- A barrier form that goes alone acts as its kind says, whichever operation performs it. -/
theorem performBar_of_exec {k : BarKind} {r : ObjRef} {d : Opnd} {q : Nat} (hready : s.readyOp core op = some p)
    (hkind : p.kind = .bar k r d q) (halone : (s.core p.agent.core).atomicSet p = [p])
    (hexec : exec (.loadReturn core op) s = .next t ∨ exec (.storePerformed core op) s = .next t) : t = s.performBar p k r d q := by
  have hset : ∀ name, s.performSet p name = .next t → t = s.performBar p k r d q := by
    intro name h
    have ht := performSet_next h
    simp only [halone, List.foldl, State.perform, hkind] at ht
    exact ht
  rcases hexec with h | h
  · change execLoadReturn core op s = _ at h
    simp only [execLoadReturn, hready, Pending.isLoad, Pending.isStep, Pending.isText, Pending.isBar, hkind, Bool.or_self,
      Bool.false_eq_true, if_false, Bool.true_and] at h
    split at h
    · exact hset _ h
    · cases h
  · change execStorePerformed core op s = _ at h
    simp only [execStorePerformed, hready, hkind] at h
    split at h
    · exact hset _ h
    · cases h

end

section
variable {s : State} {p : Pending} {k : BarKind} {r : ObjRef} {d : Opnd} {q : Nat} {w : Scope} {t u : State}

/-- The scope holds what a barrier form of an agent writes in a state. -/
structure Scope.HasBar (w : Scope) (s : State) (p : Pending) (r : ObjRef) (d : Opnd) (q : Nat) : Prop where
  obj : w.HasObj s r
  span : w.HasSpan p.agent (spanOf 32 d)
  pred : w.p p.agent q
  woken : ∀ b n, waitedOn s b r → w.p b n

theorem Scope.HasBar.keeps (h : Scope.HasBar w s p r d q) (hk : Keeps s t) : Scope.HasBar w t p r d q :=
  ⟨h.obj.keeps hk, h.span, h.pred, fun b n hb => h.woken b n ((hk.waits b).waitedOn hb)⟩

theorem acts_barResult (h : Scope.HasBar w s p r d q) (v : Bool) : Acts w s (barResult p q s v) := by
  unfold barResult
  split
  · exact (Acts.writeP s _ _ _ h.pred).trans (Acts.retire _ p)
  · exact Acts.retire s p

/-- An effect on the object, then the result. -/
theorem acts_then_barResult (h : Acts w s u) (hw : Scope.HasBar w s p r d q) (v : Bool) : Acts w s (barResult p q u v) :=
  h.trans (acts_barResult (hw.keeps h.keeps) v)

theorem acts_objDone (h : Acts w s u) (hw : Scope.HasBar w s p r d q) (c : Nat) (o : Obj) (adv : Bool) : Acts w s (u.objDone c r o adv) :=
  h.trans (Acts.objDone u c o adv (hw.keeps h.keeps).obj (hw.keeps h.keeps).woken)

theorem acts_objWrite (h : Acts w s u) (hw : Scope.HasBar w s p r d q) (c : Nat) (o : Obj) : Acts w s (u.objWrite c r o) :=
  h.trans (Acts.objWrite u c o (hw.keeps h.keeps).obj)

/-- What a barrier form does at its home: it traps, or acts within its scope. -/
theorem performBar_acts (hw : Scope.HasBar w s p r d q) :
    s.performBar p k r d q = (s.spoilObj p.agent.core r p.undef).opFails p ⟨.barBad, 0⟩
    ∨ s.performBar p k r d q = (s.spoilObj p.agent.core r p.undef).opFails p ⟨.eccUe, 0⟩
    ∨ Acts w s (s.performBar p k r d q) := by
  have hspoil : Acts w s (s.spoilObj p.agent.core r p.undef) := Acts.spoilObj s _ _ hw.obj
  have hw' := hw.keeps hspoil.keeps
  unfold State.performBar
  dsimp only
  generalize s.spoilObj p.agent.core r p.undef = u at hspoil hw' ⊢
  have hfreed : Acts w u (u.publish p.agent (some (.at_ r)) p.scope.toNat) := Acts.publish u _ _ _
  split
  · exact .inr (.inl rfl)
  cases k with
  | binit n =>
    dsimp only
    split
    · exact .inl rfl
    · exact .inr (.inr (hspoil.trans ((acts_objWrite hfreed hw' _ _).trans (Acts.retire _ p))))
  | barv n =>
    dsimp only
    split
    · refine .inr (.inr (hspoil.trans ?_))
      exact acts_then_barResult ((acts_objDone hfreed hw' _ _ _).trans (Acts.giveBack _ p d _ _ hw'.span)) hw' _
    · exact .inl rfl
  | bexp n =>
    dsimp only
    split
    · exact .inr (.inr (hspoil.trans ((acts_objDone (Acts.refl u) hw' _ _ _).trans (Acts.retire _ p))))
    · exact .inl rfl
  | btest ph =>
    dsimp only
    refine .inr (.inr (hspoil.trans ?_))
    refine acts_then_barResult (Acts.trans ?_ (Acts.giveBack _ p d _ _ hw'.span)) hw' _
    split
    · exact Acts.acquire u _ _ _ _
    · exact Acts.refl u
  | bexit =>
    dsimp only
    split
    · refine .inr (.inr (hspoil.trans ?_))
      split
      · exact acts_then_barResult (acts_objWrite hfreed hw' _ _) hw' _
      · exact acts_then_barResult (acts_objDone hfreed hw' _ _ _) hw' _
    · exact .inl rfl
  | binval =>
    dsimp only
    split
    · refine .inr (.inr (hspoil.trans ?_))
      split
      · exact acts_then_barResult (acts_objWrite (Acts.refl u) hw' _ _) hw' _
      · exact acts_barResult hw' _
    · exact .inl rfl

end

/-! ### `BWAIT` -/

section
variable {s : State} {a : Agent} {f : MForm} {r : ObjRef}

theorem ctx_modCore (s : State) (c : Nat) (g : Core → Core) (hg : (g (s.core c)).threads = (s.core c).threads
    ∧ (g (s.core c)).wgs = (s.core c).wgs) (b : Agent) : (s.modCore c g).ctx b = s.ctx b := by
  refine ctx_of_cores (fun d => ?_) b
  rw [core_modCore]
  split
  · subst d
    exact hg
  · exact ⟨rfl, rfl⟩

theorem perfEvent_runs (s : State) (c ev : Nat) (v : Option Nat) (n : Nat) (b : Agent) : (s.perfEvent c ev v n).ctx b = s.ctx b := by
  unfold State.perfEvent
  refine ctx_modCore s c _ ?_ b
  generalize List.range 8 = is
  generalize s.core c = k
  induction is generalizing k with
  | nil => exact ⟨rfl, rfl⟩
  | cons i is ih =>
    obtain ⟨h1, h2⟩ := ih (if (getR k.pcsel i).toNat % 256 = ev ∧ ev ≠ 0
      ∧ ((getR k.pcsel i).toNat / 2 ^ 22 % 2 = 0 ∨ v = some ((getR k.pcsel i).toNat / 2 ^ 16 % 64))
      then { k with pcnt := setR k.pcnt i (getR k.pcnt i + BitVec.ofNat 64 n) } else k)
    refine ⟨h1.trans ?_, h2.trans ?_⟩
    all_goals split <;> rfl

theorem ctx_barEvent (s : State) (c : Nat) (v : Via) (r : ObjRef) (b : Agent) : (s.barEvent c v r).ctx b = s.ctx b := by
  cases r with
  | glob pa => exact perfEvent_runs s _ _ _ _ b
  | store d p off => rfl

theorem ctx_spoilObj (s : State) (c : Nat) (r : ObjRef) (spoiled : Bool) (b : Agent) : (s.spoilObj c r spoiled).ctx b = s.ctx b := by
  unfold State.spoilObj
  split
  · cases r with
    | glob pa => exact ctx_modCore _ c _ ⟨rfl, rfl⟩ b
    | store d p off => exact ctx_modCore _ d _ ⟨rfl, rfl⟩ b
  · rfl

theorem touches_enterWait {w : Scope} (s : State) (a : Agent) : Touches w s (s.enterWait a) := by
  unfold State.enterWait
  split
  · split
    · exact Touches.of_quiet (Writes.modThread s _ _ _ (fun _ => ⟨rfl, rfl, rfl⟩) (fun t => CtxWrites.refl t.ctx) (fun _ _ _ => rfl))
    · exact Touches.refl s
  · exact Touches.refl s

theorem regionBase_enterWait (s : State) (a : Agent) (d x : Nat) : (s.enterWait a).regionBase d x = s.regionBase d x := by
  unfold State.enterWait
  split
  · split
    · exact regionBase_modThread s _ _ d x _
    · rfl
  · rfl

/-- What a `BWAIT` may change after what its core had pending: the object and its predicate. -/
def bwaitScope (s : State) (a : Agent) (r : ObjRef) (q : Nat) : Scope where
  phys := atGlobObj (· = r)
  astore := atStoreObj s (· = r)
  p := fun b n => b = a ∧ n = q

/-- A wait that begins changes no byte and no register. -/
theorem touches_park {w : Scope} (s : State) (a : Agent) (x : Wait) : Touches w s (s.park a x) := by
  refine Touches.modCtx s a _ (fun c => ?_)
  split <;> exact ⟨fun _ _ _ => rfl, rfl, rfl⟩

theorem regionBase_park (s : State) (a : Agent) (x : Wait) (d y : Nat) : (s.park a x).regionBase d y = s.regionBase d y :=
  regionBase_modCtx s a _ d y

/-- The lane of a `BWAIT` whose object passes its checks. -/
theorem bwaitOut_cases (hobj : s.barObject a f = .ok r) :
    bwaitOut f a s = .trap ⟨.barBad, 0⟩ ∨ bwaitOut f a s = .trap ⟨.eccUe, 0⟩
    ∨ (((s.flush a.core).ctx a).wait ≠ .run ∧ bwaitOut f a s = .stay (bwaitHome f r a s))
    ∨ (((s.flush a.core).ctx a).wait = .run ∧ ∃ u, Touches (bwaitScope (s.flush a.core) a r f.cm.d.num) (s.flush a.core) u
      ∧ (bwaitOut f a s = .done u ∨ bwaitOut f a s = .stay u)) := by
  have hctx : ((bwaitHome f r a s).ctx a).wait = ((s.flush a.core).ctx a).wait := by
    rw [bwaitHome, ctx_spoilObj, ctx_barEvent]
  have hobjScope : (bwaitScope (s.flush a.core) a r f.cm.d.num).HasObj (s.flush a.core) r := ⟨fun _ h => h, fun _ _ h => h⟩
  have hevent : Acts (bwaitScope (s.flush a.core) a r f.cm.d.num) (s.flush a.core) ((s.flush a.core).barEvent a.core (s.viaOf a) r) :=
    Acts.barEvent _ _ _ _
  have hhome : Acts (bwaitScope (s.flush a.core) a r f.cm.d.num) (s.flush a.core) (bwaitHome f r a s) :=
    hevent.trans (Acts.spoilObj _ _ _ (hobjScope.keeps hevent.keeps))
  by_cases hrun : ((s.flush a.core).ctx a).wait = .run
  · have hrun' := hctx.trans hrun
    cases hhurt : (bwaitHome f r a s).objHurt r with
    | true => exact .inr (.inl (bwaitOut_hurt hobj hrun' hhurt))
    | false =>
      cases hsound : ((bwaitHome f r a s).objRead r).consistent with
      | false => exact .inl (bwaitOut_inconsistent hobj hrun' hhurt hsound)
      | true =>
        refine .inr (.inr (.inr ⟨hrun, ?_⟩))
        have henter := hhome.touches.trans (touches_enterWait (bwaitHome f r a s) a)
        by_cases hphase : ((bwaitHome f r a s).objRead r).phase = BitVec.ofNat 4 (s.opVal a f.cm.b 32)
        · refine ⟨_, ?_, .inr (bwaitOut_waits hobj hrun' hhurt hsound hphase)⟩
          refine (henter.trans (touches_park _ a _)).trans (Acts.refreshWaiters _ _ (hobjScope.of_base (fun d x => ?_))).touches
          rw [regionBase_park, regionBase_enterWait, hhome.keeps.base]
        · refine ⟨_, ?_, .inl (bwaitOut_goes hobj hrun' hhurt hsound hphase)⟩
          refine (henter.trans (Acts.acquire _ _ _ _ _).touches).trans (Acts.writeP _ _ _ _ ?_).touches
          exact ⟨rfl, rfl⟩
  · refine .inr (.inr (.inl ⟨hrun, ?_⟩))
    simp only [bwaitOut, hobj, ne_eq, hctx, hrun, not_false_eq_true, if_true]

end

/-- Settles O58: the issue leaves accesses pending, the home acts in the scope of its object, and a `BWAIT` in that of its object and its
predicate. -/
theorem barrierFrame : Obligations.BarrierFrame := by
  unfold Obligations.BarrierFrame
  refine ⟨fun s t f g i x hi _ hcur hexec => ?issue, fun s t core op p k r d q hready hkind halone hexec => ?home,
    fun s t a f r hruns hobj hexec => ?bwait⟩
  case issue =>
    have h := issues_barrier hi hcur hexec
    exact ⟨h.touches.sameBytes, fun b => h.touches.sameRegs (fun _ => id) (fun _ => id) (fun _ => id)⟩
  case home =>
    intro u own
    have hspan : own = spanOf 32 d := by cases d <;> rfl
    have hw : Scope.HasBar (barScope s p r own q) s p r d q :=
      ⟨⟨fun _ h => h, fun _ _ h => h⟩, ⟨fun n hn => ⟨rfl, hspan ▸ hn⟩, fun n hn => ⟨rfl, hspan ▸ hn⟩⟩, .inr ⟨rfl, rfl⟩,
        fun b n hb => .inl hb⟩
    rw [performBar_of_exec hready hkind halone hexec]
    rcases performBar_acts (k := k) hw with hbad | hhurt | ⟨hacts, -⟩
    · exact .inl hbad
    · exact .inr (.inl hhurt)
    · refine .inr (.inr ⟨hacts.sameBytesBut, fun b n hn => hacts.gR b n ?_, fun b n hn => hacts.sR b n ?_,
        fun b => ⟨hacts.handles b, hacts.fstat b⟩, fun b n h7 hwait hn => ?_⟩)
      · exact fun ⟨hb, hin⟩ => hn.elim (fun h => h hb) hin
      · exact fun ⟨hb, hin⟩ => hn.elim (fun h => h hb) hin
      · have hbit := hacts.preds b n h7 (fun h => h.elim hwait (fun ⟨hb, hq⟩ => hn.elim (fun h => h hb) (fun h => h hq)))
        rw [State.readP, State.readP, if_neg (Nat.ne_of_lt h7), if_neg (Nat.ne_of_lt h7), hbit]
  case bwait =>
    intro s0 u v
    have ht := (perLane_runs rfl hruns (bwaitOut f)).symm.trans ((exec_bwait f s).symm.trans hexec)
    have ht' : t = ((s0.finish a (bwaitOut f a s0)).endIssue) := (Host.Outcome.next.inj ht).symm
    rcases bwaitOut_cases hobj with hout | hout | ⟨hrun, hout⟩ | ⟨hrun, x, htouch, hout⟩
    · exact .inl (by rw [ht', hout]; rfl)
    · exact .inr (.inl (by rw [ht', hout]; rfl))
    · exact .inr (.inr (.inl ⟨hrun, by rw [ht', hout]; rfl⟩))
    · have hadv : Touches (bwaitScope u a r f.cm.d.num) u (s0.finish a (bwaitOut f a s0)) := by
        rcases hout with hout | hout <;> rw [hout]
        · exact htouch.trans (Touches.of_quiet (Writes.advance x a))
        · exact htouch
      have hend : Touches (bwaitScope u a r f.cm.d.num) u t := by
        rw [ht']
        exact hadv.trans (Touches.of_quiet (as := []) (Writes.endIssue _))
      refine .inr (.inr (.inr ⟨hrun, hend.sameBytesBut, fun b n => ⟨hend.gR b n id, hend.sR b n id⟩, fun b hb => ?_, fun n h7 hn => ?_⟩))
      · exact BitVec.eq_of_getLsbD_eq (fun n h7 => hend.preds b n h7 (fun h => hb h.1))
      · rw [State.readP, State.readP, if_neg (Nat.ne_of_lt h7), if_neg (Nat.ne_of_lt h7), hend.preds a n h7 (fun h => hn h.2)]

end Sys2Proof.Proofs
end


section
/-!
The frame of an access that is performed: stores, loads, atomics and `LDGA` (spec/06, spec/10; O57).
-/

namespace Sys2Proof.Laws

open Sys2Proof.Machine Sys2Proof.Safety

/-- Operations one after the other, each in a state that those before it made. -/
theorem Acts.foldl_within {α : Type} {w : Scope} {s u : State} (xs : List α) (f : State → α → State)
    (hf : ∀ u x, x ∈ xs → Acts w s u → Acts w u (f u x)) (hu : Acts w s u) : Acts w s (xs.foldl f u) := by
  induction xs generalizing u with
  | nil => exact hu
  | cons x xs ih => exact ih (fun v y hy => hf v y (List.mem_cons_of_mem _ hy)) (hu.trans (hf u x List.mem_cons_self hu))

/-! ### Pieces of a range -/

section
variable {s t : State} {src : Option Nat} {tlb : List TlbEntry} {v : Via} {write : Bool}

/-- The pieces of a range are as long as the range. -/
theorem piecesBy_sum {fuel va n : Nat} {ps : List (Nat × Nat)} (h : s.piecesBy src tlb v write fuel va n = some ps) :
    (ps.map (·.2)).sum = n := by
  induction fuel generalizing va n ps with
  | zero =>
    simp only [State.piecesBy] at h
    split at h
    · cases h
      exact Eq.symm ‹n = 0›
    · cases h
  | succ fuel ih =>
    simp only [State.piecesBy] at h
    split at h
    · cases h
      exact Eq.symm ‹n = 0›
    · split at h
      · cases h
      · split at h
        · cases h
        · rename_i ps' hps'
          cases h
          rw [List.map_cons, List.sum_cons, ih hps']
          omega

theorem le_sum_of_mem {x : Nat} {xs : List Nat} (h : x ∈ xs) : x ≤ xs.sum := by
  induction xs with
  | nil => cases h
  | cons y ys ih =>
    rw [List.sum_cons]
    rcases List.mem_cons.1 h with rfl | h
    · exact Nat.le_add_right _ _
    · exact Nat.le_trans (ih h) (Nat.le_add_left _ _)

/-- A piece that holds a byte is one of a range that holds one. -/
theorem pos_of_mem_pieces {fuel va n pa : Nat} {ps : List (Nat × Nat)} (h : s.piecesBy src tlb v write fuel va n = some ps)
    {q : Nat × Nat} (hq : q ∈ ps) (hlo : q.1 ≤ pa) (hhi : pa < q.1 + q.2) : 0 < n := by
  have hle : q.2 ≤ (ps.map (·.2)).sum := le_sum_of_mem (List.mem_map_of_mem hq)
  rw [piecesBy_sum h] at hle
  omega

/-- Pieces follow from the translations of the range. -/
theorem piecesBy_congr (hx : ∀ va, t.xlateBy src tlb v va write = s.xlateBy src tlb v va write) (fuel va n : Nat) :
    t.piecesBy src tlb v write fuel va n = s.piecesBy src tlb v write fuel va n := by
  induction fuel generalizing va n with
  | zero => rfl
  | succ fuel ih => simp only [State.piecesBy, hx, ih]

end

/-! ### The window -/

section
variable {w : Scope} {s t : State}

theorem writeReg_cores (s : State) (r : RegName) (v : DWord) : (s.writeReg r v).cores = s.cores := by
  cases r with
  | lqCtl p f q | vfPtRoot p f | mdCollect i | admits p j i | txAddr p f e i | txPeer p f e k i =>
    unfold State.writeReg
    dsimp only
    split <;> rfl
  | _ => rfl

theorem monWrite_cores (s : State) (o : Nat) (v : DWord) : (s.monWrite o v).cores = s.cores := by
  unfold State.monWrite
  split
  · exact writeReg_cores s _ v
  · unfold State.formPartition
    split <;> rfl
  · change (s.commitRange _ _ _ _ v).cores = s.cores
    unfold State.commitRange
    dsimp only
    split <;> rfl
  · rfl

theorem Acts.windowWrite (s : State) (pa : Nat) (bs : List Byte) : Acts w s (s.windowWrite pa bs) := by
  unfold State.windowWrite
  split
  · exact Acts.outside (monWrite_phys ..) (monWrite_cores ..)
  · exact Acts.refl s

/-! ### Stores -/

/-- Every byte of memory that a write of a range by an access may reach lies in the scope. -/
def Scope.HasRange (w : Scope) (s : State) (p : Pending) (x n : Nat) : Prop :=
  inWindow p.via x = false → ∀ ps, s.pieces p.agent.core p.via true (granules n) x n = some ps →
    ∀ q ∈ ps, ∀ k, q.1 ≤ k → k < q.1 + q.2 → w.phys k

theorem freeBytes_length (s : State) (n : Nat) : (s.freeBytes n).1.length = n := by
  rw [State.freeBytes, List.length_map, List.length_range]

theorem pieces_freeBytes (s : State) (m c : Nat) (v : Via) (write : Bool) (fuel x n : Nat) :
    (s.freeBytes m).2.pieces c v write fuel x n = s.pieces c v write fuel x n :=
  piecesBy_congr (s := s) (t := (s.freeBytes m).2) (fun _ => rfl) fuel x n

theorem Acts.storeGlobal {p : Pending} {x : Nat} {bs : List Byte} (hw : w.HasRange s p x bs.length)
    (h : s.storeGlobal p x bs = .ok t) : Acts w s t := by
  unfold State.storeGlobal at h
  dsimp only at h
  split at h
  · cases h
    exact Acts.windowWrite s _ _
  · rename_i hwin
    split at h
    · cases h
    · rename_i ps hps
      cases h
      refine (Acts.writePieces s ps bs (hw (Bool.eq_false_iff.2 hwin) ps hps)).trans (Acts.trans ?_ (Acts.fillTlb _ _ _ _))
      generalize State.writePieces s ps bs = u
      generalize bs = ds
      clear hps hw
      induction ps generalizing u ds with
      | nil => exact Acts.refl u
      | cons q ps ih =>
        refine Acts.trans (Acts.modCore_held u _ _ (fun k => ?_)) (ih _ _)
        split
        · exact ⟨rfl, rfl, rfl, rfl, rfl, rfl⟩
        · have hupd : SameHeld k (k.l1Update q.1 (ds.take q.2)) := ⟨rfl, rfl, rfl, rfl, rfl, rfl⟩
          split
          · exact hupd.trans (SameHeld.l1Mark _ _ _ _)
          · exact hupd

/-- The scope holds what a write of `n` bytes from an address or offset up may change at the place of an access. -/
def Scope.HasPlace (w : Scope) (s : State) (p : Pending) (x n : Nat) : Prop :=
  match p.place with
  | .glob _ => w.HasRange s p x n
  | .store c r _ => ∀ k, s.regionBase c r + x ≤ k → k < s.regionBase c r + x + n → w.astore c k
  | .cstore _ => ∀ k, (if p.undef then k / 32768 = x / 32768 else x ≤ k ∧ k < x + n) → w.cstore p.agent.core k
  | .wstore _ => True

theorem Acts.storeBytes {p : Pending} {x : Nat} {bs : List Byte} (hw : w.HasPlace s p x bs.length)
    (h : s.storeBytes p x bs = .ok t) : Acts w s t := by
  obtain ⟨ds, u, hdata, hact, hlen, hpieces, hbase⟩ : ∃ ds u, (if p.undef then s.freeBytes bs.length else (bs, s)) = (ds, u)
      ∧ Acts w s u ∧ ds.length = bs.length
      ∧ (∀ c v write fuel x n, u.pieces c v write fuel x n = s.pieces c v write fuel x n)
      ∧ (∀ c x, u.regionBase c x = s.regionBase c x) := by
    split
    · exact ⟨_, _, rfl, Acts.freeBytes s _, freeBytes_length s _, pieces_freeBytes s _, fun _ _ => rfl⟩
    · exact ⟨_, _, rfl, Acts.refl s, rfl, fun _ _ _ _ _ _ => rfl, fun _ _ => rfl⟩
  unfold State.storeBytes at h
  rw [hdata] at h
  unfold Scope.HasPlace at hw
  refine hact.trans ?_
  cases hpl : p.place with
  | glob va =>
    simp only [hpl] at h hw
    refine Acts.storeGlobal (fun hwin ps hps => ?_) h
    rw [hlen, hpieces] at hps
    exact hw hwin ps hps
  | store c r o =>
    simp only [hpl, Except.ok.injEq] at h hw
    subst h
    have hfresh : Acts w u (u.noteFresh c (.store c r x) (u.storeRead c r x ds.length) [u.idOf p.agent] p.id) := Acts.noteFresh _ _ _ _ _ _ _
    refine hfresh.trans (Acts.storeWrite _ _ _ _ _ (fun k hlo hhi => hw k ?_ ?_))
    all_goals rw [hfresh.keeps.base, hbase] at *
    · exact hlo
    · rwa [hlen] at hhi
  | cstore o =>
    simp only [hpl] at h hw
    split at h
    · rename_i hundef
      cases h
      refine (Acts.freeBytes u 32768).trans (Acts.cWrite _ _ _ _ (fun k hlo hhi => hw k ?_))
      rw [if_pos hundef]
      rw [freeBytes_length] at hhi
      omega
    · rename_i hundef
      cases h
      refine Acts.cWrite u _ _ _ (fun k hlo hhi => hw k ?_)
      rw [if_neg hundef]
      exact ⟨hlo, hlen ▸ hhi⟩
  | wstore o =>
    simp only [hpl, Except.ok.injEq] at h
    subst h
    exact Acts.refl u

theorem Acts.releaseAt (s : State) (a : Agent) (ch : Option Chan) (o : BitVec 3) (n : Nat) (b : Bool) :
    Acts w s (s.releaseAt a ch o n b) := Acts.eachFresh s _

/-- An access obtains or has written some of its units. -/
theorem Acts.modOp (s : State) (p : Pending) (f : Pending → Pending) (hf : ∀ q, ∃ g, { f q with got := g } = q) :
    Acts w s (s.modOp p f) := by
  refine Acts.modCore s _ _ ⟨rfl, rfl, rfl, rfl, rfl, fun q hq => ?_⟩
  obtain ⟨x, hx, rfl⟩ := List.mem_map.1 hq
  split
  · obtain ⟨g, hg⟩ := hf x
    exact ⟨g, by rwa [hg]⟩
  · exact ⟨x.got, hx⟩

end

/-- The units of an access begin in it. -/
theorem mem_units {p : Pending} {u : Nat × Nat} (h : u ∈ p.units) : p.place.addr ≤ u.1 ∧ u.1 < p.place.addr + p.n := by
  obtain ⟨i, hi, rfl⟩ := List.mem_map.1 (List.mem_eraseDups.1 h)
  have hi' := List.mem_range.1 hi
  unfold Pending.unitOf
  dsimp only
  split
  · exact ⟨Nat.le_refl _, by omega⟩
  · split
    · rename_i hhalf
      exact ⟨by omega, by omega⟩
    · exact ⟨Nat.le_add_right _ _, by omega⟩

theorem mem_rest {p : Pending} {u : Nat × Nat} (h : u ∈ p.rest) : p.place.addr ≤ u.1 ∧ u.1 < p.place.addr + p.n :=
  mem_units (List.mem_filter.1 h).1

theorem dataAt_length (p : Pending) (bs : List Byte) (x n : Nat) :
    (p.dataAt bs x n).length = min n (bs.length - (x - p.place.addr)) := by
  rw [Pending.dataAt, List.length_take, List.length_drop]

end Sys2Proof.Laws

namespace Sys2Proof.Proofs

open Sys2Proof.Machine Sys2Proof.Safety Sys2Proof.Laws

/-! ### What an access that is performed may change -/

/-- A byte of the pieces of a part of a range that an access writes. -/
def inPieces (s : State) (p : Pending) (va n pa : Nat) : Prop :=
  ∃ x m ps, va ≤ x ∧ x + m ≤ va + n ∧ inWindow p.via x = false ∧ s.pieces p.agent.core p.via true (granules m) x m = some ps
    ∧ ∃ q ∈ ps, q.1 ≤ pa ∧ pa < q.1 + q.2

/-- A byte of a range of a region of an A-store. -/
def inStore (s : State) (d r o n e off : Nat) : Prop := e = d ∧ s.regionBase d r + o ≤ off ∧ off < s.regionBase d r + o + n

/-- A byte of an A-store at the place of an access. -/
def placed (s : State) (p : Pending) (n e off : Nat) : Prop := ∃ d r o, p.place = .store d r o ∧ inStore s d r o n e off

/-- What a store may change: bytes at its address, and the objects that its agent waits on. -/
def storeScope (s : State) (p : Pending) (bs : List Byte) : Scope where
  phys := fun pa => (∃ va, p.place = .glob va ∧ inPieces s p va bs.length pa) ∨ atGlobObj (waitedOn s p.agent) pa
  astore := fun e off => placed s p bs.length e off ∨ atStoreObj s (waitedOn s p.agent) e off
  cstore := fun e off => e = p.agent.core ∧ ∃ o, p.place = .cstore o ∧ (if p.undef then ∃ x, o ≤ x ∧ x ≤ o + p.n ∧ off / 32768 = x / 32768
    else o ≤ off ∧ off < o + bs.length)

section
variable {s : State} {p : Pending} {bs : List Byte}

theorem storeScope_hasObj {r : ObjRef} (h : waitedOn s p.agent r) : (storeScope s p bs).HasObj s r where
  glob := fun _ ⟨o, ho, hlo, hhi⟩ => .inr ⟨o, ho ▸ h, hlo, hhi⟩
  store := fun _ _ ⟨x, o, ho, hlo, hhi⟩ => .inr ⟨x, o, ho ▸ h, hlo, hhi⟩

/-- A part of a store's data, from an address in it up, goes to the store's place. -/
theorem storeScope_hasPlace {x m : Nat} (hlo : p.place.addr ≤ x) (hhi : x ≤ p.place.addr + p.n)
    (hm : m ≤ bs.length - (x - p.place.addr)) : (storeScope s p bs).HasPlace s p x m := by
  unfold Scope.HasPlace
  cases hpl : p.place with
  | glob va =>
    rw [hpl] at hlo hhi hm
    simp only [Place.addr] at hlo hhi hm
    intro hwin ps hps q hq k hk1 hk2
    have hpos := pos_of_mem_pieces hps hq hk1 hk2
    exact .inl ⟨va, hpl, x, m, ps, hlo, by omega, hwin, hps, q, hq, hk1, hk2⟩
  | store c r o =>
    rw [hpl] at hlo hhi hm
    simp only [Place.addr] at hlo hhi hm
    intro k hk1 hk2
    exact .inl ⟨c, r, o, hpl, rfl, by omega, by omega⟩
  | cstore o =>
    rw [hpl] at hlo hhi hm
    simp only [Place.addr] at hlo hhi hm
    intro k hk
    refine ⟨rfl, o, hpl, ?_⟩
    split at hk
    · rename_i hundef
      rw [if_pos hundef]
      exact ⟨x, hlo, hhi, hk⟩
    · rename_i hundef
      rw [if_neg hundef]
      exact ⟨by omega, by omega⟩
  | wstore o => trivial

/-- A trap of the store: the object that its agent waits on. -/
theorem acts_storeFails {u : State} (h : Acts (storeScope s p bs) s u) (x : Trap) : Acts (storeScope s p bs) s (u.opFails p x) :=
  h.trans (Acts.opFails u p x (fun _ hr => (storeScope_hasObj ((h.keeps.waits _).waitedOn hr)).keeps h.keeps))

/-- A choice takes a value of the oracle, and nothing else. -/
theorem pick_state (s : State) (m : Nat) : ∃ os, (s.pick m).2 = { s with oracle := os } := by
  unfold State.pick
  split
  · exact ⟨s.oracle, rfl⟩
  · split
    · exact ⟨s.oracle, rfl⟩
    · exact ⟨_, rfl⟩

theorem pick_lt (s : State) {m : Nat} (hm : 0 < m) : (s.pick m).1 < m := by
  unfold State.pick
  split
  · exact hm
  · split
    · exact hm
    · exact Nat.mod_lt _ hm

theorem pieces_pick (s : State) (m c : Nat) (v : Via) (write : Bool) (fuel x n : Nat) :
    (s.pick m).2.pieces c v write fuel x n = s.pieces c v write fuel x n := by
  obtain ⟨os, hos⟩ := pick_state s m
  rw [hos]
  exact piecesBy_congr (s := s) (t := { s with oracle := os }) (fun _ => rfl) fuel x n

theorem hasPlace_pick {w : Scope} {x m : Nat} (n : Nat) (h : w.HasPlace s p x m) : w.HasPlace (s.pick n).2 p x m := by
  have hpick : Acts w s (s.pick n).2 := Acts.pick s n
  unfold Scope.HasPlace at h ⊢
  cases hpl : p.place with
  | glob va =>
    simp only [hpl] at h ⊢
    intro hwin ps hps
    rw [pieces_pick] at hps
    exact h hwin ps hps
  | store c r o =>
    simp only [hpl] at h ⊢
    intro k
    rw [hpick.keeps.base]
    exact h k
  | cstore o =>
    simp only [hpl] at h ⊢
    exact h
  | wstore o => trivial

/-- What is left of a store, at most one of its units, is written at its place. -/
theorem acts_storeRest {u t : State} (hact : Acts (storeScope s p bs) s u) (hplace : ∀ x m, p.place.addr ≤ x → x ≤ p.place.addr + p.n →
      m ≤ bs.length - (x - p.place.addr) → (storeScope s p bs).HasPlace u p x m)
    {us : List (Nat × Nat)} (hus : ∀ y ∈ us, p.place.addr ≤ y.1 ∧ y.1 < p.place.addr + p.n) (hone : us.length ≤ 1)
    (h : u.storeRest p bs us = .ok t) : Acts (storeScope s p bs) s t := by
  match us, hone with
  | [], _ =>
    cases h
    exact hact
  | [(x, n)], _ =>
    simp only [State.storeRest] at h
    split at h
    · cases h
    · rename_i v hv
      cases h
      obtain ⟨hlo, hhi⟩ := hus (x, n) (List.mem_singleton.2 rfl)
      exact hact.trans (Acts.storeBytes (hplace x _ hlo (Nat.le_of_lt hhi) (by rw [dataAt_length]; exact Nat.min_le_right _ _)) hv)

section
variable {u : State} (hact : Acts (storeScope s p bs) s u)
  (hplace : ∀ x m, p.place.addr ≤ x → x ≤ p.place.addr + p.n → m ≤ bs.length - (x - p.place.addr) → (storeScope s p bs).HasPlace u p x m)
include hact hplace

theorem acts_performStore (hone : p.got.isEmpty = false → p.rest.length ≤ 1) : Acts (storeScope s p bs) s (u.performStore p bs) := by
  unfold State.performStore
  cases hgot : p.got.isEmpty with
  | true =>
    simp only [if_true]
    split
    · exact acts_storeFails hact _
    · rename_i v hv
      refine (hact.trans (Acts.storeBytes (hplace _ _ (Nat.le_refl _) (Nat.le_add_right _ _) (by omega)) hv)).trans ?_
      exact (Acts.releaseAt _ _ _ _ _ _).trans (Acts.retire _ p)
  | false =>
    simp only [Bool.false_eq_true, if_false]
    split
    · exact acts_storeFails hact _
    · rename_i v hv
      refine (acts_storeRest hact hplace (fun y hy => mem_rest hy) (hone hgot) hv).trans ?_
      exact (Acts.releaseAt _ _ _ _ _ _).trans (Acts.retire _ p)

/-- One unit of a store is written. -/
theorem acts_storeUnit {x m : Nat} (hunit : (x, m) ∈ p.rest) : Acts (storeScope s p bs) s (
    match u.storeBytes p x (p.dataAt bs x m) with
    | .error t => u.opFails p ⟨t, match p.place with | .glob va => va | _ => 0⟩
    | .ok v => v.modOp p (fun q => { q with got := q.got ++ (List.range m).map (fun i => (x + i, 0)) })) := by
  obtain ⟨hlo, hhi⟩ := mem_rest hunit
  cases hv : u.storeBytes p x (p.dataAt bs x m) with
  | error e => exact acts_storeFails hact _
  | ok v =>
    refine (hact.trans (Acts.storeBytes (hplace x _ hlo (Nat.le_of_lt hhi) ?_) hv)).trans (Acts.modOp _ _ _ (fun q => ⟨q.got, rfl⟩))
    rw [dataAt_length]
    exact Nat.min_le_right _ _

end

theorem acts_performStoreStep : Acts (storeScope s p bs) s (s.performStoreStep p bs) := by
  have hplace : ∀ n x m, p.place.addr ≤ x → x ≤ p.place.addr + p.n → m ≤ bs.length - (x - p.place.addr) →
      (storeScope s p bs).HasPlace (s.pick n).2 p x m := fun n x m hlo hhi hm => hasPlace_pick n (storeScope_hasPlace hlo hhi hm)
  obtain ⟨whole, hwhole, hsplit⟩ : ∃ k, (if p.got.isEmpty then 1 else 0) = k ∧ (p.got.isEmpty = false → k = 0) := by
    refine ⟨_, rfl, fun h => ?_⟩
    rw [h]
    rfl
  unfold State.performStoreStep
  simp only [hwhole]
  by_cases hall : p.rest.length ≤ 1 ∨ (s.pick (if p.rest.length ≤ 1 then 1 else p.rest.length + whole)).1 < whole
  · rw [if_pos hall]
    refine acts_performStore (Acts.pick s _) (hplace _) (fun hgot => ?_)
    rw [hsplit hgot] at hall
    exact hall.elim id (fun h => absurd h (Nat.not_lt_zero _))
  · rw [if_neg hall]
    rw [not_or] at hall
    have hlt := pick_lt s (m := if p.rest.length ≤ 1 then 1 else p.rest.length + whole) (by split <;> omega)
    rw [if_neg hall.1] at hlt hall ⊢
    have hin : (s.pick (p.rest.length + whole)).1 - whole < p.rest.length := by omega
    rw [List.getD_eq_getElem?_getD, List.getElem?_eq_getElem hin, Option.getD_some]
    exact acts_storeUnit (Acts.pick s _) (hplace _) (List.getElem_mem hin)

/-! ### A store that is performed whole reads as stored -/

section
variable (hone : p.rest.length ≤ 1)
include hone

theorem performStoreStep_whole : s.performStoreStep p bs = s.performStore p bs := by
  unfold State.performStoreStep
  simp only [hone, pick_one, true_or, if_true]

/-- A store that is performed whole writes its data at its place, and changes no byte afterwards. -/
theorem performStoreStep_stored (hgot : p.got = []) {u : State} (hu : s.storeBytes p p.place.addr bs = .ok u) :
    Acts {} u (s.performStoreStep p bs) := by
  rw [performStoreStep_whole hone]
  simp only [State.performStore, hgot, List.isEmpty_nil, if_true, hu]
  exact (Acts.releaseAt _ _ _ _ _ _).trans (Acts.retire _ p)

end

theorem read_of_bytes {m k : Mem} (h : ∀ a, k.byte a = m.byte a) (a n : Nat) : k.read a n = m.read a n := by
  simp only [Mem.read, h]

theorem storeRead_of_acts {u t : State} (h : Acts {} u t) (d r o n : Nat) : t.storeRead d r o n = u.storeRead d r o n := by
  rw [State.storeRead, State.storeRead, h.keeps.base]
  exact read_of_bytes (fun a => h.touches.astore d a id) _ _

section
variable (hgot : p.got = []) (hone : p.rest.length ≤ 1) (hundef : p.undef = false)
include hgot hone hundef

theorem stored_glob {va pa n : Nat} (hplace : p.place = .glob va) (hwin : inWindow p.via va = false)
    (hps : s.pieces p.agent.core p.via true (granules bs.length) va bs.length = some [(pa, n)]) :
    (s.performStoreStep p bs).phys.read pa n = bs := by
  have hn : n = bs.length := by simpa using piecesBy_sum hps
  obtain ⟨u, hu, hread⟩ : ∃ u, s.storeBytes p p.place.addr bs = .ok u ∧ u.phys.read pa n = bs := by
    refine ⟨_, by simp only [State.storeBytes, hundef, Bool.false_eq_true, if_false, hplace, Place.addr, State.storeGlobal, hwin, hps]; rfl, ?_⟩
    simp only [fillTlb_phys, List.foldl, State.modCore_phys, State.writePieces, State.physWrite_phys]
    rw [hn, List.take_length, Mem.read_write_self]
  have hact := performStoreStep_stored hone hgot hu
  rw [read_of_bytes (fun a => hact.touches.phys a id), hread]

theorem stored_store {d r o : Nat} (hplace : p.place = .store d r o) : (s.performStoreStep p bs).storeRead d r o bs.length = bs := by
  obtain ⟨u, hu, hread⟩ : ∃ u, s.storeBytes p p.place.addr bs = .ok u ∧ u.storeRead d r o bs.length = bs := by
    refine ⟨_, by simp only [State.storeBytes, hundef, Bool.false_eq_true, if_false, hplace, Place.addr]; rfl, ?_⟩
    exact storeRead_storeWrite _ _ _ _ _
  rw [storeRead_of_acts (performStoreStep_stored hone hgot hu), hread]

theorem stored_cstore {o : Nat} (hplace : p.place = .cstore o) :
    ((s.performStoreStep p bs).core p.agent.core).cstore.read o bs.length = bs := by
  obtain ⟨u, hu, hread⟩ : ∃ u, s.storeBytes p p.place.addr bs = .ok u ∧ (u.core p.agent.core).cstore.read o bs.length = bs := by
    refine ⟨_, by simp only [State.storeBytes, hundef, Bool.false_eq_true, if_false, hplace, Place.addr]; rfl, ?_⟩
    rw [core_modCore_self]
    exact Mem.read_write_self _ _ _
  have hact := performStoreStep_stored hone hgot hu
  rw [read_of_bytes (fun a => hact.touches.cstore _ a id), hread]

end

end

/-! ### Loads -/

section
variable {s t : State} {w : Scope} {p : Pending}

theorem acts_loadGlobal {va n : Nat} {bs : List Byte} (h : s.loadGlobal p va n = .ok (bs, t)) : Acts w s t := by
  unfold State.loadGlobal at h
  dsimp only at h
  split at h
  · cases h
    exact Acts.refl s
  split at h
  · cases h
  split at h
  · cases h
  split at h
  · cases h
  · cases h
    refine Acts.trans ?_ (Acts.fillTlb _ _ _ _)
    have hfill : ∀ ps : List (Nat × Nat), Acts w s (if p.cache == 3 then s
        else ps.foldl (fun s q => s.l1Fill p.agent.core q.1 q.2 (!p.usesL1) p.cache.toNat) s) := by
      intro ps
      split
      · exact Acts.refl s
      · exact Acts.foldl _ _ (fun u q _ => Acts.l1Fill u _ _ _ _ _) s
    split
    · exact (hfill _).trans (Acts.noteSoft _ _)
    · exact hfill _

theorem acts_loadBytes {x n : Nat} {bs : List Byte} (h : s.loadBytes p x n = .ok (bs, t)) : Acts w s t := by
  unfold State.loadBytes at h
  split at h
  · exact acts_loadGlobal h
  · split at h <;> cases h
    exact Acts.refl s
  · split at h <;> cases h
    exact Acts.refl s
  · cases h
    exact Acts.refl s

/-- The scope holds the destination of an access and the objects that its agent waits on. -/
structure Scope.HasDest (w : Scope) (s : State) (p : Pending) : Prop where
  span : w.HasSpan p.agent p.span
  obj : ∀ r, waitedOn s p.agent r → w.HasObj s r

theorem Scope.HasDest.keeps (h : Scope.HasDest w s p) (hk : Keeps s t) : Scope.HasDest w t p :=
  ⟨h.span, fun r hr => (h.obj r ((hk.waits _).waitedOn hr)).keeps hk⟩

theorem acts_opFails (h : Acts w s t) (hw : Scope.HasDest w s p) (x : Trap) : Acts w s (t.opFails p x) :=
  h.trans (Acts.opFails t p x (hw.keeps h.keeps).obj)

/-- A value written at a width that covers no more than the span of the access. -/
theorem hasSpan_dst {d : Opnd} {n : Nat} (hw : w.HasSpan p.agent p.span) (hd : p.kind.dst = d)
    (hbar : p.isBar = false) (hstep : p.isStep = false ∧ p.isText = false) (hn : wordsOf n = wordsOf (max 32 (8 * p.n))) :
    w.HasSpan p.agent (spanOf n d) := by
  have hspan : p.span = spanOf n d := by
    unfold Pending.span
    rw [hd]
    cases d with
    | g i => simp only [hbar, hstep.1, hstep.2, Bool.or_self, Bool.false_eq_true, if_false, spanOf, hn]
    | s i => rfl
    | lit i => rfl
    | imm i => rfl
  rwa [← hspan]

/-- Bytes of an unfinished matrix operation are undefined, and take free values. -/
theorem acts_blurred (s : State) (undef : Bool) (n : Nat) (bs : List Byte) : Acts w s (if undef then s.freeBytes n else (bs, s)).2 := by
  split
  · exact Acts.freeBytes s n
  · exact Acts.refl s

theorem acts_performLoad {d : Opnd} {sext : Bool} (hkind : p.kind = .load d sext) (hw : Scope.HasDest w s p) :
    Acts w s (s.performLoad p d sext) := by
  have hdst : w.HasSpan p.agent (spanOf (loadWidth p.n d) d) := by
    cases d with
    | g i => exact hasSpan_dst hw.span (by rw [hkind]; rfl) (by simp only [Pending.isBar, hkind]) (by simp only [Pending.isStep, Pending.isText, hkind, and_self]) rfl
    | s i =>
      have h := hw.span
      simp only [Pending.span, hkind, PendKind.dst] at h
      exact h
    | lit i => exact ⟨fun n h => absurd (fun _ hx => nomatch hx) h, fun n h => absurd (fun _ hx => nomatch hx) h⟩
    | imm i => exact ⟨fun n h => absurd (fun _ hx => nomatch hx) h, fun n h => absurd (fun _ hx => nomatch hx) h⟩
  unfold State.performLoad
  split
  · exact acts_opFails (Acts.refl s) hw _
  · rename_i now u hu
    have hload : Acts w s u := acts_loadBytes hu
    refine hload.trans ?_
    dsimp only
    generalize (now.zipIdx.map (fun x => (lookupN p.got (p.place.addr + x.2)).getD x.1)) = bs
    have hblur : Acts w u (if p.undef then u.freeBytes p.n else (bs, u)).2 := acts_blurred u p.undef p.n bs
    generalize (if p.undef then u.freeBytes p.n else (bs, u)) = r at hblur ⊢
    have hseen : Acts w r.2 (r.2.modCore p.agent.core (fun k => k.observe (r.2.idOf p.agent)
        (fun x => x.place.overlaps x.old.length p.place p.n))) := Acts.modCore_held _ _ _ (fun _ => ⟨rfl, rfl, rfl, rfl, rfl, rfl⟩)
    exact hblur.trans (hseen.trans ((Acts.meetBy _ p).trans ((Acts.giveBack _ p d _ _ hdst).trans (Acts.retire _ p))))

theorem acts_loadPart {x n : Nat} (hw : Scope.HasDest w s p) : Acts w s (s.loadPart p x n) := by
  unfold State.loadPart
  dsimp only
  split
  · exact Acts.refl s
  · split
    · exact acts_opFails (Acts.refl s) hw _
    · rename_i bs u hu
      exact (acts_loadBytes hu).trans (Acts.modOp _ _ _ (fun q => ⟨q.got, rfl⟩))

/-- A change of what an access has obtained changes neither its agent nor its destination. -/
theorem Scope.HasDest.got {g : List (Nat × Byte)} (h : Scope.HasDest w s { p with got := g }) : Scope.HasDest w s p := ⟨h.span, h.obj⟩

theorem mem_of_findOp {k : Core} {op : Nat} (h : k.findOp op = some p) : p ∈ k.pend := List.mem_of_find?_eq_some h

/-- Loads that return together, or obtain a part of their bytes together. -/
theorem acts_performLoads {set : List Pending} (hdest : ∀ q ∈ set, Scope.HasDest w s q)
    (hfound : ∀ q ∈ set, ∀ x, x ∈ (s.core q.agent.core).pend → x.id = q.id → Scope.HasDest w s x) : Acts w s (s.performLoads set) := by
  unfold State.performLoads
  dsimp only
  generalize (if (set.flatMap (·.rest)).eraseDups.length ≤ 1 then 1 else (set.flatMap (·.rest)).eraseDups.length + 1) = n
  have hpick : Acts w s (s.pick n).2 := Acts.pick s n
  split
  · refine Acts.foldl_within _ _ (fun u q hq hu => ?_) hpick
    split
    · rename_i x hx
      split
      · rename_i d sext hkind
        obtain ⟨g, hg⟩ := hu.keeps.pend _ _ (mem_of_findOp hx)
        refine acts_performLoad hkind ((Scope.HasDest.got (hfound q hq _ hg (id_of_findOp hx : x.id = q.id))).keeps hu.keeps)
      · exact Acts.refl u
    · exact Acts.refl u
  · exact Acts.foldl_within _ _ (fun u q hq hu => acts_loadPart ((hdest q hq).keeps hu.keeps)) hpick

/-! ### Atomics -/

/-- The scope holds the location of an atomic. -/
def Scope.HasAtom (w : Scope) (s : State) (p : Pending) : Prop :=
  match p.place with
  | .glob va => ∀ ps, s.pieces p.agent.core p.via true (granules p.n) va p.n = some ps →
      ∀ q ∈ ps, ∀ k, q.1 ≤ k → k < q.1 + q.2 → w.phys k
  | .store d r o => ∀ k, s.regionBase d r + o ≤ k → k < s.regionBase d r + o + p.n → w.astore d k
  | _ => True

theorem wordsOf_max (n : Nat) : wordsOf n = wordsOf (max 32 n) := by
  unfold wordsOf
  by_cases h : n ≤ 32
  · rw [if_pos h, if_pos (by omega)]
  · rw [Nat.max_eq_right (by omega)]

theorem leBytes_length (n v : Nat) : (leBytes n v).length = n := length_leBytes n v

theorem isAtomic_kinds (h : p.isAtomic = true) : p.isBar = false ∧ p.isStep = false ∧ p.isText = false := by
  unfold Pending.isAtomic at h
  split at h
  · rename_i hk
    simp only [Pending.isBar, Pending.isStep, Pending.isText, hk, and_self]
  · rename_i hk
    simp only [Pending.isBar, Pending.isStep, Pending.isText, hk, and_self]
  · rename_i hk
    simp only [Pending.isBar, Pending.isStep, Pending.isText, hk, and_self]
  · cases h

theorem acts_performAtomic (hatomic : p.isAtomic = true) (hw : Scope.HasDest w s p) (hloc : Scope.HasAtom w s p) :
    Acts w s (s.performAtomic p) := by
  obtain ⟨hbar, hstep⟩ := isAtomic_kinds hatomic
  have hdst : w.HasSpan p.agent (spanOf (8 * p.n) p.kind.dst) := hasSpan_dst hw.span rfl hbar hstep (wordsOf_max _)
  have hgive : ∀ u v, Acts w u ((((u.meetBy p).releaseAt p.agent ((u.meetBy p).chan p) p.order p.scope.toNat true).giveBack p
      p.kind.dst (8 * p.n) v).retire p) := fun u v =>
    (Acts.meetBy u p).trans ((Acts.releaseAt _ _ _ _ _ _).trans ((Acts.giveBack _ p _ _ _ hdst).trans (Acts.retire _ p)))
  unfold State.performAtomic
  dsimp only
  unfold Scope.HasAtom at hloc
  cases hpl : p.place with
  | glob va =>
    simp only [hpl] at hloc ⊢
    split
    · exact acts_opFails (Acts.refl s) hw _
    · rename_i bs hbs
      split
      · exact acts_opFails (Acts.refl s) hw _
      · rename_i ps hps
        have hblur : Acts w s (if p.undef then s.freeBytes p.n else (bs, s)).2 := acts_blurred s p.undef p.n bs
        generalize (if p.undef then s.freeBytes p.n else (bs, s)) = r at hblur ⊢
        refine hblur.trans (Acts.trans ?_ (hgive _ _))
        refine Acts.trans ?_ ((Acts.noteSoft _ ps).trans (Acts.fillTlb _ _ _ _))
        refine Acts.trans (Acts.writePieces r.2 ps (leBytes p.n (atomResult p.kind (leNat r.1)).1) (hloc ps hps)) ?_
        exact Acts.foldl _ _ (fun u q _ => Acts.l1Drop u _ _ _) _
  | store d r o =>
    simp only [hpl] at hloc ⊢
    split
    · exact acts_opFails (Acts.refl s) hw _
    · have hblur : Acts w s (if p.undef then s.freeBytes p.n else (s.storeRead d r o p.n, s)).2 := acts_blurred s p.undef p.n _
      generalize (if p.undef then s.freeBytes p.n else (s.storeRead d r o p.n, s)) = x at hblur ⊢
      have hfresh : Acts w s (x.2.noteFresh d (.store d r o) (x.2.storeRead d r o p.n) [x.2.idOf p.agent] p.id) :=
        hblur.trans (Acts.noteFresh _ _ _ _ _ _ _)
      refine hfresh.trans (Acts.trans (Acts.storeWrite _ _ _ _ _ (fun k hlo hhi => hloc k ?_ ?_)) (hgive _ _))
      · rwa [hfresh.keeps.base] at hlo
      · rwa [hfresh.keeps.base, leBytes_length] at hhi
  | cstore o => exact Acts.retire s p
  | wstore o => exact Acts.retire s p

/-! ### `LDGA` -/

/-- The scope holds the destination and the object of an `LDGA`, the objects that its agent waits on, and every predicate. -/
structure Scope.HasLdga (w : Scope) (s : State) (p : Pending) (c x dst barCore barWg bar : Nat) : Prop where
  dest : ∀ k, s.regionBase c x + dst ≤ k → k < s.regionBase c x + dst + p.n → w.astore c k
  bar : w.HasObj s (.store barCore barWg bar)
  obj : ∀ r, waitedOn s p.agent r → w.HasObj s r
  pred : ∀ b n, w.p b n

theorem acts_landCredit {r : ObjRef} (c n : Nat) (hobj : w.HasObj s r) (hpred : ∀ b n, w.p b n) : Acts w s (s.landCredit c r n).1 := by
  unfold State.landCredit
  dsimp only
  split
  · exact Acts.refl s
  · split
    · exact Acts.objDone s c _ _ hobj (fun b n _ => hpred b n)
    · exact Acts.refl s

theorem loadGlobal_length {va n : Nat} {bs : List Byte} (h : s.loadGlobal p va n = .ok (bs, t)) : bs.length = n := by
  unfold State.loadGlobal at h
  dsimp only at h
  split at h
  · cases h
    unfold State.windowRead
    split
    · rename_i hn
      rw [leBytes_length, hn.1]
    · exact List.length_replicate
  split at h
  · cases h
  split at h
  · cases h
  rename_i ps hps
  split at h
  · cases h
  · cases h
    rw [List.length_flatMap, ← piecesBy_sum hps]
    simp only [List.length_map, List.length_range]

theorem acts_performLdga {c x dst barCore barWg bar : Nat} (hw : Scope.HasLdga w s p c x dst barCore barWg bar) :
    Acts w s (s.performLdga p c x dst barCore barWg bar) := by
  unfold State.performLdga
  split
  · rename_i va hpl
    split
    · exact Acts.opFails s p _ hw.obj
    · rename_i bs u hu
      have hload : Acts w s u := acts_loadGlobal hu
      dsimp only
      have hblur : Acts w u (if p.undef then u.freeBytes p.n else (bs, u)).2 := acts_blurred u p.undef p.n bs
      have hlen : (if p.undef then u.freeBytes p.n else (bs, u)).1.length = p.n := by
        split
        · exact freeBytes_length u _
        · exact loadGlobal_length hu
      generalize (if p.undef then u.freeBytes p.n else (bs, u)) = y at hblur hlen ⊢
      have hfresh : Acts w s (y.2.noteFresh c (.store c x dst) (y.2.storeRead c x dst p.n) [] p.id) :=
        (hload.trans hblur).trans (Acts.noteFresh _ _ _ _ _ _ _)
      have hwritten : Acts w s ((y.2.noteFresh c (.store c x dst) (y.2.storeRead c x dst p.n) [] p.id).storeWrite c x dst y.1) :=
        hfresh.trans (Acts.storeWrite _ _ _ _ _ (fun k hlo hhi => hw.dest k (by rwa [hfresh.keeps.base] at hlo)
          (by rwa [hfresh.keeps.base, hlen] at hhi)))
      generalize (y.2.noteFresh c (.store c x dst) (y.2.storeRead c x dst p.n) [] p.id).storeWrite c x dst y.1 = v at hwritten ⊢
      have hseen : Acts w s (v.creditSeen p.agent.core p.id (.store barCore barWg bar)) := hwritten.trans (Acts.eachFresh v _)
      have hspoil := hseen.trans (Acts.spoilObj _ p.agent.core p.undefObj (hw.bar.keeps hseen.keeps))
      have hcredit := hspoil.trans (acts_landCredit p.agent.core p.n (hw.bar.keeps hspoil.keeps) hw.pred)
      split
      · rename_i z hz
        rw [hz] at hcredit
        exact hcredit.trans (Acts.retire _ p)
      · rename_i z code hz
        rw [hz] at hcredit
        exact hcredit.trans (Acts.opFails z p _ (fun r hr => (hw.obj r ((hcredit.keeps.waits _).waitedOn hr)).keeps hcredit.keeps))
  · exact Acts.retire s p

end

end Sys2Proof.Proofs
end


section
/-!
The frame of a step on a block, and of every access that is performed (spec/18; O57).
-/

namespace Sys2Proof.Proofs

open Sys2Proof.Machine Sys2Proof.Safety Sys2Proof.Laws

/-! ### Translations that a TLB holds -/

/-- Two states that translate the same: they differ in bytes and in cores, whose TLBs are the same. -/
structure SameMaps (s u : State) : Prop where
  rest : { u with phys := s.phys, poison := s.poison, soft := s.soft, cores := s.cores } = s
  tlb : ∀ c, (u.core c).tlb = (s.core c).tlb

theorem SameMaps.refl (s : State) : SameMaps s s := ⟨rfl, fun _ => rfl⟩

theorem SameMaps.trans {s t u : State} (h1 : SameMaps s t) (h2 : SameMaps t u) : SameMaps s u := by
  refine ⟨?_, fun c => (h2.tlb c).trans (h1.tlb c)⟩
  have h : { u with phys := s.phys, poison := s.poison, soft := s.soft, cores := s.cores }
      = { ({ u with phys := t.phys, poison := t.poison, soft := t.soft, cores := t.cores } : State) with
          phys := s.phys, poison := s.poison, soft := s.soft, cores := s.cores } := rfl
  rw [h, h2.rest, h1.rest]

section
variable {s u : State} {c part vf : Nat}

/-- A translation that the TLB holds does not look at memory. -/
theorem SameMaps.xlateBy (h : SameMaps s u) {src : Option Nat} {tlb : List TlbEntry} {va : Nat}
    (hhit : tlb.any (fun e => e.hit part vf va) = true) (write : Bool) :
    u.xlateBy src tlb (.vf part vf) va write = s.xlateBy src tlb (.vf part vf) va write := by
  obtain ⟨e, he⟩ : ∃ e, tlb.find? (fun t => t.hit part vf va) = some e := by
    cases hfind : tlb.find? (fun t => t.hit part vf va) with
    | some e => exact ⟨e, rfl⟩
    | none =>
      rw [List.any_eq_true] at hhit
      obtain ⟨e, hmem, hhit⟩ := hhit
      exact absurd hhit (List.find?_eq_none.1 hfind e hmem)
  have hrest : u.xlateBy src tlb (.vf part vf) va write
      = State.xlateBy { u with phys := s.phys, poison := s.poison, soft := s.soft, cores := s.cores } src tlb (.vf part vf) va write := by
    simp only [State.xlateBy, State.lookVf, he]
    rfl
  rw [hrest, h.rest]

theorem piecesBy_congr_on {src : Option Nat} {tlb : List TlbEntry} {v : Via} {write : Bool} (fuel : Nat) {va n : Nat}
    (hx : ∀ x, va ≤ x → x < va + n → u.xlateBy src tlb v x write = s.xlateBy src tlb v x write) :
    u.piecesBy src tlb v write fuel va n = s.piecesBy src tlb v write fuel va n := by
  induction fuel generalizing va n with
  | zero => rfl
  | succ fuel ih =>
    by_cases hn : n = 0
    · simp only [State.piecesBy, hn, if_true]
    · simp only [State.piecesBy, hn, if_false]
      rw [hx va (Nat.le_refl _) (by omega), ih (fun x hlo hhi => hx x (by omega) (by omega))]

/-- The pieces of a range whose pages the TLB holds. -/
theorem SameMaps.pieces (h : SameMaps s u) {va n : Nat}
    (hhit : ∀ x, va ≤ x → x < va + n → (s.core c).tlb.any (fun e => e.hit part vf x) = true) (write : Bool) (fuel : Nat) :
    u.pieces c (.vf part vf) write fuel va n = s.pieces c (.vf part vf) write fuel va n := by
  rw [State.pieces, State.pieces, h.tlb]
  exact piecesBy_congr_on fuel (fun x hlo hhi => h.xlateBy (hhit x hlo hhi) write)

end

/-! ### Writes to a block -/

/-- What a step on a block may do while it works: bytes of the block's pieces change, in a scope, and no translation. -/
structure OnBlock (w : Scope) (s u : State) : Prop where
  acts : Acts w s u
  maps : SameMaps s u

section
variable {w : Scope} {s t u : State}

theorem OnBlock.refl (s : State) : OnBlock w s s := ⟨Acts.refl s, SameMaps.refl s⟩

theorem OnBlock.trans (h1 : OnBlock w s t) (h2 : OnBlock w t u) : OnBlock w s u := ⟨h1.acts.trans h2.acts, h1.maps.trans h2.maps⟩

theorem sameMaps_physWrite (s : State) (pa : Nat) (bs : List Byte) : SameMaps s (s.physWrite pa bs) := ⟨rfl, fun _ => rfl⟩

theorem sameMaps_writePieces (s : State) (ps : List (Nat × Nat)) (bs : List Byte) : SameMaps s (s.writePieces ps bs) := by
  induction ps generalizing s bs with
  | nil => exact SameMaps.refl s
  | cons q ps ih => exact (sameMaps_physWrite s _ _).trans (ih _ _)

theorem sameMaps_l1Drop (s : State) (c pa n : Nat) : SameMaps s (s.modCore c (fun k => k.l1Drop pa n)) := by
  refine ⟨rfl, fun d => ?_⟩
  rw [core_modCore]
  split
  · subst d
    rfl
  · rfl

theorem sameMaps_foldl {α : Type} (xs : List α) (f : State → α → State) (hf : ∀ s x, SameMaps s (f s x)) (s : State) :
    SameMaps s (xs.foldl f s) := by
  induction xs generalizing s with
  | nil => exact SameMaps.refl s
  | cons x xs ih => exact (hf s x).trans (ih _)

/-- Writes one after the other. -/
theorem OnBlock.foldlM {α : Type} {xs : List α} {f : State → α → VolRes State} (hu : OnBlock w s u)
    (hf : ∀ x ∈ xs, ∀ v y, OnBlock w s v → f v x = .ok y → OnBlock w s y) (h : xs.foldlM f u = .ok t) : OnBlock w s t := by
  induction xs generalizing u with
  | nil =>
    cases h
    exact hu
  | cons x xs ih =>
    rw [List.foldlM_cons, ok_bind] at h
    obtain ⟨v, hv, h⟩ := h
    exact ih (hf x List.mem_cons_self u v hu hv) (fun y hy => hf y (List.mem_cons_of_mem _ hy)) h

/-- Each result of a list is that of one of its elements. -/
theorem mem_of_mapM {α β : Type} {f : α → VolRes β} {xs : List α} {ys : List β} (h : xs.mapM f = .ok ys) {y : β} (hy : y ∈ ys) :
    ∃ x ∈ xs, f x = .ok y := by
  induction xs generalizing ys with
  | nil =>
    rw [List.mapM_nil] at h
    cases h
    cases hy
  | cons x xs ih =>
    rw [List.mapM_cons, ok_bind] at h
    obtain ⟨z, hz, h⟩ := h
    rw [ok_bind] at h
    obtain ⟨zs, hzs, h⟩ := h
    cases h
    rcases List.mem_cons.1 hy with rfl | hy
    · exact ⟨x, List.mem_cons_self, hz⟩
    · obtain ⟨x', hx', hfx⟩ := ih hzs hy
      exact ⟨x', List.mem_cons_of_mem _ hx', hfx⟩

theorem mem_of_castOffs {need : Nat} {rs : List (Nat × Slot8)} {z : Nat × Slot8} (h : z ∈ castOffs need rs) : z ∈ rs :=
  (List.mem_filter.1 ((mem_sortBy _ _ _).1 (List.mem_of_mem_take h))).1

/-- A block that may be followed has at most 1,024 slots, and the slot named is one of them (R334, R340). -/
theorem bounds_of_blockFollow {h : Home} {b : Block} {slot : Option Nat} {x : Unit} (hf : s.blockFollow h b slot = .ok x) :
    b.n ≤ 1024 ∧ ∀ k, slot = some k → k < b.n := by
  simp only [State.blockFollow] at hf
  split at hf
  · cases hf
  · rename_i hgood
    simp only [Bool.or_eq_true, decide_eq_true_eq, not_or, Nat.not_lt] at hgood
    obtain ⟨⟨-, hn⟩, -⟩ := hgood
    refine ⟨hn, fun k hk => ?_⟩
    subst hk
    rw [ok_bind] at hf
    obtain ⟨recs, -, hf⟩ := hf
    split at hf
    · cases hf
    · dsimp only at hf
      split at hf
      · cases hf
      · omega

theorem at_of_blockRead {h : Home} {at_ : Nat} {b : Block} (hb : s.blockRead h at_ = .ok b) : b.at_ = at_ := by
  simp only [State.blockRead, ok_bind] at hb
  obtain ⟨bs, -, hb⟩ := hb
  cases hb
  rfl

theorem at_of_word (b : Block) (v : BitVec 64) : Block.at_ { b with word := v } = b.at_ := rfl

/-- The bit of a void block is none of the bits of its number of slots. -/
theorem n_voided (b : Block) : Block.n { b with word := setFld b.word 62 1 1 } = b.n := by
  have hlt := b.word.isLt
  simp only [Block.n, setFld, fld, BitVec.toNat_ofNat]
  omega

section
variable {h : Home} {at_ part vf : Nat} (hvia : h.via = .vf part vf)
  (hhit : ∀ x, at_ ≤ x → x < at_ + 64 + 8 * 1024 → (s.core h.agent.core).tlb.any (fun e => e.hit part vf x) = true)
  (hw : ∀ va n write ps, at_ ≤ va → va + n ≤ at_ + 64 + 8 * 1024 → s.pieces h.agent.core h.via write (granules n) va n = some ps →
    ∀ q ∈ ps, ∀ k, q.1 ≤ k → k < q.1 + q.2 → w.phys k)
include hvia hhit hw

/-- A write of bytes of the block. -/
theorem OnBlock.blockWrite (hu : OnBlock w s u) {va : Nat} {bs : List Byte} {write : Bool} (hlo : at_ ≤ va)
    (hin : va + bs.length ≤ at_ + 64 + 8 * 1024) (hwrite : u.blockWrite h va bs write = .ok t) : OnBlock w s t := by
  unfold State.blockWrite State.agentWrite at hwrite
  dsimp only at hwrite
  split at hwrite
  · cases hwrite
  · rename_i ps hps
    cases hwrite
    have hps' : s.pieces h.agent.core h.via write (granules bs.length) va bs.length = some ps := by
      rw [hvia] at hps ⊢
      rw [← hu.maps.pieces (fun x h1 h2 => hhit x (by omega) (by omega))]
      exact hps
    refine hu.trans ⟨?_, ?_⟩
    · refine Acts.trans (Acts.writePieces u ps (h.blur (u.freeCount + 2 ^ 64) va bs) (hw va _ write ps hlo hin hps')) ?_
      exact Acts.foldl _ _ (fun v q _ => Acts.l1Drop v _ _ _) _
    · exact (sameMaps_writePieces u ps _).trans (sameMaps_foldl _ _ (fun v q => sameMaps_l1Drop v _ _ _) _)

/-- A word of the block is written. -/
theorem OnBlock.putWord (hu : OnBlock w s u) {va : Nat} {x : BitVec 64} (hlo : at_ ≤ va) (hin : va + 8 ≤ at_ + 64 + 8 * 1024)
    (hwrite : u.putWord h va x = .ok t) : OnBlock w s t :=
  hu.blockWrite hvia hhit hw hlo (by rwa [length_leBytes]) hwrite

/-- The voiding of a block of an older epoch. -/
theorem OnBlock.voidBlock (hu : OnBlock w s u) {b : Block} {r : State × Block} (hat : b.at_ = at_) (hn : b.n ≤ 1024)
    (hvoid : u.voidBlock h b = .ok r) : OnBlock w s r.1 ∧ r.2.at_ = at_ ∧ r.2.n = b.n := by
  unfold State.voidBlock at hvoid
  split at hvoid
  · cases hvoid
    exact ⟨hu, hat, rfl⟩
  · rw [ok_bind] at hvoid
    obtain ⟨v, hv, hvoid⟩ := hvoid
    simp only [ok_bind] at hvoid
    obtain ⟨x, hx, hvoid⟩ := hvoid
    cases hvoid
    have hslots : OnBlock w s v := hu.foldlM (fun k hk y z hy hz => ?_) hv
    · refine ⟨hslots.blockWrite hvia hhit hw ?_ ?_ hx, (at_of_word b _).trans hat, n_voided b⟩
      · omega
      · rw [length_leBytes]
        omega
    have hk' := List.mem_range.1 hk
    rw [ok_bind] at hz
    obtain ⟨word, -, hz⟩ := hz
    dsimp only at hz
    split at hz
    · cases hz
      exact hy
    · refine hy.blockWrite hvia hhit hw ?_ ?_ hz
      · simp only [Block.slotAt, hat]
        omega
      · simp only [Block.slotAt, hat, length_leBytes]
        omega

theorem OnBlock.enterBlock {slot : Option Nat} {r : State × Block × Bool} (henter : s.enterBlock h at_ slot = .ok r) :
    OnBlock w s r.1 ∧ r.2.1.at_ = at_ ∧ r.2.1.n ≤ 1024 ∧ ∀ k, slot = some k → k < r.2.1.n := by
  simp only [State.enterBlock, ok_bind] at henter
  obtain ⟨b, hb, x, hfollow, y, hy, henter⟩ := henter
  cases henter
  obtain ⟨hn, hslot⟩ := bounds_of_blockFollow hfollow
  obtain ⟨hon, hat, hsame⟩ := (OnBlock.refl s).voidBlock hvia hhit hw (at_of_blockRead hb) hn hy
  exact ⟨hon, hat, hsame ▸ hn, fun k hk => hsame ▸ hslot k hk⟩

/-- What a step on a block leaves. -/
theorem OnBlock.stepOn {op : StepOp} {r : Stepped} (hstep : s.stepOn h at_ op = .ok r) : OnBlock w s r.state := by
  cases op with
  | cast k token conf rule =>
    simp only [State.stepOn, State.stepCast, ok_bind] at hstep
    obtain ⟨y, hy, v, -, hstep⟩ := hstep
    obtain ⟨hon, hat, hn, hk⟩ := OnBlock.enterBlock hvia hhit hw hy
    have hk' := hk k rfl
    split at hstep
    · cases hstep
      exact hon
    · simp only [ok_bind] at hstep
      obtain ⟨s2, h2, x, -, s3, h3, hstep⟩ := hstep
      cases hstep
      refine (hon.putWord hvia hhit hw ?_ ?_ h2).putWord hvia hhit hw ?_ ?_ h3
      all_goals simp only [Block.slotAt, hat]; omega
  | slot mark k =>
    simp only [State.stepOn, State.stepSlot, ok_bind] at hstep
    obtain ⟨y, hy, v, -, hstep⟩ := hstep
    obtain ⟨hon, hat, hn, hk⟩ := OnBlock.enterBlock hvia hhit hw hy
    have hk' := hk k rfl
    split at hstep
    · simp only [ok_bind] at hstep
      obtain ⟨s2, h2, hstep⟩ := hstep
      cases hstep
      refine hon.putWord hvia hhit hw ?_ ?_ h2
      all_goals simp only [Block.slotAt, hat]; omega
    · cases hstep
      exact hon
  | header =>
    simp only [State.stepOn, State.stepHeader, ok_bind] at hstep
    obtain ⟨y, hy, hstep⟩ := hstep
    obtain ⟨hon, -⟩ := OnBlock.enterBlock hvia hhit hw hy
    cases hstep
    exact hon
  | opening =>
    simp only [State.stepOn, State.stepOpen, ok_bind] at hstep
    obtain ⟨b, -, hstep⟩ := hstep
    split at hstep
    · cases hstep
    · rename_i hok
      simp only [not_or, Nat.not_lt] at hok
      obtain ⟨-, hn, -⟩ := hok
      simp only [ok_bind] at hstep
      obtain ⟨s1, h1, s2, h2, s3, h3, hstep⟩ := hstep
      cases hstep
      have e1 := (OnBlock.refl s).blockWrite hvia hhit hw (by omega) (by rw [List.length_replicate]; omega) h1
      have e2 := e1.blockWrite hvia hhit hw (by omega) (by rw [length_leBytes]; omega) h2
      exact e2.putWord hvia hhit hw (by omega) (by omega) h3
  | pass kmin =>
    simp only [State.stepOn, State.stepPass, ok_bind] at hstep
    obtain ⟨-, -, y, hy, hstep⟩ := hstep
    obtain ⟨hon, hat, hn, -⟩ := OnBlock.enterBlock hvia hhit hw hy
    split at hstep
    · cases hstep
      exact hon
    · simp only [ok_bind] at hstep
      obtain ⟨rs, hrs, s2, h2, x, -, s3, h3, hstep⟩ := hstep
      cases hstep
      refine OnBlock.putWord hvia hhit hw (hon.foldlM (fun z hz v t hv ht => ?_) h2) ?_ ?_ h3
      · obtain ⟨k, hk, hz'⟩ := mem_of_mapM hrs (mem_of_castOffs hz)
        rw [ok_bind] at hz'
        obtain ⟨v', -, hz'⟩ := hz'
        cases hz'
        have hslot : k < y.2.1.n := List.mem_range.1 hk
        refine hv.putWord hvia hhit hw ?_ ?_ ht
        all_goals simp only [Block.slotAt, hat]; omega
      all_goals rw [hat]; omega

end

end

/-! ### Steps at their home -/

section
variable {w : Scope} {s : State} {p : Pending}

theorem acts_doneAt (hstep : p.isStep = true) (hw : w.HasSpan p.agent p.span) (s : State) (v : Nat) : Acts w s (s.doneAt p v) := by
  have hspan : p.span = spanOf 64 p.kind.dst := by
    unfold Pending.span
    have hbar : p.isBar = false := by
      unfold Pending.isStep at hstep
      split at hstep
      · rename_i hk
        simp only [Pending.isBar, hk]
      · cases hstep
    cases p.kind.dst with
    | g i => simp only [hbar, hstep, Bool.true_or, Bool.false_eq_true, if_false, if_true]; rfl
    | s i => rfl
    | lit i => rfl
    | imm i => rfl
  have hspend : ∀ u : State, Acts w u (u.spend p.home) := by
    intro u
    unfold State.spend
    split
    · exact Acts.refl u
    · exact Acts.outside rfl rfl
  exact (Acts.giveBack s p _ _ _ (hspan ▸ hw)).trans ((hspend _).trans (Acts.retire _ p))

theorem acts_performStep {at_ part vf : Nat} {op : StepOp} {block : Nat} (hstep : p.isStep = true) (hplace : p.place = .glob at_)
    (hvia : p.via = .vf part vf)
    (hhit : ∀ x, at_ ≤ x → x < at_ + 64 + 8 * 1024 → (s.core p.agent.core).tlb.any (fun e => e.hit part vf x) = true)
    (hblock : ∀ va n write ps, at_ ≤ va → va + n ≤ at_ + 64 + 8 * 1024 → s.pieces p.agent.core p.via write (granules n) va n = some ps →
      ∀ q ∈ ps, ∀ k, q.1 ≤ k → k < q.1 + q.2 → w.phys k)
    (hw : Scope.HasDest w s p) : Acts w s (s.performStep p op block) := by
  unfold State.performStep
  rw [hplace]
  simp only [Place.addr]
  split
  · exact acts_opFails (Acts.refl s) hw _
  · rename_i r hr
    have hon : Acts w s r.state := (OnBlock.stepOn (w := w) (h := p.home) hvia hhit hblock hr).acts
    refine hon.trans ?_
    have hacq : Acts w r.state (if isAcquire p.order then r.state.acquire p.agent 5 (some (.block block)) else r.state) := by
      split
      · exact Acts.acquire _ _ _ _ _
      · exact Acts.refl _
    generalize (if isAcquire p.order then r.state.acquire p.agent 5 (some (.block block)) else r.state) = u at hacq ⊢
    have hpub : Acts w r.state (u.publish p.agent (some (.block block)) 5) := hacq.trans (Acts.publish u _ _ _)
    refine Acts.trans ?_ (acts_doneAt hstep hw.span _ _)
    split
    · exact hpub.trans (Acts.publish _ _ _ _)
    · exact hpub

end

/-! ### Scopes of the performed accesses -/

theorem hasObj_of_objs {w : Scope} {s : State} {objs : ObjRef → Prop} (hg : ∀ pa, atGlobObj objs pa → w.phys pa)
    (hs : ∀ c o, atStoreObj s objs c o → w.astore c o) {r : ObjRef} (hr : objs r) : w.HasObj s r where
  glob := fun pa ⟨h, ho, hlo, hhi⟩ => hg pa ⟨h, ho ▸ hr, hlo, hhi⟩
  store := fun c o ⟨x, off, ho, hlo, hhi⟩ => hs c o ⟨x, off, ho ▸ hr, hlo, hhi⟩

theorem hasDest_of_objs {w : Scope} {s : State} {p : Pending} (hg : ∀ pa, atGlobObj (waitedOn s p.agent) pa → w.phys pa)
    (hs : ∀ c o, atStoreObj s (waitedOn s p.agent) c o → w.astore c o) (hspan : w.HasSpan p.agent p.span) : Scope.HasDest w s p :=
  ⟨hspan, fun _ hr => hasObj_of_objs hg hs hr⟩

section
variable {w : Scope} {s t : State} (h : Acts w s t) (hp : ∀ b n, ¬ w.p b n)
include h hp

/-- Predicates, handles and flags of an agent whose predicates the scope does not name. -/
theorem rest_of_acts (b : Agent) : (t.ctx b).preds = (s.ctx b).preds ∧ (t.ctx b).handles = (s.ctx b).handles
    ∧ (t.ctx b).fstat = (s.ctx b).fstat :=
  ⟨BitVec.eq_of_getLsbD_eq (fun n hn => h.touches.preds b n hn (hp b n)), h.touches.handles b, h.touches.fstat b⟩

end

/-! ### What each operation performs -/

section
variable {s t : State} {core op : Nat} {p : Pending} (hready : s.readyOp core op = some p)
include hready

theorem performLoads_of_next (hload : p.isLoad = true) (h : exec (.loadReturn core op) s = .next t) :
    t = s.performLoads ((s.core core).loadSet p) := by
  change execLoadReturn core op s = _ at h
  simp only [execLoadReturn, hready, hload, if_true] at h
  split at h
  · exact (Host.Outcome.next.inj h).symm
  · cases h

theorem performAtomic_of_next (hatomic : p.isAtomic = true) (halone : (s.core p.agent.core).atomicSet p = [p])
    (h : exec (.atomicAtHome core op) s = .next t) : t = s.performAtomic p := by
  change execAtomicAtHome core op s = _ at h
  simp only [execAtomicAtHome, hready, hatomic, if_true] at h
  rw [performSet_next h, halone]
  unfold Pending.isAtomic at hatomic
  split at hatomic
  · rename_i hk
    simp only [List.foldl, State.perform, hk]
  · rename_i hk
    simp only [List.foldl, State.perform, hk]
  · rename_i hk
    simp only [List.foldl, State.perform, hk]
  · cases hatomic

theorem ldgas_of_next (h : exec (.ldgaLanding core op) s = .next t) :
    t = ((s.core core).loadSet p).foldl (fun u q => u.perform q) s := by
  change execLdgaLanding core op s = _ at h
  simp only [execLdgaLanding, hready] at h
  split at h
  · exact (Host.Outcome.next.inj h).symm
  · cases h

theorem mem_pend_of_ready : p ∈ (s.core core).pend := mem_of_findOp (readyOp_iff.1 hready).1

end

/-- What goes together with an access: accesses of its core, `LDGA`s with an `LDGA`. -/
theorem mem_joinLoads {k : Core} {P : Pending → Prop} (hjoin : ∀ x ∈ k.pend, ∀ q, P q → x.joins q = true → P x) (n : Nat)
    {set : List Pending} (hset : ∀ q ∈ set, P q) : ∀ q ∈ k.joinLoads n set, P q := by
  induction n generalizing set with
  | zero => exact hset
  | succ n ih =>
    unfold Core.joinLoads
    dsimp only
    split
    · exact hset
    · refine ih (fun x hx => ?_)
      obtain ⟨hmem, hany⟩ := List.mem_filter.1 hx
      obtain ⟨q, hq, hxq⟩ := List.any_eq_true.1 hany
      rcases Bool.or_eq_true_iff.1 hxq with heq | hjoins
      · exact beq_iff_eq.1 heq ▸ hset q hq
      · exact hjoin x hmem q (hset q hq) hjoins

theorem mem_pend_of_loadSet {k : Core} {p q : Pending} (hp : p ∈ k.pend) (hq : q ∈ k.loadSet p) : q ∈ k.pend :=
  mem_joinLoads (P := (· ∈ k.pend)) (fun _ hx _ _ _ => hx) 64 (fun _ hx => List.mem_singleton.1 hx ▸ hp) q hq

theorem isLdga_of_loadSet {k : Core} {p q : Pending} (hp : p.isLdga = true) (hq : q ∈ k.loadSet p) : q.isLdga = true := by
  refine mem_joinLoads (P := fun x => x.isLdga = true) (fun x _ y hy hjoins => ?_) 64 (fun x hx => List.mem_singleton.1 hx ▸ hp) q hq
  have hload : y.isLoad = false := by
    unfold Pending.isLdga at hy
    split at hy
    · rename_i hk
      simp only [Pending.isLoad, hk]
    · cases hy
  simp only [Pending.joins, hload, Bool.and_false, Bool.false_or, Bool.and_eq_true] at hjoins
  exact hjoins.1.1.1

/-- The loads that return together: those of a core whose number is that of one of a set. -/
def loadScope (s : State) (hit : Pending → Prop) : Scope where
  phys := atGlobObj (fun r => ∃ q, hit q ∧ waitedOn s q.agent r)
  astore := atStoreObj s (fun r => ∃ q, hit q ∧ waitedOn s q.agent r)
  g := fun b n => ∃ q, hit q ∧ q.agent = b ∧ ¬ outside q.span false n
  s := fun b n => ∃ q, hit q ∧ q.agent = b ∧ ¬ outside q.span true n

theorem loadScope_hasDest {s : State} {hit : Pending → Prop} {q : Pending} (hq : hit q) : Scope.HasDest (loadScope s hit) s q :=
  ⟨⟨fun _ hn => ⟨q, hq, rfl, hn⟩, fun _ hn => ⟨q, hq, rfl, hn⟩⟩,
    fun _ hr => hasObj_of_objs (objs := fun r => ∃ q, hit q ∧ waitedOn s q.agent r) (fun _ h => h) (fun _ _ h => h) ⟨q, hq, hr⟩⟩

/-- What an atomic may change: its location, its destination and the objects that its agent waits on. -/
def atomicScope (s : State) (p : Pending) : Scope where
  phys := fun pa => (∃ va ps, p.place = .glob va ∧ s.pieces p.agent.core p.via true (granules p.n) va p.n = some ps
    ∧ ∃ q ∈ ps, q.1 ≤ pa ∧ pa < q.1 + q.2) ∨ atGlobObj (waitedOn s p.agent) pa
  astore := fun e off => placed s p p.n e off ∨ atStoreObj s (waitedOn s p.agent) e off
  g := fun b n => b = p.agent ∧ ¬ outside p.span false n
  s := fun b n => b = p.agent ∧ ¬ outside p.span true n

theorem atomicScope_hasAtom (s : State) (p : Pending) : Scope.HasAtom (atomicScope s p) s p := by
  unfold Scope.HasAtom
  cases hpl : p.place with
  | glob va => exact fun ps hps q hq k hlo hhi => .inl ⟨va, ps, hpl, hps, q, hq, hlo, hhi⟩
  | store d r o => exact fun k hlo hhi => .inl ⟨d, r, o, hpl, rfl, hlo, hhi⟩
  | cstore o => trivial
  | wstore o => trivial

/-- What `LDGA`s that land together may change: their destinations, their objects, the objects that their agents wait on, and the
predicates of those that they wake. -/
def ldgaScope (s : State) (set : List Pending) : Scope where
  phys := atGlobObj (fun r => ∃ q ∈ set, waitedOn s q.agent r)
  astore := fun e off => (∃ q ∈ set, ∃ d r dst bc br bar, q.kind = .ldga d r dst bc br bar
    ∧ (inStore s d r dst q.n e off ∨ inStore s bc br bar 16 e off)) ∨ atStoreObj s (fun r => ∃ q ∈ set, waitedOn s q.agent r) e off
  p := fun _ _ => True

theorem ldgaScope_hasLdga {s : State} {set : List Pending} {q : Pending} (hq : q ∈ set) {c x dst bc br bar : Nat}
    (hkind : q.kind = .ldga c x dst bc br bar) : Scope.HasLdga (ldgaScope s set) s q c x dst bc br bar where
  dest := fun _ hlo hhi => .inl ⟨q, hq, c, x, dst, bc, br, bar, hkind, .inl ⟨rfl, hlo, hhi⟩⟩
  bar :=
    { glob := fun _ ⟨_, h, _⟩ => nomatch h
      store := fun e off ⟨r, o, h, hlo, hhi⟩ => by
        cases h
        exact .inl ⟨q, hq, c, x, dst, bc, br, bar, hkind, .inr ⟨rfl, hlo, hhi⟩⟩ }
  obj := fun _ hr => hasObj_of_objs (objs := fun r => ∃ q ∈ set, waitedOn s q.agent r) (fun _ h => h) (fun _ _ h => Or.inr h) ⟨q, hq, hr⟩
  pred := fun _ _ => trivial

theorem Scope.HasLdga.keeps {w : Scope} {s u : State} {q : Pending} {c x dst bc br bar : Nat}
    (h : Scope.HasLdga w s q c x dst bc br bar) (hk : Keeps s u) : Scope.HasLdga w u q c x dst bc br bar where
  dest := fun k hlo hhi => h.dest k (hk.base c x ▸ hlo) (hk.base c x ▸ hhi)
  bar := h.bar.keeps hk
  obj := fun r hr => (h.obj r ((hk.waits _).waitedOn hr)).keeps hk
  pred := h.pred

/-- What a step on a block may change: bytes of its pieces, its destination and the objects that its agent waits on. -/
def stepScope (s : State) (p : Pending) (at_ : Nat) : Scope where
  phys := fun pa => (∃ va n write ps, at_ ≤ va ∧ va + n ≤ at_ + 64 + 8 * 1024
    ∧ s.pieces p.agent.core p.via write (granules n) va n = some ps ∧ ∃ q ∈ ps, q.1 ≤ pa ∧ pa < q.1 + q.2)
    ∨ atGlobObj (waitedOn s p.agent) pa
  astore := atStoreObj s (waitedOn s p.agent)
  g := fun b n => b = p.agent ∧ ¬ outside p.span false n
  s := fun b n => b = p.agent ∧ ¬ outside p.span true n

/-- Settles O57: each operation acts in the scope of its accesses. -/
theorem performedFrame : Obligations.PerformedFrame := by
  unfold Obligations.PerformedFrame
  intro s t core op p hready c objs inPieces' inStore' placed' hit sameRest
  refine ⟨fun hload hexec => ?load, fun bs hkind hexec => ?store, fun hatomic halone hexec => ?atomic, fun hldga hexec => ?ldga,
    fun o blk d at_ part vf hkind hplace hvia hhit hexec => ?step⟩
  case load =>
    have hmem := mem_pend_of_ready hready
    have hset : ∀ q ∈ (s.core core).loadSet p, hit q := fun q hq => ⟨core, mem_pend_of_loadSet hmem hq, q, hq, rfl⟩
    have hacts : Acts (loadScope s hit) s t := by
      rw [performLoads_of_next hready hload hexec]
      refine acts_performLoads (fun q hq => loadScope_hasDest (hset q hq)) (fun q hq x hx hid => loadScope_hasDest ?_)
      exact ⟨q.agent.core, hx, q, hq, hid⟩
    refine ⟨hacts.touches.sameBytesBut, fun b hb => hacts.touches.sameRegs ?_ ?_ (fun _ => id),
      fun b => ⟨rest_of_acts hacts (fun _ _ => id) b, fun n hn => hacts.touches.gR b n ?_, fun n hn => hacts.touches.sR b n ?_⟩⟩
    · exact fun n ⟨q, hq, hqb, _⟩ => hb q hq hqb
    · exact fun n ⟨q, hq, hqb, _⟩ => hb q hq hqb
    · exact fun ⟨q, hq, hqb, hin⟩ => hin (hn q hq hqb)
    · exact fun ⟨q, hq, hqb, hin⟩ => hin (hn q hq hqb)
  case store =>
    have ht : t = s.performStoreStep p bs := Host.Outcome.next.inj (hexec.symm.trans (exec_storePerformed_store hready hkind))
    subst ht
    have hacts : Acts (storeScope s p bs) s (s.performStoreStep p bs) := acts_performStoreStep
    exact ⟨fun b => hacts.touches.sameRegs (fun _ => id) (fun _ => id) (fun _ => id), hacts.touches.sameBytesBut,
      fun hgot hone hundef => ⟨fun va pa n hpl hwin hps => stored_glob hgot hone hundef hpl hwin hps,
        fun d w o hpl => stored_store hgot hone hundef hpl, fun o hpl => stored_cstore hgot hone hundef hpl⟩⟩
  case atomic =>
    have hdest : Scope.HasDest (atomicScope s p) s p := hasDest_of_objs (fun _ h => .inr h) (fun _ _ h => .inr h)
      ⟨fun _ hn => ⟨rfl, hn⟩, fun _ hn => ⟨rfl, hn⟩⟩
    have hacts : Acts (atomicScope s p) s t := by
      rw [performAtomic_of_next hready hatomic halone hexec]
      exact acts_performAtomic hatomic hdest (atomicScope_hasAtom s p)
    exact ⟨fun b hb => hacts.touches.sameRegs (fun _ h => hb h.1) (fun _ h => hb h.1) (fun _ => id), rest_of_acts hacts (fun _ _ => id) _,
      fun n hn => hacts.touches.gR _ n (fun h => h.2 hn), fun n hn => hacts.touches.sR _ n (fun h => h.2 hn), hacts.touches.sameBytesBut⟩
  case ldga =>
    intro set waits
    have hacts : Acts (ldgaScope s set) s t := by
      rw [ldgas_of_next hready hexec]
      refine Acts.foldl_within _ _ (fun u q hq hu => ?_) (Acts.refl s)
      have hq' := isLdga_of_loadSet hldga hq
      unfold Pending.isLdga at hq'
      split at hq'
      · rename_i hk
        simp only [State.perform, hk]
        exact acts_performLdga ((ldgaScope_hasLdga hq hk).keeps hu.keeps)
      · cases hq'
    exact ⟨fun b n => ⟨hacts.touches.gR b n id, hacts.touches.sR b n id⟩, hacts.touches.sameBytesBut⟩
  case step =>
    have hstep : p.isStep = true := by simp only [Pending.isStep, hkind]
    have ht : t = s.performStep p o blk := by
      have h := hexec.symm.trans (exec_loadReturn_home hready (.inl hstep))
      simp only [State.perform, hkind] at h
      exact Host.Outcome.next.inj h
    have hdest : Scope.HasDest (stepScope s p at_) s p := hasDest_of_objs (fun _ h => .inr h) (fun _ _ h => h)
      ⟨fun _ hn => ⟨rfl, hn⟩, fun _ hn => ⟨rfl, hn⟩⟩
    have hacts : Acts (stepScope s p at_) s t := by
      rw [ht]
      exact acts_performStep hstep hplace hvia hhit
        (fun va n write ps hlo hhi hps q hq k h1 h2 => .inl ⟨va, n, write, ps, hlo, hhi, hps, q, hq, h1, h2⟩) hdest
    exact ⟨fun b hb => hacts.touches.sameRegs (fun _ h => hb h.1) (fun _ h => hb h.1) (fun _ => id), rest_of_acts hacts (fun _ _ => id) _,
      fun n hn => hacts.touches.gR _ n (fun h => h.2 hn), fun n hn => hacts.touches.sR _ n (fun h => h.2 hn), hacts.touches.sameBytesBut⟩

end Sys2Proof.Proofs
end


section
/-!
Operations that leave physical memory as it was, in the order of the model's files (a continuation of the first part of
`Laws/Memory.lean`); what writes it keeps its canonical form, which the next part says.
-/

namespace Sys2Proof.Laws

open Sys2Proof.Machine Sys2Proof.Safety

@[simp] theorem settleS_phys (s : State) (a : Agent) (n : Nat) : (s.settleS a n).phys = s.phys := by
  unfold State.settleS; (repeat' split) <;> simp
@[simp] theorem endServed_phys (s : State) (a : Agent) (t : Trap) (by_ : IssueId) : (s.endServed a t by_).phys = s.phys := by
  unfold State.endServed; split <;> simp
@[simp] theorem settle_phys (s : State) (a : Agent) (f : Form) : (s.settle a f).phys = s.phys :=
  foldl_phys _ _ _ (fun s n => settleS_phys s a n)
@[simp] theorem retain_phys (s : State) (a : Agent) (f : Form) : (s.retain a f).phys = s.phys := by
  unfold State.retain; split <;> simp
@[simp] theorem resetQueue_phys (s : State) (part vf queue : Nat) (v : Word) : (s.resetQueue part vf queue v).phys = s.phys := rfl
@[simp] theorem park_phys (s : State) (a : Agent) (w : Wait) : (s.park a w).phys = s.phys := by simp [State.park]
@[simp] theorem onId_phys (s : State) (id : AgentId) (ft : Thread → Thread) (fl : Lead → Lead) :
    (s.onId id ft fl).phys = s.phys := by
  unfold State.onId; (repeat' split) <;> simp
@[simp] theorem onCtx_phys (s : State) (id : AgentId) (f : Ctx → Ctx) : (s.onCtx id f).phys = s.phys := by simp [State.onCtx]
@[simp] theorem deliver_phys (s : State) (ix : Nat) (c : Machine.Circle) (id : AgentId) (k : ArriveKind) :
    (s.deliver ix c id k).phys = s.phys := by
  unfold State.deliver; (repeat' split) <;> simp
@[simp] theorem circleAcquire_phys (s : State) (p ix : Nat) (c : Machine.Circle) : (s.circleAcquire p ix c).phys = s.phys :=
  foldl_phys _ _ _ (fun s x => by split <;> simp)
theorem turnCircle_phys (p ix n : Nat) (s : State) : (State.turnCircle p ix n s).phys = s.phys := by
  induction n generalizing s with
  | zero => rfl
  | succ n ih =>
    have hdeliver : ∀ c : Machine.Circle, (c.now.foldl (fun s x => s.deliver ix c x.1 x.2) s).phys = s.phys :=
      fun c => foldl_phys _ _ _ (fun s x => by simp)
    unfold State.turnCircle
    split
    · rfl
    · split
      · simp
      · split
        · simp [ih, hdeliver]
        · rfl
@[simp] theorem setCircle_phys (s : State) (p ix : Nat) (c : Machine.Circle) : (s.setCircle p ix c).phys = s.phys := by
  simp [State.setCircle, turnCircle_phys]
@[simp] theorem departSeen_phys (s : State) (p ix : Nat) (c : Machine.Circle) (id : AgentId) :
    (s.departSeen p ix c id).phys = s.phys := by
  unfold State.departSeen; (repeat' split) <;> simp
@[simp] theorem departAll_phys (s : State) (p : Nat) (id : AgentId) (fault : Bool) : (s.departAll p id fault).phys = s.phys :=
  foldl_phys _ _ _ (fun s c => by
    split
    · split <;> simp
    · rfl)
@[simp] theorem markHolds_phys (s : State) (c : Nat) : (s.markHolds c).phys = s.phys := rfl
@[simp] theorem stopAtMatch_phys (s : State) (a : Agent) (m : Nat) :
    (s.stopAtMatch a m).phys = s.phys := by simp [State.stopAtMatch]
@[simp] theorem passMatch_phys (s : State) (as : List Agent) : (s.passMatch as).1.phys = s.phys :=
  List.foldlRecOn (motive := fun acc : State × List Agent => acc.1.phys = s.phys) as _ rfl (fun acc h a _ => by
    dsimp only
    split <;> simp [h])
@[simp] theorem countReady_phys (s : State) (c n : Nat) : (s.countReady c n).phys = s.phys := by
  unfold State.countReady; dsimp only; (repeat' split) <;> simp
@[simp] theorem pass_phys (s : State) (n : Nat) : (s.pass n).phys = s.phys := by
  unfold State.pass
  rw [State.tick_phys]
  exact foldl_phys _ _ _ (fun s k => by dsimp only; split <;> simp)
@[simp] theorem takeNumbers_phys (s : State) (c : Nat) (as : List Agent) : (s.takeNumbers c as).phys = s.phys :=
  foldl_phys _ _ _ (fun s x => by simp)
@[simp] theorem fetchDrop_phys (s : State) (a : Agent) : (s.fetchDrop a).phys = s.phys := by
  unfold State.fetchDrop; split <;> simp
@[simp] theorem countReleases_phys (s : State) (c p before : Nat) : (s.countReleases c p before).phys = s.phys := rfl
@[simp] theorem onGroup_phys (s : State) (c p g : Nat) (f : Thread → Thread) : (s.onGroup c p g f).phys = s.phys := rfl
@[simp] theorem takeEntry_phys (s : State) (c p g : Nat) : (s.takeEntry c p g).2.phys = s.phys := by
  unfold State.takeEntry
  split
  · simp only [countReleases_phys, State.modCore_phys]
    exact foldl_phys _ _ _ (fun s t => by simp)
  · rfl
@[simp] theorem servePops_phys (s : State) (c p : Nat) : (s.servePops c p).phys = s.phys :=
  foldl_phys _ _ _ (fun s x => by split <;> simp)
@[simp] theorem enqueue_phys (s : State) (c p : Nat) (v : DWord) : (s.enqueue c p v).phys = s.phys := by
  unfold State.enqueue; split <;> rfl
@[simp] theorem servePush_phys (s : State) (c p : Nat) : (s.servePush c p).phys = s.phys := by
  unfold State.servePush; (repeat' split) <;> simp
@[simp] theorem settleQueue_phys (s : State) (c p : Nat) : (s.settleQueue c p).phys = s.phys := by
  simp [State.settleQueue]
@[simp] theorem endPops_phys (s : State) (c p : Nat) : (s.endPops c p).phys = s.phys := by
  unfold State.endPops
  split
  · exact foldl_phys _ _ _ (fun s g => by simp)
  · rfl
@[simp] theorem putHigh_phys (s : State) (a : Agent) (d : Opnd) (imm : Word) : (s.putHigh a d imm).phys = s.phys := by
  unfold State.putHigh; split <;> simp
@[simp] theorem exitThread_phys (s : State) (a : Agent) : (s.exitThread a).phys = s.phys := by
  unfold State.exitThread; dsimp only; split <;> simp
@[simp] theorem volAsk_phys (s : State) (a : Agent) : (s.volAsk a).phys = s.phys := by simp [State.volAsk]
@[simp] theorem volMiss_phys (s : State) (a : Agent) : (s.volMiss a).phys = s.phys := by simp [State.volMiss]
@[simp] theorem volCached_phys (s : State) (a : Agent) (v : VolName) (tile leaf : Nat) :
    (s.volCached a v tile leaf).phys = s.phys := rfl
@[simp] theorem owaitSeen_phys (s : State) (a : Agent) (cp mx : Bool) : (s.owaitSeen a cp mx).phys = s.phys := rfl
@[simp] theorem walkChunk_phys (s : State) (core : Nat) (c : CopyCmd) (js : List Nat) : (s.walkChunk core c js).phys = s.phys :=
  foldl_phys _ _ _ (fun s j => foldl_phys _ _ _ (fun s p => by split <;> simp))
@[simp] theorem keepSource_phys (s : State) (core : Nat) (c : CopyCmd) (m : CopyMove) :
    (s.keepSource core c m).phys = s.phys := by
  unfold State.keepSource; split <;> rfl
@[simp] theorem spoilTiles_phys (s : State) (core : Nat) (c : CopyCmd) (moves : List CopyMove) :
    (s.spoilTiles core c moves).phys = s.phys :=
  foldl_phys _ _ _ (fun s x => by simp)
@[simp] theorem countCopied_phys (s : State) (core : Nat) (via : Via) (moves : List CopyMove) :
    (s.countCopied core via moves).phys = s.phys := by
  unfold State.countCopied; dsimp only; split <;> simp
@[simp] theorem freeTile_phys (s : State) (core t : Nat) : (s.freeTile core t).phys = s.phys := rfl
@[simp] theorem markMx_phys (s : State) (a : Agent) (m : MxMark) : (s.markMx a m).phys = s.phys := by simp [State.markMx]
@[simp] theorem pushMx_phys (s : State) (a : Agent) (w : Wg) (id : Nat) (pc : DWord) (kind : MxKind) (inject : Bool) :
    (s.pushMx a w id pc kind inject).phys = s.phys := rfl
@[simp] theorem readMstat_phys (s : State) (a : Agent) (d : Opnd) (inject : Bool) :
    (s.readMstat a d inject).phys = s.phys := by simp [State.readMstat]
@[simp] theorem settleMchk_phys (s : State) (core : Nat) : (s.settleMchk core).phys = s.phys :=
  foldl_phys _ _ _ (fun s a => by
    split
    · split <;> simp
    · rfl)
@[simp] theorem noteMstat_phys (s : State) (core : Nat) (o : MxOp) (fl : FFlags) (reruns : Nat) :
    (s.noteMstat core o fl reruns).phys = s.phys := rfl
@[simp] theorem viewPut_phys (v : State) (core : Nat) (p : Place) (b : Byte) : (v.viewPut core p b).phys = v.phys := by
  unfold State.viewPut; split <;> rfl
@[simp] theorem retireMx_phys (s : State) (core : Nat) (o : MxOp) : (s.retireMx core o).phys = s.phys := by
  unfold State.retireMx
  rw [settleMchk_phys]
  exact foldl_phys _ _ _ (fun s id => by simp)
@[simp] theorem quantWrite_phys (s : State) (core : Nat) (o : MxOp) (dst : Nat) (bs : List Byte) :
    (s.quantWrite core o dst bs).phys = s.phys := by simp [State.quantWrite]
@[simp] theorem spoilRows_phys (s : State) (core : Nat) (o : MxOp) : (s.spoilRows core o).phys = s.phys := by
  unfold State.spoilRows
  split
  · exact foldl_phys _ _ _ (fun s x => by
      split
      · split <;> rfl
      · rfl)
  · rfl
@[simp] theorem giveNodes_phys (s : State) (d : Opnd) (w : Nat) (rs : List (Agent × Node)) : (s.giveNodes d w rs).phys = s.phys :=
  foldl_phys _ _ _ (fun s r => by simp)
@[simp] theorem waitPop_phys (s : State) (f : RForm) (present all : List Agent) (lim : Nat) :
    (s.waitPop f present all lim).phys = s.phys :=
  foldl_phys _ _ _ (fun s x => by simp)
@[simp] theorem acceptEntries_phys (s : State) (part vf queue : Nat) (x : Word) :
    (s.acceptEntries part vf queue x).phys = s.phys := rfl
@[simp] theorem stopQueue_phys (s : State) (part vf queue cause : Nat) : (s.stopQueue part vf queue cause).phys = s.phys := rfl
@[simp] theorem ring_phys (s : State) (part vf queue : Nat) (x : Word) : (s.ring part vf queue x).phys = s.phys := by
  unfold State.ring; dsimp only; (repeat' split) <;> simp
@[simp] theorem doorbell_phys (s : State) (part vf queue : Nat) (x : Word) : (s.doorbell part vf queue x).phys = s.phys := by
  unfold State.doorbell; split <;> simp
@[simp] theorem endLead_phys (s : State) (a : Agent) : (s.endLead a).phys = s.phys := by simp [State.endLead]
@[simp] theorem freshStore_phys (s : State) : s.freshStore.2.phys = s.phys := rfl
theorem freshStore_if_phys (s : State) (b : Bool) : (if b then s.freshStore else ([], s)).2.phys = s.phys := by
  cases b <;> rfl
@[simp] theorem saveRegion_phys (s : State) (core region : Nat) : (s.saveRegion core region).phys = s.phys := by
  unfold State.saveRegion
  split
  · rfl
  · dsimp only
    split <;> simp only [State.modCore_phys, freshStore_if_phys, State.modGrid_phys]
@[simp] theorem saveRegions_phys (s : State) (core : Nat) : (s.saveRegions core).phys = s.phys :=
  foldl_phys _ _ _ (fun s r => saveRegion_phys s core r)
@[simp] theorem switchCore_phys (s : State) (c part vf : Nat) : (s.switchCore c part vf).phys = s.phys := by
  unfold State.switchCore; (repeat' split) <;> simp
@[simp] theorem clearIdle_phys (s : State) (c : Nat) : (s.clearIdle c).phys = s.phys := by
  unfold State.clearIdle
  split
  · split <;> simp
  · rfl
@[simp] theorem dropL1_phys (s : State) (c : Nat) : (s.dropL1 c).phys = s.phys := rfl
@[simp] theorem addWg_phys (s : State) (gid : Nat) (g : Grid) (lin c : Nat) : (s.addWg gid g lin c).2.phys = s.phys := by
  unfold State.addWg
  dsimp only
  split <;> simp
@[simp] theorem startSeasons_phys (s : State) (part core n : Nat) : (s.startSeasons part core n).phys = s.phys := by
  unfold State.startSeasons; split <;> rfl
@[simp] theorem putTeam_phys (s : State) (gid : Nat) (g : Grid) (team core : Nat) :
    (s.putTeam gid g team core).phys = s.phys := by
  have hplaced : ∀ xs : List Nat, ∀ acc : List Nat × State, (xs.foldl (fun (acc : List Nat × State) m =>
      let (p, t) := acc.2.addWg gid g (team * g.launch.team + m) (core + m)
      (acc.1 ++ [p], t)) acc).2.phys = acc.2.phys := fun xs acc =>
    List.foldlRecOn (motive := fun r : List Nat × State => r.2.phys = acc.2.phys) xs _ rfl (fun r h m _ => by simpa using h)
  simp [State.putTeam, hplaced]
@[simp] theorem dropTeam_phys (s : State) (p : Placed) : (s.dropTeam p).phys = s.phys :=
  foldl_phys _ _ _ (fun s x => by simp)
@[simp] theorem sweep_phys (s : State) (part : Nat) : (s.sweep part).phys = s.phys :=
  foldl_phys _ _ _ (fun s g => by
    split
    · exact foldl_phys _ _ _ (fun s p => by split <;> simp)
    · rfl)
@[simp] theorem without_phys (s : State) (p : Nat → Grid → Placed → Bool) : (s.without p).phys = s.phys :=
  foldl_phys _ _ _ (fun s g => foldl_phys _ _ _ (fun s t => by split <;> simp))
@[simp] theorem askStop_phys (s : State) (gid : Nat) (g : Grid) (team : Nat) (w : Waiting) (claim : List Nat) :
    (s.askStop gid g team w claim).phys = s.phys := rfl
@[simp] theorem endLanded_phys (s : State) (core : Nat) (as : List Agent) : (s.endLanded core as).phys = s.phys :=
  foldl_phys _ _ _ (fun s x => by simp)
@[simp] theorem putAside_phys (s : State) (core : Nat) (o : MxOp) : (s.putAside core o).phys = s.phys := by
  unfold State.putAside; split <;> rfl
@[simp] theorem withdrawDrains_phys (s : State) (gid core wg : Nat) : (s.withdrawDrains gid core wg).1.phys = s.phys := rfl
@[simp] theorem restoreTeam_phys (s : State) (gid : Nat) (g : Grid) (team core : Nat) (k : Skein) :
    (s.restoreTeam gid g team core k).phys = s.phys := by
  have hsave : ∀ (xs : List Nat) (f : Nat → Nat) (u : State), (xs.foldl (fun u m => u.saveRegions (f m)) u).phys = u.phys :=
    fun xs f u => foldl_phys _ _ _ (fun u m => saveRegions_phys u (f m))
  unfold State.restoreTeam
  extract_lets l n owners s1 k s2 s3 places p f now t u s4 s5 s6 s7
  have h1 : s1.phys = s.phys := foldl_phys _ _ _ (fun u c => saveRegions_phys u c.1)
  have h2 : s2.phys = s1.phys := foldl_phys _ _ _ (fun u m => by simp)
  have h3 : s3.phys = s2.phys := by
    show (if _ then _ else _ : State).phys = _
    split
    · exact foldl_phys _ _ _ (fun u m => saveRegions_phys u _)
    · rfl
  have h4 : s4.phys = s3.phys := foldl_phys _ _ _ (fun u m => by split <;> rfl)
  have h5 : s5.phys = s4.phys := by simp [s5]
  have h6 : s6.phys = s5.phys := foldl_phys _ _ _ (fun u c => by split <;> rfl)
  have h7 : s7.phys = s6.phys := foldl_phys _ _ _ (fun u d => rfl)
  rw [State.modPart_phys, h7, h6, h5, h4, h3, h2, h1]
@[simp] theorem departGrid_phys (s : State) (part gid : Nat) : (s.departGrid part gid).phys = s.phys :=
  foldl_phys _ _ _ (fun s x => by simp)
@[simp] theorem countFurther_phys (s : State) (gid : Nat) (g : Grid) : (s.countFurther gid g).phys = s.phys := by
  unfold State.countFurther; dsimp only; (repeat' split) <;> simp
@[simp] theorem startSup_phys (s : State) (a : Agent) : (s.startSup a).phys = s.phys := by
  unfold State.startSup; split <;> rfl
@[simp] theorem restartSup_phys (s : State) (a : Agent) : (s.restartSup a).phys = s.phys := by simp [State.restartSup]
@[simp] theorem answer_phys (s : State) (act : Nat) (m : Mail) (v : Nat) (core : Nat) :
    (s.answer act m v core).phys = s.phys := by
  unfold State.answer; dsimp only; (repeat' split) <;> simp
@[simp] theorem askYield_phys (s : State) (a : Agent) : (s.askYield a).phys = s.phys := by
  unfold State.askYield; (repeat' split) <;> simp
theorem ite_phys {s t u : State} {c : Prop} [Decidable c] (ht : t.phys = s.phys) (hu : u.phys = s.phys) :
    (if c then t else u).phys = s.phys := by
  split <;> assumption
@[simp] theorem writeCtl_phys (s : State) (a : Agent) (i v : Nat) : (s.writeCtl a i v).phys = s.phys := by
  unfold State.writeCtl
  dsimp only
  iterate 13 refine ite_phys (by simp) ?_
  split
  · rfl
  · refine ite_phys (ite_phys (by simp) rfl) ?_
    iterate 3 refine ite_phys (by simp) ?_
    rfl
@[simp] theorem clearUnits_phys (s : State) (c mask : Nat) : (s.clearUnits c mask).phys = s.phys := by
  unfold State.clearUnits; dsimp only; split <;> simp
@[simp] theorem countDrops_phys (s : State) (edge : Nat) (p : Packet) : (s.countDrops edge p).phys = s.phys :=
  foldl_phys _ _ _ (fun s k => by split <;> simp)
@[simp] theorem resetText_phys (s : State) (part vf : Nat) : (s.resetText part vf).phys = s.phys :=
  foldl_phys _ _ _ (fun s e => by simp)
@[simp] theorem removeTlb_phys (s : State) (part vf : Nat) (page : Option Nat) : (s.removeTlb part vf page).phys = s.phys :=
  foldl_phys _ _ _ (fun s x => by simp)
@[simp] theorem endRemoval_phys (s : State) (part vf : Nat) : (s.endRemoval part vf).phys = s.phys := by
  unfold State.endRemoval; split <;> simp
@[simp] theorem beginRemoval_phys (s : State) (part vf : Nat) (page : Option Nat) :
    (s.beginRemoval part vf page).phys = s.phys := by simp [State.beginRemoval]
@[simp] theorem tlbinv_phys (s : State) (part vf : Nat) (page : Option Nat) : (s.tlbinv part vf page).phys = s.phys := by
  unfold State.tlbinv; split <;> simp
@[simp] theorem abort_phys (s : State) (tray : Nat) : (s.abort tray).phys = s.phys := rfl
@[simp] theorem completes_phys (s : State) (tray tag status : Nat) (bs : List Byte) :
    (s.completes tray tag status bs).phys = s.phys := rfl
@[simp] theorem carried_phys (s : State) (tray : Nat) : (s.carried tray).phys = s.phys := rfl
@[simp] theorem chaskoDrop_phys (s : State) (tray : Nat) : (s.chaskoDrop tray).phys = s.phys := by simp [State.chaskoDrop]
@[simp] theorem peerDrop_phys (s : State) (m part : Nat) (write : Bool) (rs : List (Nat × Nat)) :
    (s.peerDrop m part write rs).phys = s.phys := by
  unfold State.peerDrop; dsimp only; (repeat' split) <;> simp
@[simp] theorem answerPeer_phys (s : State) (m : Nat) (r : Except TrapCode (List Byte)) : (s.answerPeer m r).phys = s.phys := rfl
@[simp] theorem scrub_phys (s : State) : s.scrub.phys = s.phys := rfl
@[simp] theorem spoilSkein_phys (s : State) : s.spoilSkein.phys = s.phys := by
  unfold State.spoilSkein; dsimp only; (repeat' split) <;> simp
@[simp] theorem strike_phys (s : State) : s.strike.phys = s.phys := by
  unfold State.strike; dsimp only; (repeat' split) <;> simp
@[simp] theorem idle_phys (s : State) : s.idle.phys = s.phys := by simp [State.idle]

end Sys2Proof.Laws
end


section
/-!
The canonical form of physical memory through what writes it: objects, copies, drains and the sequencer, the end and the save of teams,
volumes, status words, windows and landing writes (a continuation of `MemoryOk` in `Laws/Memory.lean`).
-/

namespace Sys2Proof.Safety

open Sys2Proof.Machine Sys2Proof.Laws

variable {s t u : State}

/-- Both branches keep the canonical form. -/
theorem MemoryOk.ite {c : Prop} [Decidable c] (ht : MemoryOk t) (hu : MemoryOk u) : MemoryOk (if c then t else u) := by
  split <;> assumption

/-! ### Writes of the distributor and the host -/

theorem MemoryOk.vfWrite (h : MemoryOk s) (part vf va : Nat) (bs : List Byte) : MemoryOk (s.vfWrite part vf va bs) := by
  unfold State.vfWrite
  split
  · exact h.writePieces _ _
  · exact h

theorem MemoryOk.writeStatus (h : MemoryOk s) (part vf entry state code : Nat) :
    MemoryOk (s.writeStatus part vf entry state code) := h.vfWrite ..

theorem MemoryOk.enterState (h : MemoryOk s) (g : Nat) (st : LaunchState) (code : Nat) : MemoryOk (s.enterState g st code) := by
  unfold State.enterState
  split
  · exact MemoryOk.writeStatus (h.of_phys (State.modGrid_phys ..)) ..
  · exact h

theorem MemoryOk.notify (h : MemoryOk s) {v : Via} {va : Nat} (ht : s.notify v va = some t) : MemoryOk t := by
  unfold State.notify at ht
  split at ht
  · cases ht
  · dsimp only at ht
    split at ht
    · cases ht
      exact MemoryOk.ite (MemoryOk.of_phys (h.physWrite _ _) (wakeAll_phys _ _)) (h.physWrite _ _)
    · cases ht

theorem MemoryOk.notifyMail (h : MemoryOk s) (box : Nat) : MemoryOk (s.notifyMail box) := by
  unfold State.notifyMail
  dsimp only
  split
  · exact h
  · split
    · exact h.notify (by assumption)
    · exact h.of_phys rfl

/-! ### Copies -/

theorem MemoryOk.copyCount (h : MemoryOk s) (c : CopyCmd) (core : Nat) (credit : Bool) (l : List (Place × Nat)) :
    MemoryOk (s.copyCount c core credit l).1 := by
  refine List.foldlRecOn (motive := fun acc : State × Option Trap => MemoryOk acc.1) l _ h (fun acc hacc x _ => ?_)
  dsimp only
  split
  · exact hacc
  · rename_i r _
    have hobj := hacc.spoilObj core r (c.spoilsAt x.1)
    split
    · exact MemoryOk.landCredit (hobj.of_phys (creditSeen_phys ..)) core r x.2
    · exact hobj.landExpect core r x.2

theorem MemoryOk.copyPut (h : MemoryOk s) (core : Nat) (c : CopyCmd) (p : Place) (pa : Option Nat) (b : Byte) :
    MemoryOk (s.copyPut core c p pa b) := by
  unfold State.copyPut
  dsimp only
  split
  · exact (h.physWrite _ _).of_phys rfl
  all_goals exact h.of_phys (by simp)

theorem MemoryOk.copyFails (h : MemoryOk s) (core : Nat) (c : CopyCmd) (x : Trap) : MemoryOk (s.copyFails core c x) := by
  unfold State.copyFails
  refine MemoryOk.failAt (h.of_phys ?_) ..
  split <;> simp

theorem MemoryOk.landBytes (h : MemoryOk s) (core : Nat) (c : CopyCmd) (chunk : Nat) (js : List Nat) :
    MemoryOk (s.landBytes core c chunk js) := by
  unfold State.landBytes
  extract_lets sound read s0
  have h0 : MemoryOk s0 := h.of_phys (walkChunk_phys ..)
  split
  rename_i free s1 hfree
  have h1 : MemoryOk s1 := by
    split at hfree <;> cases hfree
    · exact h0.freeBytes 256
    · exact h0
  split
  · exact h1.copyFails ..
  · extract_lets moves s2 s3 s4
    have h2 : MemoryOk s2 := foldl_keeps _ _ h1 (fun s m hs => MemoryOk.copyPut (hs.of_phys (keepSource_phys ..)) ..)
    have h4 : MemoryOk s4 := h2.of_phys (by simp [s4, s3])
    split
    · have h5 := h4.copyCount c core true ((c.credits (c.chunk chunk)).filter (fun x => x.2 != 0))
      split <;> rename_i heq <;> rw [heq] at h5
      · exact h5.copyFails ..
      · exact h5.of_phys rfl
    · exact h4.of_phys rfl

theorem MemoryOk.landChunk (h : MemoryOk s) (core : Nat) (c : CopyCmd) (chunk : Nat) : MemoryOk (s.landChunk core c chunk) :=
  h.landBytes ..

theorem MemoryOk.pick (h : MemoryOk s) (n : Nat) : MemoryOk (s.pick n).2 := h.of_phys (pick_phys ..)

theorem MemoryOk.landStep (h : MemoryOk s) (core : Nat) (c : CopyCmd) (chunk : Nat) : MemoryOk (s.landStep core c chunk) := by
  unfold State.landStep
  extract_lets js parts begun
  split
  rename_i i s1 hpick
  have h1 : MemoryOk s1 := by have hp := h.pick (parts + if begun then 2 else 3); rwa [hpick] at hp
  split
  · exact h1.landChunk core c chunk
  · split
    · exact h1.landBytes ..
    · split
      · have h2 : MemoryOk { s1 with corrected := s1.corrected + 1 } := h1.of_phys rfl
        exact h2.landChunk core c chunk
      · exact h1.copyFails ..

theorem MemoryOk.landAll (h : MemoryOk s) (core : Nat) (cmds : List CopyCmd) (which : CopyCmd → Nat → Bool) :
    MemoryOk (s.landAll core cmds which) :=
  foldl_keeps _ _ h (fun s c hs => foldl_keeps _ _ hs (fun s i hs => by
    split
    · exact .ite (hs.landChunk ..) hs
    · exact hs))

theorem MemoryOk.suspendCopies (h : MemoryOk s) (p : Placed) : MemoryOk (s.suspendCopies p) :=
  foldl_keeps _ _ h (fun s c hs =>
    MemoryOk.of_phys (hs.landAll c ((s.core c).copies.filter _) CopyCmd.begun) (by rw [State.modCore_phys, endLanded_phys]))

theorem MemoryOk.finishCopies (h : MemoryOk s) (p : Placed) : MemoryOk (s.finishCopies p) :=
  foldl_keeps _ _ h (fun s core hs => foldl_keeps _ _ hs (fun s c hs => by
    have h1 := hs.landAll core [c] (fun x i => !x.landed.contains i)
    dsimp only
    split
    · exact h1.of_phys (by split <;> simp)
    · exact h1))

/-! ### The sequencer of the matrix array -/

theorem MemoryOk.rowWrite (h : MemoryOk s) {core : Nat} {o : MxOp} {p : Place} {bs : List Byte}
    (ht : s.rowWrite core o p bs = .ok t) : MemoryOk t := by
  unfold State.rowWrite at ht
  split at ht
  · split at ht
    · cases ht
    · cases ht
      exact foldl_keeps _ _ (h.writePieces _ _) (fun _ _ hs => hs.of_phys rfl)
  · cases ht
    exact h.of_phys (by simp)
  · cases ht

/-- A result that comes of two in turn, of any kind of failure. -/
theorem except_bind_ok {ε α β : Type} {x : Except ε α} {f : α → Except ε β} {r : β} (h : (x >>= f) = .ok r) :
    ∃ a, x = .ok a ∧ f a = .ok r := by
  cases x with
  | error t => cases h
  | ok a => exact ⟨a, rfl, h⟩

/-- A run of steps on an accumulator, each of which keeps a property. -/
theorem except_foldlM_keeps {ε α β : Type} {P : β → Prop} {f : β → α → Except ε β}
    (hf : ∀ acc x r, P acc → f acc x = .ok r → P r) (xs : List α) {b r : β} (h : P b) (e : xs.foldlM f b = .ok r) : P r := by
  induction xs generalizing b with
  | nil => cases e; exact h
  | cons x xs ih =>
    rw [List.foldlM_cons] at e
    obtain ⟨c, hc, e⟩ := except_bind_ok e
    exact ih (hf _ _ _ h hc) e

theorem MemoryOk.applyDrain (h : MemoryOk s) {core : Nat} {o : MxOp} {fmt : BitVec 64} {mode : Nat} {f : XForm} {rows : List Place}
    (ht : s.applyDrain core o fmt mode f rows = .ok t) : MemoryOk t := by
  unfold State.applyDrain at ht
  extract_lets bits tile elem vf rest at ht
  split at ht
  · cases ht
  · obtain ⟨r, hr, ht⟩ := except_bind_ok ht
    have hrows : MemoryOk r.1 := by
      refine except_foldlM_keeps (P := fun acc => MemoryOk acc.1) (fun acc x r hacc hstep => ?_) _ h hr
      dsimp only at hstep
      split at hstep
      · obtain ⟨old, -, hstep⟩ := except_bind_ok hstep
        obtain ⟨s2, hwrite, hstep⟩ := except_bind_ok hstep
        cases hstep
        exact hacc.rowWrite hwrite
      · obtain ⟨bs, -, hstep⟩ := except_bind_ok hstep
        obtain ⟨old, -, hstep⟩ := except_bind_ok hstep
        obtain ⟨s2, hwrite, hstep⟩ := except_bind_ok hstep
        cases hstep
        exact hacc.rowWrite hwrite
    cases ht
    refine hrows.of_phys ?_
    split <;> simp

theorem MemoryOk.applyOrdered (h : MemoryOk s) {core : Nat} {o : MxOp} {fmt : BitVec 64} {f : XForm} {rows : List Place} {seq order : Nat}
    (ht : s.applyOrdered core o fmt f rows seq order = .ok t) : MemoryOk t := by
  unfold State.applyOrdered at ht
  obtain ⟨s1, h1, ht⟩ := except_bind_ok ht
  exact MemoryOk.rowWrite (MemoryOk.applyDrain (h.of_phys (by simp)) h1) ht

theorem MemoryOk.mxFails (h : MemoryOk s) (core : Nat) (o : MxOp) (x : Trap) : MemoryOk (s.mxFails core o x) := by
  have h1 : MemoryOk ((if x.code = .perm then s.noteDrop core o.via x.va else s).retireMx core o) :=
    h.of_phys (by rw [retireMx_phys]; split <;> simp)
  unfold State.mxFails
  dsimp only
  split
  · exact h1.failAt ..
  · exact h1.of_phys (by simp)

theorem arrayView_phys (s : State) (core : Nat) (unf : FreshWrite → Bool) : (s.arrayView core unf).2.phys = s.phys := by
  unfold State.arrayView
  refine List.foldlRecOn (motive := fun acc : State × State => acc.2.phys = s.phys) _ _ rfl (fun acc h p _ => ?_)
  have hpick : (acc.2.pick (((s.core core).oldValues unf p).length + 1)).2.phys = s.phys := (pick_phys ..).trans h
  dsimp only
  split <;> exact hpick

theorem MemoryOk.startMx (h : MemoryOk s) (core : Nat) (o : MxOp) (n : Nat) : MemoryOk (s.startMx core o n) := by
  unfold State.startMx
  extract_lets fmt run orFail
  have hrun : ∀ u, MemoryOk u → MemoryOk (run u) := fun u hu => hu.of_phys (State.modCore_phys ..)
  have hfail : ∀ r : Except Trap State, (∀ u, r = .ok u → MemoryOk u) → MemoryOk (orFail r) := fun r hr => by
    cases r with
    | ok u => exact hrun u (hr u rfl)
    | error x => exact h.mxFails core o x
  split
  case h_1 sn sg unfenced _ =>
    have hview : MemoryOk (s.arrayView core (unseenBy sn unfenced)).2 := h.of_phys (arrayView_phys ..)
    split
    rename_i v u hu
    rw [hu] at hview
    split
    · exact hrun _ (hview.of_phys (by simp +zetaDelta))
    · exact MemoryOk.mxFails (hview.of_phys (by simp +zetaDelta)) ..
  case h_2 => exact hrun _ (h.of_phys (State.modCore_phys ..))
  case h_3 =>
    split
    · exact h.mxFails ..
    · split
      · exact hfail _ (fun u hu => h.applyOrdered hu)
      · split
        · exact h.of_phys (State.modCore_phys ..)
        · exact h.mxFails ..
  case h_4 => exact hfail _ (fun u hu => h.applyDrain hu)
  case h_5 =>
    split
    · exact h.mxFails ..
    · split
      rename_i bs fl _
      split
      rename_i free u hfree
      have hu : MemoryOk u := by
        split at hfree <;> cases hfree
        · exact h.freeBytes ..
        · exact h
      exact hrun _ (hu.of_phys (by simp))
  case h_6 =>
    split
    · exact h.mxFails ..
    · exact hrun _ (h.of_phys (by simp))

theorem MemoryOk.applyAtWord (h : MemoryOk s) (core : Nat) (o : MxOp) : MemoryOk (s.applyAtWord core o) := by
  unfold State.applyAtWord
  split
  · split
    · rename_i hd
      obtain ⟨z, -, hd⟩ := except_bind_ok hd
      exact (h.applyOrdered hd).of_phys (by simp)
    · exact h.mxFails ..
  · exact h

theorem MemoryOk.quietStep (h : MemoryOk s) {ops : List (Nat × MxOp)} (ht : s.quietStep ops = some t) : MemoryOk t := by
  unfold State.quietStep at ht
  split at ht
  · cases ht
    exact h.of_phys (by simp)
  · cases ht
    exact h.applyAtWord ..
  · split at ht <;> cases ht
    · exact h.of_phys (by simp)
    · exact h.startMx ..
  · cases ht

theorem MemoryOk.quietMx (gid : Nat) (at_ : List (Nat × Nat)) (n : Nat) (h : MemoryOk s) : MemoryOk (State.quietMx gid at_ n s) := by
  induction n generalizing s with
  | zero => exact h
  | succ n ih =>
    unfold State.quietMx
    split
    · exact h
    · rename_i hq
      exact ih (h.quietStep hq)

theorem MemoryOk.quietTeams (h : MemoryOk s) (gid : Nat) (ps : List Placed) : MemoryOk (s.quietTeams gid ps) :=
  MemoryOk.quietMx _ _ _ (foldl_keeps _ _ h (fun s x hs => (hs.flush x.1).of_phys (by simp)))

end Sys2Proof.Safety
end


section
/-!
The canonical form of physical memory through the end and the save of teams, volumes, text engines, the reset of a VF, windows, landing
writes, peers and restarts (a continuation of `MemoryOk` in `Laws/Memory.lean`).
-/

namespace Sys2Proof.Safety

open Sys2Proof.Machine Sys2Proof.Laws

variable {s t u : State}

/-! ### Teams and grids -/

theorem MemoryOk.drainTeam (h : MemoryOk s) (gid : Nat) (p : Placed) : MemoryOk (s.drainTeam gid p).1 :=
  List.foldlRecOn (motive := fun acc : State × List (Nat × MxOp) => MemoryOk acc.1) p.places.zipIdx _ (h.quietTeams gid [p])
    (fun _ hacc _ _ => hacc.of_phys (withdrawDrains_phys ..))

theorem MemoryOk.saveTeam (h : MemoryOk s) (gid team : Nat) : MemoryOk (s.saveTeam gid team) := by
  unfold State.saveTeam
  split
  · exact h
  · rename_i g p _
    split
    rename_i s1 drains hdrain
    have h1 := h.drainTeam gid p
    rw [hdrain] at h1
    refine h1.of_phys ?_
    dsimp only
    rw [State.modGrid_phys, dropTeam_phys]
    exact foldl_phys _ _ _ (fun u c => State.modCore_phys ..)

theorem MemoryOk.saveAll (h : MemoryOk s) (which : Nat → Grid → Bool) : MemoryOk (s.saveAll which) :=
  foldl_keeps _ _ h (fun s g hs => by
    split
    · have hcur : MemoryOk { s with cur := none } := hs.of_phys rfl
      exact foldl_keeps _ _ (hcur.quietTeams ..) (fun s p hs => (hs.suspendCopies p.2).saveTeam g.1 p.1)
    · exact hs)

theorem MemoryOk.endGrid (h : MemoryOk s) (gid : Nat) (st : LaunchState) (code : Nat) : MemoryOk (s.endGrid gid st code) := by
  unfold State.endGrid
  split
  · exact h
  · rename_i g _
    extract_lets s1 as objs s2 cur s3 s4 s5 s6 disown s7
    have h1 : MemoryOk s1 := foldl_keeps _ _ (h.quietTeams ..) (fun s p hs => (hs.drainTeam gid p.2).finishCopies p.2)
    have h2 : s2.phys = s1.phys := foldl_phys _ _ _ (fun u a => modCtx_phys ..)
    have h3 : s3.phys = s2.phys := departGrid_phys ..
    have h4 : s4.phys = s3.phys := foldl_phys _ _ _ (fun u p => by
      rw [dropTeam_phys]
      exact foldl_phys _ _ _ (fun u c => State.modCore_phys ..))
    have h5 : s5.phys = s4.phys := State.modGrid_phys ..
    have h6 : MemoryOk s6 := foldl_keeps _ _ (h1.of_phys (by rw [h5, h4, h3, h2])) (fun u r hu => hu.refreshWaiters _ r)
    have h7 : MemoryOk s7 := h6.of_phys rfl
    exact h7.enterState ..

theorem MemoryOk.endByTrap (h : MemoryOk s) (gid : Nat) (g : Grid) (r : Report) : MemoryOk (s.endByTrap gid g r) := by
  unfold State.endByTrap
  exact (h.endGrid gid .ended r.code.num).of_phys (by simp)

theorem MemoryOk.cancelAt (h : MemoryOk s) (part vf queue : Nat) (index : Word) : MemoryOk (s.cancelAt part vf queue index) := by
  unfold State.cancelAt
  dsimp only
  split
  · exact MemoryOk.writeStatus (h.of_phys (by simp)) ..
  · split
    · exact h.endGrid ..
    · exact h

/-! ### Volumes -/

theorem MemoryOk.agentWrite (h : MemoryOk s) {x : Home} {va : Nat} {bs : List Byte} {w : Bool}
    (ht : s.agentWrite x va bs w = .ok t) : MemoryOk t := by
  unfold State.agentWrite at ht
  dsimp only at ht
  split at ht
  · cases ht
  · cases ht
    exact foldl_keeps _ _ (h.writePieces _ _) (fun _ _ hs => hs.of_phys (State.modCore_phys ..))

theorem mapError_ok {ε ε' α : Type} {f : ε → ε'} {x : Except ε α} {a : α} (h : x.mapError f = .ok a) : x = .ok a := by
  cases x with
  | ok b => exact congrArg _ (Except.ok.inj h)
  | error e => cases h

theorem MemoryOk.volWrite (h : MemoryOk s) {a : Agent} {va : Nat} {bs : List Byte} (ht : s.volWrite a va bs = .ok t) : MemoryOk t := by
  unfold State.volWrite at ht
  split at ht
  · cases ht
  · exact h.agentWrite (mapError_ok ht)

theorem MemoryOk.volWrites {a : Agent} {ws : List (Nat × List Byte)} (h : MemoryOk s) (ht : s.volWrites a ws = .ok t) : MemoryOk t := by
  induction ws generalizing s with
  | nil => cases ht; exact h
  | cons w ws ih =>
    obtain ⟨s1, h1, ht⟩ := except_bind_ok ht
    exact ih (h.volWrite h1) ht

theorem MemoryOk.volPut (h : MemoryOk s) {a : Agent} {d : VolDesc} {w : Walked} {leaf e v : Nat}
    (ht : s.volPut a d w leaf e v = .ok t) : MemoryOk t := by
  unfold State.volPut at ht
  obtain ⟨ps, -, ht⟩ := except_bind_ok ht
  split at ht
  · exact h.volWrite ht
  · split at ht
    · exact h.volWrites ht
    · exact h.volWrites ht

theorem MemoryOk.volDense (h : MemoryOk s) {a : Agent} {d : VolDesc} {leaf e : Nat} {write ordered : Bool} {order scope : BitVec 3}
    {kind : PendKind} {ctr : Ctr} (ht : s.volDense a d leaf e write ordered order scope kind ctr = .ok t) : MemoryOk t := by
  unfold State.volDense at ht
  dsimp only at ht
  split at ht
  · cases ht
  · cases ht
    exact h.of_phys (by simp)

theorem MemoryOk.pushBlocks {a : Agent} {bs : List Nat} {head : Nat} {r : State × Nat} (h : MemoryOk s)
    (hr : s.pushBlocks a bs head = .ok r) : MemoryOk r.1 := by
  induction bs generalizing s head with
  | nil => cases hr; exact h
  | cons b bs ih =>
    obtain ⟨s1, h1, hr⟩ := except_bind_ok hr
    exact ih (h.volWrite h1) hr

theorem MemoryOk.shootDown (h : MemoryOk s) (part : Nat) (v : VolName) (tile : Option Nat) : MemoryOk (s.shootDown part v tile) :=
  foldl_keeps _ _ h (fun _ c hs => (hs.flush c).of_phys (State.modCore_phys ..))

theorem MemoryOk.volShoot (h : MemoryOk s) (a : Agent) (f : XForm) (tile : Option Nat) : MemoryOk (s.volShoot a f tile) :=
  (h.flush _).shootDown ..

/-! ### Text engines -/

theorem imageFails_phys {edge : Nat} {x : TextIn} (ht : s.imageFails edge x = some t) : t.phys = s.phys := by
  unfold State.imageFails at ht
  split at ht
  · cases ht
  · split at ht <;> cases ht
    exact (foldl_phys _ _ _ (fun u g => by simp)).trans (by simp)

theorem MemoryOk.tokeniseHead (h : MemoryOk s) {edge : Nat} (ht : s.tokeniseHead edge = some t) : MemoryOk t := by
  unfold State.tokeniseHead at ht
  extract_lets e at ht
  split at ht
  · rename_i s1 himage
    cases ht
    obtain ⟨x, -, hx⟩ := List.exists_of_findSome?_eq_some himage
    exact h.of_phys (imageFails_phys hx)
  · split at ht
    · cases ht
    · extract_lets k was s1 note at ht
      have h1 : MemoryOk s1 := h.of_phys (by simp [s1])
      split at ht
      · split at ht <;> cases ht
        · exact h1.notify (by assumption)
        · exact h1.of_phys (by simp)
      · rw [← Option.some.inj ht]
        exact h1

theorem requestHead_phys {edge : Nat} (ht : s.requestHead edge = some t) : t.phys = s.phys := by
  unfold State.requestHead at ht
  dsimp only at ht
  split at ht
  · cases ht
  · split at ht
    · cases ht
    · split at ht
      · cases ht
        simp
      · split at ht <;> cases ht <;> simp

theorem cancelHead_phys {edge : Nat} (ht : s.cancelHead edge = some t) : t.phys = s.phys := by
  unfold State.cancelHead at ht
  dsimp only at ht
  split at ht
  · cases ht
  · split at ht
    · cases ht
    · split at ht <;> cases ht <;> simp

/-- An operation that may not find anything to do. -/
theorem MemoryOk.getD (h : MemoryOk s) {x : Option State} (hx : ∀ t, x = some t → MemoryOk t) : MemoryOk (x.getD s) := by
  cases x with
  | none => exact h
  | some t => exact hx t rfl

theorem MemoryOk.headStep (h : MemoryOk s) (e : Nat) : MemoryOk (((s.requestHead e) <|> (s.cancelHead e)).getD s) := by
  refine h.getD (fun t ht => ?_)
  cases hr : s.requestHead e with
  | some r =>
    rw [hr] at ht
    cases ht
    exact h.of_phys (requestHead_phys hr)
  | none =>
    rw [hr] at ht
    exact h.of_phys (cancelHead_phys ht)

theorem MemoryOk.finishTexts (h : MemoryOk s) (part vf slot : Nat) : MemoryOk (s.finishTexts part vf slot) :=
  foldl_keeps _ _ h (fun s e hs => by
    split
    · exact foldl_keeps _ _ (foldl_keeps _ _ hs (fun s _ hs => hs.headStep e)) (fun s _ hs => hs.getD (fun _ => hs.tokeniseHead))
    · exact hs)

theorem MemoryOk.bindVocab (h : MemoryOk s) (part vf slot : Nat) (image : Option Nat) : MemoryOk (s.bindVocab part vf slot image) :=
  foldl_keeps _ _ (h.finishTexts part vf slot) (fun _ _ hs => hs.of_phys (by simp))

/-! ### The reset of a VF, and windows -/

theorem MemoryOk.resetQueues (h : MemoryOk s) (part vf : Nat) : MemoryOk (s.resetQueues part vf) := by
  unfold State.resetQueues
  extract_lets key s1
  have h1 : MemoryOk s1 := foldl_keeps _ _ h (fun s q hs => foldl_keeps _ _ hs (fun s e hs => by
    split
    · exact hs
    · exact hs.writeStatus ..))
  exact h1.of_phys (by simp)

theorem MemoryOk.resetGrids (h : MemoryOk s) (part vf : Nat) : MemoryOk (s.resetGrids part vf) := by
  unfold State.resetGrids
  extract_lets s1
  have h1 : MemoryOk s1 := foldl_keeps _ _ h (fun s g hs => by
    split
    · split
      · exact hs.endByTrap ..
      · exact hs.endGrid ..
    · exact hs)
  exact h1.of_phys (by simp)

theorem MemoryOk.resetCores (h : MemoryOk s) (part vf : Nat) : MemoryOk (s.resetCores part vf) :=
  foldl_keeps _ _ h (fun s c hs => by
    refine (hs.flush c).of_phys ?_
    dsimp only
    split <;> simp)

theorem MemoryOk.resetNote (h : MemoryOk s) (part : Nat) : MemoryOk (s.resetNote part) := by
  unfold State.resetNote
  dsimp only
  split
  · split
    · exact h.notify (by assumption)
    · exact h.of_phys (by simp)
  · exact h

theorem MemoryOk.resetPart (h : MemoryOk s) (part vf n : Nat) : MemoryOk (s.resetPart part vf n) := by
  unfold State.resetPart
  split
  · exact h.resetQueues ..
  · exact h.resetGrids ..
  · exact h.of_phys (by simp)
  · exact h.of_phys (by simp)
  · exact h.resetCores ..
  · exact h.resetNote ..

theorem MemoryOk.resetStep (h : MemoryOk s) (part vf : Nat) : MemoryOk (s.resetStep part vf) := by
  unfold State.resetStep
  exact (h.resetPart ..).of_phys (State.modVf_phys ..)

theorem MemoryOk.vfWindowPut (h : MemoryOk s) (p f o : Nat) (w : DWord) : MemoryOk (s.vfWindowPut p f o w) := by
  unfold State.vfWindowPut
  extract_lets lo hi q s1
  split
  · exact h
  · split
    · split
      · exact h.of_phys (by simp)
      · split <;> exact h.of_phys (by simp [s1])
      · exact h.of_phys (by simp)
      · exact h.cancelAt ..
      · exact h
    · split
      · split
        · exact h.resetStep ..
        · exact h
      · split
        · exact h.of_phys (by simp)
        · split
          · split <;> exact h.of_phys (by simp)
          · split
            · split <;> exact h.of_phys (by simp)
            · exact h

theorem MemoryOk.vfWindowWrite (h : MemoryOk s) (p f o : Nat) (bs : List Byte) : MemoryOk (s.vfWindowWrite p f o bs) :=
  foldl_keeps _ _ h (fun _ _ hs => hs.vfWindowPut ..)

/-! ### Landing writes and peers -/

theorem MemoryOk.landCells (h : MemoryOk s) (cells : List (Nat × Byte)) :
    MemoryOk (cells.foldl (fun s c => s.physWrite c.1 [c.2]) s) :=
  foldl_keeps _ _ h (fun _ _ hs => hs.physWrite _ _)

theorem MemoryOk.landWrite (h : MemoryOk s) (what : Instr) (rest : List (Nat × Byte)) {done : State → State}
    (hdone : ∀ u, MemoryOk u → MemoryOk (done u)) : MemoryOk (s.landWrite what rest done) := by
  unfold State.landWrite
  split
  rename_i i s1 hpick
  have h1 := h.pick (if rest.length ≤ 1 then 1 else rest.length + 1)
  rw [hpick] at h1
  extract_lets s2
  have h2 : MemoryOk s2 := h1.of_phys rfl
  split
  · exact hdone _ (h2.landCells rest)
  · exact (h2.landCells _).of_phys rfl

theorem MemoryOk.landEarlier (h : MemoryOk s) (part vf : Nat) (cells : List (Nat × Byte)) : MemoryOk (s.landEarlier part vf cells) := by
  unfold State.landEarlier
  exact (h.landCells _).of_phys rfl

theorem MemoryOk.atomicAt (h : MemoryOk s) (pa n : Nat) (k : PendKind) : MemoryOk (s.atomicAt pa n k).1 :=
  MemoryOk.physWrite (h.of_phys (noteSoft_phys ..)) pa _

theorem MemoryOk.peerDrain (h : MemoryOk s) {m part acc ty round : Nat} {sat : Bool} {rows : List (Nat × List Word)}
    (ht : s.peerDrain m part acc ty round sat rows = .ok t) : MemoryOk t := by
  refine except_foldlM_keeps (P := MemoryOk) (fun u row r hu hr => ?_) rows h ht
  cases hrow : u.peerRow m part acc ty round sat row with
  | error e => rw [hrow] at hr; cases hr
  | ok x => rw [hrow] at hr; cases hr; exact hu.writePieces _ _

/-! ### Restarts -/

theorem MemoryOk.relaunch (h : MemoryOk s) (part : Nat) (g : Grid) : MemoryOk (s.relaunch part g) := by
  unfold State.relaunch
  split
  · exact h
  · extract_lets l
    split
    · extract_lets n s1
      have h1 : MemoryOk s1 := h.of_phys rfl
      exact (h1.enterState ..).of_phys (State.modPart_phys ..)
    · exact h

theorem MemoryOk.restartServing (h : MemoryOk s) (part i : Nat) (g : Grid) : MemoryOk (s.restartServing part i g) := by
  have h1 : MemoryOk (s.modPart part (fun p => { p with frozen := true })) := h.of_phys (State.modPart_phys ..)
  unfold State.restartServing
  dsimp only
  split
  · exact (h1.endByTrap ..).relaunch ..
  · exact h1.relaunch ..

theorem MemoryOk.loadSup (h : MemoryOk s) : MemoryOk s.loadSup := by
  have h1 : MemoryOk (s.supImage.loaded.foldl (fun (s : State) x => s.physWrite x.pa x.bytes) s) :=
    foldl_keeps _ _ h (fun _ _ hs => hs.physWrite _ _)
  unfold State.loadSup
  exact h1.of_phys rfl

/-! ### Waits that run out -/

theorem MemoryOk.timeOut (h : MemoryOk s) {a : Agent} (ht : s.timeOut a = some t) : MemoryOk t := by
  unfold State.timeOut at ht
  dsimp only at ht
  split at ht
  · cases ht
  · split at ht
    · cases ht
    · split at ht
      · cases ht
        split
        · exact h.of_phys (by simp)
        · exact MemoryOk.refreshWaiters (h.of_phys (by simp)) ..
      · cases ht
        exact h.of_phys (by simp)
      · cases ht
        exact h.of_phys (by simp)
      · split at ht <;> cases ht <;> exact h.of_phys (by simp)
      · cases ht

end Sys2Proof.Safety
end


section
/-!
The canonical form of physical memory through instructions: what a lane, a group and an issue do, and the lanes of each form.
-/

namespace Sys2Proof.Safety

open Sys2Proof.Machine Sys2Proof.Laws

variable {s t u : State} {a : Agent}

/-! ### Lanes, groups and outcomes -/

/-- The states of an outcome, of a lane's effect and of a group's have their memory in its canonical form. -/
def OutcomeOk : Host.Outcome State Fault Refusal → Prop
  | .next t => MemoryOk t
  | _ => True

def LaneOk : LaneOut → Prop
  | .done t => MemoryOk t
  | .jump t _ => MemoryOk t
  | .stay t => MemoryOk t
  | .trap _ => True

def GroupOk : GroupOut → Prop
  | .done t => MemoryOk t
  | .stay t => MemoryOk t

theorem OutcomeOk.next {o : Host.Outcome State Fault Refusal} (h : OutcomeOk o) (ht : o = .next t) : MemoryOk t := by
  subst ht
  exact h

theorem MemoryOk.finish (h : MemoryOk s) (a : Agent) {o : LaneOut} (ho : LaneOk o) : MemoryOk (s.finish a o) := by
  cases o with
  | done t => exact MemoryOk.of_phys ho (advance_phys ..)
  | jump t pc => exact MemoryOk.of_phys ho (jumpTo_phys ..)
  | stay t => exact ho
  | trap x => exact h.of_phys (raise_phys ..)

theorem MemoryOk.lane (h : MemoryOk s) {f : Form} {body : Agent → State → LaneOut} (hbody : ∀ a u, MemoryOk u → LaneOk (body a u))
    (a : Agent) : MemoryOk (s.lane f body a) := by
  unfold State.lane
  iterate 5 refine .ite (h.of_phys (by simp)) ?_
  have h1 : MemoryOk ((s.settle a f).retain a f) := h.of_phys (by simp)
  exact h1.finish a (hbody a _ h1)

theorem MemoryOk.endIssue (h : MemoryOk s) : MemoryOk s.endIssue := h.of_phys (endIssue_phys s)

theorem MemoryOk.perLane (h : MemoryOk s) {f : Option Form} {body : Agent → State → LaneOut}
    (hbody : ∀ a u, MemoryOk u → LaneOk (body a u)) : OutcomeOk (perLane f body s) := by
  unfold Machine.perLane
  split
  · exact (foldl_keeps _ _ h (fun u a hu => hu.lane hbody a)).endIssue
  · exact h

theorem MemoryOk.collective (h : MemoryOk s) {f : Agent → Form} {body : List Agent → List Agent → State → GroupOut}
    (hbody : ∀ present all u, MemoryOk u → GroupOk (body present all u)) (all : List Agent) : MemoryOk (s.collective f body all) := by
  unfold State.collective
  extract_lets present hurt s1
  have h1 : MemoryOk s1 := h.of_phys (foldl_phys _ _ _ (fun u a => by simp))
  split
  · exact h.of_phys (foldl_phys _ _ _ (fun u a => raise_phys ..))
  · split
    · exact h.of_phys (foldl_phys _ _ _ (fun u a => raise_phys ..))
    · have hout := hbody present all s1 h1
      split <;> rename_i heq <;> rw [heq] at hout
      · exact MemoryOk.of_phys hout (foldl_phys _ _ _ (fun u a => advance_phys ..))
      · exact hout

theorem MemoryOk.perGroup (h : MemoryOk s) {f : Option Form} {body : List Agent → List Agent → State → GroupOut}
    (hbody : ∀ present all u, MemoryOk u → GroupOk (body present all u)) : OutcomeOk (perGroup f body s) := by
  unfold Machine.perGroup
  split
  · exact (foldl_keeps _ _ h (fun u g hu => hu.collective hbody g)).endIssue
  · exact h

/-- A lane's effect that leaves physical memory as it was. -/
theorem MemoryOk.done (h : MemoryOk s) (ht : t.phys = s.phys) : LaneOk (.done t) := h.of_phys ht

theorem MemoryOk.stay (h : MemoryOk s) (ht : t.phys = s.phys) : LaneOk (.stay t) := h.of_phys ht

/-! ### Forms that write registers only -/

theorem laneOk_of_writes (h : MemoryOk s) {sp : List Span} {p : Option Nat} {fl : Bool} {o : LaneOut}
    (ho : LaneOut.Writes a sp p fl s o) : LaneOk o := by
  cases o with
  | done t => exact h.done (Writes.phys ho)
  | jump t pc => exact h.done (Writes.phys ho)
  | stay t => exact h.stay (Writes.phys ho)
  | trap x => trivial

theorem MemoryOk.registerOnly (h : MemoryOk s) {i : Instr} {f : Form} (hf : form i = some f) (hreg : registerOnly f = true) :
    OutcomeOk (exec i s) := by
  cases hcoll : f.coll with
  | false =>
    obtain ⟨body, hbody, hwrites⟩ := Proofs.registerOnly_lane hf hreg hcoll
    rw [hbody]
    exact h.perLane (fun a u hu => laneOk_of_writes hu (hwrites a u))
  | true =>
    obtain ⟨body, hbody, hwrites⟩ := Proofs.registerOnly_group hf hreg hcoll
    cases hcur : s.cur with
    | none =>
      rw [hbody]
      simp only [Machine.perGroup, hcur]
      exact h
    | some x =>
      cases he : exec i s with
      | next t => exact h.of_phys (Proofs.registerOnly_writes hf hreg hcur he).phys
      | fault r => trivial
      | refused r => trivial

/-! ### Accesses at their issue -/

theorem MemoryOk.laneOf (h : MemoryOk s) (a : Agent) {r : VolRes LaneOut} (hr : ∀ o, r = .ok o → LaneOk o) : LaneOk (s.laneOf a r) := by
  unfold State.laneOf
  split
  · exact hr _ rfl
  · split
    · exact h.stay (by simp)
    · trivial

theorem MemoryOk.laneOf_error (h : MemoryOk s) (a : Agent) (x : Trap) : LaneOk (s.laneOf a (.error x)) :=
  h.laneOf a (fun _ ho => nomatch ho)

theorem MemoryOk.posted (h : MemoryOk s) (a : Agent) (pl : Place) (n : Nat) (o sc : BitVec 3) (ca : BitVec 2) (k : PendKind) (c : Ctr) :
    LaneOk (.done (s.post a pl n o sc ca k c)) := h.done (post_phys ..)

theorem MemoryOk.loadOut (h : MemoryOk s) (f : MForm) (ea : Int) : LaneOk (loadOut a f ea s) := by
  simp only [Machine.loadOut]
  split
  · trivial
  · exact h.posted ..

theorem MemoryOk.storeOut (h : MemoryOk s) (f : MForm) (ea : Int) (data : Opnd) : LaneOk (storeOut a f ea data s) := by
  simp only [Machine.storeOut]
  split
  · trivial
  · exact h.posted ..

theorem MemoryOk.cstoreOut (h : MemoryOk s) (f : MForm) (kind : Agent → State → PendKind) (c : Ctr) :
    LaneOk (Proofs.cstoreOut f kind c a s) := by
  unfold Proofs.cstoreOut
  split
  · trivial
  · exact h.posted ..

theorem MemoryOk.ldgaOut (h : MemoryOk s) (f : MForm) : LaneOk (Proofs.ldgaOut s a f) := by
  unfold Proofs.ldgaOut
  split
  · trivial
  split
  · trivial
  split
  · trivial
  split
  · trivial
  split
  · exact h.posted ..
  · trivial

theorem MemoryOk.atomicOut (h : MemoryOk s) (f : MForm) (n : Nat) (k : PendKind) (c : Ctr) : LaneOk (atomicOut a f n k c s) := by
  simp only [Machine.atomicOut]
  split
  · trivial
  · exact h.posted ..

theorem MemoryOk.textOut (h : MemoryOk s) (at_ n : Nat) (order : BitVec 3) (op : TextOp) (d : Opnd) :
    LaneOk (textOut a at_ n order op d s) := h.posted ..

theorem MemoryOk.textAtOut (h : MemoryOk s) (align range n : Nat) (write : Bool) (order : BitVec 3) (op : TextOp) (d : Opnd) (at_ : Nat) :
    LaneOk (Proofs.textAtOut align range n write order op d at_ a s) := by
  unfold Proofs.textAtOut
  split
  · trivial
  split
  · trivial
  split
  · trivial
  · exact h.textOut ..

theorem MemoryOk.sidOut (h : MemoryOk s) (sid : Nat) (op : TextOp) (d : Opnd) : LaneOk (sidOut a sid op d s) := by
  unfold Machine.sidOut
  split
  · trivial
  · exact h.textOut ..

theorem MemoryOk.stepOut (h : MemoryOk s) (at_ : Nat) (slot : Option Nat) (write : Bool) (op : StepOp) (d : Opnd) :
    LaneOk (stepOut a at_ slot write op d s) := by
  unfold Machine.stepOut
  split
  · trivial
  split
  · exact h.posted ..
  · exact h.laneOf_error ..

theorem MemoryOk.cacheOut (h : MemoryOk s) (a : Agent) (va : Nat) {act : State → Nat → State} (hact : ∀ pa, (act s pa).phys = s.phys) :
    LaneOk (s.cacheOut a va act) := by
  unfold State.cacheOut
  split
  · exact h.done ((fillTlb_phys ..).trans (hact _))
  · split
    · exact h
    · exact h.laneOf_error ..

theorem MemoryOk.prefOut (h : MemoryOk s) (a : Agent) (ea : Int) {act : State → Nat → State} (hact : ∀ pa, (act s pa).phys = s.phys) :
    LaneOk (s.prefOut a ea act) := by
  unfold State.prefOut
  split
  · exact h
  · exact h.cacheOut a _ (fun pa => by simp [hact])

/-- The instructions that issue an access. -/
theorem MemoryOk.issuesAccess (h : MemoryOk s) {i : Instr} {f : Form} (hf : form i = some f) (hacc : issuesAccess f = true) :
    OutcomeOk (exec i s) := by
  cases i with
  | ld g | lda g | ldx g | lds g => exact h.perLane (fun a u hu => hu.loadOut ..)
  | st g | sta g | stx g => exact h.perLane (fun a u hu => hu.storeOut ..)
  | ldcs g => exact h.perLane (fun a u hu => hu.cstoreOut g (fun _ _ => .load g.cm.d (tySigned g.size)) .ld)
  | stcs g =>
    exact h.perLane (fun a u hu =>
      hu.cstoreOut g (fun a t => .store (leBytes (sizeBytes g.size) (t.opVal a g.cm.b (8 * sizeBytes g.size)))) .st)
  | ldga g => exact h.perLane (fun a u hu => hu.ldgaOut g)
  | prefL1 g =>
    refine h.perLane (fun a u hu => hu.prefOut a _ (fun pa => ?_))
    split
    · rfl
    · simp
  | prefL2 g => exact h.perLane (fun a u hu => hu.prefOut a _ (fun _ => rfl))
  | cctlIc g | cctlDa g => exact h.perLane (fun a u hu => hu.done (State.modCore_phys ..))
  | cctlDl g =>
    refine h.perLane (fun a u hu => ?_)
    split
    · split
      · trivial
      · exact hu
    · exact hu.cacheOut a _ (fun pa => State.modCore_phys ..)
  | atom g | atoma g | cas g | ticket g => exact h.perLane (fun a u hu => hu.atomicOut ..)
  | cast g | slotldRd g | slotldMark g | slotldHdr g | frontOpen g | frontPass g => exact h.perLane (fun a u hu => hu.stepOut ..)
  | txclose g | txstat g => exact h.perLane (fun a u hu => hu.sidOut ..)
  | txtake g =>
    rw [Proofs.exec_txtake]
    exact h.perLane (fun a u hu => hu.textAtOut ..)
  | txemit g =>
    rw [Proofs.exec_txemit]
    exact h.perLane (fun a u hu => hu.textAtOut ..)
  | _ => cases hf <;> cases hacc

end Sys2Proof.Safety
end


section
/-!
The canonical form of physical memory through the lanes of the other forms: control, barriers, circles, volumes, copies, the matrix array,
text and system forms.
-/

namespace Sys2Proof.Safety

open Sys2Proof.Machine Sys2Proof.Laws

variable {s t u : State} {a : Agent}

/-! ### Control and leads -/

theorem MemoryOk.dqpush (h : MemoryOk s) (f : RForm) : OutcomeOk (exec (.dqpush f) s) := by
  refine h.perLane (fun a u hu => ?_)
  have hflush := hu.flush a.core
  dsimp only
  split
  · exact hflush
  · split
    · exact hflush.stay (by simp)
    · exact hflush.done (by simp)

theorem MemoryOk.dqpop (h : MemoryOk s) (f : RForm) : OutcomeOk (exec (.dqpop f) s) := by
  refine h.perGroup (fun present all u hu => ?_)
  split
  · exact hu
  · rename_i first _ _
    extract_lets c p g give
    have hgive : ∀ (t : State) (v : DWord) (ok : Bool), MemoryOk t → MemoryOk (give t v ok) := fun t v ok ht =>
      ht.of_phys (foldl_phys _ _ _ (fun t x => by simp))
    split
    · exact hgive _ _ _ hu
    · split
      · exact MemoryOk.of_phys (hgive _ _ _ (hu.of_phys (takeEntry_phys ..))) (settleQueue_phys ..)
      · split
        · exact hgive _ _ _ hu
        · exact hu.of_phys (waitPop_phys ..)

theorem MemoryOk.lnch (h : MemoryOk s) (f : XForm) : OutcomeOk (exec (.lnch f) s) := by
  refine h.perLane (fun a u hu => ?_)
  have hwrite : ∀ part vf va bs, MemoryOk ((u.flush a.core).vfWrite part vf va bs) := fun _ _ _ _ => (hu.flush a.core).vfWrite ..
  extract_lets part vf n q record tag ret
  have hret : ∀ t v, MemoryOk t → LaneOk (ret t v) := fun t v ht => ht.done (by simp)
  split
  · exact hret _ _ hu
  · split
    · exact hret _ _ hu
    · split
      · exact hret _ _ hu
      · split
        · exact hret _ _ (MemoryOk.of_phys (hwrite ..) (State.modPart_phys ..))
        · split
          · exact hret _ _ (hu.of_phys (stopQueue_phys ..))
          · exact hret _ _ (MemoryOk.of_phys (hwrite ..) (acceptEntries_phys ..))

theorem MemoryOk.fwork (h : MemoryOk s) (f : XForm) : OutcomeOk (exec (.fwork f) s) := by
  refine h.perLane (fun a u hu => ?_)
  have hflush := hu.flush a.core
  dsimp only
  split
  · trivial
  · split
    · exact hflush
    · split
      · exact hflush.done (by simp)
      · exact hflush

theorem MemoryOk.fence (h : MemoryOk s) (f : MForm) : OutcomeOk (exec (.fence f) s) := by
  refine h.perLane (fun a u hu => (hu.flush a.core).done ?_)
  split <;> simp

/-! ### Barrier forms -/

theorem MemoryOk.barFails (h : MemoryOk s) (f : MForm) (x : Trap) : LaneOk (s.barFails a f x) := by
  unfold State.barFails
  split
  · exact h.stay (by simp)
  · trivial

theorem MemoryOk.barrierOut (h : MemoryOk s) (f : MForm) (k : BarKind) (d : Opnd) (pred : Nat) (c : Ctr) :
    LaneOk (barrierOut a f k d pred c s) := by
  unfold Machine.barrierOut
  split
  · exact h.barFails ..
  · exact h.posted ..

theorem MemoryOk.binit (h : MemoryOk s) (f : MForm) : OutcomeOk (exec (.binit f) s) := by
  refine h.perLane (fun a u hu => ?_)
  dsimp only
  split
  · exact hu.barFails ..
  · split
    · trivial
    · exact hu.barrierOut ..

theorem MemoryOk.bwait (h : MemoryOk s) (f : MForm) : OutcomeOk (exec (.bwait f) s) := by
  refine h.perLane (fun a u hu => ?_)
  extract_lets ph lim
  split
  · exact hu.barFails ..
  · rename_i r _
    extract_lets s1 o s2
    have h1 : MemoryOk s1 := MemoryOk.spoilObj ((hu.flush a.core).of_phys (by simp)) ..
    have h2 : MemoryOk s2 := h1.of_phys (enterWait_phys ..)
    split
    · exact h1
    · split
      · trivial
      · split
        · trivial
        · split
          · exact h2.done (by simp)
          · exact MemoryOk.refreshWaiters (h2.of_phys (park_phys ..)) ..

/-! ### Circles -/

theorem MemoryOk.atHome (h : MemoryOk s) {c : Machine.Circle} {act : State → LaneOut} (hact : LaneOk (act s)) : LaneOk (atHome a c act s) := by
  unfold Machine.atHome
  split
  · exact hact
  · exact h.stay (by simp)

theorem MemoryOk.liveCircle (h : MemoryOk s) {w : Word} {act : Machine.Circle → State → LaneOut} (hact : ∀ c, LaneOk (act c s)) :
    LaneOk (liveCircle a w act s) := by
  unfold Machine.liveCircle
  split
  · exact h.atHome (hact _)
  · trivial

theorem MemoryOk.arriveOut (h : MemoryOk s) (w : Word) (k : ArriveKind) (lim : Nat) (d : Opnd) (p : Nat) :
    LaneOk (arriveOut a w k lim d p s) := by
  refine h.liveCircle (fun c => ?_)
  split
  · trivial
  · split
    · exact h
    · have hflush := h.flush a.core
      dsimp only
      split
      · exact hflush
      · exact hflush.stay (by simp)

theorem MemoryOk.cmake (h : MemoryOk s) (f : RForm) : OutcomeOk (exec (.cmake f) s) := by
  refine h.perLane (fun a u hu => ?_)
  dsimp only
  split
  · exact hu.atHome (hu.done (by simp))
  · split
    · split
      · exact hu.done (by simp)
      · exact hu.done (by simp)
    · exact hu.done (by simp)

theorem MemoryOk.cjoin (h : MemoryOk s) (f : RForm) : OutcomeOk (exec (.cjoin f) s) := by
  refine h.perLane (fun a u hu => ?_)
  dsimp only
  split
  · trivial
  · split
    · exact hu.done (by simp)
    · refine hu.atHome ?_
      split
      · exact hu.done (by simp)
      · exact hu.done (by simp)

theorem MemoryOk.cleave (h : MemoryOk s) (f : RForm) : OutcomeOk (exec (.cleave f) s) := by
  refine h.perLane (fun a u hu => hu.liveCircle (fun c => ?_))
  split
  · exact hu.done (by simp)
  · exact (hu.flush a.core).done (by simp)

theorem MemoryOk.cfree (h : MemoryOk s) (f : RForm) : OutcomeOk (exec (.cfree f) s) := by
  refine h.perLane (fun a u hu => hu.liveCircle (fun c => ?_))
  split
  · split <;> exact hu.done (by simp)
  · exact hu.done (by simp)

theorem MemoryOk.cquery (h : MemoryOk s) (f : RForm) : OutcomeOk (exec (.cquery f) s) := by
  refine h.perLane (fun a u hu => ?_)
  dsimp only
  split
  · trivial
  · split
    · exact hu.atHome (hu.done (by simp))
    · exact hu.done (by simp)

/-! ### Volumes -/

theorem MemoryOk.volFull (h : MemoryOk s) (d : VolDesc) (v : VolName) (n : Nat) : LaneOk (s.volFull a d v n) := h.stay (by simp)

/-- A load or a store of an element of a dense leaf. -/
theorem laneOk_volDense (h : MemoryOk s) {d : VolDesc} {leaf e : Nat} {write ordered : Bool} {order scope : BitVec 3} {kind : PendKind}
    {c : Ctr} {o : LaneOut} (ho : (s.volDense a d leaf e write ordered order scope kind c).map .done = .ok o) : LaneOk o := by
  cases hd : s.volDense a d leaf e write ordered order scope kind c with
  | error x => rw [hd] at ho; cases ho
  | ok t => rw [hd] at ho; cases ho; exact h.volDense hd

theorem MemoryOk.vldOut (h : MemoryOk s) (f : XForm) : LaneOk (vldOut f a s) := by
  unfold Machine.vldOut
  extract_lets d v c
  split
  · trivial
  · rename_i tile e load give s1 _ _
    have hload : ∀ t leaf o, MemoryOk t → load t leaf = .ok o → LaneOk o := fun t leaf o ht ho => laneOk_volDense ht ho
    have h1 : MemoryOk s1 := h.of_phys (volMiss_phys ..)
    split
    · exact h.laneOf a (fun o ho => hload _ _ o (h.of_phys (volCached_phys ..)) ho)
    · refine h1.laneOf a (fun o ho => ?_)
      obtain ⟨w, -, ho⟩ := except_bind_ok ho
      split at ho
      · obtain ⟨x, -, ho⟩ := except_bind_ok ho
        cases ho
        exact h1.done (by simp)
      · exact hload _ _ o (h1.of_phys (volCached_phys ..)) ho
      · cases ho
        exact h1.done (by simp)

theorem MemoryOk.volAllocate (h : MemoryOk s) {d : VolDesc} {tile : Nat} {w w' : Walked}
    (ht : s.volAllocate a d tile w = .ok (.ok t w')) : MemoryOk t := by
  unfold State.volAllocate at ht
  obtain ⟨p0, -, ht⟩ := except_bind_ok ht
  extract_lets n blocks at ht
  obtain ⟨got, -, ht⟩ := except_bind_ok ht
  split at ht
  · unfold State.volShort at ht
    split at ht <;> cases ht
  · dsimp only at ht
    obtain ⟨s1, hwrites, ht⟩ := except_bind_ok ht
    cases ht
    exact h.volWrites hwrites

theorem MemoryOk.volWith (h : MemoryOk s) (f : XForm) (d : VolDesc) (tile : Nat) {act : State → Walked → Nat → Bool → VolRes LaneOut}
    (hact : ∀ t w leaf compact o, MemoryOk t → act t w leaf compact = .ok o → LaneOk o) : LaneOk (volWith f a s d tile act) := by
  unfold Machine.volWith
  extract_lets v go s1
  have hgo : ∀ t w o, MemoryOk t → go t w = .ok o → LaneOk o := fun t w o ht ho => by
    dsimp only [go] at ho
    split at ho
    · refine hact _ _ _ _ o ?_ ho
      split
      · exact ht
      · exact ht.of_phys (volCached_phys ..)
    · cases ho
      exact ht
  have h1 : MemoryOk s1 := h.of_phys (volMiss_phys ..)
  refine h1.laneOf a (fun o ho => ?_)
  obtain ⟨w, -, ho⟩ := except_bind_ok ho
  split at ho
  · exact hgo _ _ o h1 ho
  · obtain ⟨r, hr, ho⟩ := except_bind_ok ho
    split at ho
    · cases ho
      exact h1.volFull ..
    · exact hgo _ _ o (h1.volAllocate hr) ho

theorem MemoryOk.appendOut (h : MemoryOk s) (f : XForm) (d : VolDesc) (c : List Nat) : LaneOk (appendOut f a s d c) := by
  unfold Machine.appendOut
  extract_lets s1
  have h1 : MemoryOk s1 := h.of_phys (volAsk_phys ..)
  refine h1.laneOf a (fun o ho => ?_)
  obtain ⟨x, -, ho⟩ := except_bind_ok ho
  dsimp only at ho
  split at ho
  · unfold State.volShort at ho
    split at ho <;> cases ho
    exact h1.volFull ..
  · obtain ⟨s2, hwrites, ho⟩ := except_bind_ok ho
    cases ho
    exact h1.volWrites hwrites

theorem MemoryOk.volStoreOut (h : MemoryOk s) (f : XForm) (red : Option (Nat × Nat)) : LaneOk (volStoreOut f a s red) := by
  unfold Machine.volStoreOut
  extract_lets d v c
  split
  · trivial
  · split
    · exact h.appendOut ..
    · rename_i tile e b dense _ _ _
      have hdense : ∀ t leaf o, MemoryOk t → dense t leaf = .ok o → LaneOk o := fun t leaf o ht ho => by
        dsimp only [dense] at ho
        split at ho
        · exact laneOk_volDense ht ho
        · exact laneOk_volDense ht ho
      split
      · exact h.laneOf a (fun o ho => hdense _ _ o (h.of_phys (volCached_phys ..)) ho)
      · refine h.volWith f d tile (fun t w leaf compact o ht ho => ?_)
        split at ho
        · obtain ⟨x, -, ho⟩ := except_bind_ok ho
          obtain ⟨s1, hput, ho⟩ := except_bind_ok ho
          cases ho
          exact ht.volPut hput
        · exact hdense _ _ o ht ho

theorem MemoryOk.vprobe (h : MemoryOk s) (f : XForm) : OutcomeOk (exec (.vprobe f) s) := by
  refine h.perLane (fun a u hu => ?_)
  extract_lets d c
  split
  · trivial
  · rename_i s1 _ _
    have h1 : MemoryOk s1 := hu.of_phys (volAsk_phys ..)
    refine h1.laneOf a (fun o ho => ?_)
    obtain ⟨w, -, ho⟩ := except_bind_ok ho
    cases ho
    exact h1.done (by simp)

theorem MemoryOk.vtouch (h : MemoryOk s) (f : XForm) : OutcomeOk (exec (.vtouch f) s) := by
  refine h.perLane (fun a u hu => ?_)
  extract_lets d c
  split
  · trivial
  · refine hu.volWith f d _ (fun t w leaf compact o ht ho => ?_)
    cases ho
    exact ht.done (by simp)

theorem MemoryOk.vfreeOut (h : MemoryOk s) (f : XForm) : LaneOk (vfreeOut f a s) := by
  unfold Machine.vfreeOut
  extract_lets d c
  split
  · trivial
  · rename_i tile s0 _ _
    have h0 : MemoryOk s0 := h.of_phys (volAsk_phys ..)
    refine h0.laneOf a (fun o ho => ?_)
    obtain ⟨w, -, ho⟩ := except_bind_ok ho
    split at ho
    · obtain ⟨s1, hwrite, ho⟩ := except_bind_ok ho
      dsimp only at ho
      obtain ⟨p, -, ho⟩ := except_bind_ok ho
      obtain ⟨x, hpush, ho⟩ := except_bind_ok ho
      obtain ⟨s4, hwrites, ho⟩ := except_bind_ok ho
      cases ho
      exact MemoryOk.volWrites (((h0.volWrite hwrite).volShoot ..).pushBlocks hpush) hwrites
    · cases ho
      exact h0.volShoot ..

theorem MemoryOk.vfreeAllOut (h : MemoryOk s) (f : XForm) : LaneOk (vfreeAllOut f a s) := by
  unfold Machine.vfreeAllOut
  extract_lets d
  split
  · trivial
  · rename_i s0 less _
    have h0 : MemoryOk s0 := h.of_phys (volAsk_phys ..)
    generalize s0.volTree a d 8 0 d.root = walked
    refine h0.laneOf a (fun o ho => ?_)
    obtain ⟨tree, -, ho⟩ := except_bind_ok ho
    dsimp only at ho
    obtain ⟨p, -, ho⟩ := except_bind_ok ho
    obtain ⟨s1, hclear, ho⟩ := except_bind_ok ho
    obtain ⟨x, hpush, ho⟩ := except_bind_ok ho
    obtain ⟨s4, hwrites, ho⟩ := except_bind_ok ho
    cases ho
    exact MemoryOk.volWrites (((h0.volWrites hclear).volShoot ..).pushBlocks hpush) hwrites

theorem MemoryOk.vpool (h : MemoryOk s) (f : XForm) : OutcomeOk (exec (.vpool f) s) := by
  refine h.perLane (fun a u hu => ?_)
  dsimp only
  split
  · trivial
  · split
    · trivial
    · have h0 : MemoryOk (u.volAsk a) := hu.of_phys (volAsk_phys ..)
      refine h0.laneOf a (fun o ho => ?_)
      obtain ⟨b, -, ho⟩ := except_bind_ok ho
      split at ho
      · cases ho
        exact h0.done (by simp)
      · obtain ⟨s1, hwrites, ho⟩ := except_bind_ok ho
        cases ho
        exact (h0.volWrites hwrites).done (by simp)

/-! ### Copies and the matrix array -/

theorem MemoryOk.copyOut (h : MemoryOk s) (op : Nat) (f : XForm) : LaneOk (copyOut op f a s) := by
  unfold Machine.copyOut
  split
  · exact h
  · extract_lets c
    split
    · trivial
    · split
      rename_i s1 bad hcount
      have h1 : MemoryOk s1 := by
        split at hcount
        · have hc := h.copyCount c a.core false (c.credits (List.range c.n))
          rwa [hcount] at hc
        · cases hcount
          exact h
      split
      · trivial
      · exact h1.done (by simp)

theorem MemoryOk.owait (h : MemoryOk s) (f : RForm) : OutcomeOk (exec (.owait f) s) := by
  refine h.perLane (fun a u hu => ?_)
  split
  · refine hu.done ?_
    split <;> simp
  · exact hu

theorem MemoryOk.mset (h : MemoryOk s) (f : XForm) : OutcomeOk (exec (.mset f) s) := by
  refine h.perLane (fun a u hu => ?_)
  dsimp only
  split <;> exact hu.done (by simp)

theorem MemoryOk.issueMx (h : MemoryOk s) (kind : MxKind) (spans : List (Place × Nat)) : LaneOk (issueMx a kind spans s) := by
  unfold Machine.issueMx
  split
  · split
    · exact h
    · exact h.done (by simp)
  · trivial

theorem MemoryOk.drainOut (h : MemoryOk s) (mode : Nat) (f : XForm) : LaneOk (drainOut mode f a s) := by
  unfold Machine.drainOut
  dsimp only
  split
  · trivial
  · exact h.issueMx ..

theorem MemoryOk.mmaOut (h : MemoryOk s) (sparse : Bool) (f : XForm) : LaneOk (mmaOut sparse f a s) := by
  unfold Machine.mmaOut
  split
  · extract_lets r av fmt first checked
    have hchecked : ∀ sn s1, checked = .ok (sn, s1) → s1.phys = s.phys := fun sn s1 hc => by
      dsimp only [checked] at hc
      split at hc
      · split at hc <;> cases hc
        rfl
      · split at hc <;> cases hc
        rfl
    clear_value checked
    split
    · trivial
    · cases checked with
      | error x => trivial
      | ok x =>
        have h1 : MemoryOk x.2 := h.of_phys (hchecked x.1 x.2 rfl)
        dsimp only
        split
        · exact h
        · split
          · trivial
          · split <;> exact h1.done (by simp +zetaDelta)
  · trivial

theorem MemoryOk.mchk (h : MemoryOk s) (f : XForm) : OutcomeOk (exec (.mchk f) s) := by
  refine h.perLane (fun a u hu => ?_)
  dsimp only
  split
  · exact hu.done (by simp)
  · exact hu.stay (by simp)

theorem MemoryOk.qdual (h : MemoryOk s) (f : XForm) : OutcomeOk (exec (.qdual f) s) := by
  refine h.perLane (fun a u hu => ?_)
  dsimp only
  split
  · trivial
  · exact hu.issueMx ..

theorem MemoryOk.qscan (h : MemoryOk s) (f : XForm) : OutcomeOk (exec (.qscan f) s) := by
  refine h.perLane (fun a u hu => ?_)
  dsimp only
  split
  · trivial
  · exact hu.issueMx ..

/-! ### Text and system forms -/

theorem MemoryOk.vocload (h : MemoryOk s) (f : XForm) : OutcomeOk (exec (.vocload f) s) := by
  refine h.perLane (fun a u hu => ?_)
  dsimp only
  split
  · trivial
  · split
    · trivial
    · split
      · exact hu.stay (by simp)
      · split
        · exact (hu.bindVocab ..).done (putD_phys ..)
        · split
          · exact MemoryOk.laneOf_error (hu.of_phys (by simp)) ..
          · exact MemoryOk.done (.ite (hu.bindVocab ..) hu) (putD_phys ..)

theorem MemoryOk.sretOut (h : MemoryOk s) (act : Nat) (f : RForm) : LaneOk (sretOut act f a s) := by
  unfold Machine.sretOut
  dsimp only
  split
  · exact h.done (by simp)
  · exact (h.flush a.core).done (by simp)

theorem MemoryOk.sclear (h : MemoryOk s) (f : RForm) : OutcomeOk (exec (.sclear f) s) := by
  refine h.perLane (fun a u hu => ?_)
  dsimp only
  split
  · trivial
  · split <;> exact hu.done (by simp)

/-- The forms that neither write registers only nor issue an access. -/
theorem MemoryOk.otherForm (h : MemoryOk s) {i : Instr} {f : Form} (hf : form i = some f) (hother : (Safety.registerOnly f || Safety.issuesAccess f) = false)
    : OutcomeOk (exec i s) := by
  cases i with
  | exit g => exact h.perLane (fun a u hu => hu.stay (exitThread_phys ..))
  | dqpush g => exact h.dqpush g
  | dqpop g => exact h.dqpop g
  | lnch g => exact h.lnch g
  | fwork g => exact h.fwork g
  | wgdone g => exact h.perLane (fun a u hu => hu.stay (endLead_phys ..))
  | fence g => exact h.fence g
  | binit g => exact h.binit g
  | barv g | bexp g | btest g | bexit g | binval g => exact h.perLane (fun a u hu => hu.barrierOut ..)
  | bwait g => exact h.bwait g
  | cmake g => exact h.cmake g
  | cjoin g => exact h.cjoin g
  | cleave g => exact h.cleave g
  | cfree g => exact h.cfree g
  | cquery g => exact h.cquery g
  | cbar g | cvote g | cred g => exact h.perLane (fun a u hu => hu.arriveOut ..)
  | vld g => exact h.perLane (fun a u hu => hu.vldOut g)
  | vst g | vred g => exact h.perLane (fun a u hu => hu.volStoreOut ..)
  | vprobe g => exact h.vprobe g
  | vtouch g => exact h.vtouch g
  | vfree g => exact h.perLane (fun a u hu => hu.vfreeOut g)
  | vfreeAll g => exact h.perLane (fun a u hu => hu.vfreeAllOut g)
  | vpool g => exact h.vpool g
  | vinv g => exact h.perLane (fun a u hu => hu.volShoot ..)
  | cpy g | cpym g | cpys g | cpyr g => exact h.perLane (fun a u hu => hu.copyOut ..)
  | owait g => exact h.owait g
  | ofence g => exact h.perLane (fun a u hu => (hu.flush a.core).done (State.modCore_phys ..))
  | mset g => exact h.mset g
  | mzero g => exact h.perLane (fun a u hu => hu.issueMx ..)
  | mma g | mmas g => exact h.perLane (fun a u hu => hu.mmaOut ..)
  | mdrain g | mdrainAdd g | mdrainAddOrd g => exact h.perLane (fun a u hu => hu.drainOut ..)
  | mchk g => exact h.mchk g
  | qdual g => exact h.qdual g
  | qscan g => exact h.qscan g
  | vocload g => exact h.vocload g
  | sretResume g | sretReissue g | sretReissueNomatch g | sretEndGrid g => exact h.perLane (fun a u hu => hu.sretOut ..)
  | yield g => exact h.perLane (fun a u hu => hu.done (askYield_phys ..))
  | cwr g => exact h.perLane (fun a u hu => hu.done (writeCtl_phys ..))
  | sclear g => exact h.sclear g
  | _ => cases hf <;> cases hother

end Sys2Proof.Safety
end


section
/-!
The canonical form of physical memory through the operations of the agenda: the issue unit, pending accesses, copies, the sequencer.
-/

namespace Sys2Proof.Safety

open Sys2Proof.Machine Sys2Proof.Laws

variable {s t u : State}

theorem OutcomeOk.ite {c : Prop} [Decidable c] {x y : Host.Outcome State Fault Refusal} (hx : OutcomeOk x) (hy : OutcomeOk y) :
    OutcomeOk (if c then x else y) := by
  split <;> assumption

/-! ### The issue unit -/

theorem MemoryOk.lineFetchCheck (h : MemoryOk s) (core : Nat) (line : DWord) : OutcomeOk (execLineFetchCheck core line s) := by
  unfold execLineFetchCheck
  split
  · exact h.of_phys (by simp)
  · trivial

theorem MemoryOk.lineRefetch (h : MemoryOk s) (core : Nat) (line : DWord) : OutcomeOk (execLineRefetch core line s) := by
  unfold execLineRefetch
  extract_lets waiting
  split
  · rename_i pa _ _
    obtain ⟨l, ok⟩ := s.lineInL2 pa
    cases ok with
    | true => exact h.of_phys (by simp +zetaDelta)
    | false => exact h.of_phys ((pass_phys ..).trans ((foldl_phys _ _ _ (fun u a => raiseAt_phys ..)).trans (by simp +zetaDelta)))
  · trivial

theorem MemoryOk.passMatch (h : MemoryOk s) (as : List Agent) : MemoryOk (s.passMatch as).1 := h.of_phys (passMatch_phys ..)

theorem MemoryOk.issueBundle (h : MemoryOk s) (core : Nat) : OutcomeOk (execIssueBundle core s) := by
  unfold execIssueBundle
  split
  · trivial
  · extract_lets taken s2
    clear_value taken
    cases taken with
    | nil => trivial
    | cons first rest =>
      have h2 : MemoryOk s2 := h.of_phys ((State.modCore_phys ..).trans (pass_phys ..))
      have h3 := h2.passMatch (first :: rest)
      clear_value s2
      generalize s2.passMatch (first :: rest) = r at h3
      obtain ⟨s3, pass⟩ := r
      dsimp -zeta only
      extract_lets pc coll go
      clear_value go
      cases go with
      | nil => exact h3
      | cons a as =>
        refine h3.of_phys ?_
        dsimp only
        split <;> simp +zetaDelta

theorem MemoryOk.leadIssue (h : MemoryOk s) (core : Nat) : OutcomeOk (execLeadIssue core s) := by
  unfold execLeadIssue
  split
  · trivial
  · split
    · trivial
    · rename_i a _
      extract_lets s1
      have h1 : MemoryOk s1 := h.of_phys ((pass_phys ..).trans (State.modCore_phys ..))
      have h2 := h1.passMatch [a]
      generalize s1.passMatch [a] = r at h2
      obtain ⟨s2, go⟩ := r
      dsimp only
      split
      · exact h2
      · exact h2.of_phys (by simp)

theorem MemoryOk.threadAged (h : MemoryOk s) (core slot : Nat) : OutcomeOk (execThreadAged core slot s) := by
  unfold execThreadAged
  split
  · split
    · exact h.of_phys (State.modCore_phys ..)
    · trivial
  · trivial

/-! ### Pending accesses -/

theorem MemoryOk.performSet (h : MemoryOk s) (p : Pending) (name : String) : OutcomeOk (s.performSet p name) := by
  unfold State.performSet
  dsimp only
  split
  · exact foldl_keeps _ _ h (fun _ q hs => hs.perform q)
  · trivial

theorem MemoryOk.loadReturn (h : MemoryOk s) (core op : Nat) : OutcomeOk (execLoadReturn core op s) := by
  unfold execLoadReturn
  split
  · rename_i p _
    split
    · dsimp only
      split
      · exact h.performLoads _
      · trivial
    · split
      · exact h.perform p
      · split
        · exact h.performSet ..
        · trivial
  · trivial

theorem MemoryOk.storePerformed (h : MemoryOk s) (core op : Nat) : OutcomeOk (execStorePerformed core op s) := by
  unfold execStorePerformed
  split
  · split
    · exact h.performStoreStep ..
    · split
      · exact h.performSet ..
      · trivial
    · trivial
  · trivial

theorem MemoryOk.atomicAtHome (h : MemoryOk s) (core op : Nat) : OutcomeOk (execAtomicAtHome core op s) := by
  unfold execAtomicAtHome
  split
  · split
    · exact h.performSet ..
    · trivial
  · trivial

theorem MemoryOk.tlbMissWalk (h : MemoryOk s) (core : Nat) (ahead : Bool) (va : DWord) : OutcomeOk (execTlbMissWalk core ahead va s) := by
  unfold execTlbMissWalk
  extract_lets die
  split
  · split
    · split
      · split
        · exact h.copyFails ..
        · split
          · exact h.of_phys (by simp)
          · exact h.copyFails ..
      · trivial
    · trivial
  · split
    · split
      · split
        · exact h.opFails ..
        · split
          · exact h.of_phys (by simp)
          · exact h.opFails ..
      · trivial
    · trivial

theorem MemoryOk.ldgaLanding (h : MemoryOk s) (core op : Nat) : OutcomeOk (execLdgaLanding core op s) := by
  unfold execLdgaLanding
  split
  · dsimp only
    split
    · exact foldl_keeps _ _ h (fun _ q hs => hs.perform q)
    · trivial
  · trivial

/-! ### Waits that run out -/

theorem MemoryOk.waitPhaseTimeout (h : MemoryOk s) (a : Agent) : OutcomeOk (execWaitPhaseTimeout a s) := by
  unfold execWaitPhaseTimeout
  split
  · exact h.timeOut (by assumption)
  · trivial

theorem MemoryOk.collectiveWatchdogTimeout (h : MemoryOk s) (a : Agent) : OutcomeOk (execCollectiveWatchdogTimeout a s) := by
  unfold execCollectiveWatchdogTimeout
  split
  · dsimp only
    split
    · exact h.of_phys (raise_phys ..)
    · trivial
  · trivial

theorem MemoryOk.barrierWaitWatchdog (h : MemoryOk s) (a : Agent) : OutcomeOk (execBarrierWaitWatchdog a s) := by
  have hraise : MemoryOk (s.raise a ⟨.timeout, 0⟩) := h.of_phys (raise_phys ..)
  unfold execBarrierWaitWatchdog
  dsimp only
  split
  · split
    · exact hraise.refreshWaiters ..
    · exact hraise
  · trivial

/-! ### Copies -/

theorem MemoryOk.copyCommandAccept (h : MemoryOk s) (core cmd : Nat) : OutcomeOk (execCopyCommandAccept core cmd s) := by
  unfold execCopyCommandAccept
  dsimp only
  split
  · split
    · exact h.of_phys (by simp)
    · trivial
  · trivial

theorem MemoryOk.copyChunkLand (h : MemoryOk s) (core cmd chunk : Nat) : OutcomeOk (execCopyChunkLand core cmd chunk s) := by
  unfold execCopyChunkLand
  split
  · trivial
  · split
    · trivial
    · exact h.landStep ..

theorem MemoryOk.copyCommandComplete (h : MemoryOk s) (core cmd : Nat) : OutcomeOk (execCopyCommandComplete core cmd s) := by
  unfold execCopyCommandComplete
  split
  · split
    · exact h.of_phys (by simp)
    · trivial
  · trivial

/-! ### The sequencer of the matrix array -/

theorem MemoryOk.matrixOpStart (h : MemoryOk s) (core op n : Nat) : OutcomeOk (execMatrixOpStart core op n s) := by
  unfold execMatrixOpStart
  split
  · split
    · exact h.startMx ..
    · trivial
  · trivial

theorem MemoryOk.matrixOpComplete (h : MemoryOk s) (core op : Nat) : OutcomeOk (execMatrixOpComplete core op s) := by
  unfold execMatrixOpComplete
  split
  · split
    · exact h.of_phys (by simp)
    · trivial
  · trivial

theorem MemoryOk.setWatchdogTimeout (h : MemoryOk s) (core wg cv : Nat) : OutcomeOk (execSetWatchdogTimeout core wg cv s) := by
  unfold execSetWatchdogTimeout
  split
  · rename_i w r sn _
    extract_lets lim
    split
    · have h1 : MemoryOk (s.modCore core (fun k => k.modWg wg (fun w => { w with cvs := putN w.cvs cv { count := r.count } }))) :=
        h.of_phys (State.modCore_phys ..)
      split
      · exact h1.failAt ..
      · exact h1.of_phys (report_phys ..)
    · trivial
  · trivial

theorem MemoryOk.orderedDrainApply (h : MemoryOk s) (core op : Nat) : OutcomeOk (execOrderedDrainApply core op s) := by
  unfold execOrderedDrainApply
  split
  · split
    · exact h.applyAtWord ..
    · trivial
  · trivial

theorem MemoryOk.orderedDrainTimeout (h : MemoryOk s) (core op : Nat) : OutcomeOk (execOrderedDrainTimeout core op s) := by
  unfold execOrderedDrainTimeout
  split
  · split
    · dsimp only
      split
      · exact h.mxFails ..
      · trivial
    · trivial
  · trivial

/-! ### Queues and launches -/

theorem MemoryOk.doorbellWrite (h : MemoryOk s) (part vf queue : Nat) (x : Word) : OutcomeOk (execDoorbell part vf queue x s) := by
  unfold execDoorbell
  split
  · trivial
  · split
    · exact h
    · exact h.of_phys (doorbell_phys ..)

theorem MemoryOk.lqReset (h : MemoryOk s) (part vf queue : Nat) (v : Word) : OutcomeOk (execLqReset part vf queue v s) := by
  unfold execLqReset
  split
  · trivial
  · split
    · exact h
    · exact h.of_phys (resetQueue_phys ..)

theorem MemoryOk.lqCancel (h : MemoryOk s) (part vf queue : Nat) (index : Word) : OutcomeOk (execLqCancel part vf queue index s) := by
  unfold execLqCancel
  split
  · trivial
  · split
    · exact h
    · exact h.cancelAt ..

theorem MemoryOk.registerWrite (h : MemoryOk s) (r : RegName) (v : DWord) : OutcomeOk (execRegisterWrite r v s) := by
  unfold execRegisterWrite
  split
  · trivial
  · split
    · split
      · trivial
      · split
        · exact h
        · exact h.of_phys (writeReg_phys ..)
    · exact h.of_phys (writeReg_phys ..)

theorem MemoryOk.launchValidate (h : MemoryOk s) (part vf queue : Nat) : OutcomeOk (execLaunchValidate part vf queue s) := by
  unfold execLaunchValidate
  extract_lets q
  generalize q.pending = waiting
  cases waiting with
  | nil => trivial
  | cons e rest =>
    refine OutcomeOk.ite trivial ?_
    extract_lets s1 g s2
    have h1 : MemoryOk s1 := h.of_phys rfl
    refine OutcomeOk.ite h1 ?_
    split
    · exact h1.writeStatus ..
    · have h2 : MemoryOk s2 := h1.of_phys rfl
      exact h2.writeStatus ..

theorem MemoryOk.launchStart (h : MemoryOk s) (grid : Nat) : OutcomeOk (execLaunchStart grid s) := by
  unfold execLaunchStart
  split
  · trivial
  · split
    · trivial
    · split
      · exact h.enterState ..
      · split
        · trivial
        · split
          · exact h.enterState ..
          · dsimp only
            exact MemoryOk.enterState (MemoryOk.vfWrite (h.of_phys (by simp)) ..) ..

/-! ### Teams -/

theorem MemoryOk.sweep (h : MemoryOk s) (part : Nat) : MemoryOk (s.sweep part) := h.of_phys (sweep_phys ..)

theorem MemoryOk.teamPlace (h : MemoryOk s) (grid team core : Nat) : OutcomeOk (execTeamPlace grid team core s) := by
  unfold execTeamPlace
  split
  · trivial
  · rename_i g0 _
    have hsweep := h.sweep g0.part
    dsimp only
    split
    · trivial
    · split
      · trivial
      · split
        · exact hsweep.of_phys (foldl_phys _ _ _ (fun u x => putTeam_phys ..))
        · exact hsweep.of_phys (putTeam_phys ..)

theorem MemoryOk.seasonEnd (h : MemoryOk s) (grid team : Nat) : OutcomeOk (execSeasonEnd grid team s) := by
  unfold execSeasonEnd
  split
  · trivial
  · split
    · trivial
    · dsimp only
      split
      · exact h.of_phys (askStop_phys ..)
      · exact h.of_phys (State.modGrid_phys ..)

theorem MemoryOk.preempt (h : MemoryOk s) (grid team : Nat) : OutcomeOk (execPreempt grid team s) := by
  unfold execPreempt
  split
  · trivial
  · split
    · trivial
    · dsimp only
      split
      · exact h.of_phys (askStop_phys ..)
      · trivial

theorem MemoryOk.reconvergenceTimeout (h : MemoryOk s) (grid team : Nat) : OutcomeOk (execReconvergenceTimeout grid team s) := by
  unfold execReconvergenceTimeout
  split
  · trivial
  · split
    · trivial
    · split
      · exact h.of_phys (State.modGrid_phys ..)
      · trivial

theorem MemoryOk.copySuspend (h : MemoryOk s) (grid team : Nat) : OutcomeOk (execCopySuspend grid team s) := by
  unfold execCopySuspend
  split
  · trivial
  · split
    · trivial
    · split
      · exact h.of_phys (State.modGrid_phys ..)
      · split
        · exact h.suspendCopies _
        · trivial

theorem MemoryOk.teamSave (h : MemoryOk s) (grid team : Nat) : OutcomeOk (execTeamSave grid team s) := by
  unfold execTeamSave
  split
  · trivial
  · dsimp only
    split
    · exact foldl_keeps _ _ (h.quietTeams ..) (fun _ x hs => hs.saveTeam grid x)
    · trivial

theorem MemoryOk.teamRestore (h : MemoryOk s) (grid team core : Nat) : OutcomeOk (execTeamRestore grid team core s) := by
  unfold execTeamRestore
  split
  · trivial
  · rename_i g0 _
    have hsweep := h.sweep g0.part
    dsimp only
    split
    · trivial
    · split
      · trivial
      · refine OutcomeOk.ite (MemoryOk.of_phys hsweep ?_) (MemoryOk.of_phys hsweep (foldl_phys _ _ _ (fun u x => restoreTeam_phys ..)))
        rw [report_phys, State.modGrid_phys]

theorem MemoryOk.wstoreRegionSave (h : MemoryOk s) (core region : Nat) : OutcomeOk (execWstoreRegionSave core region s) := by
  unfold execWstoreRegionSave
  split
  · exact h.of_phys (saveRegion_phys ..)
  · trivial

theorem MemoryOk.coopWait (h : MemoryOk s) (grid : Nat) : OutcomeOk (execCoopWait grid s) := by
  unfold execCoopWait
  split
  · trivial
  · split
    · exact (h.saveAll _).enterState ..
    · trivial

theorem MemoryOk.coopResume (h : MemoryOk s) (grid : Nat) : OutcomeOk (execCoopResume grid s) := by
  unfold execCoopResume
  split
  · trivial
  · split
    · exact h.enterState ..
    · trivial

/-! ### Answers and ends of grids -/

theorem MemoryOk.fworkServe (h : MemoryOk s) (grid : Nat) : OutcomeOk (execFworkServe grid s) := by
  unfold execFworkServe
  split
  · trivial
  · split
    · trivial
    · split
      · trivial
      · extract_lets p s1 l none_ lin s2 r o
        have h2 : MemoryOk s2 := h.of_phys (by
          dsimp only [s2, none_]
          split
          · simp [s1]
          · split <;> simp [s1])
        split
        · exact h2.failAt ..
        · split
          · exact h2.objDone ..
          · exact h2.failAt ..

theorem MemoryOk.gridEndTrap (h : MemoryOk s) (report : Nat) : OutcomeOk (execGridEndTrap report s) := by
  unfold execGridEndTrap
  split
  · trivial
  · split
    · trivial
    · extract_lets s1
      have h1 : MemoryOk s1 := h.of_phys rfl
      split
      · exact h1
      · split
        · exact h1.of_phys (countFurther_phys ..)
        · exact h1.endByTrap ..

theorem MemoryOk.gridComplete (h : MemoryOk s) (grid : Nat) : OutcomeOk (execGridComplete grid s) := by
  unfold execGridComplete
  split
  · trivial
  · rename_i g0 _
    dsimp only
    split
    · trivial
    · split
      · exact (h.sweep g0.part).enterState ..
      · trivial

theorem MemoryOk.resumableTrapPost (h : MemoryOk s) (a : Agent) : OutcomeOk (execResumableTrapPost a s) := by
  unfold execResumableTrapPost
  dsimp only
  split
  · split
    · trivial
    · have hflush := h.flush a.core
      split
      · exact hflush
      · refine MemoryOk.of_phys (MemoryOk.notifyMail ?_ (s.mailboxOf a)) ((enterWait_phys ..).trans (perfEvent_phys ..))
        exact hflush.of_phys (by simp)
  · trivial

theorem MemoryOk.supervisorTrap (h : MemoryOk s) (a : Agent) : OutcomeOk (execSupervisorTrap a s) := by
  unfold execSupervisorTrap
  split
  · exact h.of_phys (modCtx_phys ..)
  · trivial

end Sys2Proof.Safety
end


section
/-!
The canonical form of physical memory through the operations of the edges, the links and the module, and over a step (spec/01, spec/23;
O60).
-/

namespace Sys2Proof.Safety

open Sys2Proof.Machine Sys2Proof.Laws

variable {s t u : State}

/-! ### Edges -/

theorem MemoryOk.uetPacket (h : MemoryOk s) (edge : Nat) (p : Packet) : OutcomeOk (execUetPacket edge p s) := by
  unfold execUetPacket
  extract_lets e
  refine OutcomeOk.ite trivial ?_
  split
  · refine OutcomeOk.ite (MemoryOk.of_phys h (countDrops_phys ..)) ?_
    refine OutcomeOk.ite (MemoryOk.of_phys h (by simp)) ?_
    exact OutcomeOk.ite (MemoryOk.of_phys h (by simp)) (MemoryOk.of_phys h (by simp))
  · exact h.of_phys (countDrops_phys ..)

theorem MemoryOk.requestFrame (h : MemoryOk s) (edge : Nat) : OutcomeOk (execRequestFrame edge s) := by
  unfold execRequestFrame
  split
  · exact h.of_phys (requestHead_phys (by assumption))
  · trivial

theorem MemoryOk.cancelFrame (h : MemoryOk s) (edge : Nat) : OutcomeOk (execCancelFrame edge s) := by
  unfold execCancelFrame
  split
  · exact h.of_phys (cancelHead_phys (by assumption))
  · trivial

theorem MemoryOk.tokenise (h : MemoryOk s) (edge : Nat) : OutcomeOk (execTokenise edge s) := by
  unfold execTokenise
  split
  · exact h.tokeniseHead (by assumption)
  · trivial

theorem MemoryOk.replyDataFrame (h : MemoryOk s) (edge stream : Nat) : OutcomeOk (execReplyDataFrame edge stream s) := by
  unfold execReplyDataFrame
  split
  · split
    · trivial
    · exact h.of_phys (State.modEdge_phys ..)
  · trivial

theorem MemoryOk.closeFrameSent (h : MemoryOk s) (edge stream : Nat) : OutcomeOk (execCloseFrameSent edge stream s) := by
  unfold execCloseFrameSent
  split
  · split
    · split
      · trivial
      · exact h.of_phys (State.modEdge_phys ..)
    · trivial
  · trivial

theorem MemoryOk.attest (h : MemoryOk s) (edge : Nat) (f : Spdm → Spdm) : OutcomeOk (s.attest edge f) := by
  unfold State.attest
  exact OutcomeOk.ite h (MemoryOk.of_phys h (State.modEdge_phys ..))

/-! ### Partitions and VFs -/

theorem MemoryOk.vfReset (h : MemoryOk s) (part vf : Nat) : OutcomeOk (execVfReset part vf s) := by
  unfold execVfReset
  exact OutcomeOk.ite (h.resetStep ..) trivial

theorem MemoryOk.tlbinvAddress (h : MemoryOk s) (part vf : Nat) (page : BitVec 40) : OutcomeOk (execTlbinvAddress part vf page s) := by
  unfold execTlbinvAddress
  exact OutcomeOk.ite (MemoryOk.of_phys h (tlbinv_phys ..)) trivial

theorem MemoryOk.tlbinvVf (h : MemoryOk s) (part vf : Nat) : OutcomeOk (execTlbinvVf part vf s) := by
  unfold execTlbinvVf
  exact OutcomeOk.ite (MemoryOk.of_phys h (tlbinv_phys ..)) trivial

theorem MemoryOk.tlbinvComplete (h : MemoryOk s) (part vf : Nat) : OutcomeOk (execTlbinvComplete part vf s) := by
  unfold execTlbinvComplete
  exact OutcomeOk.ite (MemoryOk.of_phys h (endRemoval_phys ..)) trivial

theorem MemoryOk.partitionForm (h : MemoryOk s) (part : Nat) (dies : BitVec 40) : OutcomeOk (execPartitionForm part dies s) := by
  unfold execPartitionForm
  exact OutcomeOk.ite (MemoryOk.of_phys h (formPartition_phys ..)) trivial

theorem MemoryOk.stageTwoEntryWrite (h : MemoryOk s) (part vf index : Nat) (hi : DWord) :
    OutcomeOk (execStageTwoEntryWrite part vf index hi s) := by
  unfold execStageTwoEntryWrite
  exact OutcomeOk.ite (MemoryOk.of_phys h (monWrite_phys ..)) trivial

theorem MemoryOk.firewallDrop (h : MemoryOk s) (die k : Nat) (request : Option Nat) : OutcomeOk (execFirewallDrop die k request s) := by
  unfold execFirewallDrop
  extract_lets f s1
  refine OutcomeOk.ite trivial ?_
  split
  · exact h.of_phys (by simp [s1])
  · exact h.of_phys (State.modDie_phys ..)

/-! ### Host links and peers -/

theorem MemoryOk.chaskoPostedWrite (h : MemoryOk s) (tray part vf ipa : Nat) (data : List Byte) :
    OutcomeOk (execChaskoPostedWrite tray part vf ipa data s) := by
  have hdone : ∀ u, MemoryOk u → MemoryOk (u.carried tray) := fun u hu => hu.of_phys (carried_phys ..)
  unfold execChaskoPostedWrite
  extract_lets what
  split
  · exact h.landWrite _ _ hdone
  · refine OutcomeOk.ite trivial ?_
    split
    · exact MemoryOk.landWrite (h.landEarlier ..) _ _ hdone
    · exact hdone _ (h.vfWindowWrite ..)
    · exact h.of_phys (abort_phys ..)
    · exact h.of_phys (chaskoDrop_phys ..)

theorem MemoryOk.chaskoRead (h : MemoryOk s) (tray part vf ipa n tag : Nat) : OutcomeOk (execChaskoRead tray part vf ipa n tag s) := by
  unfold execChaskoRead
  refine OutcomeOk.ite trivial ?_
  split
  · exact OutcomeOk.ite (MemoryOk.of_phys h (completes_phys ..)) (MemoryOk.of_phys h ((completes_phys ..).trans (noteSoft_phys ..)))
  · exact h.of_phys (completes_phys ..)
  · exact h.of_phys ((completes_phys ..).trans (abort_phys ..))
  · exact h.of_phys (chaskoDrop_phys ..)

theorem MemoryOk.chaskoAtomic (h : MemoryOk s) (tray part vf ipa : Nat) (op ty : BitVec 4) (b : DWord) (tag : Nat) :
    OutcomeOk (execChaskoAtomic tray part vf ipa op ty b tag s) := by
  unfold execChaskoAtomic
  extract_lets n
  refine OutcomeOk.ite trivial ?_
  split
  · rename_i pa _ _ _
    refine OutcomeOk.ite (MemoryOk.of_phys h (completes_phys ..)) ?_
    exact MemoryOk.of_phys (h.atomicAt pa n (.atom (.lit 0) op.toNat ty.toNat b)) (completes_phys ..)
  · exact h.of_phys (chaskoDrop_phys ..)
  · exact h.of_phys ((completes_phys ..).trans (abort_phys ..))

theorem MemoryOk.chaskoFlitRetry (h : MemoryOk s) (edge : Nat) : OutcomeOk (execChaskoFlitRetry edge s) := by
  unfold execChaskoFlitRetry
  exact OutcomeOk.ite (MemoryOk.of_phys h (State.modEdge_phys ..)) trivial

theorem MemoryOk.chaskoLinkDown (h : MemoryOk s) (edge : Nat) : OutcomeOk (execChaskoLinkDown edge s) := by
  unfold execChaskoLinkDown
  exact OutcomeOk.ite (MemoryOk.of_phys h (State.modEdge_phys ..)) trivial

theorem MemoryOk.peerAccess (h : MemoryOk s) (m part offset target : Nat) (k : PeerKind) :
    OutcomeOk (execPeerAccess m part offset target k s) := by
  have hanswer : ∀ u r, MemoryOk u → MemoryOk (u.answerPeer m r) := fun u r hu => hu.of_phys (answerPeer_phys ..)
  have hdrop : ∀ write rs r, MemoryOk ((s.peerDrop m part write rs).answerPeer m r) := fun write rs r =>
    hanswer _ _ (h.of_phys (peerDrop_phys ..))
  unfold execPeerAccess
  extract_lets what
  split
  · exact h.landWrite _ _ (fun u hu => hanswer u _ hu)
  · refine OutcomeOk.ite trivial ?_
    split
    · rename_i acc ty round sat rows ord
      extract_lets apply_ drained
      have happly : ∀ r : Except TrapCode State, (∀ u, r = .ok u → MemoryOk u) → OutcomeOk (apply_ r) := fun r hr => by
        cases r with
        | ok u => exact hanswer _ _ (hr u rfl)
        | error c => exact hdrop _ _ _
      have hdrained : ∀ u, drained = .ok u → MemoryOk u := fun u hu => h.peerDrain hu
      clear_value drained
      split
      · exact happly _ hdrained
      · split
        · exact hdrop _ _ _
        · refine OutcomeOk.ite (hanswer _ _ h) (OutcomeOk.ite trivial (OutcomeOk.ite (hanswer _ _ h) (happly _ (fun u hu => ?_))))
          cases drained with
          | error c => cases hu
          | ok v =>
            cases hu
            exact (hdrained v rfl).writePieces _ _
    · split
      · exact hdrop _ _ _
      · split
        · exact h.landWrite _ _ (fun u hu => hanswer u _ hu)
        · exact OutcomeOk.ite (hanswer _ _ h) (hanswer _ _ (h.atomicAt ..))
        · exact OutcomeOk.ite (hanswer _ _ h) (hanswer _ _ (h.of_phys (noteSoft_phys ..)))

/-! ### The module -/

theorem MemoryOk.monitorLockstepMismatch (h : MemoryOk s) (die : Nat) : OutcomeOk (execMonitorLockstepMismatch die s) := by
  unfold execMonitorLockstepMismatch
  refine OutcomeOk.ite trivial (MemoryOk.of_phys h ?_)
  exact (foldl_phys _ _ _ (fun u g => report_phys ..)).trans (State.modDie_phys ..)

theorem MemoryOk.monitorReload (h : MemoryOk s) : OutcomeOk (execMonitorReload s) := by
  unfold execMonitorReload
  extract_lets held
  refine OutcomeOk.ite trivial ?_
  have h1 := h.pick held.length
  generalize s.pick held.length = r at h1
  exact h1.of_phys ((State.modCore_phys ..).trans (State.modDie_phys ..))

theorem MemoryOk.servingKernelRestart (h : MemoryOk s) : OutcomeOk (execServingKernelRestart s) := by
  unfold execServingKernelRestart
  exact OutcomeOk.ite trivial (foldl_keeps _ _ h (fun _ _ hs => hs.restartServing ..))

theorem MemoryOk.queueUnfreeze (h : MemoryOk s) : OutcomeOk (execQueueUnfreeze s) := by
  unfold execQueueUnfreeze
  refine OutcomeOk.ite trivial (foldl_keeps _ _ h (fun u p hu => ?_))
  exact hu.of_phys ((foldl_phys _ _ _ (fun u x => ring_phys ..)).trans (State.modPart_phys ..))

theorem MemoryOk.osPanic (h : MemoryOk s) : OutcomeOk (execOsPanic s) := by
  unfold execOsPanic
  exact OutcomeOk.ite trivial (MemoryOk.of_phys (h.saveAll (fun _ _ => true)) rfl)

theorem MemoryOk.osRestart (h : MemoryOk s) : OutcomeOk (execOsRestart s) := by
  unfold execOsRestart
  refine OutcomeOk.ite trivial (MemoryOk.of_phys h ?_)
  exact (foldl_phys _ _ _ (fun u g => report_phys ..)).trans rfl

theorem MemoryOk.bringUp (h : MemoryOk s) : OutcomeOk (execBringUp s) := by
  unfold execBringUp
  extract_lets s1 s2
  have h1 : MemoryOk s1 := h.of_phys rfl
  split
  · show MemoryOk _
    rfl
  · exact h1.of_phys (foldl_phys _ _ _ (fun u d => State.modCore_phys ..))
  · exact h1.loadSup.of_phys rfl
  · exact OutcomeOk.ite h1 trivial

/-! ### Each operation -/

/-- The operations of the agenda. -/
theorem MemoryOk.operation (h : MemoryOk s) {i : Instr} (hf : form i = none) : OutcomeOk (exec i s) := by
  cases i with
  | lineFetchCheck core line => exact h.lineFetchCheck core line
  | lineRefetch core line => exact h.lineRefetch core line
  | issueBundle core => exact h.issueBundle core
  | leadIssue core => exact h.leadIssue core
  | threadAged core slot => exact h.threadAged core slot
  | loadReturn core op => exact h.loadReturn core op
  | storePerformed core op => exact h.storePerformed core op
  | atomicAtHome core op => exact h.atomicAtHome core op
  | tlbMissWalk core ahead va => exact h.tlbMissWalk core ahead va
  | ldgaLanding core op => exact h.ldgaLanding core op
  | waitPhaseTimeout a => exact h.waitPhaseTimeout a
  | collectiveWatchdogTimeout a => exact h.collectiveWatchdogTimeout a
  | barrierWaitWatchdog a => exact h.barrierWaitWatchdog a
  | copyCommandAccept core cmd => exact h.copyCommandAccept core cmd
  | copyChunkLand core cmd chunk => exact h.copyChunkLand core cmd chunk
  | copyCommandComplete core cmd => exact h.copyCommandComplete core cmd
  | matrixOpStart core op n => exact h.matrixOpStart core op n
  | matrixOpComplete core op => exact h.matrixOpComplete core op
  | setWatchdogTimeout core wg cv => exact h.setWatchdogTimeout core wg cv
  | orderedDrainApply core op => exact h.orderedDrainApply core op
  | orderedDrainTimeout core op => exact h.orderedDrainTimeout core op
  | doorbell part vf queue x => exact h.doorbellWrite part vf queue x
  | lqReset part vf queue v => exact h.lqReset part vf queue v
  | lqCancel part vf queue index => exact h.lqCancel part vf queue index
  | registerWrite r v => exact h.registerWrite r v
  | launchValidate part vf queue => exact h.launchValidate part vf queue
  | launchStart grid => exact h.launchStart grid
  | teamPlace grid team core => exact h.teamPlace grid team core
  | seasonEnd grid team => exact h.seasonEnd grid team
  | preempt grid team => exact h.preempt grid team
  | reconvergenceTimeout grid team => exact h.reconvergenceTimeout grid team
  | copySuspend grid team => exact h.copySuspend grid team
  | teamSave grid team => exact h.teamSave grid team
  | teamRestore grid team core => exact h.teamRestore grid team core
  | wstoreRegionSave core region => exact h.wstoreRegionSave core region
  | coopWait grid => exact h.coopWait grid
  | coopResume grid => exact h.coopResume grid
  | fworkServe grid => exact h.fworkServe grid
  | gridEndTrap report => exact h.gridEndTrap report
  | gridComplete grid => exact h.gridComplete grid
  | resumableTrapPost a => exact h.resumableTrapPost a
  | supervisorTrap a => exact h.supervisorTrap a
  | uetPacket edge p => exact h.uetPacket edge p
  | requestFrame edge => exact h.requestFrame edge
  | cancelFrame edge => exact h.cancelFrame edge
  | tokenise edge => exact h.tokenise edge
  | replyDataFrame edge stream => exact h.replyDataFrame edge stream
  | closeFrameSent edge stream => exact h.closeFrameSent edge stream
  | vfReset part vf => exact h.vfReset part vf
  | tlbinvAddress part vf page => exact h.tlbinvAddress part vf page
  | tlbinvVf part vf => exact h.tlbinvVf part vf
  | tlbinvComplete part vf => exact h.tlbinvComplete part vf
  | partitionForm part dies => exact h.partitionForm part dies
  | stageTwoEntryWrite part vf index hi => exact h.stageTwoEntryWrite part vf index hi
  | firewallDrop die k request => exact h.firewallDrop die k request
  | chaskoPostedWrite tray part vf ipa data => exact h.chaskoPostedWrite tray part vf ipa data
  | chaskoRead tray part vf ipa n tag => exact h.chaskoRead tray part vf ipa n tag
  | chaskoAtomic tray part vf ipa op ty b tag => exact h.chaskoAtomic tray part vf ipa op ty b tag
  | chaskoFlitRetry edge => exact h.chaskoFlitRetry edge
  | chaskoLinkDown edge => exact h.chaskoLinkDown edge
  | peerAccess m part offset target k => exact h.peerAccess m part offset target k
  | refreshScrub => exact h.of_phys ((strike_phys _).trans (scrub_phys _))
  | monitorLockstepMismatch die => exact h.monitorLockstepMismatch die
  | monitorReload => exact h.monitorReload
  | servingKernelRestart => exact h.servingKernelRestart
  | queueUnfreeze => exact h.queueUnfreeze
  | osPanic => exact h.osPanic
  | osRestart => exact h.osRestart
  | thermalThrottle => exact h.of_phys rfl
  | bringUp => exact h.bringUp
  | getVersion edge =>
    show OutcomeOk (execGetVersion edge s)
    exact h.attest edge _
  | getCapabilities edge =>
    show OutcomeOk (execGetCapabilities edge s)
    exact h.attest edge _
  | negotiateAlgorithms edge o =>
    show OutcomeOk (execNegotiateAlgorithms edge o s)
    exact h.attest edge _
  | getDigests edge =>
    show OutcomeOk (execGetDigests edge s)
    exact h.attest edge _
  | getCertificate edge =>
    show OutcomeOk (execGetCertificate edge s)
    exact h.attest edge _
  | challenge edge nonce =>
    show OutcomeOk (execChallenge edge nonce s)
    exact h.attest edge _
  | getMeasurements edge k part vf =>
    show OutcomeOk (execGetMeasurements edge k part vf s)
    exact OutcomeOk.ite (h.attest edge _) trivial
  | keyExchange edge kem =>
    show OutcomeOk (execKeyExchange edge kem s)
    exact h.attest edge _
  | finish edge =>
    show OutcomeOk (execFinish edge s)
    exact h.attest edge _
  | endSession edge =>
    show OutcomeOk (execEndSession edge s)
    exact h.attest edge _
  | _ => cases hf

theorem MemoryOk.exec (h : MemoryOk s) (i : Instr) : OutcomeOk (exec i s) := by
  cases hf : form i with
  | none => exact h.operation hf
  | some f =>
    cases hreg : Safety.registerOnly f with
    | true => exact h.registerOnly hf hreg
    | false =>
      cases hacc : Safety.issuesAccess f with
      | true => exact h.issuesAccess hf hacc
      | false => exact h.otherForm hf (by rw [hreg, hacc]; rfl)

/-! ### A step -/

theorem MemoryOk.fetchAll (h : MemoryOk s) (as : List Agent) : MemoryOk (s.fetchAll as).1 := by
  refine List.foldlRecOn (motive := fun acc : State × List (Agent × IWord) => MemoryOk acc.1) as _ h (fun acc hacc a _ => ?_)
  split
  · exact hacc
  · exact MemoryOk.of_phys hacc ((raiseAt_phys ..).trans (ite_phys (fetchDrop_phys ..) rfl))
  · exact hacc

theorem openIssue_phys {i : Issue} (ht : s.openIssue i = some t) : t.phys = s.phys := by
  unfold State.openIssue at ht
  split at ht
  · cases ht
    rfl
  · split at ht <;> cases ht
    simp

theorem MemoryOk.nextInstr (h : MemoryOk s) (i : Issue) : MemoryOk (s.nextInstr i).1 := by
  unfold State.nextInstr
  split
  · exact h.of_phys rfl
  · rename_i s0 hopen
    have h1 := (h.of_phys (openIssue_phys hopen)).fetchAll (i.agents.filter (fun a => (s0.ctx a).wait == .run))
    generalize s0.fetchAll (i.agents.filter (fun a => (s0.ctx a).wait == .run)) = r at h1
    obtain ⟨s1, ok⟩ := r
    dsimp only at h1 ⊢
    split
    · exact h1.endIssue
    · split
      · split
        · exact h1.endIssue
        · exact h1.of_phys rfl
      · exact MemoryOk.endIssue (h1.of_phys (foldl_phys _ _ _ (fun u p => raise_phys ..)))

theorem MemoryOk.firstEnabled {is : List Instr} (h : MemoryOk s) (ht : firstEnabled is s = some t) : MemoryOk t := by
  induction is with
  | nil => cases ht
  | cons i is ih =>
    unfold Machine.firstEnabled at ht
    split at ht
    · rename_i hexec
      cases ht
      exact (h.exec i).next hexec
    · exact ih ht

theorem MemoryOk.firstOf {ps : List Phase} (h : MemoryOk s) (ht : firstOf ps s = some t) : MemoryOk t := by
  induction ps with
  | nil => cases ht
  | cons p ps ih =>
    unfold Machine.firstOf at ht
    split at ht
    · rename_i hfirst
      cases ht
      exact h.firstEnabled hfirst
    · exact ih ht

theorem MemoryOk.step (h : MemoryOk s) : OutcomeOk (step s) := by
  unfold Machine.step
  split
  · rename_i i rest _
    have h1 : MemoryOk { s with agenda := rest } := h.of_phys rfl
    exact h1.exec i
  · split
    · rename_i iss _
      have h1 := h.nextInstr iss
      split <;> rename_i hnext <;> rw [hnext] at h1
      · exact MemoryOk.exec h1 _
      · exact h1
    · split
      · rename_i hfirst
        exact h.firstOf hfirst
      · exact h.of_phys (idle_phys s)

end Sys2Proof.Safety

namespace Sys2Proof.Proofs

open Sys2Proof.Machine Sys2Proof.Safety

/-- Settles O60: every operation keeps the form, so every step does. -/
theorem memoryStaysCanonical : Obligations.MemoryStaysCanonical := by
  intro s t h hstep
  exact h.step.next hstep

end Sys2Proof.Proofs
end
